-- ==== Sys2Proof/Word.lean ====
section
/-! DEFINITION. Words, masks and the sorted maps that hold sparse state. -/

namespace Sys2Proof

/-- The smallest addressable unit of memory (00 R2). -/
abbrev Byte := BitVec 8
/-- One lane of a vector register (02 R28). -/
abbrev W32 := BitVec 32
/-- One scalar register (02 R43). -/
abbrev W64 := BitVec 64
/-- A mask of the 32 lanes of a warp: bit i is lane i (02 R29). -/
abbrev Mask := BitVec 32
/-- A program counter or virtual address in the 54-bit space (06 R151). -/
abbrev VAddr := BitVec 54
/-- Sparse data by key, kept sorted by key without repeats. -/
abbrev SMap (α : Type) := List (Nat × α)

end Sys2Proof
end

