-- ==== Sys2Proof/Syntax.lean ====
section
/-! DEFINITION. Every step of spec/opcode_table.json as one constructor of `Instr`: the 121 OPI
instructions with their fields (11 R264 to R272 and the reference entries), and the 97 events of the
part with the choices the spec leaves to the agent that makes them (assumption log 1). -/

namespace Sys2Proof

/-! ### Fields shared by the OPI instructions -/

/-- Instruction lengths (11 Table 11-1). -/
inductive Len | l64 | l96 | l128
deriving DecidableEq, Repr

/-- Operand classes (11 Table 11-4): 0 vector, 1 scalar, 2 vector with scalar B, 3 accumulator or special. -/
inductive Cls | vec | scl | vsb | acc
deriving DecidableEq, Repr

/-- Integer types (11 Table 11-6, codes 4 to 11). -/
inductive IntTy | s8 | s16 | s32 | s64 | z8 | z16 | z32 | z64
deriving DecidableEq, Repr

/-- Floating-point types (11 Table 11-6, codes 0 to 2). -/
inductive FpTy | f32 | f16 | bf16
deriving DecidableEq, Repr

/-- Block floating-point formats (11 Table 11-6, codes 12 to 14). -/
inductive BfpTy | bfp8 | bfp6 | bfp4
deriving DecidableEq, Repr

/-- A data type: floating point or integer. -/
inductive DTy
  | fp (t : FpTy)
  | int (t : IntTy)
deriving DecidableEq, Repr

/-- Rounding codes (04 Table 4-2); `dyn` is code 4, which selects `FMT.RND`. -/
inductive Rnd | rn | rz | ru | rd | dyn
deriving DecidableEq, Repr

/-- Scopes (07 Table 7-1). -/
inductive Scope | wp | bk | cl | gp | di | dv | sy
deriving DecidableEq, Repr

/-- Cache codes (11 Table 11-7). -/
inductive Cache | ca | cg | ef
deriving DecidableEq, Repr

/-- Address spaces (06 R133). -/
inductive Space | g | s
deriving DecidableEq, Repr

/-- Elements per lane access (11 Table 11-7). -/
inductive Wid | one | v2 | v4
deriving DecidableEq, Repr

/-- A register operand (11 Table 11-5): `v` is a v-register number, the others are operand codes. -/
inductive Reg
  | v (n : Fin 256)
  | s (n : Fin 64)
  | p (n : Fin 8)
  | k (n : Fin 8)
  | a (n : Fin 4)
  | b (n : Fin 8)
  | q (n : Fin 4)
deriving DecidableEq, Repr

/-- A source that is a register or the 32-bit immediate of the 96-bit form (11 R269). -/
inductive Src
  | reg (r : Reg)
  | imm (w : W32)
deriving DecidableEq, Repr

/-- What every instruction carries: the guard (11 R266) and whether a 96-bit form is encoded in
128 bits (11 R262). -/
structure Hd where
  pg : Fin 8
  pn : Bool
  wide : Bool
deriving DecidableEq, Repr

/-- Integer relations of `ICMP` (20 R384). -/
inductive IRel | eq | ne | lt | le | gt | ge
deriving DecidableEq, Repr

/-- Floating-point relations of `FCMP` (19 Table 19-7). -/
inductive FRel | eq | ne | lt | le | gt | ge | num | nan | equ | neu | ltu | leu | gtu | geu
deriving DecidableEq, Repr

/-- Operations of `ATOM` and `RED` (18 Table 18-3). -/
inductive AOp | add | sub | min | max | and | or | xor | exch | cas
deriving DecidableEq, Repr

/-- Operations of `WRED` and `WSCAN` (21 Table 21-7). -/
inductive ROp | add | min | max | and | or | xor
deriving DecidableEq, Repr

/-- Operations of `VOTE` (21 R437). -/
inductive VoteOp | mask | count | lead | atl | agree
deriving DecidableEq, Repr

/-- Modes of `SHFL` (21 R420). -/
inductive ShflMode | sel | rot | bfly
deriving DecidableEq, Repr

/-- Two-source operations of `PLOP` (20 Table 20-5). -/
inductive PBin | and | or | xor | andn | orn
deriving DecidableEq, Repr

/-- Counter classes of `WAIT` (21 R438). -/
inductive CntCls | ld | st | cp | tl
deriving DecidableEq, Repr

/-- Special registers by number, 0x00 to 0x26 (11 Table 11-11). -/
inductive SpReg
  | exec | fmt | nbv | isalvl | laneid | warpid | roleid | blockid | coreid | pcore | dieid | diegen | tenant
  | stepno | clock | lease | tcause | tpc | tskid | taddr | tdmask | tdop0 | tdop1 | tdop2 | tdop3 | capacity
  | mphase | migw | stacksLive | survMap | hmap0 | hmap1 | hmap2 | hmap3 | hmap4 | ldcnt | stcnt | cpcnt | tlcnt
deriving DecidableEq, Repr

/-! ### The fields of each instruction format -/

/-- Instructions with a guard and no operands. -/
structure FHd where (hd : Hd)
deriving DecidableEq, Repr
/-- `EXIT` (19 R368). -/
structure FExit where (hd : Hd) (cls : Cls)
deriving DecidableEq, Repr
/-- `ILL` and the permanently illegal opcodes: the bits as written (20 R385). -/
structure FIll where (len : Len) (bits : BitVec 128)
deriving DecidableEq, Repr
/-- `NOP` (20 R401): PG is free and has no effect. -/
structure FNop where (len : Len) (pg : Fin 8)
deriving DecidableEq, Repr
/-- One-source integer instructions (20 R382, 18 R345, 19 R355). -/
structure FAlu1 where (hd : Hd) (cls : Cls) (ty : IntTy) (sat : Bool) (d a : Reg)
deriving DecidableEq, Repr
/-- Two-source integer and logic instructions (18 R320, 20 R382, 21 R421). -/
structure FAlu2 where (hd : Hd) (cls : Cls) (ty : IntTy) (sat : Bool) (d a : Reg) (b : Src)
deriving DecidableEq, Repr
/-- `IMAD` (20 R382). -/
structure FAlu3 where (hd : Hd) (cls : Cls) (ty : IntTy) (sat : Bool) (d a : Reg) (b : Src) (c : Reg)
deriving DecidableEq, Repr
/-- `ICMP` (20 R384). -/
structure FIcmp where (hd : Hd) (cls : Cls) (ty : IntTy) (rel : IRel) (d a : Reg) (b : Src)
deriving DecidableEq, Repr
/-- `IDOT4` (16 R310). -/
structure FIdot where (hd : Hd) (signed : Bool) (sat : Bool) (d a b c : Reg)
deriving DecidableEq, Repr
/-- `LEA` (20 R398). -/
structure FLea where (hd : Hd) (cls : Cls) (signed : Bool) (d a : Reg) (b : Src) (sh : Byte)
deriving DecidableEq, Repr
/-- `SEL` (21 R418). -/
structure FSel where (hd : Hd) (cls : Cls) (z64 : Bool) (d a : Reg) (b : Src) (p : Reg)
deriving DecidableEq, Repr
/-- `MOV` (20 R399). -/
structure FMov where (hd : Hd) (cls : Cls) (z64 : Bool) (d a : Reg)
deriving DecidableEq, Repr
/-- The immediate of `MOVI` with its type (20 R400). -/
inductive MoviImm
  | f32 (w : W32)
  | z32 (w : W32)
  | s32 (w : W32)
  | z64 (w : W64)
  | s64 (w : W64)
deriving DecidableEq, Repr
/-- `MOVI` (20 R400). -/
structure FMovi where (hd : Hd) (cls : Cls) (d : Reg) (im : MoviImm)
deriving DecidableEq, Repr
/-- `BFE` (18 R336). -/
structure FBfe where (hd : Hd) (cls : Cls) (ty : IntTy) (d a : Reg) (f : Src)
deriving DecidableEq, Repr
/-- `BFI` (18 R336). -/
structure FBfi where (hd : Hd) (cls : Cls) (ty : IntTy) (d a : Reg) (f : Src) (c : Reg)
deriving DecidableEq, Repr
/-- `FADD`, `FMUL` (19 R370). -/
structure FFp2 where (hd : Hd) (cls : Cls) (ty : FpTy) (rm : Rnd) (d a : Reg) (b : Src)
deriving DecidableEq, Repr
/-- `FFMA` (19 R370). -/
structure FFp3 where (hd : Hd) (cls : Cls) (ty : FpTy) (rm : Rnd) (d a : Reg) (b : Src) (c : Reg)
deriving DecidableEq, Repr
/-- `FMIN`, `FMAX` (19 R370). -/
structure FFpM where (hd : Hd) (cls : Cls) (ty : FpTy) (d a : Reg) (b : Src)
deriving DecidableEq, Repr
/-- `FCMP` (19 R374). -/
structure FFcmp where (hd : Hd) (cls : Cls) (ty : FpTy) (rel : FRel) (e : Bool) (d a : Reg) (b : Src)
deriving DecidableEq, Repr
/-- `FRND` and the one-source functions (19 R377, R378). -/
structure FFp1 where (hd : Hd) (cls : Cls) (ty : FpTy) (rm : Rnd) (d a : Reg)
deriving DecidableEq, Repr
/-- `CVT` (19 R360). -/
structure FCvt where (hd : Hd) (cls : Cls) (dt st : DTy) (rm : Rnd) (elem sat : Bool) (d a : Reg)
deriving DecidableEq, Repr
/-- `BFPACK` (18 R338). -/
structure FBfpack where (hd : Hd) (ty : BfpTy) (sh : Fin 8) (d a e : Reg)
deriving DecidableEq, Repr
/-- `BFUNPACK` (18 R338). -/
structure FBfunpack where (hd : Hd) (ty : BfpTy) (d a e : Reg)
deriving DecidableEq, Repr
/-- `VOTE` (21 R437). -/
structure FVote where (hd : Hd) (op : VoteOp) (d a : Reg) (t : Byte)
deriving DecidableEq, Repr
/-- The operation of `PLOP` with its further sources (20 R404). -/
inductive PlopOp
  | bin (o : PBin) (b : Reg)
  | not
  | lut (b c : Reg) (t : Byte)
deriving DecidableEq, Repr
/-- `PLOP` (20 R404). -/
structure FPlop where (hd : Hd) (cls : Cls) (op : PlopOp) (d a : Reg)
deriving DecidableEq, Repr
/-- `SHFL` (21 R420). -/
structure FShfl where (hd : Hd) (cls : Cls) (mode : ShflMode) (seg : Fin 8) (d a : Reg) (b : Src)
deriving DecidableEq, Repr
/-- `WRED` (21 R439). -/
structure FWred where (hd : Hd) (cls : Cls) (op : ROp) (ty : DTy) (d a : Reg)
deriving DecidableEq, Repr
/-- `WSCAN` (21 R439). -/
structure FWscan where (hd : Hd) (op : ROp) (ex : Bool) (ty : DTy) (d a : Reg)
deriving DecidableEq, Repr
/-- `BRA` (18 R342). -/
structure FBra where (hd : Hd) (off : W32)
deriving DecidableEq, Repr
/-- `BRX` (18 R346). -/
structure FBrx where (hd : Hd) (a : Reg) (off : Option W32)
deriving DecidableEq, Repr
/-- `BRC` (18 R343). -/
structure FBrc where (hd : Hd) (inv : Bool) (p : Reg) (target join : W32)
deriving DecidableEq, Repr
/-- An instruction with a destination code and a register or immediate source: `CALL` (19 R347),
`RESALLOC` has a name beside them (21 R411). -/
structure FDSrc where (hd : Hd) (d : Reg) (src : Src)
deriving DecidableEq, Repr
/-- An instruction with one source register (`RET`, `RESPIN`, `RESUNPIN`, `RESFREE`, `TLBINV.page`). -/
structure FA where (hd : Hd) (a : Reg)
deriving DecidableEq, Repr
/-- An instruction with one register or immediate source (`SLEEP`, `EXECWR`, `SETFMT`, `CBWAIT`, `STEP`). -/
structure FSrc where (hd : Hd) (src : Src)
deriving DecidableEq, Repr
/-- An instruction with one destination (`EXECRD`, `CBCLOSE`, `ACCZ`). -/
structure FD where (hd : Hd) (d : Reg)
deriving DecidableEq, Repr
/-- An instruction with a destination and one source (`QPOP`, `ACCMOV`, `RESQ`, `RESREF`). -/
structure FDA where (hd : Hd) (d a : Reg)
deriving DecidableEq, Repr
/-- `TRAP` (21 R435). -/
structure FTrap where (hd : Hd) (n : BitVec 16)
deriving DecidableEq, Repr
/-- `SREAD` (21 R423). -/
structure FSread where (hd : Hd) (cls : Cls) (z64 : Bool) (d : Reg) (n : SpReg)
deriving DecidableEq, Repr
/-- `SWRITE` (21 R424). -/
structure FSwrite where (hd : Hd) (n : SpReg) (src : Src)
deriving DecidableEq, Repr
/-- `WAIT` (21 R438). -/
structure FWait where (hd : Hd) (c : CntCls) (n : Byte)
deriving DecidableEq, Repr
/-- `FENCE` (19 R375); `g` is the group index of the .gp form and 0 otherwise. -/
structure FFence where (hd : Hd) (sc : Scope) (g : Byte)
deriving DecidableEq, Repr
/-- `LAUNCH` (20 R394). -/
structure FLaunch where (hd : Hd) (d a b : Reg)
deriving DecidableEq, Repr
/-- `EMIT` (19 R363). -/
structure FEmit where (hd : Hd) (d a : Reg) (n : Byte)
deriving DecidableEq, Repr
/-- `LD` and `ST` (20 R396, 21 R425): `d` is the destination of `LD` and the data of `ST`;
`a` is the address register (field B in class 2). -/
structure FLdSt where (hd : Hd) (cls : Cls) (ty : DTy) (cache : Cache) (sp : Space) (wid : Wid) (d a : Reg) (off : Option W32)
deriving DecidableEq, Repr
/-- `ATOM` (18 R322): `c` is used by .cas; `g` by scope .gp, whose form is the 128-bit one. -/
structure FAtom where (hd : Hd) (cls : Cls) (op : AOp) (ty : DTy) (sc : Scope) (cache : Cache) (sp : Space) (d a b : Reg) (c : Option Reg) (off : Option W32) (g : Byte)
deriving DecidableEq, Repr
/-- `RED` (21 R409). -/
structure FRed where (hd : Hd) (cls : Cls) (op : AOp) (ty : DTy) (sc : Scope) (cache : Cache) (sp : Space) (a b : Reg) (off : Option W32) (g : Byte)
deriving DecidableEq, Repr
/-- `QLD` (20 R405): `b` holds the target WARPID, `c` the lane stride. -/
structure FQld where (hd : Hd) (ty : DTy) (cache : Cache) (sp : Space) (q b a : Reg) (c : Byte) (off : Option W32)
deriving DecidableEq, Repr
/-- `CPY` and `CPYG` (19 R356): `a` destination, `b` source. -/
structure FCpy where (hd : Hd) (cache : Cache) (a b : Reg) (len : Src)
deriving DecidableEq, Repr
/-- `CFLUSH`, `CINV` (19 R352). -/
structure FCm where (hd : Hd) (cls : Cls) (sc : Scope) (sp : Space) (a : Reg) (off : Option W32)
deriving DecidableEq, Repr
/-- `CLV` (19 R352). -/
structure FClv where (hd : Hd) (cls : Cls) (sp : Space) (a : Reg) (off : Option W32)
deriving DecidableEq, Repr
/-- `PFMAP` (20 R402). -/
structure FPfmap where (hd : Hd) (cls : Cls) (sp : Space) (d a : Reg) (off : Option W32)
deriving DecidableEq, Repr
/-- `BARINIT` (18 R330). -/
structure FBarinit where (hd : Hd) (n : Byte) (src : Src)
deriving DecidableEq, Repr
/-- `BARARV` (18 R329). -/
structure FBararv where (hd : Hd) (tile : Bool) (d : Option Reg) (n : Byte)
deriving DecidableEq, Repr
/-- `BARWAIT` (18 R334). -/
structure FBarwait where (hd : Hd) (d : Reg) (n : Byte) (src : Src)
deriving DecidableEq, Repr
/-- `BARRMT` (18 R332). -/
structure FBarrmt where (hd : Hd) (d a : Reg) (n g : Byte)
deriving DecidableEq, Repr
/-- `BARINV` (18 R331). -/
structure FBarinv where (hd : Hd) (n : Byte)
deriving DecidableEq, Repr
/-- `TLSIG` (21 R429). -/
structure FAB where (hd : Hd) (a b : Reg)
deriving DecidableEq, Repr
/-- `TLWAIT` (21 R430). -/
structure FTlwait where (hd : Hd) (a : Reg) (src : Src)
deriving DecidableEq, Repr
/-- `TMMA` (21 R431). -/
structure FTmma where (hd : Hd) (plane1 : Bool) (d a b c : Reg) (t : Fin 32) (ssv : Bool) (ssel : Byte)
deriving DecidableEq, Repr
/-- `RESALLOC` (21 R411): `a` holds the name. -/
structure FResalloc where (hd : Hd) (d a : Reg) (src : Src)
deriving DecidableEq, Repr
/-- `RESLOAD` (21 R411): `a` handle, `b` source, `c` length. -/
structure FResload where (hd : Hd) (ty : BfpTy) (d a b c : Reg)
deriving DecidableEq, Repr
/-- `KVLD`, `KVST`, `KVAPP` (20 Table 20-2): `a` pool, `b` sequence, `c` the token pair or the source. -/
structure FKv where (hd : Hd) (ty : DTy) (wid : Wid) (d a b c : Reg)
deriving DecidableEq, Repr
/-- `KVFORK`, `KVDEM` (20 Table 20-2): `im` is k or the tier. -/
structure FKv4 where (hd : Hd) (d a b c : Reg) (im : W32)
deriving DecidableEq, Repr
/-- `KVREL` (20 Table 20-2). -/
structure FKvrel where (hd : Hd) (d a b : Reg) (j : W32)
deriving DecidableEq, Repr

/-! ### Arguments of the events -/

/-- A memory operation of the host or of a network port: the first address and the bytes. -/
structure BytesAt where (addr : Nat) (bytes : List Byte)
deriving DecidableEq, Repr

/-- How Tchidal ends the service of a parked warp (10 R238, 21 Table 21-6), or that it cannot map the page which a held write
of the warp, by its number, waits for (06 R164, 20 R387). -/
inductive Service | release | fatal | unmapped (held : Nat)
deriving DecidableEq, Repr

/-- Engines that acknowledge a stop (10 Table 10-5). -/
inductive Engine | warps | matrix | copy | kve | aae | collective | residency
deriving DecidableEq, Repr

/-- The outcome of one segment or device operation: done, done after the HBM controller corrected an error or degraded a
lane (09 R221), or failed with a cause of 10 Table 10-1. For an engine that waits for a page, failed says that Tchidal
cannot map it (06 R164). -/
inductive SegOutcome
  | done
  | corrected
  | degraded
  | failed (cause : Nat)
deriving DecidableEq, Repr

/-- What a package reset meets: the dies that pass self-test, the links that train at half width only and those that
fail, and whether it is a maintenance reset that repairs some stacks (01 Table 1-9, 09 R222). -/
structure FReset where (selfTest : BitVec 8) (half down : BitVec 18) (maint : Bool) (repaired : BitVec 8)
deriving DecidableEq, Repr

/-- A firmware image in flash: both signatures verify, its security version, its hash and its signature (12 R294, R295). -/
structure Image where
  sigOk : Bool := true
  version : Nat := 0
  hash : W64 := 0#64
  sig : List Byte := []
deriving DecidableEq, Repr

/-- How the host keeps what it accesses (08 R197): not cached, read-only copies, or ownership. -/
inductive HostMode | none | shared | own
deriving DecidableEq, Repr

/-- A collective descriptor (12 R291) with the tenant that owns it, the Ethernet port it uses, this package's rank, and
the source data of the other packages in ascending rank order. -/
structure FColl where
  ctx : Nat
  port : Nat
  op : Nat
  ty : Nat
  redop : Nat
  group : Nat
  count : Nat
  src : Nat
  dst : Nat
  rank : Nat
  peers : List (List Byte)
deriving DecidableEq, Repr

/-- Configuration registers by unit: the RW, W1C and WO fields of the register maps. `other` is any address whose fields
are all RO or Reserved. -/
inductive CfgReg
  | qBase (q : Nat)
  | qCtl (q : Nat)
  | qTail (q : Nat)
  | qStop (q : Nat)
  | slott (core j : Nat)
  | lscfg (core : Nat)
  | quota (core j : Nat)
  | prectl (core : Nat)
  | rstctl (core : Nat)
  | lease (site : Nat)
  | l2cq (site : Nat)
  | llctl (node : Nat)
  | elctl (stack : Nat)
  | lsleep (link : Nat)
  | hsweep
  | retctl
  | expst
  | cxlto
  | pwrctl
  | ctxWord (ctx i : Nat)
  | uvec (ctx : Nat)
  | svec (ctx : Nat)
  | portCtx (port : Nat)
  /-- The context of a management core's device-access window (06 R154, R158). -/
  | winCtx (core : Nat)
  | other
deriving DecidableEq, Repr

/-- What happens to an operation that a network port issues on a queue pair (12 R290): it is submitted, or the one of a number
completes, done or failed. -/
inductive RdmaStep
  | submit (qp : Nat)
  | complete (num : Nat) (ok : Bool)
deriving DecidableEq, Repr

/-- The steps of the part: OPI instructions and events, in the order of the opcode table. -/
inductive Instr
  -- OPI instructions
  | ill (x : FIll)
  | nop (x : FNop)
  | bra (x : FBra)
  | brx (x : FBrx)
  | brc (x : FBrc)
  | join
  | call (x : FDSrc)
  | ret (x : FA)
  | exit (x : FExit)
  | yield (x : FHd)
  | sleep (x : FSrc)
  | bkpt (x : FHd)
  | trap (x : FTrap)
  | tret (x : FHd)
  | tretSkip (x : FHd)
  | execrd (x : FD)
  | execwr (x : FSrc)
  | sread (x : FSread)
  | swrite (x : FSwrite)
  | setfmt (x : FSrc)
  | wait (x : FWait)
  | fenceAcq (x : FFence)
  | fenceRel (x : FFence)
  | fenceAr (x : FFence)
  | fenceSc (x : FFence)
  | step (x : FSrc)
  | abortg (x : FHd)
  | launch (x : FLaunch)
  | emit (x : FEmit)
  | vote (x : FVote)
  | plop (x : FPlop)
  | shfl (x : FShfl)
  | wred (x : FWred)
  | wscan (x : FWscan)
  | iadd (x : FAlu2)
  | isub (x : FAlu2)
  | imul (x : FAlu2)
  | imulhi (x : FAlu2)
  | imad (x : FAlu3)
  | imin (x : FAlu2)
  | imax (x : FAlu2)
  | iabs (x : FAlu1)
  | icmp (x : FIcmp)
  | idot4 (x : FIdot)
  | lea (x : FLea)
  | sel (x : FSel)
  | mov (x : FMov)
  | movi (x : FMovi)
  | and (x : FAlu2)
  | or (x : FAlu2)
  | xor (x : FAlu2)
  | not (x : FAlu1)
  | shl (x : FAlu2)
  | shr (x : FAlu2)
  | sra (x : FAlu2)
  | bfe (x : FBfe)
  | bfi (x : FBfi)
  | clz (x : FAlu1)
  | popc (x : FAlu1)
  | brev (x : FAlu1)
  | fadd (x : FFp2)
  | fmul (x : FFp2)
  | ffma (x : FFp3)
  | fmin (x : FFpM)
  | fmax (x : FFpM)
  | fcmp (x : FFcmp)
  | frnd (x : FFp1)
  | cvt (x : FCvt)
  | frcp (x : FFp1)
  | frsq (x : FFp1)
  | fsqrt (x : FFp1)
  | fexp2 (x : FFp1)
  | flog2 (x : FFp1)
  | fsin (x : FFp1)
  | fcos (x : FFp1)
  | ftanh (x : FFp1)
  | bfpack (x : FBfpack)
  | bfunpack (x : FBfunpack)
  | ld (x : FLdSt)
  | st (x : FLdSt)
  | atom (x : FAtom)
  | red (x : FRed)
  | qld (x : FQld)
  | qpop (x : FDA)
  | cpyLd (x : FCpy)
  | cpySt (x : FCpy)
  | cpyg (x : FCpy)
  | cbclose (x : FD)
  | cbwait (x : FSrc)
  | cflush (x : FCm)
  | cinv (x : FCm)
  | clv (x : FClv)
  | pfmap (x : FPfmap)
  | tlbinvPage (x : FA)
  | tlbinvCtx (x : FHd)
  | tlbinvRange (x : FHd)
  | barinit (x : FBarinit)
  | bararv (x : FBararv)
  | barwait (x : FBarwait)
  | barrmt (x : FBarrmt)
  | barinv (x : FBarinv)
  | tlsig (x : FAB)
  | tlwait (x : FTlwait)
  | tmma (x : FTmma)
  | accz (x : FD)
  | accmovAccToVec (x : FDA)
  | accmovVecToAcc (x : FDA)
  | accmovAccToAcc (x : FDA)
  | resalloc (x : FResalloc)
  | resload (x : FResload)
  | respin (x : FA)
  | resunpin (x : FA)
  | resq (x : FDA)
  | resref (x : FDA)
  | resfree (x : FA)
  | kvld (x : FKv)
  | kvst (x : FKv)
  | kvapp (x : FKv)
  | kvfork (x : FKv4)
  | kvrel (x : FKvrel)
  | kvdem (x : FKv4)
  -- events
  | packageReset (x : FReset)
  | qtailDoorbell (q v : Nat)
  | queueResume (q : Nat)
  | launchCommand (q : Nat)
  | chainEnd (q : Nat)
  | tlSignal (q : Nat)
  | tlWaitCommand (q : Nat)
  | resPreload (q : Nat)
  | fenceCommand (q : Nat)
  | barrierCommand (q : Nat)
  | blockPlace (lid : Nat)
  | nodeBlockStart (lid idx : Nat) (out : SegOutcome)
  | nodeTimeout (lid idx : Nat) (out : SegOutcome)
  | warpEnd (core slot : Nat)
  | slottWrite (core j : Nat) (v : W64)
  | warpSwap (core out : Nat)
  | activeSetRotate (core : Nat)
  | sleepExpiry (core slot : Nat)
  | trapServiceRelease (core slot : Nat) (v : Service)
  | handlerTimeout (core slot : Nat)
  | loadReturn (core slot op : Nat) (lanes : Mask) (out : SegOutcome)
  | writeBufferDrain (core buf : Nat)
  | clcDirtyPush (cluster line : Nat)
  | ptsTick (core : Nat)
  | leaseRequest (core line : Nat)
  | leaseReply (id : Nat)
  /-- The request, and what the controller of its memory met. -/
  | atomicRequest (core slot op : Nat) (x : Nat × SegOutcome)
  | rd (id : Nat)
  | rfo (id : Nat)
  | upg (id : Nat)
  | push (site line : Nat)
  | wb (id : Nat)
  | evn (id : Nat)
  /-- The device-access window, none for a physical address, and the line. -/
  | rdnc (x : Option Nat × Nat)
  /-- The device-access window, none for a physical address, and the bytes. -/
  | wrnc (x : Option Nat × BytesAt)
  | dirtyNotice (id : Nat)
  | snoop (id : Nat)
  | discoveryBroadcast (id : Nat)
  | pageSnoop (site page : Nat)
  | snoopAnswer (id : Nat)
  | dataReply (id : Nat)
  | acknowledgement (id : Nat)
  | heartbeat (site : Nat)
  | deadDieVerdict (site : Nat)
  | dieReset (site : Nat) (alive : Bool)
  | dieRejoin (site : Nat)
  | linkSleep (l : Nat)
  | linkWake (l : Nat)
  | linkWakeTimeout (id : Nat)
  | linkFailure (l : Nat)
  | hostMemRead (pa n : Nat) (m : HostMode)
  | hostMemWrite (x : BytesAt) (m : HostMode)
  | hostSnoop (line : Nat) (inv : Bool)
  | pageRecallTimeout (page : Nat)
  | hostCompletionTimeout (core slot op : Nat)
  | hostLinkDown
  | expanderLinkDown (n : Nat)
  | expanderTimeout (n : Nat)
  | expstOffClear (n : Nat)
  | retireGo (stack : Nat)
  | granuleMove (g off : Nat) (out : SegOutcome)
  | hbmReplay (id : Nat)
  | lltailWrite (node v : Nat)
  | eltailWrite (stack v : Nat)
  /-- Port and queue pair. The bytes, the immediate, and whether a page that is not present can be mapped. -/
  | rdmaWrite (p : Nat × Nat) (x : BytesAt × Option W32 × SegOutcome)
  /-- Port and queue pair, the first address, the length, and whether a page that is not present can be mapped. -/
  | rdmaRead (p : Nat × Nat) (va : Nat) (n : Nat × SegOutcome)
  /-- Port and queue pair, and the message. -/
  | rdmaSend (p : Nat × Nat) (x : BytesAt)
  | ethernetPortDown (p : Nat)
  | collectiveDescriptor (x : FColl) (out : SegOutcome)
  | powerSample (draws : List Nat) (settle : Nat)
  | preemptGo (core save slot : Nat)
  | preemptAck (core blk : Nat) (eng : Engine) (out : SegOutcome)
  | restoreGo (core save : Nat)
  | restoreStart (core : Nat) (out : SegOutcome)
  /-- The block, and the group for which a peer package sends the token. -/
  | abortToken (lid : Nat) (x : W32 × Option Nat)
  | barrmtRedirect (id : Nat) (out : SegOutcome)
  | remoteArrival (id : Nat)
  | residencyLoadComplete (core : Nat) (x : Nat × Nat × SegOutcome)
  /-- The entry, and the offset at which a controller met what. -/
  | residencyLoadFail (core : Nat) (x : Nat × Nat × SegOutcome)
  | lastuseAge
  /-- The `TMMA`, and the element whose promotion is done, none for all that are left of the K-block. -/
  | tmmaRun (core : Nat) (x : Nat × Option Nat)
  | tmmaComplete (core id : Nat)
  | copySegmentComplete (core slot op seg : Nat) (out : Bool × SegOutcome)
  | qldFill (core slot op : Nat) (out : SegOutcome)
  | kvMoveFlip (x : Nat × Nat × SegOutcome)
  /-- The move, and the offset at which a controller met what. -/
  | kvMoveFail (x : Nat × Nat × SegOutcome)
  /-- The instruction, the lanes for which a controller met something, and what. -/
  | kvldGatherComplete (core slot : Nat) (x : Nat × Mask × SegOutcome)
  | heatSweep
  | contextVerWrite (ctx v : Nat)
  | lscfgWrite (core : Nat) (v : W64)
  | leaseConfigWrite (site : Nat) (v : W64)
  | spdmRequest
  | pldmFirmwareUpdate (i : Image)
  | registerWrite (r : CfgReg) (v : W64)
  | residencyLoadStop (core idx : Nat)
  | contextEnable (ctx : Nat) (v : W64)
  /-- The port, and what happens to its operation. -/
  | rdmaOperationComplete (x : Nat × RdmaStep)
deriving DecidableEq, Repr

end Sys2Proof
end

