-- ==== Sys2Proof/WellFormed.lean ====
section
/-! DEFINITION. Which instructions an encoding can hold (11 R262 to R272 and the reference entries):
classes, lengths, types and kinds of operand. What Table 11-9 checks at steps 10 and 11 (operand files,
allotments, limits) is no part of it: such an instruction decodes and traps when it issues. -/

namespace Sys2Proof

/-- A v-register number. -/
def Reg.isV : Reg → Bool
  | .v _ => true
  | _ => false

/-- An operand code (11 Table 11-5). -/
def Reg.isCode (r : Reg) : Bool := !r.isV

/-- PG = 7 with PN = 1 is reserved (11 R266). -/
def Hd.ok (h : Hd) : Bool := !(h.pg == 7 && h.pn)

/-- The header of a form that has one length only. -/
def Hd.narrow (h : Hd) : Bool := h.ok && !h.wide

/-- Only a form with an immediate has the widened encoding (11 R262). -/
def Hd.okSrc (h : Hd) : Src → Bool
  | .reg r => h.narrow && r.isCode
  | .imm _ => h.ok

/-- The header of a form with an optional address immediate (06 R134). -/
def Hd.okOff (h : Hd) : Option W32 → Bool
  | none => h.narrow
  | some _ => h.ok

/-- A vector-kind operand: a v number in classes 0 and 2, an operand code in class 1 (11 Table 11-4). -/
def okVk (c : Cls) (r : Reg) : Bool :=
  match c with
  | .vec | .vsb => r.isV
  | .scl => r.isCode
  | .acc => false

/-- Operand B with its immediate form, which classes 0 and 1 have (11 R269). -/
def okB (h : Hd) (c : Cls) : Src → Bool
  | .imm _ => h.ok && (c == .vec || c == .scl)
  | .reg r => h.narrow && (match c with
      | .vec => r.isV
      | .scl | .vsb => r.isCode
      | .acc => false)

/-- Classes 0 and 1 only. -/
def Cls.vs (c : Cls) : Bool := c == .vec || c == .scl

/-- .s32, .z32, .s64, .z64. -/
def IntTy.wide (t : IntTy) : Bool := t == .s32 || t == .z32 || t == .s64 || t == .z64
/-- Signed types. -/
def IntTy.signed (t : IntTy) : Bool := t == .s8 || t == .s16 || t == .s32 || t == .s64

def FAlu1.wf (x : FAlu1) : Bool := x.hd.narrow && x.cls.vs && okVk x.cls x.d && okVk x.cls x.a
def FAlu2.wf (x : FAlu2) : Bool := okB x.hd x.cls x.b && okVk x.cls x.d && okVk x.cls x.a
def FAlu3.wf (x : FAlu3) : Bool := okB x.hd x.cls x.b && okVk x.cls x.d && okVk x.cls x.a && okVk x.cls x.c
def FIcmp.wf (x : FIcmp) : Bool := okB x.hd x.cls x.b && x.d.isCode && okVk x.cls x.a
def FIdot.wf (x : FIdot) : Bool := x.hd.narrow && x.d.isV && x.a.isV && x.b.isV && x.c.isV
def FLea.wf (x : FLea) : Bool := okB x.hd x.cls x.b && okVk x.cls x.d && okVk x.cls x.a
def FSel.wf (x : FSel) : Bool := okB x.hd x.cls x.b && okVk x.cls x.d && okVk x.cls x.a && x.p.isCode
def FMov.wf (x : FMov) : Bool := x.hd.narrow && okVk x.cls x.d &&
  (if x.cls == .vsb then x.a.isCode else okVk x.cls x.a)
def FMovi.wf (x : FMovi) : Bool := x.cls.vs && okVk x.cls x.d &&
  (match x.im with
    | .f32 _ | .z32 _ | .s32 _ => x.hd.ok
    | .z64 _ | .s64 _ => x.hd.narrow)
/-- An immediate field specifier has bits [31:16] at 0 (18 R336). -/
def okF : Src → Bool
  | .imm w => w.extractLsb' 16 16 == 0#16
  | .reg _ => true
def FBfe.wf (x : FBfe) : Bool := okB x.hd x.cls x.f && okF x.f && x.ty.wide && okVk x.cls x.d && okVk x.cls x.a
def FBfi.wf (x : FBfi) : Bool := okB x.hd x.cls x.f && okF x.f && x.ty.wide && okVk x.cls x.d && okVk x.cls x.a &&
  okVk x.cls x.c
def FFp2.wf (x : FFp2) : Bool := okB x.hd x.cls x.b && okVk x.cls x.d && okVk x.cls x.a
def FFp3.wf (x : FFp3) : Bool := okB x.hd x.cls x.b && okVk x.cls x.d && okVk x.cls x.a && okVk x.cls x.c
def FFpM.wf (x : FFpM) : Bool := okB x.hd x.cls x.b && okVk x.cls x.d && okVk x.cls x.a
def FFcmp.wf (x : FFcmp) : Bool := okB x.hd x.cls x.b && x.d.isCode && okVk x.cls x.a && !(x.ty == .f32 && x.e)
def FFp1.wf (x : FFp1) : Bool := x.hd.narrow && x.cls.vs && okVk x.cls x.d && okVk x.cls x.a
/-- .f16 or .bf16. -/
def DTy.half : DTy → Bool
  | .fp .f16 | .fp .bf16 => true
  | _ => false
def DTy.isInt : DTy → Bool
  | .int _ => true
  | .fp _ => false
def FCvt.wf (x : FCvt) : Bool := x.hd.narrow && x.cls.vs && okVk x.cls x.d && okVk x.cls x.a &&
  (!x.elem || (x.dt.half != x.st.half)) && (!x.sat || (x.dt.isInt && x.st.isInt))
def FBfpack.wf (x : FBfpack) : Bool := x.hd.narrow && x.d.isV && x.a.isV && x.e.isCode && x.sh != 0
def FBfunpack.wf (x : FBfunpack) : Bool := x.hd.narrow && x.d.isV && x.a.isV && x.e.isCode
def FVote.wf (x : FVote) : Bool := x.hd.narrow && x.d.isCode && x.a.isCode && (x.op == .atl || x.t == 0#8)
def FPlop.wf (x : FPlop) : Bool := x.cls.vs && x.d.isCode && x.a.isCode &&
  (match x.op with
    | .bin _ b => x.hd.narrow && b.isCode
    | .not => x.hd.narrow
    | .lut b c _ => x.hd.ok && b.isCode && c.isCode)
def FShfl.wf (x : FShfl) : Bool := (x.cls == .vec || x.cls == .vsb) && okB x.hd x.cls x.b && x.d.isV && x.a.isV
/-- Types a reduction admits: floating types for add, min and max (21 R439). -/
def okRop (o : ROp) (t : DTy) : Bool := t.isInt || o == .add || o == .min || o == .max
def FWred.wf (x : FWred) : Bool := x.hd.narrow && okRop x.op x.ty && x.a.isV &&
  (match x.cls with
    | .vec => x.d.isV
    | .acc => x.d.isCode
    | _ => false)
def FWscan.wf (x : FWscan) : Bool := x.hd.narrow && okRop x.op x.ty && x.a.isV && x.d.isV
def FBrx.wf (x : FBrx) : Bool := x.hd.okOff x.off && x.a.isCode
def FBrc.wf (x : FBrc) : Bool := x.hd.narrow && x.p.isCode
def FExit.wf (x : FExit) : Bool := x.hd.narrow && x.cls.vs
def FDSrc.wf (x : FDSrc) : Bool := x.hd.okSrc x.src && x.d.isCode
def FA.wf (x : FA) : Bool := x.hd.narrow && x.a.isCode
def FSrc.wf (x : FSrc) : Bool := x.hd.okSrc x.src
def FD.wf (x : FD) : Bool := x.hd.narrow && x.d.isCode
def FDA.wf (x : FDA) : Bool := x.hd.narrow && x.d.isCode && x.a.isCode
def FSread.wf (x : FSread) : Bool := x.hd.narrow &&
  (match x.cls with
    | .vec => x.d.isV
    | .scl => x.d.isCode && !x.z64
    | _ => false)
def FSwrite.wf (x : FSwrite) : Bool := x.hd.okSrc x.src
def FFence.wf (x : FFence) : Bool := if x.sc == .gp then x.hd.ok else x.hd.narrow && x.g == 0#8
def FLaunch.wf (x : FLaunch) : Bool := x.hd.narrow && x.d.isCode && x.a.isCode && x.b.isCode
def FEmit.wf (x : FEmit) : Bool := x.hd.narrow && x.d.isCode && x.a.isCode
def FLdSt.wf (x : FLdSt) : Bool := x.hd.okOff x.off &&
  (match x.cls with
    | .vec => x.d.isV && x.a.isV
    | .vsb => x.d.isV && x.a.isCode
    | .scl => x.d.isCode && x.a.isCode
    | .acc => false)
/-- Types that `ATOM` and `RED` allow (18 Tables 18-2 and 18-3). -/
def okAty (o : AOp) : DTy → Bool
  | .fp _ => o == .add || o == .min || o == .max || o == .exch || o == .cas
  | .int t => t.wide
/-- Scope .gp has the 128-bit form alone, with its immediate (18 R322). -/
def okAsc (h : Hd) (sc : Scope) (off : Option W32) (g : Byte) : Bool :=
  if sc == .gp then h.ok && h.wide && off.isSome else h.okOff off && g == 0#8
def FAtom.wf (x : FAtom) : Bool := okAsc x.hd x.sc x.off x.g && okAty x.op x.ty && okVk x.cls x.d && okVk x.cls x.a &&
  (if x.cls == .vsb then x.b.isCode else okVk x.cls x.b) &&
  (match x.c with
    | none => x.op != .cas
    | some c => x.op == .cas && okVk x.cls c)
def FRed.wf (x : FRed) : Bool := okAsc x.hd x.sc x.off x.g && okAty x.op x.ty && okVk x.cls x.a &&
  (if x.cls == .vsb then x.b.isCode else okVk x.cls x.b) && x.op != .exch && x.op != .cas
def FQld.wf (x : FQld) : Bool := x.hd.okOff x.off && x.q.isCode && x.a.isCode && x.b.isCode &&
  (match x.ty with
    | .fp _ => true
    | .int t => t != .s64 && t != .z64)
def FCpy.wf (x : FCpy) : Bool := x.hd.okSrc x.len && x.a.isCode && x.b.isCode
def FCm.wf (x : FCm) : Bool := x.hd.okOff x.off && x.cls.vs && okVk x.cls x.a &&
  (x.sc == .cl || x.sc == .di || x.sc == .dv || x.sc == .sy)
def FClv.wf (x : FClv) : Bool := x.hd.okOff x.off && x.cls.vs && okVk x.cls x.a
def FPfmap.wf (x : FPfmap) : Bool := x.hd.okOff x.off && x.cls.vs && okVk x.cls x.a && okVk x.cls x.d
/-- `BARINIT`'s immediate is 16 bits (18 R330). -/
def FBarinit.wf (x : FBarinit) : Bool := x.hd.okSrc x.src && okF x.src
def FBararv.wf (x : FBararv) : Bool := x.hd.narrow && (match x.d with
    | none => true
    | some d => d.isCode)
/-- `BARWAIT`'s immediate is 8 bits (18 R334). -/
def FBarwait.wf (x : FBarwait) : Bool := x.hd.okSrc x.src && x.d.isCode && (match x.src with
    | .imm w => w.extractLsb' 8 24 == 0#24
    | .reg _ => true)
def FBarrmt.wf (x : FBarrmt) : Bool := x.hd.ok && x.d.isCode && x.a.isCode
def FAB.wf (x : FAB) : Bool := x.hd.narrow && x.a.isCode && x.b.isCode
def FTlwait.wf (x : FTlwait) : Bool := x.hd.okSrc x.src && x.a.isCode
def FTmma.wf (x : FTmma) : Bool := x.hd.ok && x.d.isCode && x.a.isCode && x.b.isCode && x.c.isV
def FResalloc.wf (x : FResalloc) : Bool := x.hd.okSrc x.src && x.d.isCode && x.a.isCode
def FResload.wf (x : FResload) : Bool := x.hd.narrow && x.d.isCode && x.a.isCode && x.b.isCode && x.c.isCode
def FKv.wf (x : FKv) (dv : Bool) : Bool := x.hd.narrow && (x.d.isV == dv) && x.a.isCode && x.b.isCode && x.c.isV
def FKv4.wf (x : FKv4) : Bool := x.hd.ok && x.d.isCode && x.a.isCode && x.b.isCode && x.c.isCode
def FKvrel.wf (x : FKvrel) : Bool := x.hd.ok && x.d.isCode && x.a.isCode && x.b.isCode
/-- The immediate of `SETFMT` has the reserved bits [31:24] and [12] at 0 (21 R419). -/
def okFmtImm : Src → Bool
  | .imm w => w.extractLsb' 24 8 == 0#8 && !w.getLsbD 12
  | .reg _ => true
/-- Opcodes that raise the illegal-instruction trap whatever else they hold (11 R275). -/
def illOp (op : BitVec 8) : Bool := op == 0#8 || op.extractLsb' 4 4 == 0xF#4

/-- Bytes of an instruction of that length (11 Table 11-1). -/
def Len.bytes : Len → Nat
  | .l64 => 8
  | .l96 => 12
  | .l128 => 16
/-- The length code of bits [1:0] (11 Table 11-1). -/
def Len.code : Len → BitVec 2
  | .l64 => 0#2
  | .l96 => 1#2
  | .l128 => 2#2

def FIll.wf (x : FIll) : Bool := illOp (x.bits.extractLsb' 2 8) && x.bits.extractLsb' 0 2 == x.len.code &&
  (x.bits >>> (8 * x.len.bytes) == 0#128)

/-- An instruction that some encoding holds. Events have no encoding and are always well formed. -/
def WellFormed : Instr → Bool
  | .ill x => x.wf
  | .nop _ | .join => true
  | .bra x => x.hd.ok
  | .brx x => x.wf
  | .brc x => x.wf
  | .call x => x.wf
  | .ret x | .respin x | .resunpin x | .resfree x | .tlbinvPage x => x.wf
  | .exit x => x.wf
  | .yield x | .bkpt x | .tret x | .tretSkip x | .abortg x | .tlbinvCtx x | .tlbinvRange x => x.hd.narrow
  | .sleep x | .execwr x | .cbwait x | .step x => x.wf
  | .setfmt x => x.wf && okFmtImm x.src
  | .trap x => x.hd.ok
  | .execrd x | .cbclose x | .accz x => x.wf
  | .sread x => x.wf
  | .swrite x => x.wf
  | .wait x => x.hd.narrow
  | .fenceAcq x | .fenceRel x | .fenceAr x | .fenceSc x => x.wf
  | .launch x => x.wf
  | .emit x => x.wf
  | .vote x => x.wf
  | .plop x => x.wf
  | .shfl x => x.wf
  | .wred x => x.wf
  | .wscan x => x.wf
  | .iadd x | .isub x | .imul x => x.wf
  | .imulhi x | .imin x | .imax x | .and x | .or x | .xor x | .shl x | .shr x | .sra x => x.wf && !x.sat
  | .imad x => x.wf
  | .iabs x => x.wf && x.ty.signed
  | .not x => x.wf && !x.sat
  | .clz x | .popc x | .brev x => x.wf && !x.sat && x.ty.wide
  | .icmp x => x.wf
  | .idot4 x => x.wf
  | .lea x => x.wf
  | .sel x => x.wf
  | .mov x => x.wf
  | .movi x => x.wf
  | .bfe x => x.wf
  | .bfi x => x.wf
  | .fadd x | .fmul x => x.wf
  | .ffma x => x.wf
  | .fmin x | .fmax x => x.wf
  | .fcmp x => x.wf
  | .frnd x | .frcp x | .frsq x | .fsqrt x | .fexp2 x | .flog2 x | .fsin x | .fcos x | .ftanh x => x.wf
  | .cvt x => x.wf
  | .bfpack x => x.wf
  | .bfunpack x => x.wf
  | .ld x | .st x => x.wf
  | .atom x => x.wf
  | .red x => x.wf
  | .qld x => x.wf
  | .qpop x => x.hd.narrow && x.d.isV && x.a.isCode
  | .cpyLd x | .cpySt x | .cpyg x => x.wf
  | .cflush x | .cinv x => x.wf
  | .clv x => x.wf
  | .pfmap x => x.wf
  | .barinit x => x.wf
  | .bararv x => x.wf
  | .barwait x => x.wf
  | .barrmt x => x.wf
  | .barinv x => x.hd.narrow
  | .tlsig x => x.wf
  | .tlwait x => x.wf
  | .tmma x => x.wf
  | .accmovAccToVec x => x.hd.narrow && x.d.isV && x.a.isCode
  | .accmovVecToAcc x => x.hd.narrow && x.d.isCode && x.a.isV
  | .accmovAccToAcc x => x.wf
  | .resalloc x => x.wf
  | .resload x => x.wf
  | .resq x | .resref x => x.wf
  | .kvld x | .kvst x => x.wf true
  | .kvapp x => x.wf false
  | .kvfork x | .kvdem x => x.wf
  | .kvrel x => x.wf
  -- events
  | .packageReset .. | .qtailDoorbell .. | .queueResume .. | .launchCommand .. | .chainEnd .. | .tlSignal ..
  | .tlWaitCommand .. | .resPreload .. | .fenceCommand .. | .barrierCommand .. | .blockPlace .. | .nodeBlockStart ..
  | .nodeTimeout .. | .warpEnd .. | .slottWrite .. | .warpSwap .. | .activeSetRotate .. | .sleepExpiry ..
  | .trapServiceRelease .. | .handlerTimeout .. | .loadReturn .. | .writeBufferDrain .. | .clcDirtyPush .. | .ptsTick ..
  | .leaseRequest .. | .leaseReply .. | .atomicRequest .. | .rd .. | .rfo .. | .upg ..
  | .push .. | .wb .. | .evn .. | .rdnc .. | .wrnc .. | .dirtyNotice ..
  | .snoop .. | .discoveryBroadcast .. | .pageSnoop .. | .snoopAnswer .. | .dataReply .. | .acknowledgement ..
  | .heartbeat .. | .deadDieVerdict .. | .dieReset .. | .dieRejoin .. | .linkSleep .. | .linkWake ..
  | .linkWakeTimeout .. | .linkFailure .. | .hostMemRead .. | .hostMemWrite .. | .hostSnoop .. | .pageRecallTimeout ..
  | .hostCompletionTimeout .. | .hostLinkDown | .expanderLinkDown .. | .expanderTimeout .. | .expstOffClear .. | .retireGo ..
  | .granuleMove .. | .hbmReplay .. | .lltailWrite .. | .eltailWrite .. | .rdmaWrite .. | .rdmaRead ..
  | .rdmaSend .. | .ethernetPortDown .. | .collectiveDescriptor .. | .powerSample .. | .preemptGo .. | .preemptAck ..
  | .restoreGo .. | .restoreStart .. | .abortToken .. | .barrmtRedirect .. | .remoteArrival .. | .residencyLoadComplete ..
  | .residencyLoadFail .. | .lastuseAge | .tmmaRun .. | .tmmaComplete .. | .copySegmentComplete .. | .qldFill ..
  | .kvMoveFlip .. | .kvMoveFail .. | .kvldGatherComplete .. | .heatSweep | .contextVerWrite .. | .lscfgWrite ..
  | .leaseConfigWrite .. | .spdmRequest | .pldmFirmwareUpdate .. | .registerWrite .. | .residencyLoadStop .. | .contextEnable ..
  | .rdmaOperationComplete .. => true

end Sys2Proof
end

