-- ==== Sys2Proof/Decode.lean ====
section
/-! DEFINITION. The encoding of the OPI instructions (11 R260 to R275 and the reference entries): the raw
fields of Table 11-3, a parser of those fields by opcode, the encoder, and the decoder, which accepts a
word exactly when the parsed instruction is well formed and encodes to that same word. An unused bit that
is not 0 is therefore refused (R265). -/

namespace Sys2Proof

/-- The fields of an instruction (11 Table 11-3). `imm` is IMM32 or IMMX, `immy` is IMMY. -/
structure Raw where
  len : Len
  op : Byte
  pg : Fin 8
  pn : Bool
  cls : Cls
  d : Byte
  a : Byte
  b : Byte
  c : Byte
  sop : BitVec 4
  ty : BitVec 4
  md : Byte
  imm : W32
  immy : W32
deriving DecidableEq, Repr

/-- Why a fetched word is no instruction (11 Table 11-9, steps 4, 6 and 9). -/
inductive DecodeError
  /-- LEN = 0b11 (step 4). -/
  | lenReserved
  /-- A reserved opcode (step 6). -/
  | opReserved
  /-- CLS, guard, SOP, TYPE, MOD or operand code not defined, or an unused bit not 0 (step 9). -/
  | fieldReserved
deriving DecidableEq, Repr

/-! ### Codes -/

def Len.ofCode (c : BitVec 2) : Option Len :=
  if c = 0#2 then some .l64 else if c = 1#2 then some .l96 else if c = 2#2 then some .l128 else none

def Cls.code : Cls → BitVec 2
  | .vec => 0#2
  | .scl => 1#2
  | .vsb => 2#2
  | .acc => 3#2

def Cls.ofCode (c : BitVec 2) : Cls :=
  if c = 0#2 then .vec else if c = 1#2 then .scl else if c = 2#2 then .vsb else .acc

/-- 11 Table 11-5; a v register stands by its number. -/
def Reg.code : Reg → Byte
  | .v n => BitVec.ofNat 8 n.val
  | .s n => BitVec.ofNat 8 n.val
  | .p n => BitVec.ofNat 8 (0x40 + n.val)
  | .k n => BitVec.ofNat 8 (0x48 + n.val)
  | .a n => BitVec.ofNat 8 (0x50 + n.val)
  | .b n => BitVec.ofNat 8 (0x58 + n.val)
  | .q n => BitVec.ofNat 8 (0x60 + n.val)

/-- The register an operand code names; none for a reserved code (11 Table 11-5). -/
def Reg.ofCode (c : Byte) : Option Reg :=
  let n := c.toNat
  if n < 0x40 then some (.s (Fin.ofNat 64 n))
  else if n < 0x48 then some (.p (Fin.ofNat 8 (n - 0x40)))
  else if n < 0x50 then some (.k (Fin.ofNat 8 (n - 0x48)))
  else if n < 0x54 then some (.a (Fin.ofNat 4 (n - 0x50)))
  else if n < 0x58 then none
  else if n < 0x60 then some (.b (Fin.ofNat 8 (n - 0x58)))
  else if n < 0x64 then some (.q (Fin.ofNat 4 (n - 0x60)))
  else none

/-- A v-register number. -/
def Reg.vOf (c : Byte) : Reg := .v (Fin.ofNat 256 c.toNat)

/-- A vector-kind operand of that class (11 Table 11-4). -/
def Reg.vk (cl : Cls) (c : Byte) : Option Reg :=
  if cl = .scl then Reg.ofCode c else some (Reg.vOf c)

/-- 11 Table 11-6. -/
def IntTy.code : IntTy → BitVec 4
  | .s8 => 4#4
  | .s16 => 5#4
  | .s32 => 6#4
  | .s64 => 7#4
  | .z8 => 8#4
  | .z16 => 9#4
  | .z32 => 10#4
  | .z64 => 11#4

def IntTy.ofCode (c : BitVec 4) : Option IntTy :=
  if c = 4#4 then some .s8 else if c = 5#4 then some .s16 else if c = 6#4 then some .s32 else
    if c = 7#4 then some .s64 else if c = 8#4 then some .z8 else if c = 9#4 then some .z16 else
    if c = 10#4 then some .z32 else if c = 11#4 then some .z64 else none

/-- 11 Table 11-6. -/
def FpTy.code : FpTy → BitVec 4
  | .f32 => 0#4
  | .f16 => 1#4
  | .bf16 => 2#4

def FpTy.ofCode (c : BitVec 4) : Option FpTy :=
  if c = 0#4 then some .f32 else if c = 1#4 then some .f16 else if c = 2#4 then some .bf16 else none

/-- 11 Table 11-6. -/
def BfpTy.code : BfpTy → BitVec 4
  | .bfp8 => 12#4
  | .bfp6 => 13#4
  | .bfp4 => 14#4

def BfpTy.ofCode (c : BitVec 4) : Option BfpTy :=
  if c = 12#4 then some .bfp8 else if c = 13#4 then some .bfp6 else if c = 14#4 then some .bfp4 else none

/-- 11 Table 11-6. -/
def DTy.code : DTy → BitVec 4
  | .fp t => t.code
  | .int t => t.code

def DTy.ofCode (c : BitVec 4) : Option DTy :=
  match FpTy.ofCode c with
  | some t => some (.fp t)
  | none => (IntTy.ofCode c).map .int

/-- 04 Table 4-2. -/
def Rnd.code : Rnd → BitVec 3
  | .rn => 0#3
  | .rz => 1#3
  | .ru => 2#3
  | .rd => 3#3
  | .dyn => 4#3

def Rnd.ofCode (c : BitVec 3) : Option Rnd :=
  if c = 0#3 then some .rn else if c = 1#3 then some .rz else if c = 2#3 then some .ru else
    if c = 3#3 then some .rd else if c = 4#3 then some .dyn else none

/-- 11 Table 11-7. -/
def Scope.code : Scope → BitVec 3
  | .wp => 0#3
  | .bk => 1#3
  | .cl => 2#3
  | .gp => 3#3
  | .di => 4#3
  | .dv => 5#3
  | .sy => 6#3

def Scope.ofCode (c : BitVec 3) : Option Scope :=
  if c = 0#3 then some .wp else if c = 1#3 then some .bk else if c = 2#3 then some .cl else
    if c = 3#3 then some .gp else if c = 4#3 then some .di else if c = 5#3 then some .dv else
    if c = 6#3 then some .sy else none

/-- 11 Table 11-7. -/
def Cache.code : Cache → BitVec 2
  | .ca => 0#2
  | .cg => 1#2
  | .ef => 2#2

def Cache.ofCode (c : BitVec 2) : Option Cache :=
  if c = 0#2 then some .ca else if c = 1#2 then some .cg else if c = 2#2 then some .ef else none

/-- 11 Table 11-7. -/
def Wid.code : Wid → BitVec 2
  | .one => 0#2
  | .v2 => 1#2
  | .v4 => 2#2

def Wid.ofCode (c : BitVec 2) : Option Wid :=
  if c = 0#2 then some .one else if c = 1#2 then some .v2 else if c = 2#2 then some .v4 else none

/-- 20 R384. -/
def IRel.code : IRel → BitVec 4
  | .eq => 0#4
  | .ne => 1#4
  | .lt => 2#4
  | .le => 3#4
  | .gt => 4#4
  | .ge => 5#4

def IRel.ofCode (c : BitVec 4) : Option IRel :=
  if c = 0#4 then some .eq else if c = 1#4 then some .ne else if c = 2#4 then some .lt else
    if c = 3#4 then some .le else if c = 4#4 then some .gt else if c = 5#4 then some .ge else none

/-- 19 Table 19-7. -/
def FRel.code : FRel → BitVec 4
  | .eq => 0#4
  | .ne => 1#4
  | .lt => 2#4
  | .le => 3#4
  | .gt => 4#4
  | .ge => 5#4
  | .num => 6#4
  | .nan => 7#4
  | .equ => 8#4
  | .neu => 9#4
  | .ltu => 10#4
  | .leu => 11#4
  | .gtu => 12#4
  | .geu => 13#4

def FRel.ofCode (c : BitVec 4) : Option FRel :=
  if c = 0#4 then some .eq else if c = 1#4 then some .ne else if c = 2#4 then some .lt else
    if c = 3#4 then some .le else if c = 4#4 then some .gt else if c = 5#4 then some .ge else
    if c = 6#4 then some .num else if c = 7#4 then some .nan else if c = 8#4 then some .equ else
    if c = 9#4 then some .neu else if c = 10#4 then some .ltu else if c = 11#4 then some .leu else
    if c = 12#4 then some .gtu else if c = 13#4 then some .geu else none

/-- 18 Table 18-3. -/
def AOp.code : AOp → BitVec 4
  | .add => 0#4
  | .sub => 1#4
  | .min => 2#4
  | .max => 3#4
  | .and => 4#4
  | .or => 5#4
  | .xor => 6#4
  | .exch => 7#4
  | .cas => 8#4

def AOp.ofCode (c : BitVec 4) : Option AOp :=
  if c = 0#4 then some .add else if c = 1#4 then some .sub else if c = 2#4 then some .min else
    if c = 3#4 then some .max else if c = 4#4 then some .and else if c = 5#4 then some .or else
    if c = 6#4 then some .xor else if c = 7#4 then some .exch else if c = 8#4 then some .cas else none

/-- 21 Table 21-7. -/
def ROp.code : ROp → BitVec 3
  | .add => 0#3
  | .min => 1#3
  | .max => 2#3
  | .and => 3#3
  | .or => 4#3
  | .xor => 5#3

def ROp.ofCode (c : BitVec 3) : Option ROp :=
  if c = 0#3 then some .add else if c = 1#3 then some .min else if c = 2#3 then some .max else
    if c = 3#3 then some .and else if c = 4#3 then some .or else if c = 5#3 then some .xor else none

/-- 21 R437. -/
def VoteOp.code : VoteOp → BitVec 4
  | .mask => 0#4
  | .count => 1#4
  | .lead => 2#4
  | .atl => 3#4
  | .agree => 4#4

def VoteOp.ofCode (c : BitVec 4) : Option VoteOp :=
  if c = 0#4 then some .mask else if c = 1#4 then some .count else if c = 2#4 then some .lead else
    if c = 3#4 then some .atl else if c = 4#4 then some .agree else none

/-- 21 R420. -/
def ShflMode.code : ShflMode → BitVec 4
  | .sel => 0#4
  | .rot => 1#4
  | .bfly => 2#4

def ShflMode.ofCode (c : BitVec 4) : Option ShflMode :=
  if c = 0#4 then some .sel else if c = 1#4 then some .rot else if c = 2#4 then some .bfly else none

/-- 20 Table 20-5. -/
def PBin.code : PBin → BitVec 4
  | .and => 0#4
  | .or => 1#4
  | .xor => 2#4
  | .andn => 3#4
  | .orn => 4#4

def PBin.ofCode (c : BitVec 4) : Option PBin :=
  if c = 0#4 then some .and else if c = 1#4 then some .or else if c = 2#4 then some .xor else
    if c = 3#4 then some .andn else if c = 4#4 then some .orn else none

/-- 21 R438. -/
def CntCls.code : CntCls → BitVec 4
  | .ld => 0#4
  | .st => 1#4
  | .cp => 2#4
  | .tl => 3#4

def CntCls.ofCode (c : BitVec 4) : Option CntCls :=
  if c = 0#4 then some .ld else if c = 1#4 then some .st else if c = 2#4 then some .cp else
    if c = 3#4 then some .tl else none

/-- 11 Table 11-11. -/
def SpReg.code : SpReg → BitVec 8
  | .exec => 0#8
  | .fmt => 1#8
  | .nbv => 2#8
  | .isalvl => 3#8
  | .laneid => 4#8
  | .warpid => 5#8
  | .roleid => 6#8
  | .blockid => 7#8
  | .coreid => 8#8
  | .pcore => 9#8
  | .dieid => 10#8
  | .diegen => 11#8
  | .tenant => 12#8
  | .stepno => 13#8
  | .clock => 14#8
  | .lease => 15#8
  | .tcause => 16#8
  | .tpc => 17#8
  | .tskid => 18#8
  | .taddr => 19#8
  | .tdmask => 20#8
  | .tdop0 => 21#8
  | .tdop1 => 22#8
  | .tdop2 => 23#8
  | .tdop3 => 24#8
  | .capacity => 25#8
  | .mphase => 26#8
  | .migw => 27#8
  | .stacksLive => 28#8
  | .survMap => 29#8
  | .hmap0 => 30#8
  | .hmap1 => 31#8
  | .hmap2 => 32#8
  | .hmap3 => 33#8
  | .hmap4 => 34#8
  | .ldcnt => 35#8
  | .stcnt => 36#8
  | .cpcnt => 37#8
  | .tlcnt => 38#8

def SpReg.ofCode (c : BitVec 8) : Option SpReg :=
  if c = 0#8 then some .exec else if c = 1#8 then some .fmt else if c = 2#8 then some .nbv else
    if c = 3#8 then some .isalvl else if c = 4#8 then some .laneid else if c = 5#8 then some .warpid else
    if c = 6#8 then some .roleid else if c = 7#8 then some .blockid else if c = 8#8 then some .coreid else
    if c = 9#8 then some .pcore else if c = 10#8 then some .dieid else if c = 11#8 then some .diegen else
    if c = 12#8 then some .tenant else if c = 13#8 then some .stepno else if c = 14#8 then some .clock else
    if c = 15#8 then some .lease else if c = 16#8 then some .tcause else if c = 17#8 then some .tpc else
    if c = 18#8 then some .tskid else if c = 19#8 then some .taddr else if c = 20#8 then some .tdmask else
    if c = 21#8 then some .tdop0 else if c = 22#8 then some .tdop1 else if c = 23#8 then some .tdop2 else
    if c = 24#8 then some .tdop3 else if c = 25#8 then some .capacity else
    if c = 26#8 then some .mphase else if c = 27#8 then some .migw else
    if c = 28#8 then some .stacksLive else if c = 29#8 then some .survMap else
    if c = 30#8 then some .hmap0 else if c = 31#8 then some .hmap1 else if c = 32#8 then some .hmap2 else
    if c = 33#8 then some .hmap3 else if c = 34#8 then some .hmap4 else if c = 35#8 then some .ldcnt else
    if c = 36#8 then some .stcnt else if c = 37#8 then some .cpcnt else if c = 38#8 then some .tlcnt else none

def Space.code : Space → BitVec 1
  | .g => 0#1
  | .s => 1#1

def Space.ofCode (c : BitVec 1) : Space := if c = 0#1 then .g else .s

/-- MOD in memory and scoped instructions (11 Table 11-7); SCOPE 7 is none. -/
def modBits (sc : BitVec 3) (ca : BitVec 2) (sp : BitVec 1) (w : BitVec 2) : Byte := sc ++ ca ++ sp ++ w

/-! ### The raw word -/

/-- The fields of a word whose length code is not reserved. -/
def Raw.ofBits (w : BitVec 128) : Option Raw :=
  match Len.ofCode (w.extractLsb' 0 2) with
  | none => none
  | some len => some {
      len := len, op := w.extractLsb' 2 8, pg := Fin.ofNat 8 (w.extractLsb' 10 3).toNat, pn := w.getLsbD 13,
      cls := Cls.ofCode (w.extractLsb' 14 2), d := w.extractLsb' 16 8, a := w.extractLsb' 24 8,
      b := w.extractLsb' 32 8, c := w.extractLsb' 40 8, ty := w.extractLsb' 48 4, sop := w.extractLsb' 52 4,
      md := w.extractLsb' 56 8,
      imm := if len = .l64 then 0#32 else w.extractLsb' 64 32,
      immy := if len = .l128 then w.extractLsb' 96 32 else 0#32 }

/-- The bits of an instruction, TDOP1 above TDOP0 (10 R239). -/
def Raw.toBits (r : Raw) : BitVec 128 :=
  r.immy ++ r.imm ++ r.md ++ r.sop ++ r.ty ++ r.c ++ r.b ++ r.a ++ r.d ++ r.cls.code ++
    BitVec.ofBool r.pn ++ BitVec.ofNat 3 r.pg.val ++ r.op ++ r.len.code

/-- A word with a header and no other field. -/
def Raw.base (op : Byte) (h : Hd) (cl : Cls) (len : Len) : Raw :=
  { len := len, op := op, pg := h.pg, pn := h.pn, cls := cl, d := 0#8, a := 0#8, b := 0#8, c := 0#8, sop := 0#4,
    ty := 0#4, md := 0#8, imm := 0#32, immy := 0#32 }

/-- The header of a word. -/
def Raw.hd (r : Raw) : Hd := { pg := r.pg, pn := r.pn, wide := r.len = .l128 }

/-- The length of a 96-bit form (11 R262). -/
def Hd.len6 (h : Hd) : Len := if h.wide then .l128 else .l96

/-- The length of a form whose immediate may be left out. -/
def Hd.lenOff (h : Hd) (o : Option W32) : Len :=
  match o with
  | none => .l64
  | some _ => h.len6

/-- The length of a form that a register or an immediate source selects. -/
def Hd.lenSrc (h : Hd) (s : Src) : Len :=
  match s with
  | .reg _ => .l64
  | .imm _ => h.len6

def Src.field : Src → Byte
  | .reg r => r.code
  | .imm _ => 0#8

def Src.imm32 : Src → W32
  | .reg _ => 0#32
  | .imm w => w

def offImm : Option W32 → W32
  | none => 0#32
  | some w => w

/-- Operand B of the class, or the immediate of the longer forms. -/
def Raw.srcB (r : Raw) : Option Src :=
  if r.len = .l64 then
    (if r.cls = .vec then some (.reg (Reg.vOf r.b)) else (Reg.ofCode r.b).map .reg)
  else some (.imm r.imm)

/-- A source code in the given field, or the immediate of the longer forms. -/
def Raw.srcOf (r : Raw) (f : Byte) : Option Src :=
  if r.len = .l64 then (Reg.ofCode f).map .reg else some (.imm r.imm)

/-- The address immediate. -/
def Raw.off (r : Raw) : Option W32 := if r.len = .l64 then none else some r.imm

/-! ### Formats: the encoder and the parser of each -/

def FAlu1.enc (op : Byte) (x : FAlu1) : Raw :=
  { Raw.base op x.hd x.cls .l64 with
      d := x.d.code, a := x.a.code, ty := x.ty.code,
      sop := if x.sat then 1#4 else 0#4 }
def FAlu1.parse (r : Raw) : Option FAlu1 := do
  let d ← Reg.vk r.cls r.d
  let a ← Reg.vk r.cls r.a
  let ty ← IntTy.ofCode r.ty
  return { hd := r.hd, cls := r.cls, ty := ty, sat := r.sop = 1#4, d := d, a := a }

def FAlu2.enc (op : Byte) (x : FAlu2) : Raw :=
  { Raw.base op x.hd x.cls (x.hd.lenSrc x.b) with
      d := x.d.code, a := x.a.code, b := x.b.field, ty := x.ty.code,
      sop := if x.sat then 1#4 else 0#4, imm := x.b.imm32 }
def FAlu2.parse (r : Raw) : Option FAlu2 := do
  let d ← Reg.vk r.cls r.d
  let a ← Reg.vk r.cls r.a
  let b ← r.srcB
  let ty ← IntTy.ofCode r.ty
  return { hd := r.hd, cls := r.cls, ty := ty, sat := r.sop = 1#4, d := d, a := a, b := b }

def FAlu3.enc (op : Byte) (x : FAlu3) : Raw :=
  { Raw.base op x.hd x.cls (x.hd.lenSrc x.b) with
      d := x.d.code, a := x.a.code, b := x.b.field, c := x.c.code,
      ty := x.ty.code, sop := if x.sat then 1#4 else 0#4, imm := x.b.imm32 }
def FAlu3.parse (r : Raw) : Option FAlu3 := do
  let d ← Reg.vk r.cls r.d
  let a ← Reg.vk r.cls r.a
  let b ← r.srcB
  let c ← Reg.vk r.cls r.c
  let ty ← IntTy.ofCode r.ty
  return { hd := r.hd, cls := r.cls, ty := ty, sat := r.sop = 1#4, d := d, a := a, b := b, c := c }

def FIcmp.enc (op : Byte) (x : FIcmp) : Raw :=
  { Raw.base op x.hd x.cls (x.hd.lenSrc x.b) with
      d := x.d.code, a := x.a.code, b := x.b.field, ty := x.ty.code,
      sop := x.rel.code, imm := x.b.imm32 }
def FIcmp.parse (r : Raw) : Option FIcmp := do
  let d ← Reg.ofCode r.d
  let a ← Reg.vk r.cls r.a
  let b ← r.srcB
  let ty ← IntTy.ofCode r.ty
  let rel ← IRel.ofCode r.sop
  return { hd := r.hd, cls := r.cls, ty := ty, rel := rel, d := d, a := a, b := b }

def FIdot.enc (op : Byte) (x : FIdot) : Raw :=
  { Raw.base op x.hd .vec .l64 with
      d := x.d.code, a := x.a.code, b := x.b.code, c := x.c.code,
      ty := if x.signed then 6#4 else 10#4, sop := if x.sat then 1#4 else 0#4 }
def FIdot.parse (r : Raw) : Option FIdot := do
  return { hd := r.hd, signed := r.ty = 6#4, sat := r.sop = 1#4, d := Reg.vOf r.d, a := Reg.vOf r.a, b := Reg.vOf r.b, c := Reg.vOf r.c }

def FLea.enc (op : Byte) (x : FLea) : Raw :=
  { Raw.base op x.hd x.cls (x.hd.lenSrc x.b) with
      d := x.d.code, a := x.a.code, b := x.b.field, c := x.sh,
      ty := if x.signed then 6#4 else 10#4, imm := x.b.imm32 }
def FLea.parse (r : Raw) : Option FLea := do
  let d ← Reg.vk r.cls r.d
  let a ← Reg.vk r.cls r.a
  let b ← r.srcB
  return { hd := r.hd, cls := r.cls, signed := r.ty = 6#4, d := d, a := a, b := b, sh := r.c }

def FSel.enc (op : Byte) (x : FSel) : Raw :=
  { Raw.base op x.hd x.cls (x.hd.lenSrc x.b) with
      d := x.d.code, a := x.a.code, b := x.b.field, c := x.p.code,
      ty := if x.z64 then 11#4 else 0#4, imm := x.b.imm32 }
def FSel.parse (r : Raw) : Option FSel := do
  let d ← Reg.vk r.cls r.d
  let a ← Reg.vk r.cls r.a
  let b ← r.srcB
  let p ← Reg.ofCode r.c
  return { hd := r.hd, cls := r.cls, z64 := r.ty = 11#4, d := d, a := a, b := b, p := p }

def FMov.enc (op : Byte) (x : FMov) : Raw :=
  { Raw.base op x.hd x.cls .l64 with
      d := x.d.code, a := if x.cls = .vsb then 0#8 else x.a.code,
      b := if x.cls = .vsb then x.a.code else 0#8, ty := if x.z64 then 11#4 else 0#4 }
def FMov.parse (r : Raw) : Option FMov := do
  let d ← Reg.vk r.cls r.d
  let a ← if r.cls = .vsb then Reg.ofCode r.b else Reg.vk r.cls r.a
  return { hd := r.hd, cls := r.cls, z64 := r.ty = 11#4, d := d, a := a }

def FMovi.enc (op : Byte) (x : FMovi) : Raw :=
  match x.im with
  | .f32 w => { Raw.base op x.hd x.cls x.hd.len6 with d := x.d.code, ty := 0#4, imm := w }
  | .z32 w => { Raw.base op x.hd x.cls x.hd.len6 with d := x.d.code, ty := 10#4, imm := w }
  | .s32 w => { Raw.base op x.hd x.cls x.hd.len6 with d := x.d.code, ty := 6#4, imm := w }
  | .z64 w => { Raw.base op x.hd x.cls .l128 with d := x.d.code, ty := 11#4, imm := w.extractLsb' 0 32, immy := w.extractLsb' 32 32 }
  | .s64 w => { Raw.base op x.hd x.cls .l128 with d := x.d.code, ty := 7#4, imm := w.extractLsb' 0 32, immy := w.extractLsb' 32 32 }
def FMovi.parse (r : Raw) : Option FMovi := do
  let d ← Reg.vk r.cls r.d
  let im ← if r.ty = 0#4 then some (.f32 r.imm) else if r.ty = 10#4 then some (.z32 r.imm)
    else if r.ty = 6#4 then some (.s32 r.imm) else if r.ty = 11#4 then some (.z64 (r.immy ++ r.imm))
    else if r.ty = 7#4 then some (.s64 (r.immy ++ r.imm)) else none
  return { hd := if r.ty = 11#4 ∨ r.ty = 7#4 then { r.hd with wide := false } else r.hd, cls := r.cls, d := d,
           im := im }

def FBfe.enc (op : Byte) (x : FBfe) : Raw :=
  { Raw.base op x.hd x.cls (x.hd.lenSrc x.f) with
      d := x.d.code, a := x.a.code, b := x.f.field, ty := x.ty.code,
      imm := x.f.imm32 }
def FBfe.parse (r : Raw) : Option FBfe := do
  let d ← Reg.vk r.cls r.d
  let a ← Reg.vk r.cls r.a
  let f ← r.srcB
  let ty ← IntTy.ofCode r.ty
  return { hd := r.hd, cls := r.cls, ty := ty, d := d, a := a, f := f }

def FBfi.enc (op : Byte) (x : FBfi) : Raw :=
  { Raw.base op x.hd x.cls (x.hd.lenSrc x.f) with
      d := x.d.code, a := x.a.code, b := x.f.field, c := x.c.code,
      ty := x.ty.code, imm := x.f.imm32 }
def FBfi.parse (r : Raw) : Option FBfi := do
  let d ← Reg.vk r.cls r.d
  let a ← Reg.vk r.cls r.a
  let f ← r.srcB
  let c ← Reg.vk r.cls r.c
  let ty ← IntTy.ofCode r.ty
  return { hd := r.hd, cls := r.cls, ty := ty, d := d, a := a, f := f, c := c }

def FFp2.enc (op : Byte) (x : FFp2) : Raw :=
  { Raw.base op x.hd x.cls (x.hd.lenSrc x.b) with
      d := x.d.code, a := x.a.code, b := x.b.field, ty := x.ty.code,
      md := x.rm.code.zeroExtend 8, imm := x.b.imm32 }
def FFp2.parse (r : Raw) : Option FFp2 := do
  let d ← Reg.vk r.cls r.d
  let a ← Reg.vk r.cls r.a
  let b ← r.srcB
  let ty ← FpTy.ofCode r.ty
  let rm ← Rnd.ofCode (r.md.extractLsb' 0 3)
  return { hd := r.hd, cls := r.cls, ty := ty, rm := rm, d := d, a := a, b := b }

def FFp3.enc (op : Byte) (x : FFp3) : Raw :=
  { Raw.base op x.hd x.cls (x.hd.lenSrc x.b) with
      d := x.d.code, a := x.a.code, b := x.b.field, c := x.c.code,
      ty := x.ty.code, md := x.rm.code.zeroExtend 8, imm := x.b.imm32 }
def FFp3.parse (r : Raw) : Option FFp3 := do
  let d ← Reg.vk r.cls r.d
  let a ← Reg.vk r.cls r.a
  let b ← r.srcB
  let c ← Reg.vk r.cls r.c
  let ty ← FpTy.ofCode r.ty
  let rm ← Rnd.ofCode (r.md.extractLsb' 0 3)
  return { hd := r.hd, cls := r.cls, ty := ty, rm := rm, d := d, a := a, b := b, c := c }

def FFpM.enc (op : Byte) (x : FFpM) : Raw :=
  { Raw.base op x.hd x.cls (x.hd.lenSrc x.b) with
      d := x.d.code, a := x.a.code, b := x.b.field, ty := x.ty.code,
      imm := x.b.imm32 }
def FFpM.parse (r : Raw) : Option FFpM := do
  let d ← Reg.vk r.cls r.d
  let a ← Reg.vk r.cls r.a
  let b ← r.srcB
  let ty ← FpTy.ofCode r.ty
  return { hd := r.hd, cls := r.cls, ty := ty, d := d, a := a, b := b }

def FFcmp.enc (op : Byte) (x : FFcmp) : Raw :=
  { Raw.base op x.hd x.cls (x.hd.lenSrc x.b) with
      d := x.d.code, a := x.a.code, b := x.b.field, ty := x.ty.code,
      c := if x.e then 1#8 else 0#8, sop := x.rel.code, imm := x.b.imm32 }
def FFcmp.parse (r : Raw) : Option FFcmp := do
  let d ← Reg.ofCode r.d
  let a ← Reg.vk r.cls r.a
  let b ← r.srcB
  let ty ← FpTy.ofCode r.ty
  let rel ← FRel.ofCode r.sop
  return { hd := r.hd, cls := r.cls, ty := ty, rel := rel, e := r.c = 1#8, d := d, a := a, b := b }

def FFp1.enc (op : Byte) (x : FFp1) : Raw :=
  { Raw.base op x.hd x.cls .l64 with d := x.d.code, a := x.a.code, ty := x.ty.code, md := x.rm.code.zeroExtend 8 }
def FFp1.parse (r : Raw) : Option FFp1 := do
  let d ← Reg.vk r.cls r.d
  let a ← Reg.vk r.cls r.a
  let ty ← FpTy.ofCode r.ty
  let rm ← Rnd.ofCode (r.md.extractLsb' 0 3)
  return { hd := r.hd, cls := r.cls, ty := ty, rm := rm, d := d, a := a }

def FCvt.enc (op : Byte) (x : FCvt) : Raw :=
  { Raw.base op x.hd x.cls .l64 with
      d := x.d.code, a := x.a.code, ty := x.dt.code, sop := x.st.code,
      md := x.rm.code.zeroExtend 8, c := 0#6 ++ BitVec.ofBool x.sat ++ BitVec.ofBool x.elem }
def FCvt.parse (r : Raw) : Option FCvt := do
  let d ← Reg.vk r.cls r.d
  let a ← Reg.vk r.cls r.a
  let dt ← DTy.ofCode r.ty
  let st ← DTy.ofCode r.sop
  let rm ← Rnd.ofCode (r.md.extractLsb' 0 3)
  return { hd := r.hd, cls := r.cls, dt := dt, st := st, rm := rm, elem := r.c.getLsbD 0, sat := r.c.getLsbD 1, d := d, a := a }

def FBfpack.enc (op : Byte) (x : FBfpack) : Raw :=
  { Raw.base op x.hd .acc .l64 with
      d := x.d.code, a := x.a.code, c := x.e.code, ty := x.ty.code,
      sop := BitVec.ofNat 4 x.sh.val }
def FBfpack.parse (r : Raw) : Option FBfpack := do
  let e ← Reg.ofCode r.c
  let ty ← BfpTy.ofCode r.ty
  return { hd := r.hd, ty := ty, sh := Fin.ofNat 8 r.sop.toNat, d := Reg.vOf r.d, a := Reg.vOf r.a, e := e }

def FBfunpack.enc (op : Byte) (x : FBfunpack) : Raw :=
  { Raw.base op x.hd .acc .l64 with d := x.d.code, a := x.a.code, b := x.e.code, ty := x.ty.code }
def FBfunpack.parse (r : Raw) : Option FBfunpack := do
  let e ← Reg.ofCode r.b
  let ty ← BfpTy.ofCode r.ty
  return { hd := r.hd, ty := ty, d := Reg.vOf r.d, a := Reg.vOf r.a, e := e }

def FVote.enc (op : Byte) (x : FVote) : Raw :=
  { Raw.base op x.hd .scl .l64 with d := x.d.code, a := x.a.code, c := x.t, sop := x.op.code }
def FVote.parse (r : Raw) : Option FVote := do
  let d ← Reg.ofCode r.d
  let a ← Reg.ofCode r.a
  let o ← VoteOp.ofCode r.sop
  return { hd := r.hd, op := o, d := d, a := a, t := r.c }

def FPlop.enc (op : Byte) (x : FPlop) : Raw :=
  match x.op with
  | .bin o b => { Raw.base op x.hd x.cls .l64 with d := x.d.code, a := x.a.code, b := b.code, sop := o.code }
  | .not => { Raw.base op x.hd x.cls .l64 with d := x.d.code, a := x.a.code, sop := 5#4 }
  | .lut b c t => { Raw.base op x.hd x.cls x.hd.len6 with d := x.d.code, a := x.a.code, b := b.code, c := c.code, sop := 6#4, imm := t.zeroExtend 32 }
def FPlop.parse (r : Raw) : Option FPlop := do
  let d ← Reg.ofCode r.d
  let a ← Reg.ofCode r.a
  let b ← Reg.ofCode r.b
  let c ← Reg.ofCode r.c
  let o ← if r.sop = 5#4 then some .not
    else if r.sop = 6#4 then some (.lut b c (r.imm.extractLsb' 0 8))
    else (PBin.ofCode r.sop).map (fun o => PlopOp.bin o b)
  return { hd := r.hd, cls := r.cls, op := o, d := d, a := a }

def FShfl.enc (op : Byte) (x : FShfl) : Raw :=
  { Raw.base op x.hd x.cls (x.hd.lenSrc x.b) with
      d := x.d.code, a := x.a.code, b := x.b.field,
      c := BitVec.ofNat 8 x.seg.val, sop := x.mode.code, imm := x.b.imm32 }
def FShfl.parse (r : Raw) : Option FShfl := do
  let b ← r.srcB
  let m ← ShflMode.ofCode r.sop
  return { hd := r.hd, cls := r.cls, mode := m, seg := Fin.ofNat 8 r.c.toNat, d := Reg.vOf r.d, a := Reg.vOf r.a, b := b }

def FWred.enc (op : Byte) (x : FWred) : Raw :=
  { Raw.base op x.hd x.cls .l64 with d := x.d.code, a := x.a.code, ty := x.ty.code, sop := x.op.code.zeroExtend 4 }
def FWred.parse (r : Raw) : Option FWred := do
  let d ← if r.cls = .vec then some (Reg.vOf r.d) else Reg.ofCode r.d
  let ty ← DTy.ofCode r.ty
  let o ← ROp.ofCode (r.sop.extractLsb' 0 3)
  return { hd := r.hd, cls := r.cls, op := o, ty := ty, d := d, a := Reg.vOf r.a }

def FWscan.enc (op : Byte) (x : FWscan) : Raw :=
  { Raw.base op x.hd .vec .l64 with d := x.d.code, a := x.a.code, ty := x.ty.code, sop := BitVec.ofBool x.ex ++ x.op.code }
def FWscan.parse (r : Raw) : Option FWscan := do
  let ty ← DTy.ofCode r.ty
  let o ← ROp.ofCode (r.sop.extractLsb' 0 3)
  return { hd := r.hd, op := o, ex := r.sop.getLsbD 3, ty := ty, d := Reg.vOf r.d, a := Reg.vOf r.a }

def FHd.enc (op : Byte) (x : FHd) : Raw :=
  Raw.base op x.hd .scl .l64
def FHd.parse (r : Raw) : Option FHd := do
  return { hd := r.hd }

def FExit.enc (op : Byte) (x : FExit) : Raw :=
  Raw.base op x.hd x.cls .l64
def FExit.parse (r : Raw) : Option FExit := do
  return { hd := r.hd, cls := r.cls }

def FNop.enc (op : Byte) (x : FNop) : Raw := Raw.base op { pg := x.pg, pn := false, wide := false } .vec x.len
def FNop.parse (r : Raw) : Option FNop := some { len := r.len, pg := r.pg }

def FBra.enc (op : Byte) (x : FBra) : Raw :=
  { Raw.base op x.hd .scl x.hd.len6 with imm := x.off }
def FBra.parse (r : Raw) : Option FBra := do
  return { hd := r.hd, off := r.imm }

def FBrx.enc (op : Byte) (x : FBrx) : Raw :=
  { Raw.base op x.hd .scl (x.hd.lenOff x.off) with a := x.a.code, imm := offImm x.off }
def FBrx.parse (r : Raw) : Option FBrx := do
  let a ← Reg.ofCode r.a
  return { hd := r.hd, a := a, off := r.off }

def FBrc.enc (op : Byte) (x : FBrc) : Raw :=
  { Raw.base op x.hd .scl .l128 with
      a := x.p.code, sop := if x.inv then 1#4 else 0#4, imm := x.target,
      immy := x.join }
def FBrc.parse (r : Raw) : Option FBrc := do
  let p ← Reg.ofCode r.a
  return { hd := { r.hd with wide := false }, inv := r.sop = 1#4, p := p, target := r.imm, join := r.immy }

def FDSrc.enc (op : Byte) (x : FDSrc) : Raw :=
  { Raw.base op x.hd .scl (x.hd.lenSrc x.src) with d := x.d.code, a := x.src.field, imm := x.src.imm32 }
def FDSrc.parse (r : Raw) : Option FDSrc := do
  let d ← Reg.ofCode r.d
  let s ← r.srcOf r.a
  return { hd := r.hd, d := d, src := s }

def FA.enc (op : Byte) (x : FA) : Raw :=
  { Raw.base op x.hd .scl .l64 with a := x.a.code }
def FA.parse (r : Raw) : Option FA := do
  let a ← Reg.ofCode r.a
  return { hd := r.hd, a := a }

def FSrc.enc (op : Byte) (x : FSrc) : Raw :=
  { Raw.base op x.hd .scl (x.hd.lenSrc x.src) with a := x.src.field, imm := x.src.imm32 }
def FSrc.parse (r : Raw) : Option FSrc := do
  let s ← r.srcOf r.a
  return { hd := r.hd, src := s }

def FD.enc (op : Byte) (cl : Cls) (x : FD) : Raw :=
  { Raw.base op x.hd cl .l64 with d := x.d.code }
def FD.parse (r : Raw) : Option FD := do
  let d ← Reg.ofCode r.d
  return { hd := r.hd, d := d }

def FDA.enc (op : Byte) (cl : Cls) (sop : BitVec 4) (x : FDA) : Raw :=
  { Raw.base op x.hd cl .l64 with d := x.d.code, a := x.a.code, sop := sop }
def FDA.parse (vd va : Bool) (r : Raw) : Option FDA := do
  let d ← if vd then some (Reg.vOf r.d) else Reg.ofCode r.d
  let a ← if va then some (Reg.vOf r.a) else Reg.ofCode r.a
  return { hd := r.hd, d := d, a := a }

def FTrap.enc (op : Byte) (x : FTrap) : Raw :=
  { Raw.base op x.hd .scl x.hd.len6 with imm := x.n.zeroExtend 32 }
def FTrap.parse (r : Raw) : Option FTrap := do
  return { hd := r.hd, n := r.imm.extractLsb' 0 16 }

def FSread.enc (op : Byte) (x : FSread) : Raw :=
  { Raw.base op x.hd x.cls .l64 with d := x.d.code, c := x.n.code, ty := if x.z64 then 11#4 else 0#4 }
def FSread.parse (r : Raw) : Option FSread := do
  let d ← Reg.vk r.cls r.d
  let n ← SpReg.ofCode r.c
  return { hd := r.hd, cls := r.cls, z64 := r.ty = 11#4, d := d, n := n }

def FSwrite.enc (op : Byte) (x : FSwrite) : Raw :=
  { Raw.base op x.hd .scl (x.hd.lenSrc x.src) with a := x.src.field, c := x.n.code, imm := x.src.imm32 }
def FSwrite.parse (r : Raw) : Option FSwrite := do
  let s ← r.srcOf r.a
  let n ← SpReg.ofCode r.c
  return { hd := r.hd, n := n, src := s }

def FWait.enc (op : Byte) (x : FWait) : Raw :=
  { Raw.base op x.hd .scl .l64 with c := x.n, sop := x.c.code }
def FWait.parse (r : Raw) : Option FWait := do
  let c ← CntCls.ofCode r.sop
  return { hd := r.hd, c := c, n := r.c }

def FFence.enc (op : Byte) (kind : BitVec 4) (x : FFence) : Raw :=
  { Raw.base op x.hd .scl (if x.sc = .gp then x.hd.len6 else .l64) with
      sop := kind, md := modBits x.sc.code 0#2 0#1 0#2,
      imm := x.g.zeroExtend 32 }
def FFence.parse (r : Raw) : Option FFence := do
  let sc ← Scope.ofCode (r.md.extractLsb' 5 3)
  return { hd := r.hd, sc := sc, g := r.imm.extractLsb' 0 8 }

def FLaunch.enc (op : Byte) (x : FLaunch) : Raw :=
  { Raw.base op x.hd .scl .l64 with d := x.d.code, a := x.a.code, b := x.b.code }
def FLaunch.parse (r : Raw) : Option FLaunch := do
  let d ← Reg.ofCode r.d
  let a ← Reg.ofCode r.a
  let b ← Reg.ofCode r.b
  return { hd := r.hd, d := d, a := a, b := b }

def FEmit.enc (op : Byte) (x : FEmit) : Raw :=
  { Raw.base op x.hd .scl .l64 with d := x.d.code, a := x.a.code, c := x.n }
def FEmit.parse (r : Raw) : Option FEmit := do
  let d ← Reg.ofCode r.d
  let a ← Reg.ofCode r.a
  return { hd := r.hd, d := d, a := a, n := r.c }

def FLdSt.enc (op : Byte) (x : FLdSt) : Raw :=
  { Raw.base op x.hd x.cls (x.hd.lenOff x.off) with
      d := x.d.code, a := if x.cls = .vsb then 0#8 else x.a.code,
      b := if x.cls = .vsb then x.a.code else 0#8, ty := x.ty.code,
      md := modBits 7#3 x.cache.code x.sp.code x.wid.code, imm := offImm x.off }
def FLdSt.parse (r : Raw) : Option FLdSt := do
  let d ← Reg.vk r.cls r.d
  let a ← if r.cls = .vsb then Reg.ofCode r.b else Reg.vk r.cls r.a
  let ty ← DTy.ofCode r.ty
  let ch ← Cache.ofCode (r.md.extractLsb' 3 2)
  let w ← Wid.ofCode (r.md.extractLsb' 0 2)
  return { hd := r.hd, cls := r.cls, ty := ty, cache := ch, sp := Space.ofCode (r.md.extractLsb' 2 1), wid := w,
           d := d, a := a, off := r.off }

/-- The length of an `ATOM` or `RED`: 128 bits under scope .gp (18 R322). -/
def atomLen (h : Hd) (sc : Scope) (off : Option W32) : Len := if sc = .gp then .l128 else h.lenOff off

def FAtom.enc (op : Byte) (x : FAtom) : Raw :=
  { Raw.base op x.hd x.cls (atomLen x.hd x.sc x.off) with
      d := x.d.code, a := x.a.code, b := x.b.code,
      c := match x.c with
        | none => 0#8
        | some c => c.code
      sop := x.op.code, ty := x.ty.code, md := modBits x.sc.code x.cache.code x.sp.code 0#2, imm := offImm x.off,
      immy := x.g.zeroExtend 32 }
def FAtom.parse (r : Raw) : Option FAtom := do
  let d ← Reg.vk r.cls r.d
  let a ← Reg.vk r.cls r.a
  let b ← if r.cls = .vec then some (Reg.vOf r.b) else Reg.ofCode r.b
  let o ← AOp.ofCode r.sop
  let c ← if o = .cas then (Reg.vk r.cls r.c).map some else some none
  let ty ← DTy.ofCode r.ty
  let sc ← Scope.ofCode (r.md.extractLsb' 5 3)
  let ch ← Cache.ofCode (r.md.extractLsb' 3 2)
  return { hd := r.hd, cls := r.cls, op := o, ty := ty, sc := sc, cache := ch,
           sp := Space.ofCode (r.md.extractLsb' 2 1), d := d, a := a, b := b, c := c, off := r.off,
           g := r.immy.extractLsb' 0 8 }

def FRed.enc (op : Byte) (x : FRed) : Raw :=
  { Raw.base op x.hd x.cls (atomLen x.hd x.sc x.off) with
      a := x.a.code, b := x.b.code, sop := x.op.code,
      ty := x.ty.code, md := modBits x.sc.code x.cache.code x.sp.code 0#2, imm := offImm x.off,
      immy := x.g.zeroExtend 32 }
def FRed.parse (r : Raw) : Option FRed := do
  let a ← Reg.vk r.cls r.a
  let b ← if r.cls = .vec then some (Reg.vOf r.b) else Reg.ofCode r.b
  let o ← AOp.ofCode r.sop
  let ty ← DTy.ofCode r.ty
  let sc ← Scope.ofCode (r.md.extractLsb' 5 3)
  let ch ← Cache.ofCode (r.md.extractLsb' 3 2)
  return { hd := r.hd, cls := r.cls, op := o, ty := ty, sc := sc, cache := ch,
           sp := Space.ofCode (r.md.extractLsb' 2 1), a := a, b := b, off := r.off, g := r.immy.extractLsb' 0 8 }

def FQld.enc (op : Byte) (x : FQld) : Raw :=
  { Raw.base op x.hd .scl (x.hd.lenOff x.off) with
      d := x.q.code, a := x.a.code, b := x.b.code, c := x.c, ty := x.ty.code,
      md := modBits 7#3 x.cache.code x.sp.code 0#2, imm := offImm x.off }
def FQld.parse (r : Raw) : Option FQld := do
  let q ← Reg.ofCode r.d
  let a ← Reg.ofCode r.a
  let b ← Reg.ofCode r.b
  let ty ← DTy.ofCode r.ty
  let ch ← Cache.ofCode (r.md.extractLsb' 3 2)
  return { hd := r.hd, ty := ty, cache := ch, sp := Space.ofCode (r.md.extractLsb' 2 1), q := q, b := b, a := a, c := r.c, off := r.off }

def FCpy.enc (op : Byte) (sop : BitVec 4) (x : FCpy) : Raw :=
  { Raw.base op x.hd .scl (x.hd.lenSrc x.len) with
      a := x.a.code, b := x.b.code, c := x.len.field, sop := sop,
      md := modBits 7#3 x.cache.code 0#1 0#2, imm := x.len.imm32 }
def FCpy.parse (r : Raw) : Option FCpy := do
  let a ← Reg.ofCode r.a
  let b ← Reg.ofCode r.b
  let n ← r.srcOf r.c
  let ch ← Cache.ofCode (r.md.extractLsb' 3 2)
  return { hd := r.hd, cache := ch, a := a, b := b, len := n }

def FCm.enc (op : Byte) (x : FCm) : Raw :=
  { Raw.base op x.hd x.cls (x.hd.lenOff x.off) with
      a := x.a.code, md := modBits x.sc.code 0#2 x.sp.code 0#2,
      imm := offImm x.off }
def FCm.parse (r : Raw) : Option FCm := do
  let a ← Reg.vk r.cls r.a
  let sc ← Scope.ofCode (r.md.extractLsb' 5 3)
  return { hd := r.hd, cls := r.cls, sc := sc, sp := Space.ofCode (r.md.extractLsb' 2 1), a := a, off := r.off }

def FClv.enc (op : Byte) (x : FClv) : Raw :=
  { Raw.base op x.hd x.cls (x.hd.lenOff x.off) with
      a := x.a.code, md := modBits 7#3 0#2 x.sp.code 0#2,
      imm := offImm x.off }
def FClv.parse (r : Raw) : Option FClv := do
  let a ← Reg.vk r.cls r.a
  return { hd := r.hd, cls := r.cls, sp := Space.ofCode (r.md.extractLsb' 2 1), a := a, off := r.off }

def FPfmap.enc (op : Byte) (x : FPfmap) : Raw :=
  { Raw.base op x.hd x.cls (x.hd.lenOff x.off) with
      d := x.d.code, a := x.a.code, md := modBits 7#3 0#2 x.sp.code 0#2,
      imm := offImm x.off }
def FPfmap.parse (r : Raw) : Option FPfmap := do
  let d ← Reg.vk r.cls r.d
  let a ← Reg.vk r.cls r.a
  return { hd := r.hd, cls := r.cls, sp := Space.ofCode (r.md.extractLsb' 2 1), d := d, a := a, off := r.off }

def FBarinit.enc (op : Byte) (x : FBarinit) : Raw :=
  { Raw.base op x.hd .scl (x.hd.lenSrc x.src) with b := x.src.field, c := x.n, imm := x.src.imm32 }
def FBarinit.parse (r : Raw) : Option FBarinit := do
  let s ← r.srcOf r.b
  return { hd := r.hd, n := r.c, src := s }

def FBararv.enc (op : Byte) (x : FBararv) : Raw :=
  { Raw.base op x.hd .scl .l64 with
      c := x.n,
      d := match x.d with
        | none => 0#8
        | some d => d.code
      sop := 0#2 ++ BitVec.ofBool x.d.isSome ++ BitVec.ofBool x.tile }
def FBararv.parse (r : Raw) : Option FBararv := do
  let d ← if r.sop.getLsbD 1 then (Reg.ofCode r.d).map some else some none
  return { hd := r.hd, tile := r.sop.getLsbD 0, d := d, n := r.c }

def FBarwait.enc (op : Byte) (x : FBarwait) : Raw :=
  { Raw.base op x.hd .scl (x.hd.lenSrc x.src) with d := x.d.code, b := x.src.field, c := x.n, imm := x.src.imm32 }
def FBarwait.parse (r : Raw) : Option FBarwait := do
  let d ← Reg.ofCode r.d
  let s ← r.srcOf r.b
  return { hd := r.hd, d := d, n := r.c, src := s }

def FBarrmt.enc (op : Byte) (x : FBarrmt) : Raw :=
  { Raw.base op x.hd .scl x.hd.len6 with d := x.d.code, a := x.a.code, c := x.n, imm := x.g.zeroExtend 32 }
def FBarrmt.parse (r : Raw) : Option FBarrmt := do
  let d ← Reg.ofCode r.d
  let a ← Reg.ofCode r.a
  return { hd := r.hd, d := d, a := a, n := r.c, g := r.imm.extractLsb' 0 8 }

def FBarinv.enc (op : Byte) (x : FBarinv) : Raw :=
  { Raw.base op x.hd .scl .l64 with c := x.n }
def FBarinv.parse (r : Raw) : Option FBarinv := do
  return { hd := r.hd, n := r.c }

def FAB.enc (op : Byte) (x : FAB) : Raw :=
  { Raw.base op x.hd .scl .l64 with a := x.a.code, b := x.b.code }
def FAB.parse (r : Raw) : Option FAB := do
  let a ← Reg.ofCode r.a
  let b ← Reg.ofCode r.b
  return { hd := r.hd, a := a, b := b }

def FTlwait.enc (op : Byte) (x : FTlwait) : Raw :=
  { Raw.base op x.hd .scl (x.hd.lenSrc x.src) with a := x.a.code, b := x.src.field, imm := x.src.imm32 }
def FTlwait.parse (r : Raw) : Option FTlwait := do
  let a ← Reg.ofCode r.a
  let s ← r.srcOf r.b
  return { hd := r.hd, a := a, src := s }

/-- The word of a TMMA, whose ssel field is read whatever SSV is (11 R265; log 83). -/
def FTmma.enc (op : Byte) (x : FTmma) : Raw :=
  { Raw.base op x.hd .acc x.hd.len6 with
      d := x.d.code, a := x.a.code, b := x.b.code, c := x.c.code,
      sop := if x.plane1 then 1#4 else 0#4,
      imm := 0#15 ++ BitVec.ofBool x.ssv ++ x.ssel ++ 0#3 ++ BitVec.ofNat 5 x.t.val }
def FTmma.parse (r : Raw) : Option FTmma := do
  let d ← Reg.ofCode r.d
  let a ← Reg.ofCode r.a
  let b ← Reg.ofCode r.b
  return { hd := r.hd, plane1 := r.sop = 1#4, d := d, a := a, b := b, c := Reg.vOf r.c, t := Fin.ofNat 32 (r.imm.extractLsb' 0 5).toNat,
           ssv := r.imm.getLsbD 16, ssel := r.imm.extractLsb' 8 8 }

def FResalloc.enc (op : Byte) (x : FResalloc) : Raw :=
  { Raw.base op x.hd .scl (x.hd.lenSrc x.src) with d := x.d.code, a := x.a.code, b := x.src.field, imm := x.src.imm32 }
def FResalloc.parse (r : Raw) : Option FResalloc := do
  let d ← Reg.ofCode r.d
  let a ← Reg.ofCode r.a
  let s ← r.srcOf r.b
  return { hd := r.hd, d := d, a := a, src := s }

def FResload.enc (op : Byte) (x : FResload) : Raw :=
  { Raw.base op x.hd .scl .l64 with d := x.d.code, a := x.a.code, b := x.b.code, c := x.c.code, ty := x.ty.code }
def FResload.parse (r : Raw) : Option FResload := do
  let d ← Reg.ofCode r.d
  let a ← Reg.ofCode r.a
  let b ← Reg.ofCode r.b
  let c ← Reg.ofCode r.c
  let ty ← BfpTy.ofCode r.ty
  return { hd := r.hd, ty := ty, d := d, a := a, b := b, c := c }

def FKv.enc (op : Byte) (x : FKv) : Raw :=
  { Raw.base op x.hd .vec .l64 with
      d := x.d.code, a := x.a.code, b := x.b.code, c := x.c.code, ty := x.ty.code,
      md := x.wid.code.zeroExtend 8 }
def FKv.parse (vd : Bool) (r : Raw) : Option FKv := do
  let d ← if vd then some (Reg.vOf r.d) else Reg.ofCode r.d
  let a ← Reg.ofCode r.a
  let b ← Reg.ofCode r.b
  let ty ← DTy.ofCode r.ty
  let w ← Wid.ofCode (r.md.extractLsb' 0 2)
  return { hd := r.hd, ty := ty, wid := w, d := d, a := a, b := b, c := Reg.vOf r.c }

def FKv4.enc (op : Byte) (x : FKv4) : Raw :=
  { Raw.base op x.hd .scl x.hd.len6 with d := x.d.code, a := x.a.code, b := x.b.code, c := x.c.code, imm := x.im }
def FKv4.parse (r : Raw) : Option FKv4 := do
  let d ← Reg.ofCode r.d
  let a ← Reg.ofCode r.a
  let b ← Reg.ofCode r.b
  let c ← Reg.ofCode r.c
  return { hd := r.hd, d := d, a := a, b := b, c := c, im := r.imm }

def FKvrel.enc (op : Byte) (x : FKvrel) : Raw :=
  { Raw.base op x.hd .scl x.hd.len6 with d := x.d.code, a := x.a.code, b := x.b.code, imm := x.j }
def FKvrel.parse (r : Raw) : Option FKvrel := do
  let d ← Reg.ofCode r.d
  let a ← Reg.ofCode r.a
  let b ← Reg.ofCode r.b
  return { hd := r.hd, d := d, a := a, b := b, j := r.imm }

/-! ### All instructions -/

/-- The words of an instruction; events have none. An `ILL` is stored as its bits, so it has no `Raw` of its
own here: see `encodeBits`. -/
def encode : Instr → Option Raw
  | .nop x => some (x.enc 0x01#8)
  | .bra x => some (x.enc 0x02#8)
  | .brx x => some (x.enc 0x03#8)
  | .brc x => some (x.enc 0x04#8)
  | .join => some (Raw.base 0x05#8 { pg := 7, pn := false, wide := false } .scl .l64)
  | .call x => some (x.enc 0x06#8)
  | .ret x => some (x.enc 0x07#8)
  | .exit x => some (x.enc 0x08#8)
  | .yield x => some (x.enc 0x09#8)
  | .sleep x => some (x.enc 0x0A#8)
  | .bkpt x => some (x.enc 0x0B#8)
  | .trap x => some (x.enc 0x0C#8)
  | .tret x => some (x.enc 0x0D#8)
  | .tretSkip x => some { FHd.enc 0x0D#8 x with sop := 1#4 }
  | .execrd x => some (x.enc 0x0E#8 .scl)
  | .execwr x => some (x.enc 0x0F#8)
  | .sread x => some (x.enc 0x10#8)
  | .swrite x => some (x.enc 0x11#8)
  | .setfmt x => some (x.enc 0x12#8)
  | .wait x => some (x.enc 0x13#8)
  | .fenceAcq x => some (x.enc 0x14#8 0#4)
  | .fenceRel x => some (x.enc 0x14#8 1#4)
  | .fenceAr x => some (x.enc 0x14#8 2#4)
  | .fenceSc x => some (x.enc 0x14#8 3#4)
  | .step x => some (x.enc 0x15#8)
  | .abortg x => some (x.enc 0x16#8)
  | .launch x => some (x.enc 0x17#8)
  | .emit x => some (x.enc 0x18#8)
  | .vote x => some (x.enc 0x19#8)
  | .plop x => some (x.enc 0x1A#8)
  | .shfl x => some (x.enc 0x1B#8)
  | .wred x => some (x.enc 0x1C#8)
  | .wscan x => some (x.enc 0x1D#8)
  | .iadd x => some (x.enc 0x20#8)
  | .isub x => some (x.enc 0x21#8)
  | .imul x => some (x.enc 0x22#8)
  | .imulhi x => some (x.enc 0x23#8)
  | .imad x => some (x.enc 0x24#8)
  | .imin x => some (x.enc 0x25#8)
  | .imax x => some (x.enc 0x26#8)
  | .iabs x => some (x.enc 0x27#8)
  | .icmp x => some (x.enc 0x28#8)
  | .idot4 x => some (x.enc 0x29#8)
  | .lea x => some (x.enc 0x2A#8)
  | .sel x => some (x.enc 0x2B#8)
  | .mov x => some (x.enc 0x2C#8)
  | .movi x => some (x.enc 0x2D#8)
  | .and x => some (x.enc 0x30#8)
  | .or x => some (x.enc 0x31#8)
  | .xor x => some (x.enc 0x32#8)
  | .not x => some (x.enc 0x33#8)
  | .shl x => some (x.enc 0x34#8)
  | .shr x => some (x.enc 0x35#8)
  | .sra x => some (x.enc 0x36#8)
  | .bfe x => some (x.enc 0x37#8)
  | .bfi x => some (x.enc 0x38#8)
  | .clz x => some (x.enc 0x39#8)
  | .popc x => some (x.enc 0x3A#8)
  | .brev x => some (x.enc 0x3B#8)
  | .fadd x => some (x.enc 0x40#8)
  | .fmul x => some (x.enc 0x41#8)
  | .ffma x => some (x.enc 0x42#8)
  | .fmin x => some (x.enc 0x43#8)
  | .fmax x => some (x.enc 0x44#8)
  | .fcmp x => some (x.enc 0x45#8)
  | .frnd x => some (x.enc 0x46#8)
  | .cvt x => some (x.enc 0x47#8)
  | .frcp x => some (x.enc 0x48#8)
  | .frsq x => some (x.enc 0x49#8)
  | .fsqrt x => some (x.enc 0x4A#8)
  | .fexp2 x => some (x.enc 0x4B#8)
  | .flog2 x => some (x.enc 0x4C#8)
  | .fsin x => some (x.enc 0x4D#8)
  | .fcos x => some (x.enc 0x4E#8)
  | .ftanh x => some (x.enc 0x4F#8)
  | .bfpack x => some (x.enc 0x50#8)
  | .bfunpack x => some (x.enc 0x51#8)
  | .ld x => some (x.enc 0x60#8)
  | .st x => some (x.enc 0x61#8)
  | .atom x => some (x.enc 0x62#8)
  | .red x => some (x.enc 0x63#8)
  | .qld x => some (x.enc 0x64#8)
  | .qpop x => some (x.enc 0x65#8 .vec 0#4)
  | .cpyLd x => some (x.enc 0x66#8 0#4)
  | .cpySt x => some (x.enc 0x66#8 1#4)
  | .cpyg x => some (x.enc 0x67#8 0#4)
  | .cbclose x => some (x.enc 0x68#8 .scl)
  | .cbwait x => some (x.enc 0x69#8)
  | .cflush x => some (x.enc 0x6A#8)
  | .cinv x => some (x.enc 0x6B#8)
  | .clv x => some (x.enc 0x6C#8)
  | .pfmap x => some (x.enc 0x6D#8)
  | .tlbinvPage x => some (x.enc 0x6E#8)
  | .tlbinvCtx x => some { FHd.enc 0x6E#8 x with sop := 1#4 }
  | .tlbinvRange x => some { FHd.enc 0x6E#8 x with sop := 2#4 }
  | .barinit x => some (x.enc 0x70#8)
  | .bararv x => some (x.enc 0x71#8)
  | .barwait x => some (x.enc 0x72#8)
  | .barrmt x => some (x.enc 0x73#8)
  | .barinv x => some (x.enc 0x74#8)
  | .tlsig x => some (x.enc 0x75#8)
  | .tlwait x => some (x.enc 0x76#8)
  | .tmma x => some (x.enc 0x80#8)
  | .accz x => some (x.enc 0x81#8 .acc)
  | .accmovAccToVec x => some (x.enc 0x82#8 .acc 0#4)
  | .accmovVecToAcc x => some (x.enc 0x82#8 .acc 1#4)
  | .accmovAccToAcc x => some (x.enc 0x82#8 .acc 2#4)
  | .resalloc x => some (x.enc 0x83#8)
  | .resload x => some (x.enc 0x84#8)
  | .respin x => some (x.enc 0x85#8)
  | .resunpin x => some (x.enc 0x86#8)
  | .resq x => some (x.enc 0x87#8 .scl 0#4)
  | .resref x => some (x.enc 0x88#8 .scl 0#4)
  | .resfree x => some (x.enc 0x89#8)
  | .kvld x => some (x.enc 0x90#8)
  | .kvst x => some (x.enc 0x91#8)
  | .kvapp x => some (x.enc 0x92#8)
  | .kvfork x => some (x.enc 0x93#8)
  | .kvrel x => some (x.enc 0x94#8)
  | .kvdem x => some (x.enc 0x95#8)
  | .ill x => Raw.ofBits x.bits
  -- events
  | .packageReset .. | .qtailDoorbell .. | .queueResume .. | .launchCommand .. | .chainEnd .. | .tlSignal ..
  | .tlWaitCommand .. | .resPreload .. | .fenceCommand .. | .barrierCommand .. | .blockPlace .. | .nodeBlockStart ..
  | .nodeTimeout .. | .warpEnd .. | .slottWrite .. | .warpSwap .. | .activeSetRotate .. | .sleepExpiry ..
  | .trapServiceRelease .. | .handlerTimeout .. | .loadReturn .. | .writeBufferDrain .. | .clcDirtyPush .. | .ptsTick ..
  | .leaseRequest .. | .leaseReply .. | .atomicRequest .. | .rd .. | .rfo .. | .upg ..
  | .push .. | .wb .. | .evn .. | .rdnc .. | .wrnc .. | .dirtyNotice ..
  | .snoop .. | .discoveryBroadcast .. | .pageSnoop .. | .snoopAnswer .. | .dataReply .. | .acknowledgement ..
  | .heartbeat .. | .deadDieVerdict .. | .dieReset .. | .dieRejoin .. | .linkSleep .. | .linkWake ..
  | .linkWakeTimeout .. | .linkFailure .. | .hostMemRead .. | .hostMemWrite .. | .hostSnoop .. | .pageRecallTimeout ..
  | .hostCompletionTimeout .. | .hostLinkDown | .expanderLinkDown .. | .expanderTimeout .. | .expstOffClear .. | .retireGo ..
  | .granuleMove .. | .hbmReplay .. | .lltailWrite .. | .eltailWrite .. | .rdmaWrite .. | .rdmaRead ..
  | .rdmaSend .. | .ethernetPortDown .. | .collectiveDescriptor .. | .powerSample .. | .preemptGo .. | .preemptAck ..
  | .restoreGo .. | .restoreStart .. | .abortToken .. | .barrmtRedirect .. | .remoteArrival .. | .residencyLoadComplete ..
  | .residencyLoadFail .. | .lastuseAge | .tmmaRun .. | .tmmaComplete .. | .copySegmentComplete .. | .qldFill ..
  | .kvMoveFlip .. | .kvMoveFail .. | .kvldGatherComplete .. | .heatSweep | .contextVerWrite .. | .lscfgWrite ..
  | .leaseConfigWrite .. | .spdmRequest | .pldmFirmwareUpdate .. | .registerWrite .. | .residencyLoadStop .. | .contextEnable ..
  | .rdmaOperationComplete .. => none

/-- The instruction whose opcode and sub-operation the fields name, with the fields it uses; none for a
sub-operation or a code that does not exist. Which words it accepts is decided by `decodeRaw`. -/
def parse (r : Raw) : Option Instr :=
  match r.op.toNat with
  | 0x01 => (FNop.parse r).map .nop
  | 0x02 => (FBra.parse r).map .bra
  | 0x03 => (FBrx.parse r).map .brx
  | 0x04 => (FBrc.parse r).map .brc
  | 0x05 => some .join
  | 0x06 => (FDSrc.parse r).map .call
  | 0x07 => (FA.parse r).map .ret
  | 0x08 => (FExit.parse r).map .exit
  | 0x09 => (FHd.parse r).map .yield
  | 0x0A => (FSrc.parse r).map .sleep
  | 0x0B => (FHd.parse r).map .bkpt
  | 0x0C => (FTrap.parse r).map .trap
  | 0x0D => if r.sop = 0#4 then (FHd.parse r).map .tret
      else if r.sop = 1#4 then (FHd.parse r).map .tretSkip
      else none
  | 0x0E => (FD.parse r).map .execrd
  | 0x0F => (FSrc.parse r).map .execwr
  | 0x10 => (FSread.parse r).map .sread
  | 0x11 => (FSwrite.parse r).map .swrite
  | 0x12 => (FSrc.parse r).map .setfmt
  | 0x13 => (FWait.parse r).map .wait
  | 0x14 => if r.sop = 0#4 then (FFence.parse r).map .fenceAcq
      else if r.sop = 1#4 then (FFence.parse r).map .fenceRel
      else if r.sop = 2#4 then (FFence.parse r).map .fenceAr
      else if r.sop = 3#4 then (FFence.parse r).map .fenceSc
      else none
  | 0x15 => (FSrc.parse r).map .step
  | 0x16 => (FHd.parse r).map .abortg
  | 0x17 => (FLaunch.parse r).map .launch
  | 0x18 => (FEmit.parse r).map .emit
  | 0x19 => (FVote.parse r).map .vote
  | 0x1A => (FPlop.parse r).map .plop
  | 0x1B => (FShfl.parse r).map .shfl
  | 0x1C => (FWred.parse r).map .wred
  | 0x1D => (FWscan.parse r).map .wscan
  | 0x20 => (FAlu2.parse r).map .iadd
  | 0x21 => (FAlu2.parse r).map .isub
  | 0x22 => (FAlu2.parse r).map .imul
  | 0x23 => (FAlu2.parse r).map .imulhi
  | 0x24 => (FAlu3.parse r).map .imad
  | 0x25 => (FAlu2.parse r).map .imin
  | 0x26 => (FAlu2.parse r).map .imax
  | 0x27 => (FAlu1.parse r).map .iabs
  | 0x28 => (FIcmp.parse r).map .icmp
  | 0x29 => (FIdot.parse r).map .idot4
  | 0x2A => (FLea.parse r).map .lea
  | 0x2B => (FSel.parse r).map .sel
  | 0x2C => (FMov.parse r).map .mov
  | 0x2D => (FMovi.parse r).map .movi
  | 0x30 => (FAlu2.parse r).map .and
  | 0x31 => (FAlu2.parse r).map .or
  | 0x32 => (FAlu2.parse r).map .xor
  | 0x33 => (FAlu1.parse r).map .not
  | 0x34 => (FAlu2.parse r).map .shl
  | 0x35 => (FAlu2.parse r).map .shr
  | 0x36 => (FAlu2.parse r).map .sra
  | 0x37 => (FBfe.parse r).map .bfe
  | 0x38 => (FBfi.parse r).map .bfi
  | 0x39 => (FAlu1.parse r).map .clz
  | 0x3A => (FAlu1.parse r).map .popc
  | 0x3B => (FAlu1.parse r).map .brev
  | 0x40 => (FFp2.parse r).map .fadd
  | 0x41 => (FFp2.parse r).map .fmul
  | 0x42 => (FFp3.parse r).map .ffma
  | 0x43 => (FFpM.parse r).map .fmin
  | 0x44 => (FFpM.parse r).map .fmax
  | 0x45 => (FFcmp.parse r).map .fcmp
  | 0x46 => (FFp1.parse r).map .frnd
  | 0x47 => (FCvt.parse r).map .cvt
  | 0x48 => (FFp1.parse r).map .frcp
  | 0x49 => (FFp1.parse r).map .frsq
  | 0x4A => (FFp1.parse r).map .fsqrt
  | 0x4B => (FFp1.parse r).map .fexp2
  | 0x4C => (FFp1.parse r).map .flog2
  | 0x4D => (FFp1.parse r).map .fsin
  | 0x4E => (FFp1.parse r).map .fcos
  | 0x4F => (FFp1.parse r).map .ftanh
  | 0x50 => (FBfpack.parse r).map .bfpack
  | 0x51 => (FBfunpack.parse r).map .bfunpack
  | 0x60 => (FLdSt.parse r).map .ld
  | 0x61 => (FLdSt.parse r).map .st
  | 0x62 => (FAtom.parse r).map .atom
  | 0x63 => (FRed.parse r).map .red
  | 0x64 => (FQld.parse r).map .qld
  | 0x65 => (FDA.parse true false r).map .qpop
  | 0x66 => if r.sop = 0#4 then (FCpy.parse r).map .cpyLd
      else if r.sop = 1#4 then (FCpy.parse r).map .cpySt
      else none
  | 0x67 => (FCpy.parse r).map .cpyg
  | 0x68 => (FD.parse r).map .cbclose
  | 0x69 => (FSrc.parse r).map .cbwait
  | 0x6A => (FCm.parse r).map .cflush
  | 0x6B => (FCm.parse r).map .cinv
  | 0x6C => (FClv.parse r).map .clv
  | 0x6D => (FPfmap.parse r).map .pfmap
  | 0x6E => if r.sop = 0#4 then (FA.parse r).map .tlbinvPage
      else if r.sop = 1#4 then (FHd.parse r).map .tlbinvCtx
      else if r.sop = 2#4 then (FHd.parse r).map .tlbinvRange
      else none
  | 0x70 => (FBarinit.parse r).map .barinit
  | 0x71 => (FBararv.parse r).map .bararv
  | 0x72 => (FBarwait.parse r).map .barwait
  | 0x73 => (FBarrmt.parse r).map .barrmt
  | 0x74 => (FBarinv.parse r).map .barinv
  | 0x75 => (FAB.parse r).map .tlsig
  | 0x76 => (FTlwait.parse r).map .tlwait
  | 0x80 => (FTmma.parse r).map .tmma
  | 0x81 => (FD.parse r).map .accz
  | 0x82 => if r.sop = 0#4 then (FDA.parse true false r).map .accmovAccToVec
      else if r.sop = 1#4 then (FDA.parse false true r).map .accmovVecToAcc
      else if r.sop = 2#4 then (FDA.parse false false r).map .accmovAccToAcc
      else none
  | 0x83 => (FResalloc.parse r).map .resalloc
  | 0x84 => (FResload.parse r).map .resload
  | 0x85 => (FA.parse r).map .respin
  | 0x86 => (FA.parse r).map .resunpin
  | 0x87 => (FDA.parse false false r).map .resq
  | 0x88 => (FDA.parse false false r).map .resref
  | 0x89 => (FA.parse r).map .resfree
  | 0x90 => (FKv.parse true r).map .kvld
  | 0x91 => (FKv.parse true r).map .kvst
  | 0x92 => (FKv.parse false r).map .kvapp
  | 0x93 => (FKv4.parse r).map .kvfork
  | 0x94 => (FKvrel.parse r).map .kvrel
  | 0x95 => (FKv4.parse r).map .kvdem
  | _ => none

/-- The opcodes that Table 11-10 assigns. -/
def opAssigned (op : Byte) : Bool :=
  let n := op.toNat
  n ≤ 0x1D || (0x20 ≤ n && n ≤ 0x2D) || (0x30 ≤ n && n ≤ 0x3B) || (0x40 ≤ n && n ≤ 0x51) ||
    (0x60 ≤ n && n ≤ 0x6E) || (0x70 ≤ n && n ≤ 0x76) || (0x80 ≤ n && n ≤ 0x89) || (0x90 ≤ n && n ≤ 0x95)

/-- The lowest ISA level that implements an opcode, 0 when none does (10 R239, 11 R276). -/
def opLevel (op : Byte) : Nat :=
  let n := op.toNat
  if illOp op || !opAssigned op then 0
  else if n = 0x1D || n = 0x29 || n = 0x4F || (0x91 ≤ n && n ≤ 0x95) then 2
  else 1

/-- Steps 5, 6 and 9 of Table 11-9 on a word of a defined length. -/
def decodeRaw (r : Raw) : Except DecodeError Instr :=
  if illOp r.op then .ok (.ill { len := r.len, bits := r.toBits })
  else if !opAssigned r.op then .error .opReserved
  else match parse r with
    | none => .error .fieldReserved
    | some i => if WellFormed i && encode i == some r then .ok i else .error .fieldReserved

/-- The decoder, on the 128 bits that start at the instruction's address; bits above the instruction's
length are ignored. -/
def decode (w : BitVec 128) : Except DecodeError Instr :=
  match Raw.ofBits w with
  | none => .error .lenReserved
  | some r => decodeRaw r

/-- The bits of an instruction from bit 0 of its first word; 0 for an event. -/
def encodeBits (i : Instr) : BitVec 128 :=
  match encode i with
  | none => 0#128
  | some r => r.toBits

/-- The bytes of an instruction's encoding; 0 for an event. -/
def Instr.bytes (i : Instr) : Nat :=
  match encode i with
  | none => 0
  | some r => r.len.bytes

/-- Little-endian bytes as a number (00 R2). -/
def leNat : List Byte → Nat
  | [] => 0
  | b :: t => b.toNat + 256 * leNat t

/-- The n little-endian bytes of a number. -/
def leBytes : Nat → Nat → List Byte
  | 0, _ => []
  | n + 1, w => BitVec.ofNat 8 w :: leBytes n (w / 256)

/-- The instruction the decoder reads from an instruction whose bits are `w`, bit 0 the least significant
bit of the first word, every bit above `nbits` 0: the words are laid out as the hardware stores them and
read back. -/
def decodeTableWord (nbits w : Nat) : Option Instr :=
  match decode (BitVec.ofNat 128 (leNat (leBytes 16 (w % 2 ^ nbits)))) with
  | .ok i => some i
  | .error _ => none

end Sys2Proof
end

