-- ==== Sys2Proof/Machine/Map.lean ====
section
/-! DEFINITION. Sorted sparse maps and the bit helpers of 11 Table 11-15. -/

namespace Sys2Proof.Machine

/-- The first value stored under a key. -/
def mfind {α : Type} : SMap α → Nat → Option α
  | [], _ => none
  | (k', v) :: t, k => if k' = k then some v else mfind t k

/-- Every entry but those of a key. -/
def mdel {α : Type} (m : SMap α) (k : Nat) : SMap α := m.filter (fun e => e.1 != k)

/-- A key placed in order before the first larger key. -/
def minsert {α : Type} : SMap α → Nat → α → SMap α
  | [], k, v => [(k, v)]
  | (k', v') :: t, k, v => if k < k' then (k, v) :: (k', v') :: t else (k', v') :: minsert t k v

/-- The map with one key set. -/
def mset {α : Type} (m : SMap α) (k : Nat) (v : α) : SMap α := minsert (mdel m k) k v

/-- The value under a key, `d` where none is listed. -/
def mget {α : Type} (d : α) (m : SMap α) (k : Nat) : α := (mfind m k).getD d

/-- The map with one key set, an entry equal to the default left out. -/
def mput {α : Type} [DecidableEq α] (d : α) (m : SMap α) (k : Nat) (v : α) : SMap α :=
  if v = d then mdel m k else mset m k v

/-- A map changed at one key by a function of the value there. -/
def mupd {α : Type} (d : α) (m : SMap α) (k : Nat) (f : α → α) : SMap α := mset m k (f (mget d m k))

/-- Keys rise strictly. -/
def msorted {α : Type} : SMap α → Bool
  | [] => true
  | [_] => true
  | a :: b :: t => decide (a.1 < b.1) && msorted (b :: t)

/-- The canonical form of a map with a default: keys rise strictly and no value is the default. -/
def mcanon {α : Type} [DecidableEq α] (d : α) (m : SMap α) : Bool := msorted m && m.all (fun e => e.2 != d)

/-- The lanes of a mask, ascending. -/
def lanesOf (m : Mask) : List Nat := (List.range 32).filter (fun i => m.getLsbD i)

/-- The mask of a list of lanes. -/
def maskOf (l : List Nat) : Mask := l.foldl (fun m i => m ||| (1#32 <<< i)) 0#32

/-- All lanes. -/
def allLanes : Mask := 0xFFFFFFFF#32

/-- Number of set bits. -/
def popcount {n : Nat} (w : BitVec n) : Nat := ((List.range n).filter (fun i => w.getLsbD i)).length

/-- The low n bits of a number, sign-extended (11 Table 11-15). -/
def sextNat (n : Nat) (x : Nat) : Int :=
  let y := x % 2 ^ n
  if 2 * y < 2 ^ n then (y : Int) else (y : Int) - (2 : Int) ^ n

/-- An integer modulo 2^n as a number. -/
def wrapInt (n : Nat) (r : Int) : Nat := (r % ((2 : Int) ^ n)).toNat

/-- A 64-bit word from an integer, modulo 2^64. -/
def w64OfInt (r : Int) : W64 := BitVec.ofNat 64 (wrapInt 64 r)

/-- Replace or add the byte of each pair. -/
def putBytes (m : SMap Byte) (l : List (Nat × Byte)) : SMap Byte := l.foldl (fun m e => mput 0#8 m e.1 e.2) m

/-- n bytes from an address on. -/
def getBytes (m : SMap Byte) (a n : Nat) : List Byte := (List.range n).map (fun i => mget 0#8 m (a + i))

/-- The addresses of a run of bytes beside them. -/
def bytesAt (a : Nat) (l : List Byte) : List (Nat × Byte) := (List.range l.length).map (fun i => (a + i, l.getD i 0#8))

/-- Bits [h:l] of a number (11 Table 11-15). -/
def bits (x h l : Nat) : Nat := (x / 2 ^ l) % 2 ^ (h + 1 - l)

end Sys2Proof.Machine
end

