-- ==== Sys2Proof/Config.lean ====
section
/-! DEFINITION. What the package fixes, and the free values: bytes that the spec leaves undefined
after an operation that completes (assumption log 5). -/

namespace Sys2Proof

/-- The n-th free value: a byte of a failed copy segment or one that two copies write (06 R148), of a failed `EMIT` slot
(19 R365), a field that a record leaves open (log 24), the status of a lost collective (log 22), a choice among the shapes of
a RES_PRELOAD (log 14). It has no body, so no proof can rest on a value. -/
opaque Config.freeByte : Nat → Byte

/-- The node number of the front-end die as a line's home; sites 0 to 7 are the compute dies. -/
def Config.fed : Nat := 8

end Sys2Proof
end

