-- ==== Sys2Proof/Machine/State.lean ====
section
/-! DEFINITION. The state of the package as plain data, the reasons a step can stop, and the state after
reset. A structure's default values are its reset values (INVENTORY.md, ## State). -/

namespace Sys2Proof.Machine

/-! ### Warps -/

/-- A warp by core and warp slot (10 R250). -/
structure WRef where
  core : Nat
  slot : Nat
deriving DecidableEq, Repr

/-- An entry of the reconvergence stack (02 R34). -/
structure StackEnt where
  pc : VAddr
  mask : Mask
  fmt : BitVec 24
deriving DecidableEq, Repr

/-- The trap registers of one handler level (10 Table 10-2). `lanes` holds the lane addresses that a vector
`SREAD` of TADDR gives (06 R161). -/
structure TrapSet where
  cause : BitVec 6 := 0#6
  hlvl : BitVec 2 := 0#2
  icount : BitVec 48 := 0#48
  pc : VAddr := 0#54
  prim : Bool := false
  skid : BitVec 3 := 0#3
  addr : W64 := 0#64
  lanes : SMap W64 := []
  mask : Mask := 0#32
  rmask : Mask := 0#32
  dop0 : W64 := 0#64
  dop1 : W64 := 0#64
  dop2 : W64 := 0#64
  dop3 : W64 := 0#64
deriving DecidableEq, Repr

/-- What entry to a handler saves for the return (10 R245). -/
structure Frame where
  pc : VAddr := 0#54
  exec : Mask := 0#32
  fmt : BitVec 24 := 0#24
  depth : Nat := 0
deriving DecidableEq, Repr

/-- Why a warp is not ready (03 R73). `other` covers the waits at issue that are no swap trigger of R73. -/
inductive WaitR
  | load
  | counter
  | queue
  | tile
  | barrier
  /-- Until the clock, then at the instruction after the `SLEEP`. -/
  | sleep (till : Nat) (next : VAddr)
  | yielded
  | other
  /-- Parked in a T-class trap while Tchidal serves it (10 R238): the cause, `TRAP`'s n, and the instruction after it. -/
  | service (cause n : Nat) (next : VAddr)
  /-- A page of a KV structure that Tchidal maps (20 R387): the address and the mask of the fault otherwise. -/
  | page (addr : Nat) (mask : Mask)
  /-- A page of a node's ring that Tchidal maps (19 R365). -/
  | ring (node : Nat)
  /-- A page of the save area of a `TRET` that restores, which Tchidal maps (10 R444). -/
  | area
  /-- Lanes of the instruction have faulted and others are outstanding: its one trap comes with the last of them (10 R443). -/
  | faults
deriving DecidableEq, Repr

/-- One lane of an access to global memory that is not yet bound: its addresses, width, and the CLASS of its translation. -/
structure LaneAcc where
  lane : Nat
  va : Nat
  pa : Nat
  w : Nat
  cls : Nat := 0
deriving DecidableEq, Repr

/-- What a load's bytes are written to when it binds. -/
inductive Dest
  /-- Vector registers from `d` upward; sign-extend when the element is a narrow signed type. -/
  | vreg (d : Nat) (sext : Bool)
  /-- A scalar register. -/
  | sreg (d : Nat) (sext : Bool)
  /-- A queue entry of the warp in that slot (02 R50). -/
  | queue (slot : Nat) (q : Nat) (sext : Bool)
deriving DecidableEq, Repr

/-- Where an instruction issued: its address, the level and ICOUNT, which a trap that it raises later records (10 R242,
Table 10-2), and the time, from which a completion timeout counts (12 R288). -/
structure IssuePt where
  pc : VAddr := 0#54
  lvl : Nat := 0
  icount : BitVec 48 := 0#48
  time : Nat := 0
deriving DecidableEq, Repr

/-- A lane that faults: its cause, the table level of cause 17, and its address (10 R443). -/
structure LaneFault where
  lane : Nat
  cause : Nat
  lvl : Nat := 0
  addr : Nat
deriving DecidableEq, Repr

/-- A load, `KVLD` or `QLD` whose data is not yet bound (03 Table 3-7). -/
structure LoadOp where
  id : Nat
  dest : Dest
  lanes : List LaneAcc
  cache : Cache := .ca
  /-- A `KVLD` gather: the block and version it resolved (09 R229). -/
  gather : List (Nat × Nat × Nat) := []
  pt : IssuePt := {}
  /-- Faults of lanes that are over, in lane order (10 R443). -/
  fails : List LaneFault := []
deriving DecidableEq, Repr

/-- One request of an atomic (07 R179): the lanes that name one address, with their operands. -/
structure AtomReq where
  id : Nat
  pa : Nat
  va : Nat
  lanes : List (Nat × Nat × Nat)
  cls : Nat := 0
deriving DecidableEq, Repr

/-- An `ATOM` or `RED` whose requests are not all performed (18 R324). -/
structure AtomOp where
  id : Nat
  op : AOp
  ty : DTy
  scope : Scope
  ftz : Bool
  /-- Register that receives the old values; none for `RED`. -/
  dest : Option Dest
  reqs : List AtomReq
  pt : IssuePt := {}
  /-- Faults of lanes that are over, in lane order (10 R443). -/
  fails : List LaneFault := []
deriving DecidableEq, Repr

/-- One 4 KiB segment of a copy (06 R148). Addresses are virtual, or scratchpad offsets. -/
structure Seg where
  id : Nat
  src : Nat
  dst : Nat
  len : Nat
  srcS : Bool
  dstS : Bool
  cls : Nat := 0
  fail : Option Nat := none
  done : Bool := false
  /-- Held from a pre-emption to the restore (10 Table 10-5). -/
  parked : Bool := false
deriving DecidableEq, Repr

/-- A copy in a batch. -/
structure CopyOp where
  id : Nat
  batch : W32
  segs : List Seg
  /-- Issued at level 2 or 3: its pages need no U (06 R154). -/
  sup : Bool := false
  ef : Bool := false
  /-- The time of its issue (12 R288). -/
  time : Nat := 0
deriving DecidableEq, Repr

/-- An entry of an operand queue (02 R50). -/
structure QEnt where
  id : Nat
  filled : Bool
  data : SMap W32
deriving DecidableEq, Repr

/-- A fault that a reissued `TMMA` raises before the restored warp's first instruction (21 R434). -/
structure LateTrap where
  cause : Nat
  addr : W64
  dop0 : W64
  idx : Nat
  /-- The level at which the warp resumes. -/
  lvl : Nat
  /-- The record's index in the frame: the order in which the faults are raised. -/
  ord : Nat := 0
deriving DecidableEq, Repr

/-- A warp that is held at a `TMMA` which the matrix unit has accepted (21 R432): its load runs, with the address of the next
instruction; the load has ended well; or the `TMMA` was withdrawn, with the cause, handle and name of its trap. -/
inductive HeldTmma
  | waits (next : VAddr)
  | goes (next : VAddr)
  | withdrawn (cause handle : Nat) (name : W64)
deriving DecidableEq, Repr

/-- A resident warp (02 R28 to R50, 10 Table 10-2). -/
structure Warp where
  blk : Nat
  id : Nat
  role : Nat
  access : Bool
  vregs : Nat
  sregs : Nat
  nacc : Nat
  pc : VAddr
  exec : Mask := 0xFFFFFFFF#32
  exited : Mask := 0#32
  fmt : BitVec 24 := 0x000400#24
  stack : List StackEnt := []
  /-- v registers: key 32 × register + lane. -/
  v : SMap W32 := []
  s : SMap W64 := []
  p : SMap Mask := []
  k : BitVec 8 := 0#8
  /-- a accumulators: key 1,024 × register + 64 × i + n (05 R115). -/
  acc : SMap W32 := []
  q : SMap (List QEnt) := []
  level : Nat := 0
  t1 : TrapSet := {}
  t2 : TrapSet := {}
  f1 : Frame := {}
  f2 : Frame := {}
  f3 : Frame := {}
  icount : BitVec 48 := 0#48
  stepno : W32 := 0#32
  /-- Lanes of EXEC for which the next instruction executes (10 R246, R443). -/
  rmask : Mask := 0xFFFFFFFF#32
  loads : List LoadOp := []
  atoms : List AtomOp := []
  copies : List CopyOp := []
  batch : W32 := 1#32
  /-- Timeline numbers this warp's submitted engine operations received: (TLID, number) (07 R174 .sc). -/
  tlops : List (Nat × Nat) := []
  wait : Option WaitR := none
  /-- A halt has reached the warp: instructions issued since (10 R242). -/
  skid : Option Nat := none
  stopped : Bool := false
  /-- A stop inside a handler, which records nothing (10 R242). -/
  inHandler : Bool := false
  /-- The clock at which a pre-emption or an abort token found the warp in a handler (10 R249). -/
  handlerSince : Nat := 0
  issued : Option Nat := none
  enter : Nat := 0
  late : List LateTrap := []
  /-- Kept from issuing by a pre-emption's timeout or by the order of a restore (10 R249, Table 10-8). -/
  held : Bool := false
  /-- The warp is held at a `TMMA` (21 R432). -/
  heldAt : Option HeldTmma := none
  /-- The `BARWAIT` at which a `BARINV` woke the warp: it completes with its predicate false (18 R331). -/
  barGone : Option VAddr := none
  /-- After an `ABORTG`, or a service that ended the block: the warp issues nothing below level 3, whatever becomes of a halt, a
  save or a handler (18 R315). -/
  aborting : Bool := false
deriving DecidableEq, Repr

/-! ### Blocks and cores -/

/-- The progress of a pre-emption, restore or abort of a block (10 R250 to R257). -/
inductive Phase
  | run
  | stopping
  | saving
  | restoring
  | aborting
deriving DecidableEq, Repr

/-- What the part keeps of a warp that is swapped out and no frame holds: its copies, the timeline numbers it received,
its ICOUNT, and the lanes of an instruction still to be executed again (log 21). -/
structure Kept where
  copies : List CopyOp := []
  tlops : List (Nat × Nat) := []
  icount : BitVec 48 := 0#48
  rmask : Mask := 0xFFFFFFFF#32
  /-- Faults of reissued `TMMA`s that are still to be raised (21 R434). -/
  late : List LateTrap := []
  /-- Outcomes of `BARRMT`s that came after the frame was written: predicates and their values (log 29). -/
  kds : List (Nat × Bool) := []
  /-- The `BARWAIT` that a `BARINV` ended (18 R331). -/
  barGone : Option VAddr := none
  /-- The primary warp of a halt. -/
  primary : Bool := false
  /-- It issues nothing below level 3 (18 R315). -/
  aborting : Bool := false
deriving DecidableEq, Repr

/-- A resident block (02 R39). -/
structure Block where
  lid : Nat
  bid : W32
  ctx : Nat
  nbv : Nat
  size : Nat
  nbar : Nat
  nshacc : Nat
  /-- Scratchpad bytes; an unlisted byte reads 0 (log 4). -/
  scr : SMap Byte := []
  bacc : SMap W32 := []
  /-- Warp slots in WARPID order. -/
  slots : List Nat := []
  /-- The slot that warp 0 took (10 R250). -/
  bslot : Nat := 0
  /-- The primary warp's slot while the block is halted (10 R242). -/
  halt : Option Nat := none
  /-- The clock of the halt, and its primary warp as it stood before its trap (10 R243). -/
  haltBy : Option (Nat × Warp) := none
  phase : Phase := .run
  abort : Bool := false
  acks : List Engine := []
  save : Nat := 0
  /-- Bytes of the save area that a pre-emption writes. -/
  saveLen : Nat := 0
  /-- By WARPID, for the warps already saved. -/
  keep : SMap Kept := []
deriving DecidableEq, Repr

/-- A `TMMA` that runs (05 R108): its quad, the K-block that comes next, and ACC26 of each element (04 R97). -/
structure TmmaRun where
  quad : Nat
  k : Nat
  acc : List Nat
  /-- The elements that have gone on beyond K-block k, each as often as it has done a further K-block (05 R116). -/
  part : List Nat := []
deriving DecidableEq, Repr

/-- A `TMMA` accepted by the matrix unit with what it captured (21 R432). -/
structure Tmma where
  id : Nat
  slot : Nat
  blk : Nat
  /-- 0 to 3 a0 to a3, 8 to 15 b0 to b7 (10 Table 10-7). -/
  acc : Nat
  base : Nat
  handle : BitVec 16
  tile : Nat
  plane1 : Bool
  fmt : BitVec 24
  scales : List Byte
  nbv : Nat
  /-- The load it waits for began after its acceptance (21 R432). -/
  lateLoad : Bool := false
  /-- Its load failed or was stopped: it completes without changing C. -/
  dead : Bool := false
  /-- The bytes of its A tile when it was accepted, or as the unit has read them since (05 R111). -/
  image : List Byte := []
  /-- The runs that have been read for some element, each as 16 i + k: their bytes stay as they were read (05 R111). -/
  known : List Nat := []
  /-- It has started. -/
  run : Option TmmaRun := none
  /-- Its results are written; it completes next. -/
  ran : Bool := false
  /-- Held behind a loading residency: its warp issues nothing (21 R432). -/
  held : Bool := false
  /-- Put back by a restore (21 R434): the record's index, and the level at which its warp resumes. -/
  again : Option (Nat × Nat) := none
deriving DecidableEq, Repr

/-- A residency-table entry (05 Table 5-6). -/
structure RtEnt where
  name : W64 := 0#64
  gen : BitVec 10 := 0#10
  state : BitVec 3 := 0#3
  pin : Bool := false
  srcv : Bool := false
  failed : Bool := false
  tenant : BitVec 6 := 0#6
  lfmt : BitVec 2 := 0#2
  nquad : BitVec 6 := 0#6
  touched : Bool := false
  qmask : W32 := 0#32
  src : BitVec 54 := 0#54
  lastuse : W32 := 0#32
  length : W32 := 0#32
  /-- The pages of the source, virtual and physical, as the residency engines have recorded them (05 R129). -/
  pages : List (Nat × Nat) := []
deriving DecidableEq, Repr

/-- A residency load in progress: its timeline number, if it has one (05 R122). -/
structure ResLoad where
  idx : Nat
  ctx : Nat
  num : Option Nat
  /-- Other numbers that complete with it (21 R414). -/
  also : List Nat := []
  stopping : Bool := false
  /-- The status word of a RES_PRELOAD command (03 Table 3-2). -/
  status : Option (Nat × Nat) := none
  queue : Option Nat := none
  /-- The time at which it began (09 R235). -/
  time : Nat := 0
  /-- The launch and block that submitted it: it is parked while that block is stopped (10 Table 10-5). -/
  owner : Option (Nat × Nat) := none
  /-- Its instruction issued at level 2 or 3, so that no page of the source needs U (06 R154). -/
  sup : Bool := false
deriving DecidableEq, Repr

/-- A quota entry (05 Table 5-10). -/
structure Quota where
  pre : Bool := false
  used : Nat := 0
  limit : Nat := 0
deriving DecidableEq, Repr

/-- A copy of a line in an L1, a CLC or an RDC: timestamps, the granted lease, the time of its fill or
renewal, its valid bytes and the dirty ones among them. -/
structure Copy where
  wts : Nat := 0
  rts : Nat := 0
  grts : Nat := 0
  /-- The wts of the manager's version that its granted bytes are all of; none where it holds no such line (log 72). -/
  gwts : Option Nat := none
  fill : Nat := 0
  /-- The age in cc at which the lease ends (08 R188, R191). -/
  bound : Nat := 0
  /-- When it was filled, written or last served an L1 (log 8). -/
  used : Nat := 0
  data : SMap Byte := []
  dirty : BitVec 64 := 0#64
  firstDirty : Nat := 0
  ef : Bool := false
  cls : Nat := 0
  chain : Nat := 0
deriving DecidableEq, Repr

/-- A store in a write buffer (07 R168): the warp, its operation, and the bytes by physical address. -/
structure WbEnt where
  slot : Nat
  op : Nat
  ctx : Nat
  cls : Nat
  chain : Nat
  ef : Bool
  bytes : List (Nat × Byte)
  /-- A .wp or .bk atomic's new bytes, which count for no store (07 R168). -/
  atom : Bool := false
deriving DecidableEq, Repr

/-- PRECTL and RSTCTL (10 Table 10-4, R254). -/
structure PreCtl where
  busy : Bool := false
  done : Bool := false
  fail : Bool := false
  save : BitVec 42 := 0#42
  slot : BitVec 7 := 0#7
  /-- The block handle in progress. -/
  blk : Option Nat := none
deriving DecidableEq, Repr

/-- A logical core. -/
structure Core where
  /-- Slot-table entries (03 Table 3-5), and entries written but not in effect until CLOCK is 0 mod 64. -/
  slott : SMap (BitVec 16) := []
  slottNew : SMap (BitVec 16) := []
  slottAt : Nat := 0
  spu : Nat := 4
  spuNew : Option Nat := none
  rt : SMap RtEnt := []
  /-- CIM cells: key 32,768 × quad + 64 × k-row + column (05 R104). -/
  cells : SMap Byte := []
  /-- Scale stores: key 4,096 × quad + byte (05 R121). -/
  scales : SMap Byte := []
  quota : SMap Quota := []
  mu : List Tmma := []
  resl : List ResLoad := []
  pts : Nat := 0
  ptsAt : Nat := 0
  wb : SMap (List WbEnt) := []
  l1 : SMap Copy := []
  /-- Fetched windows (11 R278): key context × 2^54 + window address. -/
  iwin : SMap (BitVec 256) := []
  active : List Nat := []
  ready : List Nat := []
  pre : PreCtl := {}
  rst : PreCtl := {}
  warps : SMap Warp := []
  blocks : SMap Block := []
  /-- The cycle and the slots that issued in it on the two ports and on the AAE (03 R70). -/
  portAt : Nat := 0
  portUse : List Nat := []
  aaeUse : List Nat := []
deriving DecidableEq, Repr

/-! ### Coherence -/

/-- A line at its home L2 or the FED (08 R187): dirty bytes not yet in the memory behind it. -/
structure HomeLine where
  wts : Nat := 0
  rts : Nat := 0
  data : SMap Byte := []
  cls : Nat := 0
  chain : Nat := 0
  ef : Bool := false
  used : Nat := 0
  /-- It takes no way of the cache and goes once the access is served: its class has quota 0 (06 R143), or the FED does not
  cache its region (06 Table 6-5). -/
  pass : Bool := false
deriving DecidableEq, Repr

/-- A directory entry (08 Table 8-4). STATE 0 is no entry. -/
structure DirEnt where
  state : BitVec 2 := 0#2
  owner : BitVec 4 := 0#4
  sharers : BitVec 8 := 0#8
deriving DecidableEq, Repr

/-- A page-tracking entry (08 R197): 1 PN, 2 PS, 3 PE. -/
structure PageEnt where
  state : Nat := 0
  pshr : BitVec 8 := 0#8
  used : Nat := 0
  /-- The time at which a recall of the page was made of the host (08 R200). -/
  recallAt : Option Nat := none
deriving DecidableEq, Repr

/-- Requests a die's RDC sends to a home (08 Table 8-5), and the notices. PUSH, RDNC and WRNC are served whole
(log 7). -/
inductive ReqKind | rd | rfo | upg | wb | evn | dirtyNotice
deriving DecidableEq, Repr

/-- What answers a request or a snoop (08 Tables 8-5 and 8-6). -/
inductive MsgKind
  | req (k : ReqKind)
  /-- A snoop: invalidate, or downgrade to S. -/
  | snoop (inv : Bool)
  | discovery
  /-- A snoop answer: whether the die held the line, in E or M, and its dirty bytes. -/
  | answer (held : Bool) (owner : Bool) (flight : Bool)
  | data (excl : Bool)
  | ack
  /-- A lease reply (08 Table 8-1): wts and rts are in `pts`, the core in `core`. -/
  | lease (renew : Bool)
  | replay (k : ReqKind)
  | accessError
deriving DecidableEq, Repr

/-- A packet in flight (08 R201). `bytes` are (offset, byte) pairs of the line. -/
structure Msg where
  id : Nat
  kind : MsgKind
  src : Nat
  dst : Nat
  line : Nat
  bytes : SMap Byte := []
  inc : Nat := 0
  rinc : Nat := 0
  ph : Nat := 0
  cls : Nat := 0
  chain : Nat := 0
  ef : Bool := false
  /-- The wts and rts of a lease reply. -/
  pts : Nat × Nat := (0, 0)
  core : Nat := 0
  /-- A snoop that has waited for a sleeping link once (08 R205). -/
  retried : Bool := false
  /-- The time and the clock at which it was sent. -/
  time : Nat := 0
  clock : Nat := 0
  /-- The age bound of the lease that a lease reply grants (08 R191). -/
  bound : Nat := 0
deriving DecidableEq, Repr

/-- A request in service at a home, waiting for snoop answers (08 R193). -/
structure Held where
  req : Msg
  waits : List Nat
  /-- The directory entry was rebuilt by a discovery (08 R195). -/
  disc : Bool := false
  answers : List Msg := []
deriving DecidableEq, Repr

/-- A loss-log entry (08 Table 8-10) or stack error record (09 Table 9-8). -/
structure LogEnt where
  lo : W64
  hi : W64 := 0#64
deriving DecidableEq, Repr

/-- A ring of records in configuration space (08 R207, 09 R220). -/
structure LogRing where
  ents : SMap LogEnt := []
  head : Nat := 0
  tail : Nat := 0
  ovf : Bool := false
deriving DecidableEq, Repr

/-- A home: a compute die's, or the FED's (node 8). -/
structure Home where
  dt : Nat := 0
  lines : SMap HomeLine := []
  dir : SMap DirEnt := []
  drop : SMap Nat := []
  pages : SMap PageEnt := []
  held : List Held := []
  loss : LogRing := {}
  /-- PSHR of the pages of host memory, which the FED keeps (08 R200). -/
  hostShr : SMap (BitVec 8) := []
  /-- The lines whose snoop met a link-wake timeout, newest last (08 R205). -/
  wakes : List Nat := []
deriving DecidableEq, Repr

/-- A line of an RDC (08 R192): 1 S, 2 E, 3 M. -/
structure RdcLine where
  st : Nat := 0
  copy : Copy := {}
  used : Nat := 0
  /-- It lies in the L2 array of a die without a stack (06 R141). -/
  ext : Bool := false
deriving DecidableEq, Repr

/-- A die's RDC, its lease and quota registers and its configuration. -/
structure Die where
  rdc : SMap RdcLine := []
  /-- Lines with a request outstanding at their home. -/
  waits : List Nat := []
  ticks : Nat := 64
  tickcc : Nat := 256
  /-- L2CQ quotas by class (06 Table 6-7). -/
  l2cq : SMap Nat := []
  elog : LogRing := {}
  beat : Nat := 0
deriving DecidableEq, Repr

/-! ### Virtual memory -/

/-- A context-table entry (06 Table 6-11). -/
structure Ctx where
  en : Bool := false
  root : Nat := 0
  rtab : Nat := 0
  nrange : Nat := 0
  pfvec : VAddr := 0#54
  pool : Nat := 0
  ver : BitVec 10 := 0#10
  uvec : VAddr := 0#54
  svec : VAddr := 0#54
deriving DecidableEq, Repr

/-- A page-TLB entry (06 R155, R158). -/
structure TlbEnt where
  agent : Nat
  ctx : Nat
  g : Bool
  vpage : Nat
  log2 : Nat
  pbase : Nat
  perm : BitVec 4
  cls : Nat
  rs : Bool
  leaf : Nat
  pte : W64
  reads : Nat := 0
  writes : Nat := 0
deriving DecidableEq, Repr

/-- A range entry loaded into the range TLBs of a context (06 Table 6-12). -/
structure RangeEnt where
  v : Bool
  vbase : Nat
  vlimit : Nat
  pbase : Nat
  perm : BitVec 4
  cls : Nat
  rschk : Bool
deriving DecidableEq, Repr

/-- What a relaxed atomic does to the heat of a leaf: raise RHEAT, raise WHEAT, or halve both (06 R155, R156). -/
inductive HeatOp | read | write | cool
deriving DecidableEq, Repr

/-- Such an atomic that waits until the leaf's line is free: the address of the leaf, and the PFN that was read. -/
structure HeatReq where
  a : Nat
  pfn : Nat
  op : HeatOp
deriving DecidableEq, Repr

/-- Translation state. -/
structure Vm where
  ctx : SMap Ctx := []
  tlb : List TlbEnt := []
  /-- Range TLBs by agent × 64 + context; none loaded until the first use. -/
  rtlb : SMap (List RangeEnt) := []
  heat : List HeatReq := []
  /-- The context in each management core's device-access window (06 R158). -/
  win : SMap Nat := []
deriving DecidableEq, Repr

/-! ### FED -/

/-- A role descriptor (02 Table 2-5). -/
structure RoleD where
  entry : Nat
  access : Bool
  warps : Nat
  vregs : Nat
  sregs : Nat
  nacc : Nat
deriving DecidableEq, Repr

/-- A group-table entry (02 Table 2-6). -/
structure GroupD where
  valid : Bool
  coloc : Bool
  abort : Bool
  base0 : Nat
  count0 : Nat
  stride0 : Nat
  base1 : Nat
  count1 : Nat
  stride1 : Nat
deriving DecidableEq, Repr

/-- A node descriptor as read at acceptance (02 Table 2-7). -/
structure NodeD where
  addr : Nat
  header : Nat
  ring : Nat
  timeout : Nat
  thresh : Nat
  recsz : Nat
  cap : Nat
deriving DecidableEq, Repr

/-- The fields of a launch header (02 Table 2-4). -/
structure Header where
  addr : Nat := 0
  chain : Nat := 0
  norefuse : Bool := false
  affinity : Bool := false
  nshacc : Nat := 0
  nbv : Nat := 0
  nbar : Nat := 0
  scr : Nat := 0
  nblock : Nat := 1
  affBase : W64 := 0#64
  affStride : W64 := 0#64
  affMod : Nat := 0
  affDiv : Nat := 1
  karg : W64 := 0#64
  cmask : BitVec 1024 := 0#1024
  roles : List RoleD := []
  groups : List GroupD := []
  nodes : List NodeD := []
deriving DecidableEq, Repr

/-- Who submitted a launch: a queue's LAUNCH command, a warp's `LAUNCH` (its launch, block and WARPID), or a
successor node of another launch. -/
inductive Issuer
  | queue (q : Nat)
  | warp (lid : Nat) (bid : W32) (warp : Nat)
  | node (parent : Nat) (idx : Nat)
deriving DecidableEq, Repr

/-- An accepted launch. -/
structure Launch where
  ctx : Nat
  hdr : Header
  issuer : Issuer
  status : Nat
  nbvEff : Nat
  cursor : Nat := 0
  next : Nat := 0
  /-- Blocks placed out of order as COLOC members. -/
  early : List Nat := []
  running : Nat := 0
  ended : Nat := 0
  aborted : Bool := false
  /-- The reset of a die has taken one of its blocks: the others are still dealt (03 R66). -/
  lost : Bool := false
  /-- The COLOC groups that could not be resident at once when a launch with NOREFUSE was accepted (02 R55). -/
  loose : List Nat := []
  complete : Bool := false
  /-- The pending records of each node, oldest first: the time of its `EMIT`, and whether its slot was written
  (02 R58, 19 R365). -/
  pending : SMap (List (Nat × Bool)) := []
  /-- TAIL and HEAD of each node. -/
  tails : SMap Nat := []
  heads : SMap Nat := []
  /-- The producing launch and every successor block started by then have ended: the remaining records start blocks (02 R58). -/
  draining : Bool := false
deriving DecidableEq, Repr

/-- A `LAUNCH` instruction not yet accepted (20 R394). -/
structure Submit where
  header : Nat
  status : Nat
  ctx : Nat
  lid : Nat
  bid : W32
  warp : Nat
deriving DecidableEq, Repr

/-- A CP command in progress (03 R61). -/
structure CpCmd where
  num : Nat
  /-- The launch it waits for. -/
  lid : Option Nat := none
  /-- A RES_PRELOAD waiting for its load: core and RT index. -/
  pre : Option (Nat × Nat) := none
deriving DecidableEq, Repr

/-- A command-processor queue (03 Table 3-1). -/
structure Queue where
  base : Nat := 0
  en : Bool := false
  ctx : Nat := 0
  log2n : Nat := 4
  head : BitVec 64 := 0#64
  tail : BitVec 64 := 0#64
  tl : BitVec 64 := 0#64
  stop : Nat := 0
  cmds : List CpCmd := []
deriving DecidableEq, Repr

/-- A timeline (07 R182): numbers issued, and those complete above the counter. -/
structure Timeline where
  issued : Nat := 0
  counter : Nat := 0
  done : List Nat := []
deriving DecidableEq, Repr

/-- A block swapped out (10 R255). -/
structure SavedBlk where
  lid : Nat
  bid : W32
  ctx : Nat
  save : Nat
  restoring : Option Nat := none
  keep : SMap Kept := []
deriving DecidableEq, Repr

/-- A remote arrival in flight or held (18 R332, 10 R255). -/
structure Arrival where
  id : Nat
  /-- The sender: its block and WARPID. -/
  sb : W32
  sw : Nat
  kd : Nat
  lid : Nat
  bid : W32
  n : Nat
  held : Bool := false
deriving DecidableEq, Repr

/-- An abort token on its way to a block (10 R257). -/
structure Token where
  lid : Nat
  bid : W32
deriving DecidableEq, Repr

/-- State of the front-end die. -/
structure Fed where
  queues : SMap Queue := []
  launches : SMap Launch := []
  nextLid : Nat := 0
  nextBlk : Nat := 0
  subs : List Submit := []
  /-- Key 65,536 × context + TLID for KIND 1 to 4. -/
  tls : SMap Timeline := []
  /-- Key 2^40 × launch + 2^32 × group + block: recorded step (10 R256). -/
  steps : SMap W32 := []
  saved : List SavedBlk := []
  arrivals : List Arrival := []
  tokens : List Token := []
  /-- Abort tokens sent to the peer packages of an ABORT group: launch and group (10 R257). -/
  peers : List (Nat × Nat) := []
deriving DecidableEq, Repr

/-! ### Package -/

/-- The fuses of a die (01 R17, R20). -/
structure Fuse where
  level : Nat
  gen : Nat
  step : Nat
  enabled : BitVec 136
  defect : Nat
deriving DecidableEq, Repr

/-- A package link (01 R11, 08 R203, R205). -/
structure Link where
  /-- 2 full width, 1 half width, 0 disabled. -/
  width : Nat
  asleep : Bool := false
  lsleep : Nat := 20
  lastFlit : Nat := 0
deriving DecidableEq, Repr

/-- The tier registers and the view (09 Tables 9-3 and 9-4). -/
structure Tier where
  live : BitVec 8 := 0#8
  nold : Nat := 0
  n : Nat := 0
  map : BitVec 24 := 0#24
  oldmap : BitVec 24 := 0#24
  mphase : W32 := 0#32
  migw : Nat := 0
  retStatus : Nat := 0
  retStack : Nat := 0
  retWin : Nat := 16
  retRate : Nat := 64
  /-- The retired-stack record in SPI flash (09 R212). -/
  retired : BitVec 8 := 0#8
  /-- Granules below MIGW that have moved (09 R216). -/
  moved : List Nat := []
deriving DecidableEq, Repr

/-- EXPST and CXLTO, and the attached sizes (09 Table 9-14, 06 R142). -/
structure Exp where
  off0 : Bool := false
  off1 : Bool := false
  lost0 : Nat := 0
  lost1 : Nat := 0
  ms : Nat := 50
  size0 : Nat := 0
  size1 : Nat := 0
deriving DecidableEq, Repr

/-- PWRCTL (12 Table 12-1) and the throttle count (12 R297). -/
structure Power where
  step : Nat := 0
  maxstep : Nat := 5
  cap : Nat := 2400
  throttle : Nat := 0
  /-- Clock until which no core issues after a step change. -/
  settle : Nat := 0
deriving DecidableEq, Repr

/-- What the part tells platform management: boot failed in both slots (12 R294), no die in service (01 R23), or the
measurement blocks of an SPDM answer with the responder's Ed25519 signature over them (12 R295). -/
inductive Report
  | bootFailed
  | noDie
  | measurements (hash : W64) (minVersion : Nat) (sig : List Byte) (hmap3 hmap4 : Nat) (signature : List Byte)
deriving DecidableEq, Repr

/-- Firmware, attestation and management (12 R294, R295). -/
structure Fw where
  slot0 : Image := {}
  slot1 : Image := {}
  minVersion : Nat := 0
  running : Option Nat := none
  measure1 : W64 := 0#64
  update : Option Image := none
  failed : Bool := false
  reports : List Report := []
deriving DecidableEq, Repr

/-- An operation that a port has issued and that is outstanding: its number, context and queue pair (12 R290). -/
structure PortOp where
  num : Nat
  ctx : Nat
  qp : Nat
deriving DecidableEq, Repr

/-- What a queue pair has received: a SEND's bytes, or the immediate of a WRITE (12 R290). -/
inductive Recv
  | send (qp : Nat) (x : BytesAt)
  | imm (qp : Nat) (v : W32)
deriving DecidableEq, Repr

/-- A network port (12 R290) with its context, its outstanding operations, those that ended with an error, and what it has
received. -/
structure Port where
  up : Bool := true
  ctx : Nat := 0
  ops : List PortOp := []
  errs : List PortOp := []
  recv : List Recv := []
deriving DecidableEq, Repr

/-- A collective descriptor that the engine has completed (12 R291). -/
structure Collective where
  num : Nat
  ctx : Nat
  /-- 0 done, 1 a field out of its range; otherwise a value that the spec leaves open (log 22). -/
  status : Nat
deriving DecidableEq, Repr

/-- A collective descriptor that has its number and waits for a page (12 R291). -/
structure CollWait where
  num : Nat
  desc : FColl
deriving DecidableEq, Repr

/-- Package-wide registers and records. -/
structure Pkg where
  fuses : SMap Fuse := []
  passed : BitVec 8 := 0#8
  online : BitVec 8 := 0#8
  inc : SMap Nat := []
  links : SMap Link := []
  rerouted : Bool := false
  tier : Tier := {}
  exp : Exp := {}
  pwr : Power := {}
  hsweep : Nat := 16000
  fw : Fw := {}
  ports : SMap Port := []
  coll : List Collective := []
  collWait : List CollWait := []
deriving DecidableEq, Repr

/-! ### Key-value engine and control -/

/-- A `KVDEM` move in progress (09 R233). -/
structure KvMove where
  id : Nat
  num : Nat
  site : Nat
  ctx : Nat
  /-- The physical address of the pool descriptor, and the page after it. -/
  pool : Nat
  pool2 : Nat
  blk : Nat
  status : Nat
  /-- The launch and block that submitted it. -/
  owner : Option (Nat × Nat) := none
  /-- Issued at level 2 or 3 (06 R154). -/
  sup : Bool := false
  /-- The time at which it began (09 R235). -/
  time : Nat := 0
  /-- The copy is done and only the status word is not yet written: the word waits for its page (06 R164). -/
  word : Option Nat := none
deriving DecidableEq, Repr

/-- A `KVST` or `KVAPP` that its instruction left outstanding, held until the move of a block that it writes ends (09 R233, 14
R303): the registers and lanes that it captured. -/
structure KvHeld where
  id : Nat
  core : Nat
  slot : Nat
  app : Bool
  form : FKv
  v : SMap W32
  s : SMap W64
  exec : Mask
  act : Mask
  pt : IssuePt
  /-- The address, with the lanes that a fault of it names, of a page that it waits for (06 R164). -/
  page : Option (Nat × Mask) := none
deriving DecidableEq, Repr

/-- A gather in flight: the load, and the (directory entry address, version, storage) it resolved (09 R229). -/
structure KvGather where
  core : Nat
  slot : Nat
  op : Nat
  pool : Nat
  pool2 : Nat
  ent : Nat
  blk : Nat
  ver : Nat
deriving DecidableEq, Repr

/-- Interrupts to Tchidal. -/
inductive Irq
  | queueStop (q : Nat)
  | doubleFault (r : WRef)
  | fatal (lid : Nat) (bid : W32)
  | service (r : WRef) (n : Nat)
  | capacity (r : WRef)
  | saveArea (core : Nat)
  | loss (node : Nat)
  | stackError (s : Nat)
  | expander (n : Nat)
  | hostDown
  | power
  | linkWake (line : Nat)
  | migrationDone
  /-- An uncorrectable error of LPDDR6 (09 R223). -/
  | lpddrError (line : Nat)
  /-- An engine or a warp waits for a page that is not present (06 R164): its context and virtual page. -/
  | pageNeed (ctx va : Nat)
  | statusLost (num : Nat)
deriving DecidableEq, Repr

/-- One move of the schedule (log 1): after `dt` cycles, an issue opportunity of a core's ports or AAE, or an event. -/
inductive Act
  | issue (dt : Nat) (core : Nat) (aae : Bool) (fresh : Bool)
  | event (dt : Nat) (i : Instr)
  /-- The memory controllers will meet an outcome, at an offset, on the first of the KVE's copies and stores that no earlier
  such move speaks of (09 R221). -/
  | kvMeets (off : Nat) (out : SegOutcome)
deriving DecidableEq, Repr

/-- Control of the run: what the spec gives (CLOCK, enumeration done, interrupts) and the model's own
schedule, issuing warp and free-value counter (logs 1 and 5). -/
structure Ctl where
  booted : Bool := false
  clock : Nat := 0
  /-- The time that has passed, in units of 1/37,128,000 µs: every clock step's cycle is a whole number of them (log 19). -/
  time : Nat := 0
  agenda : List Act := []
  /-- What the memory controllers meet on the KVE's next copies and stores for `KVST` or `KVAPP`, one entry an access: an offset and
  the outcome (09 R221, log 75). -/
  kvMet : List (Nat × SegOutcome) := []
  cur : Option WRef := none
  free : Nat := 0
  nextId : Nat := 1
  irqs : List Irq := []
deriving DecidableEq, Repr

/-- The whole package. -/
structure State where
  ctl : Ctl
  mem : List Host.Cell
  pkg : Pkg
  vm : Vm
  fed : Fed
  cores : SMap Core
  clcs : SMap (SMap Copy)
  homes : SMap Home
  dies : SMap Die
  net : List Msg
  moves : List KvMove
  gathers : List KvGather
  kvHeld : List KvHeld
deriving DecidableEq, Repr

/-- Why the machine stops with a fault. No step of this part stops it: every condition of 10 Table 10-1 is
taken as a trap, and every event that is not enabled has no effect. -/
inductive Fault
  /-- Nobody raises it (safe): the machine never stops with a fault. -/
  | never
deriving DecidableEq, Repr

/-- Why a step has no meaning. -/
inductive Refusal
  /-- An instruction that the model does not give a meaning (safe). Raised by an arm of `exec` alone. -/
  | notModelled (mnemonic : String)
deriving DecidableEq, Repr

/-- The enable map of a die with no failed core: R17 fuses off physical cores 107, 111, 115, 119, 123, 127, 131
and 135 (01 R17). -/
def fullHarvest : BitVec 136 :=
  ((List.range 136).filter (fun i => !(107 ≤ i && i % 4 = 3))).foldl (fun m i => m ||| (1#136 <<< i)) 0#136

/-- The fuses of a Deimos die with no failed core (01 R13; log 2). -/
def deimosFuse : Fuse := { level := 2, gen := 2, step := 0, enabled := fullHarvest, defect := 0 }

/-- The fuses of a Phobos die with no failed core (01 R13; log 2). -/
def phobosFuse : Fuse := { level := 1, gen := 1, step := 0, enabled := fullHarvest, defect := 0 }

/-- The parts that the spec describes (01 R12). -/
inductive Product | amh7208 | amh7262 | amh7244
deriving DecidableEq, Repr

/-- The sites of a part that carry a Phobos die (01 R12). -/
def Product.phobos : Product → List Nat
  | .amh7208 => []
  | .amh7262 => [0, 7]
  | .amh7244 => [0, 3, 4, 7]

/-- The fuses of a part's eight dies (01 R12). -/
def Product.fuses (p : Product) : SMap Fuse :=
  (List.range 8).map (fun s => (s, if p.phobos.contains s then phobosFuse else deimosFuse))

/-- A part right after package reset: fuses loaded, every register at its Reset value, no memory byte written; enumeration
(01 R22) is the first step. -/
def State.resetOf (p : Product) : State :=
  { ctl := {}
    mem := []
    pkg := { fuses := p.fuses
             inc := (List.range 8).map (fun s => (s, 1))
             links := (List.range 18).map (fun i => (i, { width := 2 })) }
    vm := {}
    fed := {}
    cores := []
    clcs := []
    homes := []
    dies := []
    net := []
    moves := []
    gathers := []
    kvHeld := [] }

/-- The machine right after package reset: an AMH-7208 (log 2). -/
def State.reset : State := State.resetOf .amh7208

end Sys2Proof.Machine
end

