-- ==== Sys2Proof/Machine/Ops.lean ====
section
/-! DEFINITION. The named operations over registers, warps and blocks; taking a trap, the return from one,
the halt of a block and the fatal fault (chapter 10). -/

namespace Sys2Proof.Machine

/-! ### Access to the parts of the state -/

def State.core (s : State) (l : Nat) : Core := mget {} s.cores l
def State.setCore (s : State) (l : Nat) (c : Core) : State := { s with cores := mset s.cores l c }
def State.updCore (s : State) (l : Nat) (f : Core → Core) : State := s.setCore l (f (s.core l))
def State.warp? (s : State) (r : WRef) : Option Warp := mfind (s.core r.core).warps r.slot
def State.setWarp (s : State) (r : WRef) (w : Warp) : State :=
  s.updCore r.core (fun c => { c with warps := mset c.warps r.slot w })
def State.updWarp (s : State) (r : WRef) (f : Warp → Warp) : State :=
  match s.warp? r with
  | none => s
  | some w => s.setWarp r (f w)
def State.block? (s : State) (l h : Nat) : Option Block := mfind (s.core l).blocks h
def State.setBlock (s : State) (l h : Nat) (b : Block) : State :=
  s.updCore l (fun c => { c with blocks := mset c.blocks h b })
def State.updBlock (s : State) (l h : Nat) (f : Block → Block) : State :=
  match s.block? l h with
  | none => s
  | some b => s.setBlock l h (f b)
def State.home (s : State) (n : Nat) : Home := mget {} s.homes n
def State.updHome (s : State) (n : Nat) (f : Home → Home) : State := { s with homes := mupd {} s.homes n f }
def State.die (s : State) (n : Nat) : Die := mget {} s.dies n
def State.updDie (s : State) (n : Nat) (f : Die → Die) : State := { s with dies := mupd {} s.dies n f }
def State.ctxEnt (s : State) (c : Nat) : Ctx := mget {} s.vm.ctx c
def State.launch? (s : State) (l : Nat) : Option Launch := mfind s.fed.launches l
def State.updFed (s : State) (f : Fed → Fed) : State := { s with fed := f s.fed }
def State.updPkg (s : State) (f : Pkg → Pkg) : State := { s with pkg := f s.pkg }
def State.updCtl (s : State) (f : Ctl → Ctl) : State := { s with ctl := f s.ctl }
def State.updTier (s : State) (f : Tier → Tier) : State := s.updPkg (fun p => { p with tier := f p.tier })
def State.setLaunch (s : State) (l : Nat) (x : Launch) : State :=
  s.updFed (fun f => { f with launches := mset f.launches l x })
def State.updLaunch (s : State) (l : Nat) (g : Launch → Launch) : State :=
  match s.launch? l with
  | none => s
  | some x => s.setLaunch l (g x)
def State.queue (s : State) (q : Nat) : Queue := mget {} s.fed.queues q
def State.updQueue (s : State) (q : Nat) (g : Queue → Queue) : State :=
  s.updFed (fun f => { f with queues := mupd {} f.queues q g })
def State.raise (s : State) (i : Irq) : State := s.updCtl (fun c => { c with irqs := c.irqs ++ [i] })
/-- A fresh number for an operation or a message. -/
def State.freshId (s : State) : Nat × State := (s.ctl.nextId, s.updCtl (fun c => { c with nextId := c.nextId + 1 }))
/-- The next free byte (log 5). -/
def State.freeByte (s : State) : Byte × State :=
  (Config.freeByte s.ctl.free, s.updCtl (fun c => { c with free := c.free + 1 }))

/-- The KV writes of a warp that a move holds. -/
def State.heldOf (s : State) (r : WRef) : List KvHeld := s.kvHeld.filter (fun k => k.core = r.core && k.slot = r.slot)

/-! ### Registers -/

/-- v[r] of a lane. -/
def Warp.getV (w : Warp) (r lane : Nat) : W32 := mget 0#32 w.v (32 * r + lane)
def Warp.putV (w : Warp) (r lane : Nat) (x : W32) : Warp := { w with v := mput 0#32 w.v (32 * r + lane) x }
def Warp.getS (w : Warp) (r : Nat) : W64 := mget 0#64 w.s r
def Warp.putS (w : Warp) (r : Nat) (x : W64) : Warp := { w with s := mput 0#64 w.s r x }
/-- A lane predicate; p7 is always true (11 R266). -/
def Warp.getP (w : Warp) (r : Nat) : Mask := if r = 7 then allLanes else mget 0#32 w.p r
/-- A write of p7 writes nothing. -/
def Warp.putP (w : Warp) (r : Nat) (x : Mask) : Warp := if r = 7 then w else { w with p := mput 0#32 w.p r x }
/-- A scalar predicate; k7 is always true (11 R266). -/
def Warp.getK (w : Warp) (r : Nat) : Bool := r = 7 || w.k.getLsbD r
/-- A write of k7 writes nothing. -/
def Warp.putK (w : Warp) (r : Nat) (x : Bool) : Warp :=
  if r = 7 then w else { w with k := if x then w.k ||| (1#8 <<< r) else w.k &&& ~~~(1#8 <<< r) }
/-- The 64-bit pair at an even v register: the low word in it (04 R82). -/
def Warp.getVV (w : Warp) (r lane : Nat) : W64 := w.getV (r + 1) lane ++ w.getV r lane
def Warp.putVV (w : Warp) (r lane : Nat) (x : W64) : Warp :=
  (w.putV r lane (x.extractLsb' 0 32)).putV (r + 1) lane (x.extractLsb' 32 32)

/-- Element n of accumulator index i: 0 to 3 the warp's a0 to a3, 8 to 15 the block's b0 to b7. -/
def accGet (w : Warp) (b : Block) (i n : Nat) : W32 :=
  if i < 8 then mget 0#32 w.acc (1024 * i + n) else mget 0#32 b.bacc (1024 * (i - 8) + n)
def accPut (w : Warp) (b : Block) (i n : Nat) (x : W32) : Warp × Block :=
  if i < 8 then ({ w with acc := mput 0#32 w.acc (1024 * i + n) x }, b)
  else (w, { b with bacc := mput 0#32 b.bacc (1024 * (i - 8) + n) x })

/-- The FMT fields (04 Table 4-10). -/
def fmtAfmt (f : BitVec 24) : Nat := (f.extractLsb' 0 3).toNat
def fmtBfmt (f : BitVec 24) : Nat := (f.extractLsb' 3 3).toNat
def fmtProm (f : BitVec 24) : Nat := let p := (f.extractLsb' 6 6).toNat; if p = 0 then 64 else p
def fmtFtz (f : BitVec 24) : Bool := f.getLsbD 13
def fmtRnd (f : BitVec 24) : Rnd :=
  let c := (f.extractLsb' 14 2).toNat
  if c = 0 then .rn else if c = 1 then .rz else if c = 2 then .ru else .rd
def fmtSsel (f : BitVec 24) : Byte := f.extractLsb' 16 8

/-- FMT without its Reserved bit 12, which ignores writes and reads 0 (00 R7, 04 Table 4-10). -/
def fmtBits (f : BitVec 24) : BitVec 24 := f &&& 0xFFEFFF#24

/-- A value written to FMT: reserved bits are ignored; none for a reserved AFMT or BFMT (04 R102). -/
def fmtOf (x : W64) : Option (BitVec 24) :=
  let f := fmtBits (x.extractLsb' 0 24)
  if fmtAfmt f > 3 || fmtBfmt f > 2 then none else some f

/-- A write of EXEC (02 R29). -/
def Warp.setExec (w : Warp) (m : Mask) : Warp := { w with exec := m &&& ~~~w.exited }

/-- The PC some bytes on, modulo 2^54. -/
def pcAdd (pc : VAddr) (n : Nat) : VAddr := pc + BitVec.ofNat 54 n
/-- The PC plus a signed 32-bit offset (18 R342). -/
def pcOff (pc : VAddr) (off : W32) : VAddr := pc + off.signExtend 54

/-! ### Logical numbering (01 R18) -/

/-- The sites that passed enumeration, ascending. -/
def State.passedSites (s : State) : List Nat := (List.range 8).filter (fun i => s.pkg.passed.getLsbD i)
/-- The fuses of a site. -/
def State.fuse (s : State) (site : Nat) : Fuse := mget deimosFuse s.pkg.fuses site
/-- The enabled physical cores of a die, ascending. -/
def Fuse.cores (f : Fuse) : List Nat := (List.range 136).filter (fun i => f.enabled.getLsbD i)
/-- Site and physical core of a logical core; none where the LPT entry is not VALID. -/
def State.lpt (s : State) (l : Nat) : Option (Nat × Nat) :=
  match s.passedSites[l / 128]? with
  | none => none
  | some site => ((s.fuse site).cores[l % 128]?).map (fun p => (site, p))
def State.siteOf (s : State) (l : Nat) : Nat := ((s.lpt l).map (·.1)).getD 0
def State.physOf (s : State) (l : Nat) : Nat := ((s.lpt l).map (·.2)).getD 0
/-- An entry of the LPT, as a management core or the host reads it in FED configuration space, and a tenant in its read-only
copy (01 R21, Table 1-8): VALID, SITE and PHYS. -/
def State.lptEntry (s : State) (l : Nat) : BitVec 16 :=
  match s.lpt l with
  | none => 0#16
  | some x => BitVec.ofNat 16 (2 ^ 15 + x.1 % 8 * 2 ^ 8 + x.2 % 2 ^ 8)
/-- The cluster of a logical core, numbered over the package: 34 × site + cluster (01 R16). -/
def State.clusterOf (s : State) (l : Nat) : Nat := 34 * s.siteOf l + s.physOf l / 4
def State.isaLevel (s : State) (l : Nat) : Nat := (s.fuse (s.siteOf l)).level
/-- Tchidal's job services run: enumeration excluded not every die (01 R23). -/
def State.jobs (s : State) : Bool := s.pkg.passed != 0#8
/-- The site is in service. -/
def State.onlineSite (s : State) (n : Nat) : Bool := s.pkg.online.getLsbD n

/-! ### Time (00 R4) -/

/-- Core cycles of a microsecond at clock step k: 1.7 − 0.1k GHz (00 R4, 12 Table 12-1). -/
def ccAtStep (k : Nat) : Nat := 1700 - 100 * min 5 k
/-- Core cycles of a microsecond at the clock step in force. -/
def ccPerUs (s : State) : Nat := ccAtStep s.pkg.pwr.step

/-- Units of `Ctl.time` in a microsecond: a multiple of every step's cycles in one. -/
def usTicks : Nat := 37128000

/-- Time passes: so many cycles at the clock step in force, and the real time that they take. -/
def Ctl.after (c : Ctl) (dt perUs : Nat) : Ctl := { c with clock := c.clock + dt, time := c.time + dt * (usTicks / perUs) }

/-- Cores issue nothing, and no `TMMA` starts, while the clock settles after a step change, and in T of every 16 cycles under
throttling (12 R297). -/
def issueHeld (s : State) : Bool := s.ctl.clock < s.pkg.pwr.settle || s.ctl.clock % 16 < s.pkg.pwr.throttle

/-! ### Traps -/

/-- A trap as its instruction raises it. -/
structure TrapReq where
  cause : Nat
  mask : Mask
  rmask : Mask := 0xFFFFFFFF#32
  addr : W64 := 0#64
  lanes : SMap W64 := []
  dop0 : W64 := 0#64
  dop1 : W64 := 0#64
  dop2 : W64 := 0#64
  dop3 : W64 := 0#64
  /-- Causes 15 and 16 under H delivery (20 R406). -/
  asH : Bool := false
deriving DecidableEq, Repr

/-- Delivery classes (10 R238). -/
inductive TrapClass | w | h | t
deriving DecidableEq, Repr

/-- 10 Table 10-1. -/
def trapClass (t : TrapReq) : TrapClass :=
  if t.cause = 2 then .w
  else if t.cause = 15 || t.cause = 16 then (if t.asH then .h else .w)
  else if t.cause = 23 || t.cause = 26 then .t
  else .h

/-- U-class handlers (10 Table 10-1). -/
def trapUser (c : Nat) : Bool := c = 2 || c = 20 || c = 21 || c = 22 || c = 24 || c = 25

/-- The level a trap taken at level 0 enters and the handler's address (10 R238, R245). -/
def trapVector (c : Ctx) (t : TrapReq) : Nat × VAddr :=
  if trapUser t.cause then (if c.uvec = 0#54 then (2, c.svec) else (1, c.uvec))
  else if (t.cause = 15 || t.cause = 16) && !t.asH then (2, c.pfvec)
  else (2, c.svec)

/-- The trap registers of an entry (10 Table 10-2). -/
def trapSet (w : Warp) (t : TrapReq) (prim : Bool) : TrapSet :=
  { cause := BitVec.ofNat 6 t.cause, hlvl := BitVec.ofNat 2 w.level, icount := w.icount, pc := w.pc, prim := prim,
    skid := 0#3, addr := t.addr, lanes := t.lanes, mask := t.mask, rmask := t.rmask, dop0 := t.dop0,
    dop1 := t.dop1, dop2 := t.dop2, dop3 := t.dop3 }

/-- Entry to a handler at level 1 or 2: the set and the frame are written, EXEC is TDMASK, FMT is 0x400 and the
PC the vector (10 R245). -/
def enterHandler (w : Warp) (lvl : Nat) (vec : VAddr) (t : TrapReq) (prim : Bool) : Warp :=
  let f : Frame := { pc := w.pc, exec := w.exec, fmt := w.fmt, depth := w.stack.length }
  let w1 := if lvl = 1 then { w with t1 := trapSet w t prim, f1 := f } else { w with t2 := trapSet w t prim, f2 := f }
  { w1 with exec := t.mask, fmt := 0x000400#24, pc := vec, level := lvl, rmask := allLanes, wait := none }

/-! ### The active set (03 R73) -/

/-- A place of the active set that no warp holds. -/
def vacant : Nat := 255
/-- The active set has a place for one more warp. -/
def Core.hasPlace (c : Core) : Bool := c.active.contains vacant || c.active.length < 8
/-- A warp leaves the active set: its position is vacant, and every other warp keeps its own. -/
def Core.leave (c : Core) (slot : Nat) : Core := { c with active := c.active.map (fun x => if x = slot then vacant else x) }
/-- A warp takes the lowest vacant position, or one after the last. -/
def Core.takePlace (c : Core) (slot : Nat) : Core :=
  { c with active := if c.active.contains vacant then c.active.replace vacant slot else c.active ++ [slot] }
/-- The clock at which a warp entered the active set. -/
def Core.entered (c : Core) (slot : Nat) : Nat := ((mfind c.warps slot).map (fun (w : Warp) => w.enter)).getD 0
/-- The active warp that entered earliest, handler warps excepted (03 R75, R76). -/
def Core.earliest (c : Core) : Option Nat :=
  (c.active.filter (fun x => match mfind c.warps x with
    | none => false
    | some w => w.level = 0)).foldl (fun (b : Option Nat) x => match b with
      | none => some x
      | some y => if c.entered x < c.entered y then some x else some y) none
/-- A warp can go on at its next issue opportunity: it neither waits nor is stopped. -/
def Core.ableSlot (c : Core) (slot : Nat) : Bool :=
  match mfind c.warps slot with
  | none => false
  | some w => w.wait.isNone && !w.stopped && !w.held && (!w.aborting && w.exited != allLanes || w.level = 3)

/-- A warp that has left the active set joins the tail of the ready queue where it could go on, or ran `YIELD` (03 R74; log 55). -/
def Core.toTail (c : Core) (slot : Nat) : Core :=
  match mfind c.warps slot with
  | none => c
  | some w =>
    if w.wait = some .yielded then
      let c1 := { c with warps := mset c.warps slot { w with wait := none } }
      if c1.ableSlot slot then { c1 with ready := c1.ready ++ [slot] } else c1
    else if c.ableSlot slot then { c with ready := c.ready ++ [slot] } else c

/-- A handler warp is placed in the active set at once, in place of the non-handler warp that entered earliest, which joins
the tail of the ready queue (03 R76; log 55). With handler warps in every place it waits at the head of
that queue (03 R74). ACCESS warps use the AAE. -/
def promote (c : Core) (slot now : Nat) : Core :=
  if slot ≥ 64 || c.active.contains slot then c
  else
    let c1 := { c with ready := c.ready.filter (· != slot) }
    let c2 := { c1 with warps := match mfind c1.warps slot with
        | none => c1.warps
        | some w => mset c1.warps slot { w with enter := now + 2 } }
    if c2.hasPlace then c2.takePlace slot
    else match c2.earliest with
      | none => { c2 with ready := slot :: c2.ready }
      | some out => ({ c2 with active := c2.active.map (fun x => if x = out then slot else x) } : Core).toTail out

/-- The waits that a halt or a pre-emption leaves: the warp has yielded, or waits for the end of its own instruction. -/
def stayWait : Option WaitR → Option WaitR
  | some .yielded => some .yielded
  | some .faults => some .faults
  | _ => none

/-- What a halt does to one other warp of the block (10 R242): a waiting warp stops at once; any other may issue
up to 6 more instructions. A warp parked by a T-class trap stays with Tchidal (log 65). -/
def haltWarp (w : Warp) : Warp :=
  if w.skid.isSome || w.level = 3 then w
  else
    let stopNow := w.wait.isSome || w.aborting
    let w1 : Warp := { w with skid := some 0, stopped := stopNow, inHandler := w.level != 0,
                              wait := match w.wait with
                                | some (.service c n p) => some (.service c n p)
                                | x => stayWait x }
    if w.level = 0 then { w1 with t1 := { w.t1 with pc := w.pc, skid := 0#3, prim := false } } else w1

/-- The halt of a block by its primary warp, which is `w` before its trap. -/
def haltBlock (s : State) (r : WRef) (h : Nat) (w : Warp) : State :=
  match s.block? r.core h with
  | none => s
  | some b =>
    let s1 := s.setBlock r.core h { b with halt := some r.slot, haltBy := some (s.ctl.clock, w) }
    (b.slots.filter (· != r.slot)).foldl (fun s x => s.updWarp { core := r.core, slot := x } haltWarp) s1

/-- A warp joins the ready pending queue: handler warps, and warps whose tenant has none in the active set, at its head
(03 R74). -/
def joinReady (s : State) (r : WRef) : State :=
  if r.slot ≥ 64 then s
  else
    let c := s.core r.core
    if c.active.contains r.slot || c.ready.contains r.slot then s
    else
      let ctxOf := fun x => match mfind c.warps x with
        | none => none
        | some w => (mfind c.blocks w.blk).map (fun (b : Block) => b.ctx)
      let head := match mfind c.warps r.slot with
        | none => false
        | some w => w.level > 0 || !c.active.any (fun x => ctxOf x == ctxOf r.slot)
      s.updCore r.core (fun c => { c with ready := if head then r.slot :: c.ready else c.ready ++ [r.slot] })

/-- A warp that can go on is ready: it joins the queue unless it waits or its lanes have exited. -/
def rejoin (s : State) (r : WRef) : State :=
  match s.warp? r with
  | none => s
  | some w => if w.wait.isSome || w.exited = allLanes then s else joinReady s r

/-- Every halted warp resumes at its own stop point (10 R246), ready again where it had left the active set (03 R74). -/
def resumeBlock (s : State) (core h : Nat) : State :=
  match s.block? core h with
  | none => s
  | some b =>
    let s1 := s.setBlock core h { b with halt := none, haltBy := none }
    b.slots.foldl (fun s x => rejoin (s.updWarp { core := core, slot := x } (fun w =>
      { w with skid := none, stopped := false, inHandler := false })) { core := core, slot := x }) s1

/-- A warp stops before its next instruction (10 R242). -/
def stopWarp (w : Warp) : Warp :=
  let n := w.skid.getD 0
  let w1 := { w with skid := some n, stopped := true, wait := none }
  if w.level = 0 && !w.inHandler then
    { w1 with t1 := { w.t1 with pc := w.pc, skid := BitVec.ofNat 3 n, prim := false } } else w1

/-- An engine access that met this cause waits: a page is not present, and Tchidal has not said that it cannot map it
(06 R164). -/
def pageWait (out : SegOutcome) (c : Nat) : Bool :=
  c = 15 && (match out with
    | .failed _ => false
    | _ => true)

/-! ### Groups, abort and fatal faults -/

/-- A block lies in a range of a group-table entry (02 R53). -/
def inRange (b base count stride : Nat) : Bool :=
  count != 0 && base ≤ b && (if stride = 0 then b = base else (b - base) % stride = 0 && (b - base) / stride < count)

/-- A block is a member of a group-table entry (02 R53). -/
def GroupD.member (g : GroupD) (b : Nat) : Bool :=
  g.valid && (inRange b g.base0 g.count0 g.stride0 || inRange b g.base1 g.count1 g.stride1)

/-- The launch has groups: a node launch has none (02 R56). -/
def Launch.groups (l : Launch) : List GroupD :=
  match l.issuer with
  | .node _ _ => []
  | _ => l.hdr.groups

/-- Blocks that share an ABORT group, the block itself included (10 R257, 18 R316). -/
def Launch.abortsWith (l : Launch) (b b' : Nat) : Bool :=
  b = b' || l.groups.any (fun g => g.abort && g.member b && g.member b')

/-- The blocks of a launch that are resident or swapped out. -/
def presentBlocks (s : State) (lid : Nat) : List W32 :=
  s.cores.flatMap (fun c => c.2.blocks.filterMap (fun b => if b.2.lid = lid then some b.2.bid else none)) ++
  s.fed.saved.filterMap (fun b => if b.lid = lid then some b.bid else none)

/-- An abort token for every present block of a launch that `p` picks. -/
def tokensTo (s : State) (lid : Nat) (p : Nat → Bool) : State :=
  let hit := (presentBlocks s lid).filter (fun x => p x.toNat)
  s.updFed (fun f => { f with tokens := f.tokens ++ (hit.map (fun b => Token.mk lid b)) })

/-- The ABORT groups of a block, by number (02 R53). -/
def Launch.abortsOf (l : Launch) (b : Nat) : List Nat :=
  (List.range l.groups.length).filter (fun g => match l.groups[g]? with
    | none => false
    | some x => x.abort && x.member b)

/-- Every present member of the ABORT groups of a block, and the block itself, gets an abort token; the collective engine
sends one to the peer packages of each of those groups (10 R257). -/
def sendTokens (s : State) (l : Launch) (lid : Nat) (bid : W32) : State :=
  (tokensTo s lid (l.abortsWith bid.toNat)).updFed (fun f =>
    { f with peers := f.peers ++ (l.abortsOf bid.toNat).map (fun g => (lid, g)) })

/-- A mark on a launch. The launch that a successor node belongs to ends with CODE 9 as well, but goes on with its own blocks and
its other nodes (log 56). -/
def markLaunch (s : State) (l : Launch) (lid : Nat) (f : Launch → Launch) : State :=
  let s1 := s.updLaunch lid f
  match l.issuer with
  | .node p _ => s1.updLaunch p (fun x => { x with lost := true })
  | _ => s1

/-- A fatal fault: an abort token for every member of the block's ABORT groups; the launch places no further block (log 56)
and completes with CODE 9 (10 R257, 18 R315). -/
def fatalFault (s : State) (lid : Nat) (bid : W32) : State :=
  match s.launch? lid with
  | none => s
  | some l => (sendTokens (markLaunch s l lid (fun x => { x with aborted := true })) l lid bid).raise (.fatal lid bid)

/-- The reset of a die takes a block: it aborts as a fatal fault does, but its launch's other blocks are dealt among the
cores that are left (03 R66, 08 Table 8-9). -/
def lossFault (s : State) (lid : Nat) (bid : W32) : State :=
  match s.launch? lid with
  | none => s
  | some l => (sendTokens (markLaunch s l lid (fun x => { x with lost := true })) l lid bid).raise (.fatal lid bid)

/-- A trap at level 2 or 3 other than cause 26 (10 R247): every warp of the block stops at once, the level-2 set records cause 35
(its PRIM as it was, and TDMASK EXEC: log 65), Tchidal is interrupted and ends the block as a fatal fault. A block that is already
being aborted ends at once. -/
def doubleFault (s : State) (r : WRef) (w : Warp) (t : TrapReq) : State :=
  let own : W64 := if w.level = 2 then w.t2.pc.zeroExtend 64 else 0#64
  let set : TrapSet := { trapSet w { cause := 35, mask := w.exec, addr := own, dop0 := BitVec.ofNat 64 t.cause,
                                     dop1 := t.addr } true with prim := w.t2.prim }
  let s1 := s.setWarp r { w with t2 := set, stopped := true }
  match s.block? r.core w.blk with
  | none => s1
  | some b =>
    let ends := b.phase == .aborting
    let s2 := b.slots.foldl (fun s x => s.updWarp { core := r.core, slot := x } (fun v =>
      { v with stopped := true, skid := some (v.skid.getD 0), wait := none,
               exited := if ends then allLanes else v.exited, exec := if ends then 0#32 else v.exec })) s1
    fatalFault (s2.raise (.doubleFault r)) b.lid b.bid

/-- The warp as it was before the trap whose halt it gave up: it stops at its trapping instruction (10 R243). -/
def yieldHalt (now before : Warp) : Warp :=
  { now with pc := before.pc, exec := before.exec, fmt := before.fmt, level := before.level, rmask := before.rmask,
             t1 := if before.level = 0 then { before.t1 with pc := before.pc, skid := 0#3, prim := false } else before.t1,
             late := before.late, t2 := before.t2, f1 := before.f1, f2 := before.f2, skid := some 0, stopped := true,
             inHandler := before.level != 0, wait := none }

/-- The halt of this cycle, of a warp with a higher WARPID, that an H-class trap of a warp takes over: its slot, and that warp
before its trap (10 R243). -/
def takesOver (s : State) (r : WRef) (t : TrapReq) : Option (Nat × Warp) :=
  match s.warp? r with
  | none => none
  | some w => match s.block? r.core w.blk with
    | none => none
    | some b => match b.halt, b.haltBy with
      | some p, some (k, v) =>
        if k = s.ctl.clock && w.id < v.id && w.skid = some 0 && !w.stopped && w.level < 2 && trapClass t = .h then some (p, v)
        else none
      | _, _ => none

/-- The parked warp of a T-class trap (10 R238). At level 0 the level-1 set records the trap; in a handler both sets stay, since
they hold the handler's return (log 65). -/
def parkWarp (w : Warp) (t : TrapReq) (n : Nat) (next : VAddr) (now : Nat) : Warp :=
  { w with issued := if t.cause = 26 then some now else w.issued, wait := some (.service t.cause n next), t1 := if w.level = 0 then trapSet w t false else w.t1 }

/-- A trap is entered that no halt stops (chapter 10): a T-class trap parks the warp for Tchidal; a page fault at level 1 enters
PFVEC and any other trap there SVEC, at level 2; at levels 2 and 3 every trap but cause 26 is a double fault; an H-class trap
halts the block. -/
def enterTrap (s : State) (r : WRef) (w : Warp) (t : TrapReq) : State :=
  if t.cause = 26 then
    (s.setWarp r (parkWarp w { t with dop2 := 0#64 } t.dop0.toNat (t.dop2.truncate 54) s.ctl.clock)).raise (.service r t.dop0.toNat)
  else if w.level ≥ 2 then doubleFault s r w t
  else if trapClass t = .t && w.level = 0 then (s.setWarp r (parkWarp w t 0 w.pc s.ctl.clock)).raise (.capacity r)
  else
    match s.block? r.core w.blk with
    | none => s
    | some b =>
      let c := s.ctxEnt b.ctx
      let isH := trapClass t == .h
      let pf := (t.cause = 15 || t.cause = 16) && !t.asH
      let lv := if w.level = 0 then trapVector c t else (2, if pf then c.pfvec else c.svec)
      let prim := isH || b.halt = some r.slot
      let s1 := s.setWarp r (enterHandler w lv.1 lv.2 t prim)
      let s2 := s1.updCore r.core (fun c => promote c r.slot s.ctl.clock)
      if isH && b.halt.isNone then haltBlock s2 r w.blk { w with rmask := t.rmask } else s2

/-- A trap is taken: a warp within a halt's skid stops before the instruction (10 R242), unless its trap takes the halt over
(10 R243). -/
def takeTrap (s : State) (r : WRef) (t : TrapReq) : State :=
  match s.warp? r with
  | none => s
  | some w =>
    match takesOver s r t with
    | some (p, v) =>
      let s1 := (s.updWarp { core := r.core, slot := p } (fun x => yieldHalt x v)).updBlock r.core w.blk (fun b =>
        { b with halt := some r.slot, haltBy := some (s.ctl.clock, { w with skid := none, inHandler := false, rmask := t.rmask }) })
      let w1 : Warp := { w with skid := none, inHandler := false }
      enterTrap (s1.setWarp r w1) r w1 t
    | none => if w.skid.isSome then s.setWarp r (stopWarp w) else enterTrap s r w t

/-- A remote arrival that a warp has sent. -/
def State.sent (s : State) (r : WRef) (w : Warp) (a : Arrival) : Bool :=
  match s.block? r.core w.blk with
  | none => false
  | some b => a.lid = b.lid && a.sb = b.bid && a.sw = w.id

/-- Where the instruction that a warp issues now stands. -/
def issuePt (s : State) (w : Warp) : IssuePt := { pc := w.pc, lvl := w.level, icount := w.icount, time := s.ctl.time }

/-- A level-0 warp that a pre-emption has stopped and that takes a trap of an older access runs its handler, which may last as long
as that of a warp found in one (10 R249, log 79). -/
def unstop (s : State) (r : WRef) : State :=
  match s.warp? r with
  | none => s
  | some w =>
    if w.level = 0 && w.stopped && w.skid.isNone && ((s.block? r.core w.blk).map (fun b => b.phase == .stopping)).getD false then
      s.setWarp r { w with stopped := false, handlerSince := s.ctl.clock }
    else s

/-- An access that its instruction left outstanding fails: the trap is that instruction's, which executes again for the
lanes that failed (10 R242, R443). A warp that has changed its level since goes on where it stands (log 15). -/
def lateTrap (s0 : State) (r : WRef) (o : IssuePt) (t : TrapReq) : State :=
  let s := unstop s0 r
  match s.warp? r with
  | none => s
  | some w =>
    if w.level = o.lvl then takeTrap (s.setWarp r { w with pc := o.pc, icount := o.icount, rmask := t.rmask }) r t
    else takeTrap s r { t with rmask := allLanes }

/-- The return from level 1 or 2 (10 R246): `pc` is where the interrupted code goes on and `rmask` the lanes for
which its first instruction executes. When the primary warp returns to level 0 the halted warps resume. -/
def returnFrom (s : State) (r : WRef) (w : Warp) (pc : VAddr) (rmask : Mask) : State :=
  let f := if w.level = 1 then w.f1 else w.f2
  let t := if w.level = 1 then w.t1 else w.t2
  let lvl := t.hlvl.toNat
  let w1 : Warp := { w with exec := f.exec &&& ~~~w.exited, fmt := f.fmt,
                            stack := w.stack.drop (w.stack.length - f.depth), pc := pc, level := lvl, rmask := rmask }
  let s1 := s.setWarp r w1
  match s.block? r.core w.blk with
  | none => s1
  | some b => if lvl = 0 && b.halt = some r.slot then resumeBlock s1 r.core w.blk else s1

/-- Entry to level 3 with cause 32, 33 or 34 (10 R245, 17 R313): the level-2 set holds the cause, HLVL, TADDR and
TDMASK := NOT EXITED; the other registers of the set read 0. -/
def enterLevel3 (w : Warp) (cause : Nat) (addr : W64) (vec : VAddr) : Warp :=
  { w with t2 := { cause := BitVec.ofNat 6 cause, hlvl := BitVec.ofNat 2 w.level, icount := w.icount, addr := addr,
                   mask := ~~~w.exited, rmask := allLanes }
           f3 := { pc := w.pc, exec := w.exec, fmt := w.fmt, depth := w.stack.length }
           exec := ~~~w.exited, fmt := 0x000400#24, pc := vec, level := 3, rmask := allLanes, wait := none,
           skid := none, stopped := false, inHandler := false, held := false, heldAt := none }

end Sys2Proof.Machine
end

