-- ==== Sys2Proof/Machine/Operands.lean ====
section
/-! DEFINITION. Operands and issue: every operand form, the allotment and file checks (11 R268, step 11 of Table
11-9), the scoreboard (03 R77), the guard (02 R30), and the one operation every OPI instruction issues through. -/

namespace Sys2Proof.Machine

/-! ### Register operands -/

/-- Register files an operand may name. -/
inductive RFile | v | s | p | k | a | b | q
deriving DecidableEq, Repr

def Reg.file : Reg → RFile
  | .v _ => .v
  | .s _ => .s
  | .p _ => .p
  | .k _ => .k
  | .a _ => .a
  | .b _ => .b
  | .q _ => .q

def Reg.idx : Reg → Nat
  | .v n => n.val
  | .s n => n.val
  | .p n => n.val
  | .k n => n.val
  | .a n => n.val
  | .b n => n.val
  | .q n => n.val

/-- An accumulator operand as its code of 10 Table 10-7: 0 to 3 for a, 8 to 15 for b. -/
def Reg.accIdx : Reg → Nat
  | .a n => n.val
  | .b n => 8 + n.val
  | _ => 0

/-- One named operand: the files it admits, how many registers it spans and their alignment, and whether its
allotment is judged at decode. -/
structure Use where
  r : Reg
  files : List RFile
  n : Nat := 1
  al : Nat := 1
  chk : Bool := true
deriving DecidableEq, Repr

/-- The operand is in an admitted file and within the allotment (02 R48, 11 R268). -/
def useOk (w : Warp) (nshacc : Nat) (u : Use) : Bool :=
  u.files.contains (Reg.file u.r) && (!u.chk || (match u.r with
    | .v n => n.val % u.al = 0 && n.val + u.n ≤ w.vregs
    | .s n => n.val < w.sregs
    | .a n => n.val < w.nacc
    | .b n => n.val < nshacc
    | _ => true))

def IntTy.bits : IntTy → Nat
  | .s8 | .z8 => 8
  | .s16 | .z16 => 16
  | .s32 | .z32 => 32
  | .s64 | .z64 => 64
def IntTy.is64 (t : IntTy) : Bool := t == .s64 || t == .z64
/-- Bytes of one element of a plain access: 2 for the 16-bit floating types (11 R271, 20 R405; log 11). -/
def DTy.memBytes : DTy → Nat
  | .fp .f32 => 4
  | .fp _ => 2
  | .int t => IntTy.bits t / 8
/-- Bytes of one lane's atomic operand: a packed pair is one 32-bit word (18 R323). -/
def DTy.bytes : DTy → Nat
  | .fp _ => 4
  | .int t => IntTy.bits t / 8
/-- Bytes of one lane's element; packed halves are 32-bit words (04 R81). -/
def DTy.is64 : DTy → Bool
  | .int t => IntTy.is64 t
  | .fp _ => false
def Wid.count : Wid → Nat
  | .one => 1
  | .v2 => 2
  | .v4 => 4

/-- A vector-kind operand; a 64-bit vector value is an even pair (04 R82). -/
def uVk (c : Cls) (is64 : Bool) (r : Reg) : Use :=
  if c = .scl then { r := r, files := [.s] }
  else if is64 then { r := r, files := [.v], n := 2, al := 2 } else { r := r, files := [.v] }
def uS (r : Reg) : Use := { r := r, files := [.s] }
def uK (r : Reg) : Use := { r := r, files := [.k] }
def uP (r : Reg) : Use := { r := r, files := [.p] }
def uV (r : Reg) : Use := { r := r, files := [.v] }
def uAcc (r : Reg) : Use := { r := r, files := [.a, .b] }
/-- Operand B or a field specifier. -/
def uB (c : Cls) (is64 : Bool) : Src → List Use
  | .imm _ => []
  | .reg r => if c = .vsb then [uS r] else [uVk c is64 r]
def uSrcS : Src → List Use
  | .imm _ => []
  | .reg r => [uS r]
/-- A predicate: p in the vector classes, k in class 1. -/
def uPred (c : Cls) (r : Reg) : Use := if c = .scl then uK r else uP r
/-- An address register: an even pair for .g in class 0 (06 R134). -/
def uAddr (c : Cls) (sp : Space) (r : Reg) : Use :=
  if c = .vec then (if sp = .g then { r := r, files := [.v], n := 2, al := 2 } else uV r) else uS r
/-- The data register of a lane access of w bytes (11 R271). -/
def uData (c : Cls) (w : Nat) (r : Reg) : Use :=
  if c = .scl then uS r else { r := r, files := [.v], n := max 1 (w / 4), al := max 1 (w / 4) }
/-- Bytes of a lane access. -/
def accW (t : DTy) (wd : Wid) : Nat := DTy.memBytes t * Wid.count wd

/-- Operands of `ATOM` and `RED`: A is an address v number in classes 0 and 2 (18 Table 18-2). -/
def usesAtom (c : Cls) (sp : Space) (ty : DTy) (d : Option Reg) (a b : Reg) (cc : Option Reg) : List Use :=
  let x := fun r => uVk c (DTy.is64 ty) r
  [uAddr (if c = .vsb then .vec else c) sp a, if c = .vsb then uS b else x b] ++ (d.toList.map x) ++ (cc.toList.map x)

/-- The operands an instruction names. -/
def usesOf : Instr → List Use
  | .ill _ | .nop _ | .join | .bra _ | .yield _ | .bkpt _ | .trap _ | .tret _ | .tretSkip _ | .abortg _
  | .tlbinvCtx _ | .tlbinvRange _ | .exit _ | .wait _ | .fenceAcq _ | .fenceRel _ | .fenceAr _ | .fenceSc _
  | .barinv _ => []
  | .brx x => [uS x.a]
  | .brc x => [uP x.p]
  | .call x => uS x.d :: uSrcS x.src
  | .ret x | .respin x | .resunpin x | .resfree x | .tlbinvPage x => [uS x.a]
  | .sleep x | .execwr x | .setfmt x | .cbwait x | .step x => uSrcS x.src
  | .execrd x | .cbclose x => [uS x.d]
  | .accz x => [uAcc x.d]
  | .sread x => [uVk x.cls x.z64 x.d]
  | .swrite x => uSrcS x.src
  | .launch x => [uK x.d, uS x.a, uS x.b]
  | .emit x => [uK x.d, uS x.a]
  | .vote x => [(if x.op = .atl ∨ x.op = .agree then uK x.d else uS x.d), uP x.a]
  | .plop x =>
    let src := fun r => if x.cls = .scl then uK r else ({ r := r, files := [.p, .k] } : Use)
    [uPred x.cls x.d, src x.a] ++ (match x.op with
      | .bin _ b => [src b]
      | .not => []
      | .lut b c _ => [src b, src c])
  | .shfl x => [uV x.d, uV x.a] ++ uB x.cls false x.b
  | .wred x => [(if x.cls = .acc then uS x.d else uVk .vec (DTy.is64 x.ty) x.d), uVk .vec (DTy.is64 x.ty) x.a]
  | .wscan x => [uVk .vec (DTy.is64 x.ty) x.d, uVk .vec (DTy.is64 x.ty) x.a]
  | .iadd x | .isub x | .imul x | .imulhi x | .imin x | .imax x | .and x | .or x | .xor x | .shl x | .shr x
  | .sra x => [uVk x.cls (IntTy.is64 x.ty) x.d, uVk x.cls (IntTy.is64 x.ty) x.a] ++ uB x.cls (IntTy.is64 x.ty) x.b
  | .imad x => [uVk x.cls (IntTy.is64 x.ty) x.d, uVk x.cls (IntTy.is64 x.ty) x.a, uVk x.cls (IntTy.is64 x.ty) x.c] ++
      uB x.cls (IntTy.is64 x.ty) x.b
  | .iabs x | .not x | .brev x => [uVk x.cls (IntTy.is64 x.ty) x.d, uVk x.cls (IntTy.is64 x.ty) x.a]
  | .clz x | .popc x => [uVk x.cls false x.d, uVk x.cls (IntTy.is64 x.ty) x.a]
  | .icmp x => [uPred x.cls x.d, uVk x.cls (IntTy.is64 x.ty) x.a] ++ uB x.cls (IntTy.is64 x.ty) x.b
  | .idot4 x => [uV x.d, uV x.a, uV x.b, uV x.c]
  | .lea x => [uVk x.cls true x.d, uVk x.cls true x.a] ++ uB x.cls false x.b
  | .sel x => [uVk x.cls x.z64 x.d, uVk x.cls x.z64 x.a, uPred x.cls x.p] ++ uB x.cls x.z64 x.b
  | .mov x => [uVk x.cls x.z64 x.d, if x.cls = .vsb then uS x.a else uVk x.cls x.z64 x.a]
  | .movi x => [uVk x.cls (match x.im with
      | .z64 _ | .s64 _ => true
      | _ => false) x.d]
  | .bfe x => [uVk x.cls (IntTy.is64 x.ty) x.d, uVk x.cls (IntTy.is64 x.ty) x.a] ++ uB x.cls (IntTy.is64 x.ty) x.f
  | .bfi x => [uVk x.cls (IntTy.is64 x.ty) x.d, uVk x.cls (IntTy.is64 x.ty) x.a, uVk x.cls (IntTy.is64 x.ty) x.c] ++
      uB x.cls (IntTy.is64 x.ty) x.f
  | .fadd x | .fmul x => [uVk x.cls false x.d, uVk x.cls false x.a] ++ uB x.cls false x.b
  | .ffma x => [uVk x.cls false x.d, uVk x.cls false x.a, uVk x.cls false x.c] ++ uB x.cls false x.b
  | .fmin x | .fmax x => [uVk x.cls false x.d, uVk x.cls false x.a] ++ uB x.cls false x.b
  | .fcmp x => [uPred x.cls x.d, uVk x.cls false x.a] ++ uB x.cls false x.b
  | .frnd x | .frcp x | .frsq x | .fsqrt x | .fexp2 x | .flog2 x | .fsin x | .fcos x | .ftanh x =>
    [uVk x.cls false x.d, uVk x.cls false x.a]
  | .cvt x => [uVk x.cls (DTy.is64 x.dt) x.d, uVk x.cls (DTy.is64 x.st) x.a]
  | .bfpack x => [uV x.d, uV x.a, uS x.e]
  | .bfunpack x => [uV x.d, uV x.a, uS x.e]
  | .ld x | .st x => [uData x.cls (accW x.ty x.wid) x.d, uAddr x.cls x.sp x.a]
  | .atom x => usesAtom x.cls x.sp x.ty (some x.d) x.a x.b x.c
  | .red x => usesAtom x.cls x.sp x.ty none x.a x.b none
  | .qld x => [{ r := x.q, files := [.q] }, uS x.a, uS x.b]
  | .qpop x => [uV x.d, { r := x.a, files := [.q] }]
  | .cpyLd x | .cpySt x | .cpyg x => [uS x.a, uS x.b] ++ uSrcS x.len
  | .cflush x | .cinv x => [uAddr x.cls .g x.a]
  | .clv x => [uAddr x.cls .g x.a]
  | .pfmap x => [uVk x.cls false x.d, uAddr x.cls .g x.a]
  | .barinit x => uSrcS x.src
  | .bararv x => x.d.toList.map uS
  | .barwait x => uK x.d :: uSrcS x.src
  | .barrmt x => [uK x.d, uS x.a]
  | .tlsig x => [uS x.a, uS x.b]
  | .tlwait x => uS x.a :: uSrcS x.src
  | .tmma x => [uAcc x.d, uS x.a, uS x.b, { r := x.c, files := [.v] }]
  | .accmovAccToVec x => [{ r := x.d, files := [.v], n := 32 }, uAcc x.a]
  | .accmovVecToAcc x => [uAcc x.d, { r := x.a, files := [.v], n := 32 }]
  | .accmovAccToAcc x => [uAcc x.d, uAcc x.a]
  | .resalloc x => [uS x.d, uS x.a] ++ uSrcS x.src
  | .resload x => [uS x.d, uS x.a, uS x.b, uS x.c]
  | .resq x | .resref x => [uS x.d, uS x.a]
  | .kvld x | .kvst x => [uData .vec (accW x.ty x.wid) x.d, uS x.a, uS x.b, { r := x.c, files := [.v], n := 2, al := 2 }]
  | .kvapp x => [uS x.d, uS x.a, uS x.b, uData .vec (accW x.ty x.wid) x.c]
  | .kvfork x | .kvdem x => [uS x.d, uS x.a, uS x.b, uS x.c]
  | .kvrel x => [uS x.d, uS x.a, uS x.b]
  -- events
  | .packageReset .. | .qtailDoorbell .. | .queueResume .. | .launchCommand .. | .chainEnd .. | .tlSignal ..
  | .tlWaitCommand .. | .resPreload .. | .fenceCommand .. | .barrierCommand .. | .blockPlace .. | .nodeBlockStart ..
  | .nodeTimeout .. | .warpEnd .. | .slottWrite .. | .warpSwap .. | .activeSetRotate .. | .sleepExpiry ..
  | .trapServiceRelease .. | .handlerTimeout .. | .loadReturn .. | .writeBufferDrain .. | .clcDirtyPush .. | .ptsTick ..
  | .leaseRequest .. | .leaseReply .. | .atomicRequest .. | .rd .. | .rfo .. | .upg ..
  | .push .. | .wb .. | .evn .. | .rdnc .. | .wrnc .. | .dirtyNotice ..
  | .snoop .. | .discoveryBroadcast .. | .pageSnoop .. | .snoopAnswer .. | .dataReply .. | .acknowledgement ..
  | .heartbeat .. | .deadDieVerdict .. | .dieReset .. | .dieRejoin .. | .linkSleep .. | .linkWake ..
  | .linkWakeTimeout .. | .linkFailure .. | .hostMemRead .. | .hostMemWrite .. | .hostSnoop .. | .pageRecallTimeout ..
  | .hostCompletionTimeout .. | .hostLinkDown | .expanderLinkDown .. | .expanderTimeout .. | .expstOffClear .. | .retireGo ..
  | .granuleMove .. | .hbmReplay .. | .lltailWrite .. | .eltailWrite .. | .rdmaWrite .. | .rdmaRead ..
  | .rdmaSend .. | .ethernetPortDown .. | .collectiveDescriptor .. | .powerSample .. | .preemptGo .. | .preemptAck ..
  | .restoreGo .. | .restoreStart .. | .abortToken .. | .barrmtRedirect .. | .remoteArrival .. | .residencyLoadComplete ..
  | .residencyLoadFail .. | .lastuseAge | .tmmaRun .. | .tmmaComplete .. | .copySegmentComplete .. | .qldFill ..
  | .kvMoveFlip .. | .kvMoveFail .. | .kvldGatherComplete .. | .heatSweep | .contextVerWrite .. | .lscfgWrite ..
  | .leaseConfigWrite .. | .spdmRequest | .pldmFirmwareUpdate .. | .registerWrite .. | .residencyLoadStop .. | .contextEnable ..
  | .rdmaOperationComplete .. => []

/-- A width that a lane access may have: at most 16 bytes, one element of the narrow integer types (11 R271,
20 R396). -/
def okWidth (c : Cls) (t : DTy) (wd : Wid) : Bool :=
  accW t wd ≤ 16 && (wd == .one || (match t with
    | .int i => IntTy.bits i ≥ 32
    | .fp _ => true)) && !(c == .scl && accW t wd == 16)

/-- The limits of the entries on immediate operands (step 11 of Table 11-9). -/
def limitsOk (b : Block) : Instr → Bool
  | .lea x => x.sh.toNat ≤ 7
  | .shfl x => x.seg.val ≤ 5
  | .vote x => x.op != .atl || x.t.toNat ≤ 32 || x.t.toNat = 255
  | .trap x => x.n != 0#16
  | .sread x => !(x.cls == .scl && x.n == .laneid)
  | .ld x | .st x => okWidth x.cls x.ty x.wid
  | .kvld x | .kvst x | .kvapp x => okWidth .vec x.ty x.wid
  | .atom x => x.sp == .g || x.sc == .wp || x.sc == .bk
  | .red x => x.sp == .g || x.sc == .wp || x.sc == .bk
  | .cflush x | .cinv x => x.sp == .g
  | .clv x => x.sp == .g
  | .pfmap x => x.sp == .g
  | .barinit x => x.n.toNat < b.nbar && (match x.src with
      | .imm w => w != 0#32
      | .reg _ => true)
  | .bararv x => x.n.toNat < b.nbar
  | .barwait x => x.n.toNat < b.nbar
  | .barinv x => x.n.toNat < b.nbar
  | .kvfork x => 1 ≤ x.im.toNat && x.im.toNat ≤ 2 ^ 28
  | .kvrel x => x.j.toNat ≤ 2 ^ 28
  | .kvdem x => 1 ≤ x.im.toNat && x.im.toNat ≤ 4
  | _ => true

/-! ### Decode checks that need the warp -/

/-- Integer and logic opcodes an ACCESS warp may use in class 1 (02 R49). -/
def accessAlu (n : Nat) : Bool :=
  (0x20 ≤ n && n ≤ 0x28) || n = 0x2A || n = 0x2B || n = 0x2C || n = 0x2D || (0x30 ≤ n && n ≤ 0x3B) || n = 0x1A

/-- Step 7: the instruction and class are among those of R49 at that handler level. -/
def accessAllows (lvl : Nat) (r : Raw) : Bool :=
  let n := r.op.toNat
  (n = 0x01 && r.cls == .vec) ||
  (r.cls == .scl &&
    (accessAlu n || n = 0x02 || n = 0x03 || n = 0x06 || n = 0x07 || n = 0x08 || n = 0x09 || n = 0x0A || n = 0x13 ||
     n = 0x76 || n = 0x64 ||
     (n = 0x10 && (lvl ≥ 1 || (let c := r.c.toNat
        c = 2 || c = 3 || (5 ≤ c && c ≤ 0x0C) || c = 0x0E || (0x23 ≤ c && c ≤ 0x26)))) ||
     (lvl ≥ 1 && (n = 0x60 || n = 0x61 || n = 0x62 || n = 0x63 || n = 0x14 || n = 0x69 || n = 0x0C || n = 0x0D))))

/-- A `TMMA` that reads AFMT 2 on a level-1 die, which level 2 implements (11 R276). -/
def levelTwoTmma (lvl : Nat) (fmt : BitVec 24) (op : Byte) : Bool := lvl = 1 && op == 0x80#8 && fmtAfmt fmt == 2

/-- Step 8: the die's ISA level implements the opcode and the FMT it reads (11 R276). -/
def levelAllows (lvl : Nat) (fmt : BitVec 24) (op : Byte) : Bool :=
  opLevel op ≤ lvl && !levelTwoTmma lvl fmt op

/-- Step 10: instructions that are illegal at this level or with this rounding code. -/
def illegalNow (w : Warp) : Instr → Bool
  | .frcp x | .frsq x | .fsqrt x | .fexp2 x | .flog2 x | .fsin x | .fcos x | .ftanh x => x.rm != .dyn
  | .tret _ => w.level = 0
  | .tretSkip _ => w.level = 0
  | .exit _ => w.level = 3
  | .pfmap _ | .tlbinvPage _ | .tlbinvCtx _ | .tlbinvRange _ => w.level < 2
  | .qld _ => !w.access
  | _ => false

/-! ### Scoreboard -/

/-- Destinations pending from earlier instructions of the warp: file, first register, span, and the wait. -/
structure Pend where
  f : RFile
  n : Nat
  span : Nat
  why : WaitR
deriving DecidableEq, Repr

def destPend (d : Dest) (span : Nat) : List Pend :=
  match d with
  | .vreg n _ => [{ f := .v, n := n, span := span, why := .load }]
  | .sreg n _ => [{ f := .s, n := n, span := 1, why := .load }]
  | .queue _ _ _ => []

/-- Every pending destination of a warp (03 R77). -/
def pendings (s : State) (r : WRef) (w : Warp) : List Pend :=
  (w.loads.flatMap (fun l => destPend l.dest (max 1 (((l.lanes.map (·.w)).foldl max 4) / 4)))) ++
  (w.atoms.flatMap (fun a => match a.dest with
    | none => []
    | some d => destPend d (if DTy.is64 a.ty then 2 else 1))) ++
  ((s.core r.core).mu.filterMap (fun t =>
    if t.slot = r.slot then some { f := if t.acc < 8 then .a else .b, n := t.acc % 8, span := 1, why := .tile } else none)) ++
  (s.fed.arrivals.filterMap (fun a =>
    if s.sent r w a then some { f := .k, n := a.kd, span := 1, why := .other } else none)) ++
  ((s.heldOf r).filterMap (fun k => if k.app then some { f := .s, n := Reg.idx k.form.d, span := 1, why := .other } else none))

/-- The operand overlaps the pending destination. -/
def overlaps (u : Use) (p : Pend) : Bool :=
  Reg.file u.r == p.f && Reg.idx u.r < p.n + p.span && p.n < Reg.idx u.r + u.n

/-- The first pending destination that an instruction names, as its wait. -/
def blockedBy (us : List Use) (ps : List Pend) : Option WaitR :=
  (ps.find? (fun p => us.any (fun u => overlaps u p))).map (·.why)

/-! ### Issue -/

/-- What a meaning sees of the issuing warp. -/
structure Env where
  r : WRef
  w : Warp
  b : Block
  /-- Lanes for which active(i) holds (11 Table 11-15), of those the re-execution covers (10 R443). -/
  act : Mask
  next : VAddr
  len : Nat
deriving DecidableEq, Repr

/-- How an instruction ends. -/
inductive Res
  | done (s : State)
  | jump (s : State) (pc : VAddr)
  | wait (s : State) (why : WaitR)
  | trap (s : State) (t : TrapReq)
  /-- The warp's next state is complete as it stands. -/
  | raw (s : State)

/-- An instruction of a warp has issued and retires: the PC moves, ICOUNT counts it at level 0 (10 R244), RMASK
covers one instruction, and a halt's skid counts it (10 R242). -/
def retireWarp (w : Warp) (pc : VAddr) (now : Nat) : Warp :=
  let w1 : Warp := { w with pc := pc, rmask := allLanes, wait := none, issued := some now,
                            icount := if w.level = 0 then w.icount + 1#48 else w.icount }
  match w.skid with
  | none => w1
  | some n =>
    let w2 : Warp := { w1 with skid := some (n + 1), stopped := decide (n + 1 ≥ 6) }
    if w.level = 0 && !w.inHandler then
      { w2 with t1 := { w2.t1 with pc := pc, skid := BitVec.ofNat 3 (n + 1), prim := false } } else w2

/-- The TDOP registers of causes 1 to 7 (10 R239). -/
def withDops (bfp4 : Bool) (t : TrapReq) (bits : BitVec 128) (len : Nat) (op : Byte) (next : VAddr) : TrapReq :=
  if 1 ≤ t.cause && t.cause ≤ 7 then
    let lvl := if bfp4 && t.cause = 2 then 2 else opLevel op
    { t with dop0 := bits.extractLsb' 0 64, dop1 := bits.extractLsb' 64 64, dop2 := next.zeroExtend 64,
             dop3 := BitVec.ofNat 64 (16 * (len / 4) + lvl) }
  else t

/-- A wait of the issuing warp; within a skid the warp stops instead (10 R242). -/
def waitWarp (w : Warp) (why : WaitR) : Warp := if w.skid.isSome then stopWarp w else { w with wait := some why }

/-- The end of an instruction. `s0` is the state before it: an instruction that traps within a skid has no effect, unless its trap
takes the halt over (10 R243). -/
def finish (s0 : State) (e : Env) (raw : Raw) (bits : BitVec 128) : Res → State
  | .done s => s.updWarp e.r (fun w => retireWarp w e.next s.ctl.clock)
  | .jump s pc => s.updWarp e.r (fun w => retireWarp w pc s.ctl.clock)
  | .wait s why => (if e.w.skid.isSome then s0 else s).updWarp e.r (fun w => waitWarp w why)
  | .trap s t => takeTrap (if e.w.skid.isSome && (takesOver s0 e.r t).isNone then s0 else s) e.r
      (withDops (levelTwoTmma (s0.isaLevel e.r.core) e.w.fmt raw.op) t bits e.len raw.op e.next)
  | .raw s => s

/-- The lanes that a guard of the class leaves (02 R30): PG names p for classes 0 and 2. -/
def guardLanes (w : Warp) (pg : Nat) (pn : Bool) : Mask := if pn then ~~~(w.getP pg) else w.getP pg
/-- A scalar guard. -/
def guardScalar (w : Warp) (pg : Nat) (pn : Bool) : Bool := w.getK pg != pn

/-- Lane-guarded classes. -/
def Cls.lanes (c : Cls) : Bool := c == .vec || c == .vsb

/-- TDMASK of a trap raised at decode: the lanes that would have executed (10 R240). PG = 7 counts as true. -/
def decodeMask (w : Warp) (r : Raw) : Mask :=
  let pn := r.pn && r.pg.val != 7
  if Cls.lanes r.cls then w.exec &&& w.rmask &&& guardLanes w r.pg.val pn
  else if guardScalar w r.pg.val pn then w.exec else 0#32

/-- A trap that decode raises. -/
def decodeTrap (w : Warp) (r : Raw) (cause : Nat) : TrapReq := { cause := cause, mask := decodeMask w r }

/-- Steps 5 and 7 to 11 of Table 11-9 for a decoded instruction: the cause of the first check that fails. -/
def issueCheck (s : State) (r : WRef) (w : Warp) (b : Block) (raw : Raw) (i : Instr) : Option Nat :=
  if illOp raw.op then some 1
  else if w.access && !accessAllows w.level raw then some 1
  else if !levelAllows (s.isaLevel r.core) w.fmt raw.op then some 2
  else if !WellFormed i then some 2
  else if illegalNow w i then some 1
  else if !((usesOf i).all (useOk w b.nshacc) && limitsOk b i) then some 3
  else none

/-- The operands that the scoreboard holds an instruction for: a `TMMA` joins earlier ones on its accumulator, which take
effect in issue order (05 R116). -/
def waitUses : Instr → List Use
  | .tmma x => (usesOf (.tmma x)).drop 1
  | i => usesOf i

/-- The guard of a scalar guard field is pending. -/
def guardUse (raw : Raw) : List Use :=
  if Cls.lanes raw.cls then [] else [{ r := .k raw.pg, files := [.k] }]

/-- The issue of an OPI instruction by the issuing warp: the decode checks, the scoreboard, the guard, then the
meaning, then retirement, wait or trap. With no issuing warp nothing happens. -/
def issue (i : Instr) (s : State) (body : Env → State → Res) : State :=
  match s.ctl.cur with
  | none => s
  | some r =>
    match s.warp? r with
    | none => s
    | some w =>
      match s.block? r.core w.blk with
      | none => s
      | some b =>
        match encode i with
        | none => s
        | some raw =>
          let bits := raw.toBits
          let len := raw.len.bytes
          let act := if Cls.lanes raw.cls then w.exec &&& w.rmask &&& guardLanes w raw.pg.val raw.pn else w.exec
          let e : Env := { r := r, w := w, b := b, act := act, next := pcAdd w.pc len, len := len }
          match issueCheck s r w b raw i with
          | some cause => finish s e raw bits (.trap s (decodeTrap w raw cause))
          | none =>
            match blockedBy (guardUse raw ++ waitUses i) (pendings s r w) with
            | some why => finish s e raw bits (.wait s why)
            | none =>
              if !Cls.lanes raw.cls && !guardScalar w raw.pg.val raw.pn then finish s e raw bits (.done s)
              else finish s e raw bits (body e s)

/-- An instruction that changes registers of its own warp only. -/
def issueW (i : Instr) (s : State) (f : Env → Warp) : State :=
  issue i s (fun e s => .done (s.setWarp e.r (f e)))

/-! ### Operand values -/

/-- A register operand of a lane: 32 bits, or 64 for a pair; a scalar register gives all 64 bits. -/
def rdReg (w : Warp) (is64 : Bool) (lane : Nat) : Reg → W64
  | .v n => if is64 then w.getVV n.val lane else (w.getV n.val lane).zeroExtend 64
  | .s n => w.getS n.val
  | _ => 0#64

/-- A write of a register operand of a lane: 32 bits or a pair; a scalar register takes all 64 bits. -/
def wrReg (w : Warp) (is64 : Bool) (lane : Nat) (r : Reg) (x : W64) : Warp :=
  match r with
  | .v n => if is64 then w.putVV n.val lane x else w.putV n.val lane (x.extractLsb' 0 32)
  | .s n => w.putS n.val x
  | _ => w

/-- A source that is a register or an immediate already extended by type (11 R269). -/
def rdSrc (w : Warp) (is64 : Bool) (lane : Nat) (im : W32 → W64) : Src → W64
  | .reg r => rdReg w is64 lane r
  | .imm x => im x

/-- IMM32 read by an integer type (11 R269): .s64 sign-extended, the others zero-extended. -/
def immInt (t : IntTy) (x : W32) : W64 := if t = .s64 then x.signExtend 64 else x.zeroExtend 64
/-- IMM32 as it stands. -/
def immRaw (x : W32) : W64 := x.zeroExtend 64

/-- A scalar source register or immediate, zero-extended. -/
def srcS (w : Warp) : Src → W64
  | .reg r => rdReg w false 0 r
  | .imm x => x.zeroExtend 64

/-- The result of every active lane, or of the warp once in class 1, written to a vector-kind destination; every
source is read before any lane is written (11 R8). -/
def perLane (e : Env) (c : Cls) (d : Reg) (is64 : Bool) (f : Nat → W64) : Warp :=
  if c = .scl then wrReg e.w is64 0 d (f 0)
  else (lanesOf e.act).foldl (fun w i => wrReg w is64 i d (f i)) e.w

/-- The predicate bits of the active lanes, or the scalar predicate in class 1; other lanes keep theirs. -/
def perLanePred (e : Env) (c : Cls) (d : Reg) (f : Nat → Bool) : Warp :=
  match d with
  | .k n => if c = .scl then e.w.putK n.val (f 0) else e.w
  | .p n => if c = .scl then e.w else
      e.w.putP n.val ((e.w.getP n.val &&& ~~~e.act) ||| maskOf ((lanesOf e.act).filter f))
  | _ => e.w

end Sys2Proof.Machine
end

