-- ==== Sys2Proof/Machine/Flags.lean ====
section
/-! DEFINITION. What sets a predicate: the part has no flags register; compares, votes and predicate logic write
p and k bits, and each relation is here once. -/

namespace Sys2Proof.Machine

/-- `ICMP` relations (20 R384). -/
def irel (r : IRel) (a b : Int) : Bool :=
  match r with
  | .eq => a = b
  | .ne => a ≠ b
  | .lt => a < b
  | .le => a ≤ b
  | .gt => a > b
  | .ge => a ≥ b

/-- `FCMP` relations (19 Table 19-7): `u` either source is NaN, `o` the order of the two values otherwise. -/
def frel (r : FRel) (u : Bool) (o : Ordering) : Bool :=
  match r with
  | .eq => !u && o == .eq
  | .ne => !u && o != .eq
  | .lt => !u && o == .lt
  | .le => !u && o != .gt
  | .gt => !u && o == .gt
  | .ge => !u && o != .lt
  | .num => !u
  | .nan => u
  | .equ => u || o == .eq
  | .neu => u || o != .eq
  | .ltu => u || o == .lt
  | .leu => u || o != .gt
  | .gtu => u || o == .gt
  | .geu => u || o != .lt

/-- Two-source predicate logic (20 Table 20-5). -/
def pbin (o : PBin) (a b : Bool) : Bool :=
  match o with
  | .and => a && b
  | .or => a || b
  | .xor => a != b
  | .andn => a && !b
  | .orn => a || !b

/-- `PLOP.lut`: bit 4a + 2b + c of the table (20 Table 20-5). -/
def plut (t : Byte) (a b c : Bool) : Bool := t.getLsbD (4 * a.toNat + 2 * b.toNat + c.toNat)

/-- A predicate source of a lane: a k source gives its value to every lane (20 R404). -/
def rdPred (w : Warp) (lane : Nat) : Reg → Bool
  | .p n => (w.getP n.val).getLsbD lane
  | .k n => w.getK n.val
  | _ => false

/-- `VOTE` to a scalar register (21 R437). -/
def voteNum (op : VoteOp) (m : Mask) : Nat :=
  match op with
  | .mask => m.toNat
  | .count => popcount m
  | .lead => ((lanesOf m).head?).getD 32
  | .atl | .agree => 0

/-- `VOTE` to a scalar predicate (21 R437). -/
def votePred (op : VoteOp) (t : Byte) (m exec : Mask) : Bool :=
  match op with
  | .atl => popcount m ≥ (if t.toNat = 255 then popcount exec else t.toNat)
  | .agree => m = 0#32 || m = exec
  | .mask | .count | .lead => false

end Sys2Proof.Machine
end

