-- ==== Sys2Proof/Machine/IntAlu.lean ====
section
/-! DEFINITION. The integer and logic instructions (18, 19, 20, 21: R320 to R441 of these forms) and `IDOT4`
(16 R310). -/

namespace Sys2Proof.Machine

/-- The low n bits of a source read by its type (04 R82). -/
def intVal (t : IntTy) (x : W64) : Int :=
  if t.signed then sextNat (IntTy.bits t) x.toNat else ((x.toNat % 2 ^ IntTy.bits t : Nat) : Int)

/-- A result clamped to its type (04 R82). -/
def satInt (t : IntTy) (r : Int) : Int :=
  let n := IntTy.bits t
  let lo : Int := if t.signed then -(2 ^ (n - 1) : Int) else 0
  let hi : Int := if t.signed then (2 ^ (n - 1) : Int) - 1 else (2 ^ n : Int) - 1
  if r < lo then lo else if r > hi then hi else r

/-- An exact result as it is written: clamped under .sat, taken modulo 2^n, extended by type to 64 bits (18 R321,
20 R383). A v register takes the low 32 bits or the pair. -/
def intOut (t : IntTy) (sat : Bool) (r : Int) : W64 :=
  let x := wrapInt (IntTy.bits t) (if sat then satInt t r else r)
  if t.signed then w64OfInt (sextNat (IntTy.bits t) x) else BitVec.ofNat 64 x

/-- The shape of every two-source integer instruction: f on the raw 64-bit sources gives the exact result. -/
def alu2 (i : Instr) (x : FAlu2) (f : W64 → W64 → Int) (s : State) : State :=
  let w64 := IntTy.is64 x.ty
  issueW i s (fun e => perLane e x.cls x.d w64 (fun l =>
    intOut x.ty x.sat (f (rdReg e.w w64 l x.a) (rdSrc e.w w64 l (immInt x.ty) x.b))))

/-- The shape of the one-source ones. -/
def alu1 (i : Instr) (x : FAlu1) (f : W64 → Int) (s : State) : State :=
  let w64 := IntTy.is64 x.ty
  issueW i s (fun e => perLane e x.cls x.d w64 (fun l => intOut x.ty x.sat (f (rdReg e.w w64 l x.a))))

/-- A count of 0 to n: 32 bits in a lane, zero-extended in a scalar (19 R355). -/
def alu1Count (i : Instr) (x : FAlu1) (f : W64 → Nat) (s : State) : State :=
  issueW i s (fun e => perLane e x.cls x.d false (fun l => BitVec.ofNat 64 (f (rdReg e.w (IntTy.is64 x.ty) l x.a))))

/-- The low n bits as a number. -/
def lowBits (t : IntTy) (x : W64) : Nat := x.toNat % 2 ^ IntTy.bits t

def execIadd (x : FAlu2) (s : State) : Host.Outcome State Fault Refusal :=
  .next (alu2 (.iadd x) x (fun a b => intVal x.ty a + intVal x.ty b) s)
def execIsub (x : FAlu2) (s : State) : Host.Outcome State Fault Refusal :=
  .next (alu2 (.isub x) x (fun a b => intVal x.ty a - intVal x.ty b) s)
def execImul (x : FAlu2) (s : State) : Host.Outcome State Fault Refusal :=
  .next (alu2 (.imul x) x (fun a b => intVal x.ty a * intVal x.ty b) s)
/-- floor(a × b / 2^n) (20 Table 20-1). -/
def execImulhi (x : FAlu2) (s : State) : Host.Outcome State Fault Refusal :=
  .next (alu2 (.imulhi x) x (fun a b => (intVal x.ty a * intVal x.ty b) / (2 ^ IntTy.bits x.ty : Int)) s)
def execImad (x : FAlu3) (s : State) : Host.Outcome State Fault Refusal :=
  let w64 := IntTy.is64 x.ty
  .next (issueW (.imad x) s (fun e => perLane e x.cls x.d w64 (fun l =>
    intOut x.ty x.sat (intVal x.ty (rdReg e.w w64 l x.a) * intVal x.ty (rdSrc e.w w64 l (immInt x.ty) x.b) +
      intVal x.ty (rdReg e.w w64 l x.c)))))
def execImin (x : FAlu2) (s : State) : Host.Outcome State Fault Refusal :=
  .next (alu2 (.imin x) x (fun a b => min (intVal x.ty a) (intVal x.ty b)) s)
def execImax (x : FAlu2) (s : State) : Host.Outcome State Fault Refusal :=
  .next (alu2 (.imax x) x (fun a b => max (intVal x.ty a) (intVal x.ty b)) s)
def execIabs (x : FAlu1) (s : State) : Host.Outcome State Fault Refusal :=
  .next (alu1 (.iabs x) x (fun a => ((intVal x.ty a).natAbs : Int)) s)

/-- `ICMP` writes the relation to a predicate (20 R384). -/
def execIcmp (x : FIcmp) (s : State) : Host.Outcome State Fault Refusal :=
  let w64 := IntTy.is64 x.ty
  .next (issueW (.icmp x) s (fun e => perLanePred e x.cls x.d (fun l =>
    irel x.rel (intVal x.ty (rdReg e.w w64 l x.a)) (intVal x.ty (rdSrc e.w w64 l (immInt x.ty) x.b)))))

/-- Byte j of a word as an integer. -/
def dotByte (signed : Bool) (x : W64) (j : Nat) : Int :=
  let b := (x.toNat / 2 ^ (8 * j)) % 256
  if signed then sextNat 8 b else (b : Int)

/-- `IDOT4` (16 R310). -/
def execIdot4 (x : FIdot) (s : State) : Host.Outcome State Fault Refusal :=
  let t : IntTy := if x.signed then .s32 else .z32
  .next (issueW (.idot4 x) s (fun e => perLane e .vec x.d false (fun l =>
    let a := rdReg e.w false l x.a
    let b := rdReg e.w false l x.b
    intOut t x.sat ((List.range 4).foldl (fun r j => r + dotByte x.signed a j * dotByte x.signed b j)
      (intVal t (rdReg e.w false l x.c))))))

/-- `LEA` (20 R398). -/
def execLea (x : FLea) (s : State) : Host.Outcome State Fault Refusal :=
  let t : IntTy := if x.signed then .s32 else .z32
  .next (issueW (.lea x) s (fun e => perLane e x.cls x.d true (fun l =>
    rdReg e.w true l x.a + w64OfInt (intVal t (rdSrc e.w false l immRaw x.b) * (2 ^ x.sh.toNat : Int)))))

/-- `SEL` (21 R418). -/
def execSel (x : FSel) (s : State) : Host.Outcome State Fault Refusal :=
  .next (issueW (.sel x) s (fun e => perLane e x.cls x.d x.z64 (fun l =>
    if rdPred e.w l x.p then rdReg e.w x.z64 l x.a else rdSrc e.w x.z64 l immRaw x.b)))

/-- `MOV` (20 R399). -/
def execMov (x : FMov) (s : State) : Host.Outcome State Fault Refusal :=
  .next (issueW (.mov x) s (fun e => perLane e x.cls x.d x.z64 (fun l => rdReg e.w x.z64 l x.a)))

/-- The value `MOVI` gives and whether it fills a pair (20 R400). -/
def moviVal : MoviImm → W64 × Bool
  | .f32 w | .z32 w => (w.zeroExtend 64, false)
  | .s32 w => (w.signExtend 64, false)
  | .z64 w | .s64 w => (w, true)

/-- `MOVI` (20 R400). -/
def execMovi (x : FMovi) (s : State) : Host.Outcome State Fault Refusal :=
  .next (issueW (.movi x) s (fun e => perLane e x.cls x.d (moviVal x.im).2 (fun _ => (moviVal x.im).1)))

def execAnd (x : FAlu2) (s : State) : Host.Outcome State Fault Refusal :=
  .next (alu2 (.and x) x (fun a b => (((lowBits x.ty a) &&& (lowBits x.ty b) : Nat) : Int)) s)
def execOr (x : FAlu2) (s : State) : Host.Outcome State Fault Refusal :=
  .next (alu2 (.or x) x (fun a b => (((lowBits x.ty a) ||| (lowBits x.ty b) : Nat) : Int)) s)
def execXor (x : FAlu2) (s : State) : Host.Outcome State Fault Refusal :=
  .next (alu2 (.xor x) x (fun a b => (((lowBits x.ty a) ^^^ (lowBits x.ty b) : Nat) : Int)) s)
def execNot (x : FAlu1) (s : State) : Host.Outcome State Fault Refusal :=
  .next (alu1 (.not x) x (fun a => ((2 ^ IntTy.bits x.ty - 1 - lowBits x.ty a : Nat) : Int)) s)

/-- The shift amount: bits [7:0] of b, unsigned (21 R421). -/
def shAmt (b : W64) : Nat := b.toNat % 256

def execShl (x : FAlu2) (s : State) : Host.Outcome State Fault Refusal :=
  .next (alu2 (.shl x) x (fun a b => ((lowBits x.ty a * 2 ^ shAmt b : Nat) : Int)) s)
def execShr (x : FAlu2) (s : State) : Host.Outcome State Fault Refusal :=
  .next (alu2 (.shr x) x (fun a b => ((lowBits x.ty a / 2 ^ shAmt b : Nat) : Int)) s)
/-- Copies of bit n − 1 enter, for any type (21 R421). -/
def execSra (x : FAlu2) (s : State) : Host.Outcome State Fault Refusal :=
  .next (alu2 (.sra x) x (fun a b => sextNat (IntTy.bits x.ty) a.toNat / (2 ^ shAmt b : Int)) s)

/-- Position and length of a field specifier within n bits (18 R337). -/
def fieldPos (n : Nat) (f : W64) : Nat × Nat :=
  let p := min (bits f.toNat 7 0) n
  (p, min (bits f.toNat 15 8) (n - p))

/-- `BFE` (18 R337). -/
def execBfe (x : FBfe) (s : State) : Host.Outcome State Fault Refusal :=
  let w64 := IntTy.is64 x.ty
  let n := IntTy.bits x.ty
  .next (issueW (.bfe x) s (fun e => perLane e x.cls x.d w64 (fun l =>
    let pl := fieldPos n (rdSrc e.w w64 l immRaw x.f)
    let y := (lowBits x.ty (rdReg e.w w64 l x.a) / 2 ^ pl.1) % 2 ^ pl.2
    intOut x.ty false (if x.ty.signed && pl.2 > 0 then sextNat pl.2 y else (y : Int)))))

/-- `BFI` (18 R337). -/
def execBfi (x : FBfi) (s : State) : Host.Outcome State Fault Refusal :=
  let w64 := IntTy.is64 x.ty
  let n := IntTy.bits x.ty
  .next (issueW (.bfi x) s (fun e => perLane e x.cls x.d w64 (fun l =>
    let pl := fieldPos n (rdSrc e.w w64 l immRaw x.f)
    let base := lowBits x.ty (rdReg e.w w64 l x.a)
    let old := (base / 2 ^ pl.1) % 2 ^ pl.2
    let ins := (rdReg e.w w64 l x.c).toNat % 2 ^ pl.2
    intOut x.ty false ((base - old * 2 ^ pl.1 + ins * 2 ^ pl.1 : Nat) : Int))))

/-- Leading zero bits of an n-bit number (19 R355). -/
def clzNat (n x : Nat) : Nat := ((List.range n).find? (fun j => (x / 2 ^ (n - 1 - j)) % 2 = 1)).getD n

def execClz (x : FAlu1) (s : State) : Host.Outcome State Fault Refusal :=
  .next (alu1Count (.clz x) x (fun a => clzNat (IntTy.bits x.ty) (lowBits x.ty a)) s)
def execPopc (x : FAlu1) (s : State) : Host.Outcome State Fault Refusal :=
  .next (alu1Count (.popc x) x (fun a => popcount (BitVec.ofNat 64 (lowBits x.ty a))) s)

/-- Bit j of the result is bit n − 1 − j of the source (18 R345). -/
def brevNat (n x : Nat) : Nat := (List.range n).foldl (fun r j => r + ((x / 2 ^ (n - 1 - j)) % 2) * 2 ^ j) 0

/-- `BREV`; a 32-bit scalar result is zero-extended (18 R345). -/
def execBrev (x : FAlu1) (s : State) : Host.Outcome State Fault Refusal :=
  let w64 := IntTy.is64 x.ty
  .next (issueW (.brev x) s (fun e => perLane e x.cls x.d w64 (fun l =>
    BitVec.ofNat 64 (brevNat (IntTy.bits x.ty) (lowBits x.ty (rdReg e.w w64 l x.a))))))

end Sys2Proof.Machine
end

