-- ==== Sys2Proof/Machine/Fp.lean ====
section
/-! DEFINITION. Exact floating-point arithmetic (chapter 4): every result is the exact value rounded once. -/

namespace Sys2Proof.Machine

/-! ### Formats and values -/

/-- A floating-point layout by exponent and fraction bits (04 Table 4-1, R95). -/
structure FpFmt where
  eb : Nat
  fb : Nat
deriving DecidableEq, Repr

def f32F : FpFmt := { eb := 8, fb := 23 }
def f16F : FpFmt := { eb := 5, fb := 10 }
def bf16F : FpFmt := { eb := 8, fb := 7 }
/-- ACC26 (04 R95). -/
def acc26F : FpFmt := { eb := 8, fb := 17 }
def FpTy.fmt : FpTy → FpFmt
  | .f32 => f32F
  | .f16 => f16F
  | .bf16 => bf16F
/-- Elements of one lane (04 R81). -/
def FpTy.elems : FpTy → Nat
  | .f32 => 1
  | _ => 2
/-- Bits of one element. -/
def FpFmt.width (f : FpFmt) : Nat := 1 + f.eb + f.fb
/-- The all-ones exponent field, fraction 0. -/
def FpFmt.infBits (f : FpFmt) : Nat := (2 ^ f.eb - 1) * 2 ^ f.fb
/-- The canonical NaN (04 R85). -/
def FpFmt.nanBits (f : FpFmt) : Nat := f.infBits + 2 ^ (f.fb - 1)
/-- Exponent of the last place of a subnormal. -/
def FpFmt.emin (f : FpFmt) : Int := 2 - (2 ^ (f.eb - 1) : Int) - f.fb

/-- A value: NaN, an infinity, or ±m × 2^e. -/
inductive FVal
  | nan
  | inf (neg : Bool)
  | fin (neg : Bool) (m : Nat) (e : Int)
deriving DecidableEq, Repr

/-- The value of an encoding (04 R80); under `ftz` a subnormal is a zero of its sign (04 R84). -/
def unpackFp (f : FpFmt) (ftz : Bool) (x : Nat) : FVal :=
  let neg := (x / 2 ^ (f.eb + f.fb)) % 2 = 1
  let ex := (x / 2 ^ f.fb) % 2 ^ f.eb
  let fr := x % 2 ^ f.fb
  if ex = 2 ^ f.eb - 1 then (if fr = 0 then .inf neg else .nan)
  else if ex = 0 then .fin neg (if ftz then 0 else fr) f.emin
  else .fin neg (2 ^ f.fb + fr) (f.emin + (ex - 1 : Nat))

/-- Whether a magnitude q + r / 2^sh is rounded up (04 Table 4-2); `sticky` says a further positive part is lost. -/
def roundUp (rm : Rnd) (neg : Bool) (q r sh : Nat) (sticky : Bool) : Bool :=
  let inexact := r != 0 || sticky
  match rm with
  | .rn | .dyn => 2 * r > 2 ^ sh || (2 * r = 2 ^ sh && (sticky || q % 2 = 1))
  | .rz => false
  | .ru => inexact && !neg
  | .rd => inexact && neg

/-- ±m × 2^e rounded to an integer. `sticky`: the magnitude lies above m × 2^e by less than one unit of it. -/
def roundInt (rm : Rnd) (neg : Bool) (m : Nat) (e : Int) (sticky : Bool) : Nat :=
  if e ≥ 0 then m * 2 ^ e.toNat
  else
    let sh := (-e).toNat
    let q := m / 2 ^ sh
    if roundUp rm neg q (m % 2 ^ sh) sh sticky then q + 1 else q

/-- The sign bit of a format. -/
def signBit (f : FpFmt) (neg : Bool) : Nat := if neg then 2 ^ (f.eb + f.fb) else 0

/-- The encoding of ±m × 2^e rounded once (04 R83, R86): overflow by mode, a subnormal result flushed under `ftz`. -/
def packFp (f : FpFmt) (rm : Rnd) (ftz neg : Bool) (m : Nat) (e : Int) (sticky : Bool) : Nat :=
  if m = 0 && !sticky then signBit f neg
  else
    let t := max (e + Nat.log2 m - f.fb) f.emin
    let q := roundInt rm neg m (e - t) sticky
    let enc := (t - f.emin).toNat * 2 ^ f.fb + q
    if enc ≥ f.infBits then
      let toInf := match rm with
        | .rn | .dyn => true
        | .rz => false
        | .ru => !neg
        | .rd => neg
      signBit f neg + (if toInf then f.infBits else f.infBits - 1)
    else if ftz && enc < 2 ^ f.fb then signBit f neg
    else signBit f neg + enc

/-- The encoding of a value that is exact or rounded once. -/
def packVal (f : FpFmt) (rm : Rnd) (ftz : Bool) : FVal → Nat
  | .nan => f.nanBits
  | .inf neg => signBit f neg + f.infBits
  | .fin neg m e => packFp f rm ftz neg m e false

/-- A finite value as an integer multiple of 2^e, e at most its own exponent. -/
def scaled (neg : Bool) (m : Nat) (e e' : Int) : Int :=
  let x : Int := (m * 2 ^ (e - e').toNat : Nat)
  if neg then -x else x

/-! ### Arithmetic -/

/-- The exact sum; an exact zero has the sign IEEE 754 gives under the mode. -/
def fvAdd (rm : Rnd) : FVal → FVal → FVal
  | .nan, _ => .nan
  | _, .nan => .nan
  | .inf a, .inf b => if a = b then .inf a else .nan
  | .inf a, .fin _ _ _ => .inf a
  | .fin _ _ _, .inf b => .inf b
  | .fin s m e, .fin s' m' e' =>
    let t := min e e'
    let r := scaled s m e t + scaled s' m' e' t
    if r = 0 then
      let zneg := rm = .rd
      .fin (if m = 0 && m' = 0 then (if s = s' then s else zneg) else zneg) 0 t
    else .fin (decide (r < 0)) r.natAbs t

/-- The exact product. -/
def fvMul : FVal → FVal → FVal
  | .nan, _ => .nan
  | _, .nan => .nan
  | .inf a, .inf b => .inf (a != b)
  | .inf a, .fin s m _ => if m = 0 then .nan else .inf (a != s)
  | .fin s m _, .inf b => if m = 0 then .nan else .inf (s != b)
  | .fin s m e, .fin s' m' e' => .fin (s != s') (m * m') (e + e')

/-- The order of two values that are not NaN; `zeros` orders −0 below +0. -/
def fvCmp (zeros : Bool) : FVal → FVal → Ordering
  | .fin s m e, .fin s' m' e' =>
    if zeros && m = 0 && m' = 0 then (if s = s' then .eq else if s then .lt else .gt)
    else
      let t := min e e'
      compare (scaled s m e t) (scaled s' m' e' t)
  | .inf a, .inf b => if a = b then .eq else if a then .lt else .gt
  | .inf a, _ => if a then .lt else .gt
  | _, .inf b => if b then .gt else .lt
  | _, _ => .eq

/-- `FMIN` and `FMAX` (04 Table 4-3). -/
def fvMinMax (isMax : Bool) (a b : FVal) : FVal :=
  match a, b with
  | .nan, y => y
  | x, .nan => x
  | x, y => if (fvCmp true x y == .lt) = isMax then y else x

/-- The mode in force (04 R83). -/
def rmodeOf (w : Warp) : Rnd → Rnd
  | .dyn => fmtRnd w.fmt
  | m => m

/-! ### One-source functions -/

/-- The floor of a square root: bit k of the root is tried from n − 1 down. -/
def isqrtAux (x : Nat) : Nat → Nat → Nat
  | 0, r => r
  | k + 1, r => isqrtAux x k (if (r + 2 ^ k) * (r + 2 ^ k) ≤ x then r + 2 ^ k else r)
def isqrt (x : Nat) : Nat := isqrtAux x (Nat.log2 x / 2 + 1) 0

/-- 1 / (m × 2^e), m > 0: the quotient to 40 bits, its exponent, and whether it is inexact. -/
def recipQ (m : Nat) (e : Int) : Nat × Int × Bool :=
  let k := Nat.log2 m + 40
  (2 ^ k / m, -e - k, 2 ^ k % m != 0)

/-- √(m × 2^e). -/
def sqrtQ (m : Nat) (e : Int) : Nat × Int × Bool :=
  let k : Nat := 80 + (if (e % 2 = 0) then 0 else 1)
  let x := m * 2 ^ k
  let r := isqrt x
  (r, (e - k) / 2, r * r != x)

/-- 1 / √(m × 2^e), m > 0. -/
def rsqrtQ (m : Nat) (e : Int) : Nat × Int × Bool :=
  let k : Nat := 2 * Nat.log2 m + 80 + (if (e % 2 = 0) then 0 else 1)
  let r := isqrt (2 ^ k / m)
  (r, (-e - k) / 2, r * r * m != 2 ^ k)

/-- atanh(z / 2^p) × 2^p for a fixed-point z below 2^p / 2: n terms of the series. -/
def atanhAux (p z2 : Nat) : Nat → Nat → Nat → Nat → Nat
  | 0, _, _, acc => acc
  | n + 1, d, t, acc => atanhAux p z2 n (d + 2) (t * z2 / 2 ^ p) (acc + t / d)
def atanhFix (p z : Nat) : Nat := atanhAux p (z * z / 2 ^ p) (p / 2) 1 z 0

/-- ln 2 × 2^p. -/
def ln2Fix (p : Nat) : Nat := 2 * atanhFix p (2 ^ p / 3)

/-- atan(1 / k) × 2^p. -/
def atanInvAux (k2 : Nat) : Nat → Nat → Nat → Bool → Int → Int
  | 0, _, _, _, acc => acc
  | n + 1, d, t, neg, acc => atanInvAux k2 n (d + 2) (t / k2) (!neg) (if neg then acc - (t / d : Nat) else acc + (t / d : Nat))
def atanInvFix (p k : Nat) : Int := atanInvAux (k * k) (p / 4 + 2) 1 (2 ^ p / k) false 0

/-- (π / 2) × 2^p, by Machin's formula. -/
def halfPiFix (p : Nat) : Nat := (8 * atanInvFix p 5 - 2 * atanInvFix p 239).toNat

/-- exp(y / 2^p) × 2^p for 0 ≤ y ≤ 2^p. -/
def expAux (p y : Nat) : Nat → Nat → Nat → Nat → Nat
  | 0, _, _, acc => acc
  | n + 1, k, t, acc => expAux p y n (k + 1) (t * y / 2 ^ p / k) (acc + t)
def expFix (p y : Nat) : Nat := expAux p y (p / 2 + 4) 1 (2 ^ p) 0

/-- sin (`t` begins at r) or cos (`t` begins at 1) of r / 2^p by its series. -/
def sincosAux (p r2 : Nat) : Nat → Nat → Nat → Bool → Int → Int
  | 0, _, _, _, acc => acc
  | n + 1, k, t, neg, acc =>
    sincosAux p r2 n (k + 2) (t * r2 / 2 ^ p / ((k + 1) * (k + 2))) (!neg) (if neg then acc - (t : Nat) else acc + (t : Nat))
def sinFix (p r : Nat) : Int := sincosAux p (r * r / 2 ^ p) (p / 4 + 6) 1 r false 0
def cosFix (p r : Nat) : Int := sincosAux p (r * r / 2 ^ p) (p / 4 + 6) 0 (2 ^ p) false 0

/-- The functions whose values are irrational but at the points that `exactFn` lists. -/
inductive TFn | exp2 | log2 | sin | cos | tanh
deriving DecidableEq, Repr

/-- m × 2^e as a fixed-point number of p fraction bits. -/
def toFix (p m : Nat) (e : Int) : Nat :=
  let k := e + p
  if k ≥ 0 then m * 2 ^ k.toNat else m / 2 ^ (-k).toNat

/-- The function at ±m × 2^e to within 2^40 units of 2^(−p): the value as sign and fixed-point magnitude, and a
binary exponent to add. Sources are at least 2^−40 in magnitude. -/
def approxFn (fn : TFn) (p : Nat) (neg : Bool) (m : Nat) (e : Int) : Int × Int :=
  match fn with
  | .exp2 =>
    let x : Int := let y : Int := (toFix p m e : Nat); if neg then -y else y
    let n := x / (2 ^ p : Int)
    let fr := (x % (2 ^ p : Int)).toNat
    (((expFix p (fr * ln2Fix p / 2 ^ p) : Nat) : Int), n)
  | .log2 =>
    let lg := Nat.log2 m
    let fr := toFix p m (-(lg : Int))
    let z := (fr - 2 ^ p) * 2 ^ p / (fr + 2 ^ p)
    (((2 * atanhFix p z * 2 ^ p / ln2Fix p : Nat) : Int) + (e + lg) * (2 ^ p : Int), 0)
  | .sin | .cos =>
    let q := p + 8 + (max 0 (e + Nat.log2 m + 1)).toNat
    let x := toFix q m e
    let hp := halfPiFix q
    let k := x / hp
    let r := (x % hp) / 2 ^ (q - p)
    let quad := (if fn = .cos then k + 1 else k) % 4
    let y := if quad = 0 then sinFix p r else if quad = 1 then cosFix p r else if quad = 2 then -sinFix p r else -cosFix p r
    (if fn = .sin && neg then -y else y, 0)
  | .tanh =>
    let y := 2 * toFix p m e
    let l := ln2Fix p
    let ex := expFix p (y % l) * 2 ^ (y / l)
    let r : Int := (((ex - 2 ^ p) * 2 ^ p / (ex + 2 ^ p) : Nat) : Int)
    (if neg then -r else r, 0)

/-- Rounded to nearest even from both ends of the enclosure; more bits are taken while the two differ. -/
def refine (f : FpFmt) (ftz : Bool) (fn : TFn) (neg : Bool) (m : Nat) (e : Int) : Nat → Nat → Nat
  | 0, _ => f.nanBits
  | k + 1, p =>
    let a := approxFn fn p neg m e
    let enc := fun (v : Int) => packFp f .rn ftz (decide (v < 0)) v.natAbs (a.2 - p) false
    let lo := enc (a.1 - 2 ^ 40)
    if lo = enc (a.1 + 2 ^ 40) then lo else refine f ftz fn neg m e k (2 * p)

/-- The values that need no enclosure: zeros, rational points, tiny and huge sources (04 Table 4-3). -/
def exactFn (fn : TFn) (neg : Bool) (m : Nat) (e : Int) : Option FVal :=
  let mag : Int := e + Nat.log2 m
  let one : FVal := .fin false 1 0
  match fn with
  | .exp2 =>
    if m = 0 || mag < -40 then some one
    else if mag ≥ 9 then some (if neg then .fin false 0 0 else .inf false)
    else
      let k := toFix 200 m e
      if k % 2 ^ 200 = 0 then
        let n : Int := ((k / 2 ^ 200 : Nat) : Int)
        some (.fin false 1 (if neg then -n else n))
      else none
  | .log2 =>
    if m = 0 then some (.inf true)
    else if neg then some .nan
    else if m = 2 ^ Nat.log2 m then some (.fin (decide (mag < 0)) mag.natAbs 0)
    else none
  | .sin => if m = 0 || mag < -40 then some (.fin neg m e) else none
  | .cos => if m = 0 || mag < -40 then some one else none
  | .tanh =>
    if m = 0 || mag < -40 then some (.fin neg m e)
    else if mag ≥ 6 then some (.fin neg 1 0)
    else none

/-- A transcendental function of an element (04 R87). -/
def transFn (f : FpFmt) (ftz : Bool) (fn : TFn) (x : FVal) : Nat :=
  match x with
  | .nan => f.nanBits
  | .inf neg =>
    (match fn with
      | .exp2 => if neg then 0 else f.infBits
      | .log2 => if neg then f.nanBits else f.infBits
      | .sin | .cos => f.nanBits
      | .tanh => packFp f .rn ftz neg 1 0 false)
  | .fin neg m e =>
    match exactFn fn neg m e with
    | some v => packVal f .rn ftz v
    | none => refine f ftz fn neg m e 4 200

/-- The reciprocal, square root and reciprocal square root (04 Table 4-3, R87). -/
inductive RFn | rcp | rsq | sqrt
deriving DecidableEq, Repr

def rootFn (f : FpFmt) (rm : Rnd) (ftz : Bool) (fn : RFn) (x : FVal) : Nat :=
  match x with
  | .nan => f.nanBits
  | .inf neg =>
    (match fn with
      | .rcp => signBit f neg
      | .rsq => if neg then f.nanBits else 0
      | .sqrt => if neg then f.nanBits else f.infBits)
  | .fin neg m e =>
    if m = 0 then
      (match fn with
        | .rcp | .rsq => signBit f neg + f.infBits
        | .sqrt => signBit f neg)
    else if neg && fn != .rcp then f.nanBits
    else
      let q := match fn with
        | .rcp => recipQ m e
        | .rsq => rsqrtQ m e
        | .sqrt => sqrtQ m e
      packFp f rm ftz neg q.1 q.2.1 q.2.2

end Sys2Proof.Machine
end

