-- ==== Sys2Proof/Machine/FpAlu.lean ====
section
/-! DEFINITION. The floating-point instructions, `CVT`, `BFPACK` and `BFUNPACK` (18, 19: R338 to R380). -/

namespace Sys2Proof.Machine

/-- Element k of a source lane. -/
def fpElem (t : FpTy) (k : Nat) (x : W64) : Nat := (x.toNat / 2 ^ (16 * k)) % 2 ^ (FpFmt.width (FpTy.fmt t))

/-- Every element of a lane computed alike; a scalar destination gets 0 in bits [63:32] (04 R81). -/
def fpMap (t : FpTy) (f : Nat → Nat) : W64 :=
  BitVec.ofNat 64 ((List.range (FpTy.elems t)).foldl (fun r k => r + f k * 2 ^ (16 * k)) 0)

/-- The value of element k of a source under `FMT.FTZ`. -/
def fpSrc (w : Warp) (t : FpTy) (k : Nat) (x : W64) : FVal := unpackFp (FpTy.fmt t) (fmtFtz w.fmt) (fpElem t k x)

/-- The shape of the two-source instructions: f on the values of each element, rounded by mode. -/
def fp2 (i : Instr) (c : Cls) (t : FpTy) (rm : Rnd) (d a : Reg) (b : Src) (f : Rnd → FVal → FVal → FVal)
    (s : State) : State :=
  issueW i s (fun e => perLane e c d false (fun l =>
    let x := rdReg e.w false l a
    let y := rdSrc e.w false l immRaw b
    let m := rmodeOf e.w rm
    fpMap t (fun k => packVal (FpTy.fmt t) m (fmtFtz e.w.fmt) (f m (fpSrc e.w t k x) (fpSrc e.w t k y)))))

/-- The shape of the one-source instructions: f gives the encoding of each element. -/
def fp1 (i : Instr) (x : FFp1) (f : Env → FpFmt → FVal → Nat) (s : State) : State :=
  issueW i s (fun e => perLane e x.cls x.d false (fun l =>
    fpMap x.ty (fun k => f e (FpTy.fmt x.ty) (fpSrc e.w x.ty k (rdReg e.w false l x.a)))))

def execFadd (x : FFp2) (s : State) : Host.Outcome State Fault Refusal :=
  .next (fp2 (.fadd x) x.cls x.ty x.rm x.d x.a x.b fvAdd s)
def execFmul (x : FFp2) (s : State) : Host.Outcome State Fault Refusal :=
  .next (fp2 (.fmul x) x.cls x.ty x.rm x.d x.a x.b (fun _ => fvMul) s)
/-- Exact product and sum, one rounding (19 R371). -/
def execFfma (x : FFp3) (s : State) : Host.Outcome State Fault Refusal :=
  .next (issueW (.ffma x) s (fun e => perLane e x.cls x.d false (fun l =>
    let a := rdReg e.w false l x.a
    let b := rdSrc e.w false l immRaw x.b
    let c := rdReg e.w false l x.c
    let m := rmodeOf e.w x.rm
    fpMap x.ty (fun k => packVal (FpTy.fmt x.ty) m (fmtFtz e.w.fmt)
      (fvAdd m (fvMul (fpSrc e.w x.ty k a) (fpSrc e.w x.ty k b)) (fpSrc e.w x.ty k c))))))
def execFmin (x : FFpM) (s : State) : Host.Outcome State Fault Refusal :=
  .next (fp2 (.fmin x) x.cls x.ty .rn x.d x.a x.b (fun _ => fvMinMax false) s)
def execFmax (x : FFpM) (s : State) : Host.Outcome State Fault Refusal :=
  .next (fp2 (.fmax x) x.cls x.ty .rn x.d x.a x.b (fun _ => fvMinMax true) s)

/-- `FCMP` (19 R374). -/
def execFcmp (x : FFcmp) (s : State) : Host.Outcome State Fault Refusal :=
  .next (issueW (.fcmp x) s (fun e => perLanePred e x.cls x.d (fun l =>
    let k := if x.e then 1 else 0
    let a := fpSrc e.w x.ty k (rdReg e.w false l x.a)
    let b := fpSrc e.w x.ty k (rdSrc e.w false l immRaw x.b)
    frel x.rel (a == .nan || b == .nan) (fvCmp false a b))))

/-- `FRND` (19 R377): the sign is kept. -/
def execFrnd (x : FFp1) (s : State) : Host.Outcome State Fault Refusal :=
  .next (fp1 (.frnd x) x (fun e f v =>
    match v with
    | .fin neg m ex => packFp f .rn (fmtFtz e.w.fmt) neg (roundInt (rmodeOf e.w x.rm) neg m ex false) 0 false
    | v => packVal f .rn (fmtFtz e.w.fmt) v) s)

/-- The rounding of `FRCP` and `FRSQ` (04 Table 4-8). -/
def nbvRnd (nbv : Nat) : Rnd := if nbv = 1 then .rz else .rn

def execFrcp (x : FFp1) (s : State) : Host.Outcome State Fault Refusal :=
  .next (fp1 (.frcp x) x (fun e f v => rootFn f (nbvRnd e.b.nbv) (fmtFtz e.w.fmt) .rcp v) s)
def execFrsq (x : FFp1) (s : State) : Host.Outcome State Fault Refusal :=
  .next (fp1 (.frsq x) x (fun e f v => rootFn f (nbvRnd e.b.nbv) (fmtFtz e.w.fmt) .rsq v) s)
def execFsqrt (x : FFp1) (s : State) : Host.Outcome State Fault Refusal :=
  .next (fp1 (.fsqrt x) x (fun e f v => rootFn f .rn (fmtFtz e.w.fmt) .sqrt v) s)
def execFexp2 (x : FFp1) (s : State) : Host.Outcome State Fault Refusal :=
  .next (fp1 (.fexp2 x) x (fun e f v => transFn f (fmtFtz e.w.fmt) .exp2 v) s)
def execFlog2 (x : FFp1) (s : State) : Host.Outcome State Fault Refusal :=
  .next (fp1 (.flog2 x) x (fun e f v => transFn f (fmtFtz e.w.fmt) .log2 v) s)
def execFsin (x : FFp1) (s : State) : Host.Outcome State Fault Refusal :=
  .next (fp1 (.fsin x) x (fun e f v => transFn f (fmtFtz e.w.fmt) .sin v) s)
def execFcos (x : FFp1) (s : State) : Host.Outcome State Fault Refusal :=
  .next (fp1 (.fcos x) x (fun e f v => transFn f (fmtFtz e.w.fmt) .cos v) s)
def execFtanh (x : FFp1) (s : State) : Host.Outcome State Fault Refusal :=
  .next (fp1 (.ftanh x) x (fun e f v => transFn f (fmtFtz e.w.fmt) .tanh v) s)

/-- The value of an integer as a floating-point value; 0 is +0. -/
def fvOfInt (r : Int) : FVal := .fin (decide (r < 0)) r.natAbs 0

/-- A floating-point value converted to an integer (04 Table 4-4): by mode, clamped, NaN gives 0. -/
def fvToInt (t : IntTy) (rm : Rnd) : FVal → Int
  | .nan => 0
  | .inf neg => satInt t (if neg then -(2 ^ 80 : Int) else (2 ^ 80 : Int))
  | .fin neg m e =>
    let r : Int := (roundInt rm neg m e false : Nat)
    satInt t (if neg then -r else r)

/-- One conversion of element k of the source: an encoding in the destination's format (04 R88). -/
def cvtElem (w : Warp) (dt st : DTy) (rm : Rnd) (sat : Bool) (k : Nat) (x : W64) : W64 :=
  match dt, st with
  | .fp d, .fp t => BitVec.ofNat 64 (packVal (FpTy.fmt d) rm (fmtFtz w.fmt) (fpSrc w t k x))
  | .fp d, .int t => BitVec.ofNat 64 (packVal (FpTy.fmt d) rm (fmtFtz w.fmt) (fvOfInt (intVal t x)))
  | .int d, .fp t => intOut d false (fvToInt d rm (fpSrc w t k x))
  | .int d, .int t => intOut d sat (intVal t x)

/-- A type of two packed elements. -/
def DTy.packed : DTy → Bool
  | .fp t => t != .f32
  | .int _ => false

/-- `CVT` (19 R360, R361). -/
def execCvt (x : FCvt) (s : State) : Host.Outcome State Fault Refusal :=
  .next (issueW (.cvt x) s (fun e => perLane e x.cls x.d (DTy.is64 x.dt) (fun l =>
    let v := rdReg e.w (DTy.is64 x.st) l x.a
    let m := rmodeOf e.w x.rm
    let k := if x.elem then 1 else 0
    if DTy.packed x.dt && DTy.packed x.st then
      (cvtElem e.w x.dt x.st m x.sat 1 v <<< 16) ||| cvtElem e.w x.dt x.st m x.sat 0 v
    else if DTy.packed x.dt then
      let old := (rdReg e.w false l x.d).toNat
      let r := (cvtElem e.w x.dt x.st m x.sat 0 v).toNat
      BitVec.ofNat 64 (if x.elem then bits old 15 0 + r * 2 ^ 16 else r + bits old 31 16 * 2 ^ 16)
    else cvtElem e.w x.dt x.st m x.sat (if DTy.packed x.st then k else 0) v)))

/-! ### Block floating point -/

def BfpTy.w : BfpTy → Nat
  | .bfp8 => 8
  | .bfp6 => 6
  | .bfp4 => 4

/-- The value of an element of width w under a pair of exponents (04 R89, R90). -/
def bfpVal (w el e0 e1 : Nat) : FVal :=
  let ex := if (el / 2 ^ (w - 1)) % 2 = 1 then e1 else e0
  if ex = 0xFF then .nan
  else .fin ((el / 2 ^ (w - 2)) % 2 = 1) (el % 2 ^ (w - 2)) ((ex : Int) - 127 - (w - 3))

/-- Round |x| × 2^F(E) to nearest even; an infinity gives a value above every magnitude (04 R93). -/
def bfpMag (w ex : Nat) : FVal → Nat
  | .fin neg m e => roundInt .rn neg m (e + 127 + (w - 3) - ex) false
  | _ => 2 ^ 20

/-- The exponent E1 of the finite sources before any NaN is seen (04 R93). -/
def bfpE1 (xs : List FVal) : Nat :=
  xs.foldl (fun r v =>
    match v with
    | .nan => r
    | .inf _ => 254
    | .fin _ m e => if m = 0 then r else max r (min 254 (max 0 (e + Nat.log2 m + 127)).toNat)) 0

/-- `BFPACK`'s procedure (04 R93): the elements and the two exponents. -/
def bfpPack (w d : Nat) (xs : List FVal) : List Nat × Nat × Nat :=
  let big := 2 ^ (w - 2) - 1
  let e := bfpE1 xs
  let e0 := e - d
  let e1 := if xs.contains .nan then 0xFF else e
  (xs.map (fun v =>
    let sgn := match v with
      | .fin neg _ _ | .inf neg => if neg then 2 ^ (w - 2) else 0
      | .nan => 0
    if v = .nan then 2 ^ (w - 1)
    else
      let m0 := bfpMag w e0 v
      if m0 ≤ big then sgn + m0
      else if e1 = 0xFF then sgn + big
      else 2 ^ (w - 1) + sgn + min big (bfpMag w e1 v)), e0, e1)

/-- `BFPACK` (18 R339). -/
def execBfpack (x : FBfpack) (s : State) : Host.Outcome State Fault Refusal :=
  .next (issueW (.bfpack x) s (fun e =>
    let w := BfpTy.w x.ty
    let p := bfpPack w x.sh.val ((List.range 32).map (fun i => unpackFp f32F false (rdReg e.w false i x.a).toNat))
    let run := p.1.foldr (fun el r => r * 2 ^ w + el) 0
    let w1 := (List.range 32).foldl (fun v l => wrReg v false l x.d
      (BitVec.ofNat 64 (if l < w then bits run (32 * l + 31) (32 * l) else 0))) e.w
    wrReg w1 false 0 x.e (BitVec.ofNat 64 (p.2.2 * 256 + p.2.1))))

/-- `BFUNPACK` (18 R340). -/
def execBfunpack (x : FBfunpack) (s : State) : Host.Outcome State Fault Refusal :=
  .next (issueW (.bfunpack x) s (fun e =>
    let w := BfpTy.w x.ty
    let run := ((List.range w).map (fun l => (rdReg e.w false l x.a).toNat)).foldr (fun el r => r * 2 ^ 32 + el) 0
    let ex := (rdReg e.w false 0 x.e).toNat
    (List.range 32).foldl (fun v i => wrReg v false i x.d
      (BitVec.ofNat 64 (packVal f32F .rn (fmtFtz e.w.fmt)
        (bfpVal w (bits run (w * i + w - 1) (w * i)) (bits ex 7 0) (bits ex 15 8))))) e.w))

end Sys2Proof.Machine
end

