-- ==== Sys2Proof/Machine/Lane.lean ====
section
/-! DEFINITION. `VOTE`, `PLOP`, `SHFL`, `WRED` and `WSCAN` (20 R404, 21 R420, R437 to R440). -/

namespace Sys2Proof.Machine

/-- `VOTE` (21 R437). -/
def execVote (x : FVote) (s : State) : Host.Outcome State Fault Refusal :=
  .next (issueW (.vote x) s (fun e =>
    let m := match x.a with
      | .p n => e.w.exec &&& e.w.getP n.val
      | _ => 0#32
    match x.d with
    | .k n => e.w.putK n.val (votePred x.op x.t m e.w.exec)
    | d => wrReg e.w false 0 d (BitVec.ofNat 64 (voteNum x.op m))))

/-- `PLOP` (20 R404). -/
def execPlop (x : FPlop) (s : State) : Host.Outcome State Fault Refusal :=
  .next (issueW (.plop x) s (fun e => perLanePred e x.cls x.d (fun l =>
    let a := rdPred e.w l x.a
    match x.op with
    | .bin o b => pbin o a (rdPred e.w l b)
    | .not => !a
    | .lut b c t => plut t a (rdPred e.w l b) (rdPred e.w l c))))

/-- The source lane of `SHFL` (21 R420). -/
def shflSrc (m : ShflMode) (lseg i : Nat) (b : W64) : Nat :=
  let seg := 2 ^ lseg
  let base := i - i % seg
  let k := bits b.toNat 4 0 % seg
  match m with
  | .sel => base + k
  | .rot => base + (i - base + k) % seg
  | .bfly => i ^^^ k

/-- `SHFL` reads every lane of its source before it writes (21 R420). -/
def execShfl (x : FShfl) (s : State) : Host.Outcome State Fault Refusal :=
  .next (issueW (.shfl x) s (fun e => perLane e .vec x.d false (fun l =>
    rdReg e.w false (shflSrc x.mode x.seg.val l (rdSrc e.w false l immRaw x.b)) x.a)))

/-- The identity of a reduction as a lane's bits (21 Table 21-7). -/
def redIdent (op : ROp) (t : DTy) : W64 :=
  match t with
  | .fp f =>
    let inf := FpFmt.infBits (FpTy.fmt f)
    fpMap f (fun _ => match op with
      | .min => inf
      | .max => signBit (FpTy.fmt f) true + inf
      | _ => 0)
  | .int t =>
    match op with
    | .add | .or | .xor => 0#64
    | .and => intOut t false (-1)
    | .min => intOut t false (satInt t (2 ^ 80 : Int))
    | .max => intOut t false (satInt t (-(2 ^ 80) : Int))

/-- One combination (21 R440). -/
def redCombine (op : ROp) (t : DTy) (ftz : Bool) (a b : W64) : W64 :=
  match t with
  | .fp f =>
    let fm := FpTy.fmt f
    fpMap f (fun k =>
      let x := unpackFp fm ftz (fpElem f k a)
      let y := unpackFp fm ftz (fpElem f k b)
      packVal fm .rn ftz (match op with
        | .min => fvMinMax false x y
        | .max => fvMinMax true x y
        | _ => fvAdd .rn x y))
  | .int t =>
    let x := intVal t a
    let y := intVal t b
    intOut t false (match op with
      | .add => x + y
      | .min => min x y
      | .max => max x y
      | .and => ((lowBits t a &&& lowBits t b : Nat) : Int)
      | .or => ((lowBits t a ||| lowBits t b : Nat) : Int)
      | .xor => ((lowBits t a ^^^ lowBits t b : Nat) : Int))

/-- The lanes combined in ascending order: each lane with the accumulator before and after it, and the last one. -/
def redScan (op : ROp) (t : DTy) (ftz : Bool) (src : Nat → W64) (lanes : List Nat) : List (Nat × W64 × W64) × W64 :=
  lanes.foldl (fun r l =>
    let acc := redCombine op t ftz r.2 (src l)
    (r.1 ++ [(l, r.2, acc)], acc)) ([], redIdent op t)

/-- `WRED` (21 R439, R440). -/
def execWred (x : FWred) (s : State) : Host.Outcome State Fault Refusal :=
  .next (issueW (.wred x) s (fun e =>
    let w64 := DTy.is64 x.ty
    let acc := (redScan x.op x.ty (fmtFtz e.w.fmt) (fun l => rdReg e.w w64 l x.a) (lanesOf e.act)).2
    if x.cls = .acc then wrReg e.w false 0 x.d acc else perLane e .vec x.d w64 (fun _ => acc)))

/-- `WSCAN` (21 R439, R440). A lane's element is the captured operand where vD is vA as well (log 81). -/
def execWscan (x : FWscan) (s : State) : Host.Outcome State Fault Refusal :=
  .next (issueW (.wscan x) s (fun e =>
    let w64 := DTy.is64 x.ty
    (redScan x.op x.ty (fmtFtz e.w.fmt) (fun l => rdReg e.w w64 l x.a) (lanesOf e.act)).1.foldl
      (fun w r => wrReg w w64 r.1 x.d (if x.ex then r.2.1 else r.2.2)) e.w))

end Sys2Proof.Machine
end

