-- ==== Sys2Proof/Machine/Tier.lean ====
section
/-! DEFINITION. Where a physical byte lives: the address map (06 R142), the HBM placement (09 R209) and the access checks
that follow from them; the routes of the package network (08 R203). -/

namespace Sys2Proof.Machine

/-- Regions of the physical address space (06 Table 6-6). -/
inductive Region | hbm | lpddr | exp0 | exp1 | cfg | host | none
deriving DecidableEq, Repr

def regionOf (pa : Nat) : Region :=
  if pa < 0x8000000000 then .hbm
  else if 0x10000000000 ≤ pa && pa < 0x1C000000000 then .lpddr
  else if 0x40000000000 ≤ pa && pa < 0x80000000000 then .exp0
  else if 0x80000000000 ≤ pa && pa < 0xC0000000000 then .exp1
  else if 0x7E0000000000 ≤ pa && pa < 0x800000000000 then .cfg
  else if 0x800000000000 ≤ pa && pa < 0x1000000000000 then .host
  else .none

/-- CAPACITY (09 Table 9-3). -/
def State.capacity (s : State) : Nat := s.pkg.tier.n * 0x1000000000

/-- The stack at a survivor index of a list (09 R209). -/
def survStack (map : BitVec 24) (i : Nat) : Nat := bits map.toNat (3 * i + 2) (3 * i)

/-- A migration runs: MPHASE is odd (09 Table 9-3). -/
def Tier.migrating (t : Tier) : Bool := t.mphase.getLsbD 0

/-- The site that holds a granule under the current view (09 R209, Table 9-7). -/
def granSite (t : Tier) (g : Nat) : Nat :=
  if Tier.migrating t && g < t.migw && !t.moved.contains g then survStack t.oldmap (g % max 1 t.nold)
  else survStack t.map (g % max 1 t.n)

/-- The home of a line: a site, or the FED (06 Table 6-6). -/
def State.homeOf (s : State) (line : Nat) : Nat :=
  let pa := 64 * line
  if regionOf pa = .hbm then granSite s.pkg.tier (pa / 4096) else Config.fed

/-- The expander's window offset is beyond the attached size, or the expander is off (06 R142, 09 R235). -/
def expMissing (size : Nat) (off : Nat) : Bool := size ≤ off

/-- The cause of an access by a core or engine that reaches no byte: 18 or 19 (06 R142). A home out of service or
an expander that is off counts only for an access that leaves the caches (08 Table 8-9, 09 R235, R236). -/
def State.mapCause (s : State) (pa : Nat) (cached : Bool) : Option Nat :=
  match regionOf pa with
  | .hbm =>
    if pa ≥ s.capacity then some 18
    else if !cached && !s.onlineSite (s.homeOf (pa / 64)) then some 19
    else none
  | .lpddr => none
  | .exp0 =>
    if expMissing s.pkg.exp.size0 (pa - 0x40000000000) || (!cached && s.pkg.exp.off0) then some 19 else none
  | .exp1 =>
    if expMissing s.pkg.exp.size1 (pa - 0x80000000000) || (!cached && s.pkg.exp.off1) then some 19 else none
  | .host => none
  | .cfg | .none => some 19

/-- An expander line whose region is off: its dirty bytes are discarded and counted (09 R236). -/
def State.expOff (s : State) (line : Nat) : Bool :=
  match regionOf (64 * line) with
  | .exp0 => s.pkg.exp.off0
  | .exp1 => s.pkg.exp.off1
  | _ => false

/-- One more discarded dirty line, saturating (09 Table 9-14). -/
def State.countLost (s : State) (line : Nat) : State :=
  match regionOf (64 * line) with
  | .exp0 => s.updPkg (fun p => { p with exp := { p.exp with lost0 := min 0xFFFF (p.exp.lost0 + 1) } })
  | .exp1 => s.updPkg (fun p => { p with exp := { p.exp with lost1 := min 0xFFFF (p.exp.lost1 + 1) } })
  | _ => s

/-- The incarnation of a node (08 R204): the FED's is 0. -/
def State.inc (s : State) (n : Nat) : Nat := mget 0 s.pkg.inc n

/-! ### Links and routes (01 Table 1-1, 08 R203) -/

/-- The endpoints of a link: row neighbours, columns, second columns, wraps, FED links. -/
def linkEnds : List (Nat × Nat) :=
  [(0, 1), (1, 2), (2, 3), (4, 5), (5, 6), (6, 7), (0, 4), (1, 5), (2, 6), (3, 7), (0, 4), (3, 7), (0, 3), (4, 7),
   (8, 1), (8, 2), (8, 5), (8, 6)]

def State.link (s : State) (i : Nat) : Link := mget { width := 0 } s.pkg.links i
def State.updLink (s : State) (i : Nat) (f : Link → Link) : State :=
  s.updPkg (fun p => { p with links := mset p.links i (f (mget { width := 0 } p.links i)) })

/-- Links along a row between columns. -/
def rowRoute (row c c' : Nat) : List Nat :=
  if (c = 0 && c' = 3) || (c = 3 && c' = 0) then [12 + row]
  else (List.range 3).filterMap (fun i => if min c c' ≤ i && i < max c c' then some (3 * row + i) else none)

/-- The column link at a column: at a row end the first one in service. -/
def colLink (s : State) (c : Nat) : Nat :=
  if c = 0 && (s.link 6).width = 0 then 10 else if c = 3 && (s.link 9).width = 0 then 11 else 6 + c

/-- The centre die through which a die reaches the FED. -/
def centreOf (d : Nat) : Nat := if d = 0 then 1 else if d = 3 then 2 else if d = 4 then 5 else if d = 7 then 6 else d
/-- The FED link of a centre die. -/
def fedLink (d : Nat) : Nat := if d = 1 then 14 else if d = 2 then 15 else if d = 5 then 16 else 17

/-- The route fixed at enumeration. -/
def baseRoute (s : State) (a b : Nat) : List Nat :=
  if a = b then []
  else if a = 8 then fedLink (centreOf b) :: rowRoute (b / 4) (centreOf b % 4) (b % 4)
  else if b = 8 then rowRoute (a / 4) (a % 4) (centreOf a % 4) ++ [fedLink (centreOf a)]
  else rowRoute (a / 4) (a % 4) (b % 4) ++ (if a / 4 = b / 4 then [] else [colLink s (b % 4)])

/-- Nodes reached from a list of nodes over links that satisfy p, in n rounds. -/
def reach (p : Nat → Bool) : Nat → List Nat → List Nat
  | 0, l => l
  | n + 1, l =>
    reach p n (l ++ ((List.range 9).filter (fun x => !l.contains x && (List.range 18).any (fun i =>
      match linkEnds[i]? with
      | some (a, b) => p i && ((a = x && l.contains b) || (b = x && l.contains a))
      | none => false))))

/-- The distance of a node from the FED over the links in service. -/
def fedLevel (s : State) (x : Nat) : Nat :=
  ((List.range 9).find? (fun n => (reach (fun i => (s.link i).width != 0) n [8]).contains x)).getD 99

/-- The links from a node up to the FED (08 R203, up*/down*). -/
def upPath (s : State) : Nat → Nat → List Nat
  | 0, _ => []
  | n + 1, x =>
    if x = 8 then []
    else match (List.range 18).find? (fun i => match linkEnds[i]? with
        | some (a, b) => (s.link i).width != 0 &&
            ((a = x && fedLevel s b < fedLevel s x) || (b = x && fedLevel s a < fedLevel s x))
        | none => false) with
      | none => []
      | some i => match linkEnds[i]? with
        | some (a, b) => i :: upPath s n (if a = x then b else a)
        | none => []

/-- The links a packet crosses: as enumerated, or up and then down once a link is disabled; none where a node has no link
left to the FED. -/
def route (s : State) (a b : Nat) : List Nat :=
  if a = b then []
  else if !s.pkg.rerouted then baseRoute s a b
  else
    let u := upPath s 9 a
    let v := upPath s 9 b
    if (a != 8 && u.isEmpty) || (b != 8 && v.isEmpty) then []
    else u.filter (fun i => !v.contains i) ++ (v.filter (fun i => !u.contains i)).reverse

/-- A packet can travel between two nodes. -/
def State.reaches (s : State) (a b : Nat) : Bool := a = b || !(route s a b).isEmpty

/-- A service that is performed whole crosses the links between two nodes, which wakes them (08 R205). -/
def cross (s : State) (a b : Nat) : State :=
  (route s a b).foldl (fun s i => s.updLink i (fun l => { l with asleep := false, lastFlit := s.ctl.time })) s

/-- A link that a packet can cross now. -/
def linkOpen (s : State) (i : Nat) : Bool := (s.link i).width != 0 && !(s.link i).asleep

/-- Every link of a packet's route is open; a snoop sent again goes by any route (08 R205). -/
def routeOpen (s : State) (m : Msg) : Bool :=
  m.src = m.dst ||
  (if m.retried then (reach (linkOpen s) 9 [m.src]).contains m.dst
   else
    let r := route s m.src m.dst
    !r.isEmpty && r.all (linkOpen s))

/-- A packet enters the network. -/
def send (s : State) (m : Msg) : State :=
  let n := s.freshId
  let m1 : Msg := { m with id := n.1, inc := n.2.inc m.src, ph := n.2.pkg.tier.mphase.toNat % 256, time := s.ctl.time,
                           clock := s.ctl.clock }
  let s1 : State := { n.2 with net := n.2.net ++ [m1] }
  (route s1 m.src m.dst).foldl (fun s i => s.updLink i (fun l => { l with lastFlit := s.ctl.time })) s1

/-- The node is in service: the FED, or an online die. -/
def nodeUp (s : State) (n : Nat) : Bool := n = Config.fed || s.onlineSite n

/-- The header checks of a receiver (08 R204); the incarnation of a die in reset is invalid (08 Table 8-9). -/
def incOk (s : State) (m : Msg) : Bool :=
  nodeUp s m.src && nodeUp s m.dst && m.inc = s.inc m.src && (match m.kind with
    | .answer _ _ _ | .data _ | .ack | .replay _ | .accessError => m.rinc = s.inc m.dst
    | _ => true)

/-! ### Error and loss logs (08 R207, 09 R220) -/

/-- A record enters a ring of `n` entries whose counters run modulo 2n; a full ring sets OVF instead. -/
def ringAdd (n : Nat) (r : LogRing) (e : LogEnt) : LogRing :=
  if (r.head + 2 * n - r.tail) % (2 * n) = n then { r with ovf := true }
  else { r with ents := mset r.ents (r.head % n) e, head := (r.head + 1) % (2 * n) }

/-- A write of the tail counter; one that leaves more than a ring behind the head is ignored. -/
def ringTail (n : Nat) (r : LogRing) (v : Nat) : LogRing :=
  if (r.head + 2 * n - v % (2 * n)) % (2 * n) > n then r else { r with tail := v % (2 * n) }

/-- The stack-local address of a physical address (09 R209). -/
def slaOf (t : Tier) (pa : Nat) : Nat :=
  let g := pa / 4096
  let n := if Tier.migrating t && g < t.migw && !t.moved.contains g then t.nold else t.n
  g / max 1 n * 4096 + pa % 4096

/-- A stack error record of a kind for a line (09 Tables 9-1 and 9-8). -/
def stackRec (stack sla kind : Nat) : LogEnt :=
  let a := sla / 64 * 64
  { lo := BitVec.ofNat 64 (kind * 2 ^ 56 + stack * 2 ^ 53 + (bits a 12 8 ^^^ bits a 23 19 ^^^ bits a 28 24) * 2 ^ 48 +
      (bits a 14 13 ^^^ bits a 30 29) * 2 ^ 46 + (bits a 16 15 ^^^ bits a 32 31) * 2 ^ 44 + bits a 35 19 * 2 ^ 27 +
      (bits a 18 17 * 256 + bits a 7 0) * 2 ^ 17) }

/-- An error of an HBM line is logged with its stack, and Tchidal is interrupted (09 R220, R221); an uncorrectable error of
LPDDR6 is logged with Tchidal (09 R223). -/
def stackError (s : State) (pa kind : Nat) : State :=
  if regionOf pa = .lpddr then (if kind = 2 then s.raise (.lpddrError (pa / 64)) else s)
  else if regionOf pa != .hbm then s
  else
    let st := granSite s.pkg.tier (pa / 4096)
    (s.updDie st (fun d => { d with elog := ringAdd 1024 d.elog (stackRec st (slaOf s.pkg.tier pa) kind) })).raise (.stackError st)

/-- What an access's outcome logs (09 R221). -/
def logOutcome (s : State) (pa : Nat) : SegOutcome → State
  | .done => s
  | .corrected => stackError s pa 1
  | .degraded => stackError s pa 4
  | .failed c => if c = 19 then stackError s pa 2 else s

/-- A loss-log record of a home (08 Table 8-10). -/
def lossRecord (s : State) (n line kind site inc : Nat) : State :=
  let e : LogEnt := { lo := BitVec.ofNat 64 (64 * line), hi := BitVec.ofNat 64 (inc * 2 ^ 16 + site * 2 ^ 8 + kind) }
  (s.updHome n (fun h => { h with loss := ringAdd 256 h.loss e })).raise (.loss n)

/-! ### Bytes at the memory controllers -/

/-- A byte of memory; an unlisted byte reads 0 (log 3). -/
def memByte (m : List Host.Cell) (pa : Nat) : Byte := mget 0#8 m pa
/-- A byte written, the canonical form kept. -/
def memPut (m : List Host.Cell) (pa : Nat) (b : Byte) : List Host.Cell := mput 0#8 m pa b
/-- The canonical form: addresses rise strictly and no byte is 0. -/
abbrev Memory.wf (m : List Host.Cell) : Prop := mcanon 0#8 m = true
/-- The bytes of a map of line offsets written at their addresses. -/
def memPutLine (m : List Host.Cell) (line : Nat) (d : SMap Byte) : List Host.Cell :=
  d.foldl (fun m e => memPut m (64 * line + e.1) e.2) m

end Sys2Proof.Machine
end

