-- ==== Sys2Proof/Machine/Coh.lean ====
section
/-! DEFINITION. Lines at their homes and in the RDCs: directories, snoops and the home's service of Table 8-5 done
whole (08 R187 to R200); marking residencies stale (05 R130). -/

namespace Sys2Proof.Machine

/-! ### Residencies (05 R130) -/

/-- An entry that a condition of its source makes stale: loading, resident, pinned or evicted (05 Table 5-8). -/
def staleHit (p : RtEnt → Bool) (e : RtEnt) : Bool := p e && 1 ≤ e.state.toNat && e.state.toNat ≤ 4

/-- Every residency whose source meets a condition becomes stale; a load of one stops (05 Table 5-8). -/
def markWhere (s : State) (p : RtEnt → Bool) : State :=
  { s with cores := s.cores.map (fun c =>
      let hit := c.2.rt.filter (fun e => staleHit p e.2)
      if hit.isEmpty then c
      else (c.1, { c.2 with rt := c.2.rt.map (fun e => (e.1, if staleHit p e.2 then { e.2 with state := 5#3 } else e.2))
                            resl := c.2.resl.map (fun r =>
                              if hit.any (fun e => e.1 = r.idx) then { r with stopping := true } else r) })) }

/-- The residency records a physical page. -/
def RtEnt.records (e : RtEnt) (page : Nat) : Bool := e.pages.any (fun p => p.2 = page)

/-- A write to a physical page marks every residency that records it stale. -/
def markStale (s : State) (page : Nat) : State := markWhere s (fun e => e.records page)

/-! ### Lines at the home -/

def State.homeLine? (s : State) (n line : Nat) : Option HomeLine := mfind (s.home n).lines line
def State.setHomeLine (s : State) (n line : Nat) (l : HomeLine) : State :=
  s.updHome n (fun h => { h with lines := mset h.lines line l })

/-- A line leaves the home's cache: its dirty bytes go to the memory controller, and DT rises past its lease
(08 Table 8-1). -/
def evictHome (s : State) (n line : Nat) : State :=
  match s.homeLine? n line with
  | none => s
  | some l =>
    let s1 : State := { s with mem := memPutLine s.mem line l.data }
    s1.updHome n (fun h => { h with lines := mdel h.lines line, dt := max h.dt (l.rts + 1) })

/-- The quota of a class on a die: a value above 32 acts as 32 (06 Table 6-7). -/
def State.l2quota (s : State) (n cls : Nat) : Nat := min 32 (mget 32 (s.die n).l2cq cls)

/-- Sets of a home's cache: an L2 of 512 MiB and 32 ways, or the FED's cache of 256 MiB and 16 ways (06 Table 6-5; log 8). -/
def l2Sets : Nat := 262144
/-- Ways of a home's cache. -/
def homeWays (n : Nat) : Nat := if n = Config.fed then 16 else 32
/-- A line that a home's cache does not keep: on a die the class has quota 0 (06 R143); the FED caches LPDDR6 lines alone (06
Table 6-5). -/
def State.passes (s : State) (n line cls : Nat) : Bool :=
  if n = Config.fed then regionOf (64 * line) != .lpddr else s.l2quota n cls = 0

/-- The least recently used entry of a list. -/
def oldest (l : List (Nat × HomeLine)) : Option Nat :=
  (l.foldl (fun (b : Option (Nat × HomeLine)) e => match b with
    | none => some e
    | some x => if e.2.used < x.2.used then some e else b) none).map (·.1)

/-- The victim of a fill of class c in a full set (06 R143); the FED's cache has no quotas. -/
def l2Victim (s : State) (n cls : Nat) (set : List (Nat × HomeLine)) : Option Nat :=
  let held := fun c => (set.filter (fun e => e.2.cls = c)).length
  match oldest (set.filter (fun e => e.2.ef)) with
  | some v => some v
  | none =>
    if n = Config.fed then oldest set
    else if held cls ≥ s.l2quota n cls then oldest (set.filter (fun e => e.2.cls = cls))
    else match oldest (set.filter (fun e => held e.2.cls > s.l2quota n e.2.cls)) with
      | some v => some v
      | none => oldest set

/-- A line is brought into its home's cache: wts and rts are DT (08 Table 8-1). A hit clears eviction-first, and one by
another chain retags it (06 R144, R145). A line that the cache does not keep displaces none. -/
def touchHome (s : State) (n line cls chain : Nat) (ef : Bool) : State :=
  match s.homeLine? n line with
  | some l =>
    s.setHomeLine n line { l with used := s.ctl.clock, ef := false, chain := if chain = 0 then l.chain else chain }
  | none =>
    let pass := s.passes n line cls
    let set := (s.home n).lines.filter (fun e => e.1 % l2Sets = line % l2Sets && !e.2.pass)
    let s1 :=
      if pass || set.length < homeWays n then s else match l2Victim s n cls set with
        | none => s
        | some v => evictHome s n v
    let dt := (s1.home n).dt
    s1.setHomeLine n line { wts := dt, rts := dt, cls := cls, chain := chain, ef := ef, used := s.ctl.clock, pass := pass }

/-- A line that the cache does not keep goes once its access is served; a written quota evicts nothing (06 R143). -/
def settleHome (s : State) (n line : Nat) : State :=
  match s.homeLine? n line with
  | none => s
  | some l => if l.pass then evictHome s n line else s

/-- A read that allocates nothing hits a line of the cache: the hit clears eviction-first (06 R145). -/
def hitHome (s : State) (n line : Nat) : State :=
  match s.homeLine? n line with
  | none => s
  | some l => s.setHomeLine n line { l with used := s.ctl.clock, ef := false }

/-- A byte of a line as its home holds it. -/
def State.homeByte (s : State) (line off : Nat) : Byte :=
  match s.homeLine? (s.homeOf line) line with
  | none => memByte s.mem (64 * line + off)
  | some l => (mfind l.data off).getD (memByte s.mem (64 * line + off))

/-- The line as its home holds it. -/
def State.homeBytes (s : State) (line : Nat) : SMap Byte := (List.range 64).map (fun o => (o, s.homeByte line o))

/-- Before a write at the home to a page in PS, the host's copies of it are invalidated (08 R199): the page is in PN (log 73). -/
def hostBack (s : State) (n page : Nat) : State :=
  match mfind (s.home n).pages page with
  | none => s
  | some e =>
    if e.state = 2 then s.updHome n (fun h => { h with pages := mset h.pages page { e with state := 1, recallAt := none } }) else s

/-- Bytes written at the home: one write per byte. `p` is the causing core's pts where that core is on the home die,
none otherwise (08 R188). The second result is the line's new wts. -/
def homePut (s : State) (line : Nat) (bytes : SMap Byte) (p : Option Nat) (cls chain : Nat) (ef : Bool) : State × Nat :=
  let n := s.homeOf line
  if s.expOff line then (s.countLost line, 0)
  else
    let s1 := touchHome (hostBack s n (line / 64)) n line cls chain ef
    let l : HomeLine := (s1.homeLine? n line).getD {}
    let w := max (max (p.getD 0) (s1.home n).dt) (l.rts + 1)
    let l1 : HomeLine := { l with wts := w, rts := w, data := bytes.foldl (fun d e => mset d e.1 e.2) l.data }
    let s2 := (s1.setHomeLine n line l1).updHome n (fun h => { h with dt := max h.dt w })
    (settleHome s2 n line, w)

/-- The bytes of a line reach its memory controller (07 Table 7-2 .sy). -/
def flushHome (s : State) (line : Nat) : State :=
  let n := s.homeOf line
  match s.homeLine? n line with
  | none => s
  | some l => ({ s with mem := memPutLine s.mem line l.data } : State).setHomeLine n line { l with data := [] }

/-! ### RDCs -/

def State.rdc? (s : State) (d line : Nat) : Option RdcLine := mfind (s.die d).rdc line
def State.setRdc (s : State) (d line : Nat) (x : RdcLine) : State :=
  s.updDie d (fun i => { i with rdc := mset i.rdc line x })

/-- The dirty bytes of a copy. -/
def Copy.dirtyBytes (c : Copy) : SMap Byte := c.data.filter (fun e => c.dirty.getLsbD e.1)
/-- The copy with no byte dirty. -/
def Copy.clean (c : Copy) : Copy := { c with dirty := 0#64 }

/-- An RDC copy goes: DT rises past its lease (08 Table 8-1). -/
def dropRdc (s : State) (d line : Nat) : State :=
  match s.rdc? d line with
  | none => s
  | some x =>
    let s1 := s.updDie d (fun i => { i with rdc := mdel i.rdc line })
    s1.updHome d (fun h => { h with dt := max h.dt (x.copy.rts + 1) })

/-- The dirty bytes that a die's RDC holds of a line. -/
def State.rdcDirty (s : State) (d line : Nat) : SMap Byte :=
  match s.rdc? d line with
  | none => []
  | some x => Copy.dirtyBytes x.copy

/-! ### Directories -/

def State.dirEnt (s : State) (n line : Nat) : DirEnt := mget {} (s.home n).dir line
/-- The set of a directory (08 R192). The FED's directory of host lines is another than that of its LPDDR6 and expander
lines. -/
def dirSet (line : Nat) : Nat := line % 65536 + (if regionOf (64 * line) = .host then 65536 else 0)
def State.putDir (s : State) (n line : Nat) (e : DirEnt) : State :=
  s.updHome n (fun h => { h with dir := mput {} h.dir line e })
def dirS (sh : BitVec 8) : DirEnt := if sh = 0#8 then {} else { state := 1#2, sharers := sh }
def dirE (d : Nat) : DirEnt := { state := 2#2, owner := BitVec.ofNat 4 d }
def dirM (d : Nat) : DirEnt := { state := 3#2, owner := BitVec.ofNat 4 d }
def siteBit (d : Nat) : BitVec 8 := 1#8 <<< d
/-- The owner of an entry in E or M. -/
def DirEnt.ownerOf (e : DirEnt) : Option Nat := if e.state.toNat ≥ 2 then some e.owner.toNat else none
/-- The sites of a sharer vector. -/
def sitesOf (v : BitVec 8) : List Nat := (List.range 8).filter (fun i => v.getLsbD i)

/-- A line has a request in service at its home, or an answer or snoop in flight: it is served in order (08 R193). -/
def State.lineHeld (s : State) (line : Nat) : Bool :=
  (s.home (s.homeOf line)).held.any (fun h => h.req.line = line) ||
  s.net.any (fun m => m.line = line && (match m.kind with
    | .snoop _ | .answer _ _ _ | .data _ | .ack | .discovery => true
    | _ => false))

/-- The entries of the directory set of a line. -/
def State.dirWays (s : State) (n line : Nat) : SMap DirEnt := (s.home n).dir.filter (fun e => dirSet e.1 = dirSet line)

/-- A line without an entry has a full set whose every line is in service: no way can be freed yet. -/
def State.dirStuck (s : State) (line : Nat) : Bool :=
  let n := s.homeOf line
  (mfind (s.home n).dir line).isNone && (s.dirWays n line).length ≥ 16 && (s.dirWays n line).all (fun e => s.lineHeld e.1)

/-- The home has no way to a die that a snoop of the line must ask: the owner, or every die of a discovery (08 R195). The
request stays held until it has, or the die is reset (08 R205; log 7). -/
def State.snoopCut (s : State) (line : Nat) : Bool :=
  let n := s.homeOf line
  let dies := match mfind (s.home n).dir line with
    | some e => (DirEnt.ownerOf e).toList
    | none => if mget 0 (s.home n).drop (dirSet line) = 0 then [] else (List.range 8).filter s.onlineSite
  dies.any (fun x => !s.reaches n x)

/-- A request for the line waits. -/
def State.lineBusy (s : State) (line : Nat) : Bool := s.lineHeld line || s.dirStuck line || s.snoopCut line

/-- The die whose WB or EVN of the line a packet carries, the replay of one to its sender included (08 Table 8-6, 09 R218). -/
def Msg.evictor (m : Msg) : Option Nat :=
  match m.kind with
  | .req .wb | .req .evn => some m.src
  | .replay .wb | .replay .evn => some m.dst
  | _ => none

/-- An eviction of the line by the die is on its way to the home. -/
def evictionInFlight (s : State) (d line : Nat) : Bool :=
  s.net.any (fun m => m.line = line && m.evictor == some d && incOk s m)

/-- A drop count falls by 1 unless it is 15 (08 R195). -/
def lessDrop (s : State) (n line : Nat) : State :=
  s.updHome n (fun h =>
    let k := mget 0 h.drop (dirSet line)
    if k = 0 || k = 15 then h else { h with drop := mput 0 h.drop (dirSet line) (k - 1) })

/-- A WB or EVN of die d retires its entry, or counts against the drops of a set that has none (08 Table 8-5, R195). -/
def retireEnt (s : State) (n line d : Nat) : State :=
  match mfind (s.home n).dir line with
  | none => lessDrop s n line
  | some e =>
    if DirEnt.ownerOf e = some d then s.putDir n line {}
    else if e.state = 1#2 then s.putDir n line (dirS (e.sharers &&& ~~~siteBit d)) else s

/-- The evictions in flight that satisfy p are taken at the home: a service of their line gets their bytes as a snoop's answer
(08 Table 8-6). -/
def takeEvicts (s : State) (p : Msg → Nat → Bool) : State :=
  (s.net.filter (fun m => incOk s m && (match m.evictor with
    | some d => p m d
    | none => false))).foldl (fun s m =>
      let s1 : State := { s with net := s.net.filter (fun y => y.id != m.id) }
      let s2 := if m.bytes.isEmpty then s1 else (homePut s1 m.line m.bytes none m.cls m.chain false).1
      retireEnt s2 (s2.homeOf m.line) m.line ((m.evictor).getD 0)) s

/-- The dirty bytes that a die's RDC holds of a line are written at the home, under the CLASS and CHAIN by which the die got it (06
R143, R144). -/
def ownerHome (s : State) (line d : Nat) : State :=
  match s.rdc? d line with
  | none => s
  | some x =>
    let b := Copy.dirtyBytes x.copy
    if b.isEmpty then s else (homePut s line b none x.copy.cls x.copy.chain false).1

/-- Every RDC copy but die d's is invalidated, an owner's dirty bytes going to the home first (08 Table 8-5). -/
def recallEnt (s0 : State) (line d : Nat) : State :=
  let n := s0.homeOf line
  let e := s0.dirEnt n line
  match DirEnt.ownerOf e with
  | some x =>
    if x = d then s0
    else
      (dropRdc (cross (ownerHome s0 line x) n x) x line).putDir n line {}
  | none =>
    let s1 := (sitesOf (e.sharers &&& ~~~siteBit d)).foldl (fun s x => dropRdc (cross s n x) x line) s0
    s1.putDir n line (dirS (e.sharers &&& siteBit d))

/-- A directory set that needs a way drops an E entry, or recalls an S or M entry, of a line that is not in service (08 R194):
the one of the lowest line number (log 60). -/
def dirRoom (s : State) (n line : Nat) : State :=
  let set := s.dirWays n line
  if (mfind (s.home n).dir line).isSome || set.length < 16 then s
  else
    let free := set.filter (fun e => !s.lineHeld e.1)
    match free.find? (fun e => e.2.state = 2#2) with
    | some e =>
      s.updHome n (fun h => { h with dir := mdel h.dir e.1,
                                     drop := mput 0 h.drop (dirSet line) (min 15 (mget 0 h.drop (dirSet line) + 1)) })
    | none =>
      match free with
      | [] => s
      | e :: _ => recallEnt (takeEvicts s (fun m _ => m.line = e.1)) e.1 99

/-- An entry is rebuilt for an owner that a discovery found (08 R195). -/
def rebuild (s : State) (n line x : Nat) : State :=
  let m : Bool := match s.rdc? x line with
    | some r => r.st == 3
    | none => false
  lessDrop ((dirRoom s n line).putDir n line (if m then dirM x else dirE x)) n line

/-- A directory miss in a set with drops: the dies in service are asked (08 R195), by the links to them (R205). -/
def discoverNow (s : State) (line d : Nat) : State :=
  let n := s.homeOf line
  let h := s.home n
  if (mfind h.dir line).isSome || mget 0 h.drop (dirSet line) = 0 then s
  else
    let dies := (List.range 8).filter (fun x => x != d && s.onlineSite x)
    let s1 := dies.foldl (fun s x => cross s n x) s
    match dies.find? (fun x =>
        match s.rdc? x line with
        | some r => r.st ≥ 2
        | none => false) with
    | none => s1
    | some x => rebuild s1 n line x

/-- The home takes the evictions of the line that are in flight, and finds an owner whose entry was dropped: what every service
performed whole does first (08 R195, Table 8-6). -/
def settleLine (s : State) (line d : Nat) : State := discoverNow (takeEvicts s (fun m _ => m.line = line)) line d

/-- Every RDC copy but die d's is invalidated, whatever the directory has dropped. -/
def recallAll (s : State) (line d : Nat) : State := recallEnt (settleLine s line d) line d

/-- An owner's dirty bytes are written at the home; the owner keeps its state (08 Table 8-5, RDNC). -/
def pullDirty (s : State) (line : Nat) : State :=
  let s0 := settleLine s line 99
  let n := s0.homeOf line
  match DirEnt.ownerOf (s0.dirEnt n line) with
  | none => s0
  | some x =>
    if (s0.rdcDirty x line).isEmpty then s0
    else
      let s1 := ownerHome (cross s0 n x) line x
      match s1.rdc? x line with
      | none => s1
      | some r => s1.setRdc x line { r with copy := Copy.clean r.copy }

/-! ### Page tracking (08 R197 to R200) -/

def State.pageEnt? (s : State) (n page : Nat) : Option PageEnt := mfind (s.home n).pages page

/-- A die obtains a line of a page that has an entry: it joins PSHR (08 R198). For host memory the FED keeps PSHR for every
page (08 R200). -/
def addPshr (s : State) (n line d : Nat) : State :=
  let s1 :=
    if regionOf (64 * line) = .host then
      s.updHome n (fun h => { h with hostShr := mupd 0#8 h.hostShr (line / 64) (fun v => v ||| siteBit d) })
    else s
  match s1.pageEnt? n (line / 64) with
  | none => s1
  | some e =>
    s1.updHome n (fun h => { h with pages := mset h.pages (line / 64) { e with pshr := e.pshr ||| siteBit d } })

/-- A die's access to a page: in PE the page is recalled from the host and goes to PN; before a write in PS the host's
copies are invalidated (08 R199). -/
def dieAccess (s : State) (n page : Nat) : State :=
  match s.pageEnt? n page with
  | none => s
  | some e =>
    if e.state = 3 then s.updHome n (fun h => { h with pages := mset h.pages page { e with state := 1, recallAt := none } }) else s

/-- The lines of a page that a die's RDC holds are invalidated, dirty bytes going home (08 R199). -/
def pageSnoopDie (s0 : State) (page d : Nat) : State :=
  let s := takeEvicts s0 (fun m x => m.line / 64 = page && x = d)
  ((s.die d).rdc.filter (fun e => e.1 / 64 = page)).foldl (fun s e =>
    let s1 := ownerHome s e.1 d
    let n := s1.homeOf e.1
    let en := s1.dirEnt n e.1
    let en1 : DirEnt := if DirEnt.ownerOf en = some d then {} else if en.state = 1#2 then dirS (en.sharers &&& ~~~siteBit d) else en
    (dropRdc (cross s1 n d) d e.1).putDir n e.1 en1) s

/-- The first external access to a page in line mode: the handover; the least recently used entry of a full set goes
(08 R198, R200). The set is the page number modulo 4,096, and an entry is used by an external access alone (log 73). -/
def handover (s : State) (n page : Nat) : State :=
  if (s.pageEnt? n page).isSome then
    s.updHome n (fun h => { h with pages := mupd {} h.pages page (fun e => { e with used := s.ctl.clock }) })
  else
    let set := (s.home n).pages.filter (fun e => e.1 % 4096 = page % 4096)
    let s1 := if set.length < 16 then s else
      match set.foldl (fun (b : Option (Nat × PageEnt)) e => match b with
          | none => some e
          | some x => if e.2.used < x.2.used then some e else b) none with
      | none => s
      | some v => s.updHome n (fun h => { h with pages := mdel h.pages v.1 })
    let s2 := (List.range 8).foldl (fun s d => pageSnoopDie s page d) s1
    s2.updHome n (fun h => { h with pages := mset h.pages page { state := 1, used := s.ctl.clock } })

/-! ### Whole accesses at the home -/

/-- RDNC: a read at the home by an agent that caches nothing (08 Table 8-5). -/
def serveRead (s : State) (line : Nat) : State × SMap Byte :=
  let n := s.homeOf line
  let s1 := hitHome (pullDirty (dieAccess s n (line / 64)) line) n line
  (s1, s1.homeBytes line)

/-- WRNC: a write at the home by an agent that caches nothing, or a .dv atomic (08 Table 8-5, 07 R178). Every residency that
records the page is stale first (05 R130, log 61). -/
def serveWriteE (s : State) (line : Nat) (bytes : SMap Byte) (p : Option Nat) (cls chain : Nat) (ef : Bool) : State × Nat :=
  let s0 := markStale s (line / 64)
  let s1 := recallAll (dieAccess s0 (s0.homeOf line) (line / 64)) line 99
  homePut s1 line bytes p cls chain ef
/-- The same by an access that does not allocate eviction-first. -/
def serveWrite (s : State) (line : Nat) (bytes : SMap Byte) (p : Option Nat) (cls chain : Nat) : State × Nat :=
  serveWriteE s line bytes p cls chain false

/-- PUSH by die d at the home (08 Table 8-5): every other copy is invalidated and the bytes are written. A home out of service
or an expander that is off takes nothing (08 Table 8-11, 09 R236). -/
def pushHome (s : State) (line d : Nat) (bytes : SMap Byte) (p : Option Nat) (cls chain : Nat) (ef : Bool) : State × Nat :=
  let n := s.homeOf line
  if s.expOff line then (s.countLost line, 0)
  else if n != Config.fed && !s.onlineSite n then (s, 0)
  else
    let s1 := dieAccess (recallAll (cross s d n) line d) n (line / 64)
    homePut s1 line bytes (if n = d then p else none) cls chain ef

/-- PUSH by die d of bytes that its RDC does not own: d's RDC copy, if any, takes them too (08 Table 8-5), as a write performed
at the die's manager (08 Table 8-1). -/
def servePush (s : State) (line d : Nat) (bytes : SMap Byte) (p : Option Nat) (cls chain : Nat) (ef : Bool) : State × Nat :=
  let r := pushHome s line d bytes p cls chain ef
  if s.homeOf line = d then r
  else match r.1.rdc? d line with
    | none => r
    | some x =>
      let w := max (max (p.getD 0) (r.1.home d).dt) (x.copy.rts + 1)
      let c : Copy := { x.copy with wts := w, rts := w, data := bytes.foldl (fun m e => mset m e.1 e.2) x.copy.data }
      (((r.1.setRdc d line { x with copy := c }).updHome d (fun h => { h with dt := max h.dt w })), w)

/-- The dirty bytes a die's RDC holds of a line go on to its home (07 R176): the RDC keeps its state, and its copy, written
before, keeps its timestamps. -/
def pushRdc (s : State) (d line : Nat) : State :=
  match s.rdc? d line with
  | none => s
  | some x =>
    let b := Copy.dirtyBytes x.copy
    if b.isEmpty then s
    else (pushHome (s.setRdc d line { x with copy := Copy.clean x.copy }) line d b none x.copy.cls x.copy.chain false).1

/-! ### Bytes by physical address, for engines -/

/-- The lines of a run of physical bytes. -/
def linesOf (pa n : Nat) : List Nat := if n = 0 then [] else (List.range ((pa + n - 1) / 64 + 1 - pa / 64)).map (· + pa / 64)

/-- Bytes read at their homes (RDNC). -/
def readPhys (s : State) (pa n : Nat) : State × List Byte :=
  let s1 := (linesOf pa n).foldl (fun s l => (serveRead s l).1) s
  (s1, (List.range n).map (fun i => s1.homeByte ((pa + i) / 64) ((pa + i) % 64)))

/-- Bytes written at their homes (WRNC), eviction-first when `ef`, and on to the controller when `sy`. -/
def writePhysE (s : State) (pa : Nat) (l : List Byte) (cls chain : Nat) (ef sy : Bool) : State :=
  (linesOf pa l.length).foldl (fun s ln =>
    let b := (bytesAt pa l).filter (fun e => e.1 / 64 = ln)
    let s1 := (serveWriteE s ln (b.map (fun e => (e.1 % 64, e.2))) none cls chain ef).1
    if sy then flushHome s1 ln else s1) s
/-- The same by an access that does not allocate eviction-first. -/
def writePhys (s : State) (pa : Nat) (l : List Byte) (cls chain : Nat) (sy : Bool) : State := writePhysE s pa l cls chain false sy

/-- A little-endian number as its home holds it. -/
def State.peek (s : State) (pa n : Nat) : Nat :=
  leNat ((List.range n).map (fun i => s.homeByte ((pa + i) / 64) ((pa + i) % 64)))

/-- A dirty byte of a line that is on its way to its home, in an eviction or an answer, or that the home holds with a request whose
other answers are still to come: a read that comes while they travel is served after them (08 R193). -/
def State.flyByte (s : State) (line off : Nat) : Option Byte :=
  let home := ((s.home (s.homeOf line)).held.filter (fun h => h.req.line = line)).flatMap (·.answers)
  (home ++ s.net.filter (fun m => m.line = line && incOk s m && (match m.kind with
    | .answer _ _ _ => true
    | _ => m.evictor.isSome))).findSome? (fun m => mfind m.bytes off)

/-- A byte as a read at its home by an agent that caches nothing returns it: the owner's dirty byte, or the home's (08 Table
8-5, RDNC). -/
def State.snoopByte (s : State) (line off : Nat) : Byte :=
  ((s.dies.findSome? (fun d => (mfind d.2.rdc line).bind (fun x => mfind (Copy.dirtyBytes x.copy) off))).orElse
    (fun _ => s.flyByte line off)).getD (s.homeByte line off)
/-- A little-endian number read so. -/
def State.snoopNum (s : State) (pa n : Nat) : Nat :=
  leNat ((List.range n).map (fun i => s.snoopByte ((pa + i) / 64) ((pa + i) % 64)))

/-- A walk, a fetch or a read of a pool reads a line at its home (RDNC): an owner's dirty bytes come home, a page in PE is recalled,
and a hit clears eviction-first (08 Table 8-5, R199, 06 R145). A line in service has its snoop on the way already. -/
def readLine (s : State) (line : Nat) : State := if s.lineBusy line then s else (serveRead s line).1

/-- No line of a run of bytes is in service. -/
def State.idleRange (s : State) (pa n : Nat) : Bool := (linesOf pa n).all (fun l => !s.lineBusy l)

end Sys2Proof.Machine
end

