-- ==== Sys2Proof/Machine/Mem.lean ====
section
/-! DEFINITION. A core's side of memory: write buffers, L1 and CLC copies and their leases, drains and pushes,
releases and acquires (07 R168 to R177, 08 R188). -/

namespace Sys2Proof.Machine

/-! ### Copies and their leases -/

def State.clc (s : State) (k : Nat) : SMap Copy := mget [] s.clcs k
def State.setClc (s : State) (k line : Nat) (c : Copy) : State :=
  { s with clcs := mset s.clcs k (mset (s.clc k) line c) }
def State.delClc (s : State) (k line : Nat) : State := { s with clcs := mset s.clcs k (mdel (s.clc k) line) }
def State.setL1 (s : State) (core line : Nat) (c : Copy) : State :=
  s.updCore core (fun x => { x with l1 := mset x.l1 line c })
def State.delL1 (s : State) (core line : Nat) : State := s.updCore core (fun x => { x with l1 := mdel x.l1 line })
/-- The die of a core. -/
def State.dieOf (s : State) (core : Nat) : Nat := s.siteOf core
/-- Cores' logical time (08 R187). -/
def State.pts (s : State) (core : Nat) : Nat := (s.core core).pts
def State.raisePts (s : State) (core t : Nat) : State := s.updCore core (fun c => { c with pts := max c.pts t })

/-- The age bound of a lease that a die grants now, in cc (08 R190, R191). -/
def State.leaseBound (s : State) (d : Nat) : Nat := ((s.die d).ticks + 1) * (s.die d).tickcc

/-- A byte of a copy that passes the tag check (08 Table 8-1): the copy's own stores are judged by rts, the bytes of
the granted lease by that lease (log 9). -/
def copyByte (c : Copy) (pts now off : Nat) : Option Byte :=
  if now - c.fill ≥ c.bound then none
  else if pts ≤ (if c.dirty.getLsbD off then c.rts else c.grts) then mfind c.data off else none

/-- The newest store of the core's write buffers to a byte (07 R168). -/
def wbByte (c : Core) (pa : Nat) : Option Byte :=
  ((mget [] c.wb (pa / 64 % 4)).reverse.findSome? (fun e => (e.bytes.reverse.find? (fun x => x.1 = pa)).map (·.2)))

/-- A byte of a line's copy in an L1 or a CLC, on a tag hit of the core. -/
def State.hitByte (s : State) (core : Nat) (m : SMap Copy) (pa : Nat) : Option Byte :=
  (mfind m (pa / 64)).bind (fun x => copyByte x (s.pts core) s.ctl.clock (pa % 64))

/-- A byte from a core's L1, or from its cluster's CLC, on a tag hit. -/
def State.leasedByte (s : State) (core pa : Nat) : Option Byte :=
  match s.hitByte core (s.core core).l1 pa with
  | some v => some v
  | none => s.hitByte core (s.clc (s.clusterOf core)) pa

/-- A byte that the core has by its write buffers or its L1. -/
def State.nearByte (s : State) (core pa : Nat) : Option Byte :=
  match wbByte (s.core core) pa with
  | some v => some v
  | none => s.hitByte core (s.core core).l1 pa

/-- A byte that a load of the core can bind now: write buffers first, then L1, then CLC (07 R168). -/
def State.loadByte (s : State) (core pa : Nat) : Option Byte :=
  match wbByte (s.core core) pa with
  | some v => some v
  | none => s.leasedByte core pa

/-- All bytes of an access, when every one can be bound. -/
def State.loadBytes (s : State) (core pa n : Nat) : Option (List Byte) :=
  (List.range n).foldr (fun i r => match s.loadByte core (pa + i), r with
    | some v, some l => some (v :: l)
    | _, _ => none) (some [])

/-! ### Room in the L1 and the CLC (06 R140, R141, Table 6-5) -/

/-- Sets of 8 ways in the L1 share of a core: 384 KiB less 32 KiB for each scratchpad unit. -/
def l1Sets (c : Core) : Nat := 768 - 64 * c.spu
/-- Sets of 16 ways in a CLC: 4 MiB on a Deimos die, 2 MiB on a Phobos die. -/
def clcSets (s : State) (k : Nat) : Nat := if (s.fuse (k / 34)).level = 1 then 2048 else 4096

/-- The copy that makes room: one marked eviction-first, else the least recently used (log 8). -/
def copyVictim (l : SMap Copy) : Option Nat :=
  let old := fun (l : SMap Copy) => (l.foldl (fun (b : Option (Nat × Copy)) e => match b with
    | none => some e
    | some x => if e.2.used < x.2.used then some e else b) none).map (·.1)
  match old (l.filter (fun e => e.2.ef)) with
  | some v => some v
  | none => old l

/-- A core's L1 takes a copy of a line: in a full set another goes, clean, as the L1 writes through. -/
def fillL1 (s : State) (core line : Nat) (x : Copy) : State :=
  let c := s.core core
  let set := c.l1.filter (fun e => e.1 % l1Sets c = line % l1Sets c && e.1 != line)
  let s1 := if set.length < 8 then s else match copyVictim set with
    | none => s
    | some v => s.delL1 core v
  s1.setL1 core line { x with used := s.ctl.clock }

/-- The copies of a CLC that lie in the set of a line, that line apart. -/
def State.clcSet (s : State) (k line : Nat) : SMap Copy :=
  (s.clc k).filter (fun e => e.1 % clcSets s k = line % clcSets s k && e.1 != line)

/-- A CLC has no room for a line now: its set is full of dirty lines in service. -/
def State.clcFull (s : State) (k line : Nat) : Bool :=
  (mfind (s.clc k) line).isNone && (s.clcSet k line).length ≥ 16 &&
    (s.clcSet k line).all (fun e => e.2.dirty != 0#64 && s.lineBusy e.1)

/-- A load hits a copy in the CLC: a lease reply within the cluster, which raises pts to the copy's wts (08 Table 8-1, log
62), clears eviction-first (19 R354), and fills the L1 unless the load is .cg (11 R271). -/
def clcHit (s : State) (core line : Nat) (c : Cache) : State :=
  let k := s.clusterOf core
  match mfind (s.clc k) line with
  | some x =>
    if s.ctl.clock - x.fill < x.bound && s.pts core ≤ max x.rts x.grts then
      let y : Copy := { x with used := s.ctl.clock, ef := false }
      let s1 := (s.setClc k line y).raisePts core x.wts
      if c = .cg then s1 else fillL1 s1 core line { y with ef := c == .ef }
    else s
  | none => s

/-! ### Stores toward the CLC -/

/-- Mark bytes of a copy as written (08 Table 8-1). Of a copy made before, this is a hit, which clears eviction-first (19 R354). -/
def copyWrite (c : Copy) (w now : Nat) (bytes : SMap Byte) : Copy :=
  { c with
    wts := w
    rts := w
    used := now
    ef := c.ef && c.data.isEmpty
    data := bytes.foldl (fun m e => mset m e.1 e.2) c.data
    dirty := bytes.foldl (fun m e => m ||| (1#64 <<< e.1)) c.dirty
    firstDirty := if c.dirty = 0#64 then now else c.firstDirty }

/-! ### Pushes -/

/-- Bytes written in an RDC that owns the line: E becomes M with a dirty notice (08 R193). -/
def rdcWrite (s : State) (d line : Nat) (x : RdcLine) (bytes : SMap Byte) (p : Option Nat) : State × Nat :=
  let w := max (max (p.getD 0) (s.home d).dt) (x.copy.rts + 1)
  let s1 := (s.setRdc d line { x with st := 3, copy := copyWrite x.copy w s.ctl.clock bytes }).updHome d
    (fun h => { h with dt := max h.dt w })
  if x.st = 3 then (s1, w)
  else
    (send s1 { id := 0, kind := .req .dirtyNotice, src := d, dst := s1.homeOf line, line := line }, w)

/-- Dirty bytes that a CLC sends go to the line's manager (08 R188): an RDC of the die that owns the line, or the home, by PUSH
where it is another die's. Residencies that record the page since the store are stale first (05 R130). The second result is
the line's new wts. -/
def clcSend (s0 : State) (d line : Nat) (c : Copy) (p : Option Nat) : State × Nat :=
  let s := markStale s0 (line / 64)
  match if s.homeOf line = d then none else s.rdc? d line with
  | some x =>
    if x.st ≥ 2 then rdcWrite s d line x (Copy.dirtyBytes c) p
    else servePush s line d (Copy.dirtyBytes c) p c.cls c.chain c.ef
  | none => servePush s line d (Copy.dirtyBytes c) p c.cls c.chain c.ef

/-- Lease replies for a line that are on their way to a cluster whose dirty bytes have overtaken them fill nothing: the loads
ask again (07 R170, log 12). -/
def dropLeases (s : State) (k line : Nat) : State :=
  { s with net := s.net.filter (fun m => !(m.line = line && s.clusterOf m.core = k && (match m.kind with
      | .lease _ => true
      | _ => false))) }

/-- The copies of a line in the L1s of a cluster are clean: the bytes that its cores stored are the manager's now, and stay readable
for the lease that they were granted (07 R174, log 72). -/
def cleanL1s (s : State) (k line : Nat) : State :=
  { s with cores := s.cores.map (fun c => if s.clusterOf c.1 = k && (mfind c.2.l1 line).isSome then
      (c.1, { c.2 with l1 := mupd {} c.2.l1 line Copy.clean }) else c) }

/-- The CLC sends a line's dirty bytes to its manager and keeps the line clean (07 R176, 08 R188): a line of no one version of the
manager's. `core` is the core whose release causes it, none for an eviction. -/
def pushClc (s : State) (k line : Nat) (core : Option Nat) : State :=
  match mfind (s.clc k) line with
  | none => s
  | some c =>
    if (Copy.dirtyBytes c).isEmpty then s
    else
      let s1 := cleanL1s (s.setClc k line { Copy.clean c with gwts := none }) k line
      let r := clcSend (dropLeases s1 k line) (k / 34) line c (core.map (fun l => s.pts l))
      match core with
      | none => r.1
      | some l => r.1.raisePts l r.2

/-- A CLC makes room for a line: a victim's dirty bytes are pushed, and it goes (07 R168). -/
def clcRoom (s : State) (k line : Nat) : State :=
  if (mfind (s.clc k) line).isSome || (s.clcSet k line).length < 16 then s
  else match copyVictim ((s.clcSet k line).filter (fun e => e.2.dirty = 0#64 || !s.lineBusy e.1)) with
    | none => s
    | some v => (pushClc s k v none).delClc k v

/-- A store, or a .wp, .bk or .cl atomic, reaches the CLC (08 Table 8-1): every residency that records the page is stale first
(05 R130, log 61). -/
def clcWrite (s : State) (core line : Nat) (bytes : SMap Byte) (cls chain : Nat) (ef : Bool) : State :=
  let k := s.clusterOf core
  let s0 := clcRoom (markStale s (line / 64)) k line
  let new : Copy := { fill := s0.ctl.clock, bound := s0.leaseBound (s0.dieOf core), cls := cls, chain := chain, ef := ef }
  let c := mget new (s0.clc k) line
  let w := max (s0.pts core) (c.rts + 1)
  let s1 := (s0.setClc k line (copyWrite { c with cls := cls, chain := chain } w s0.ctl.clock bytes)).updCore core
    (fun x => { x with pts := w })
  match mfind (s1.core core).l1 line with
  | none => s1
  | some y => s1.setL1 core line (copyWrite y w s1.ctl.clock bytes)

/-- The oldest entry of a write buffer drains (07 R168), once the set of its line in the CLC has room (06 R141). -/
def drainOne (s : State) (core buf : Nat) : State :=
  match mget [] (s.core core).wb buf with
  | [] => s
  | e :: t =>
    if e.bytes.any (fun x => s.clcFull (s.clusterOf core) (x.1 / 64)) then s else
    let s1 := s.updCore core (fun c => { c with wb := mput [] c.wb buf t })
    match e.bytes with
    | [] => s1
    | x :: _ => clcWrite s1 core (x.1 / 64) (e.bytes.map (fun b => (b.1 % 64, b.2))) e.cls e.chain e.ef

/-- n entries of a buffer drain in order. -/
def drainN (core buf : Nat) : Nat → State → State
  | 0, s => s
  | n + 1, s => drainN core buf n (drainOne s core buf)

/-- Every entry of every buffer of a core drains. -/
def drainAll (s : State) (core : Nat) : State :=
  (List.range 4).foldl (fun s b => drainN core b (mget [] (s.core core).wb b).length s) s

/-- The entries of a line drain, with those before them in its buffer (07 R445). -/
def drainLine (s : State) (core line : Nat) : State :=
  let b := line % 4
  let l := mget [] (s.core core).wb b
  let idx := (List.range l.length).filter (fun i => match l[i]? with
    | some e => e.bytes.any (fun x => x.1 / 64 = line)
    | none => false)
  match idx.getLast? with
  | none => s
  | some i => drainN core b (i + 1) s

/-- A store to the line is in its write buffer. -/
def lineBuffered (s : State) (core line : Nat) : Bool :=
  (mget [] (s.core core).wb (line % 4)).any (fun e => e.bytes.any (fun x => x.1 / 64 = line))

/-- A store to the line cannot leave its write buffer: the CLC has no room for it or for an older one (06 R141). -/
def drainStuck (s : State) (core line : Nat) : Bool := lineBuffered (drainLine s core line) core line

/-! ### Dirty lines -/

/-- The lines of a cluster's CLC that hold dirty bytes. -/
def State.dirtyLines (s : State) (k : Nat) : List Nat := ((s.clc k).filter (fun e => e.2.dirty != 0#64)).map (·.1)
/-- The lines of a die's RDC that hold dirty bytes. -/
def State.rdcDirtyLines (s : State) (d : Nat) : List Nat :=
  ((s.die d).rdc.filter (fun e => e.2.copy.dirty != 0#64)).map (·.1)

/-! ### Scopes -/

def Scope.rank : Scope → Nat
  | .wp => 0
  | .bk => 1
  | .cl => 2
  | .gp => 3
  | .di => 4
  | .dv => 5
  | .sy => 6

/-- The scope at which group scope acts (07 R167). -/
def gpScope (s : State) (l : Launch) : Scope :=
  let cs := (List.range 1024).filter (fun c => l.hdr.cmask.getLsbD c && (s.lpt c).isSome)
  match cs with
  | [] => .dv
  | c :: t =>
    if t.all (fun x => s.clusterOf x = s.clusterOf c) then .cl
    else if t.all (fun x => s.siteOf x = s.siteOf c) then .di else .dv

/-- The scope in force for a block. -/
def effScope (s : State) (b : Block) (sc : Scope) : Scope :=
  if sc = .gp then (match s.launch? b.lid with
    | some l => gpScope s l
    | none => .dv) else sc

/-- The block is a member of a VALID group-table entry (02 R54). -/
def groupOk (s : State) (b : Block) (g : Nat) : Bool :=
  match s.launch? b.lid with
  | none => false
  | some l => match (Launch.groups l)[g]? with
    | none => false
    | some e => GroupD.member e b.bid.toNat

/-! ### Releases and acquires -/

/-- Lines that the write buffers of a core hold stores of. -/
def Core.wbLines (c : Core) : List Nat := ((c.wb.flatMap (·.2)).flatMap (fun e => e.bytes.map (fun x => x.1 / 64))).eraseDups

/-- The cores whose writes a release of a core at a scope takes along: a warp may know a write of any of them that its load of a
later write told it of (07 R172, R174; log 80). -/
def State.coresOf (s : State) (core : Nat) (sc : Scope) : List Nat :=
  (core :: s.cores.map (·.1)).eraseDups.filter (fun c =>
    if Scope.rank sc ≤ 2 then s.clusterOf c = s.clusterOf core else Scope.rank sc ≥ 5 || s.dieOf c = s.dieOf core)

/-- The clusters whose dirty lines a release of a core at .di or wider takes along (07 R174, R176). -/
def State.clustersOf (s : State) (core : Nat) (sc : Scope) : List Nat :=
  (s.clusterOf core :: s.clcs.map (·.1)).eraseDups.filter (fun k => Scope.rank sc ≥ 5 || k / 34 = s.dieOf core)

/-- What a release at a scope needs can be done now: the write buffers find room in the CLCs, every line that it pushes is free
and its home can be reached, and no eviction is still on its way with bytes that the warp may know (07 R174, R176). -/
def releaseReady (s : State) (core : Nat) (sc : Scope) : Bool :=
  let cs := s.coresOf core sc
  let free := fun (d : Nat) (ls : List Nat) => ls.all (fun l => !s.lineBusy l && s.reaches d (s.homeOf l))
  if Scope.rank sc ≤ 1 then true
  else cs.all (fun c => ((cs.foldl drainAll s).core c).wb.all (·.2.isEmpty)) && (Scope.rank sc ≤ 2 ||
    (cs.all (fun c => free (s.dieOf c) (s.core c).wbLines) && (s.clustersOf core sc).all (fun k => free (k / 34) (s.dirtyLines k)) &&
     (Scope.rank sc < 5 || (s.dies.all (fun d => free d.1 (s.rdcDirtyLines d.1)) &&
        !s.net.any (fun m => m.evictor.isSome && !m.bytes.isEmpty && incOk s m)))))

/-- Every dirty line of a cluster is sent; `core` is the core of it whose release causes that, none for another cluster's. -/
def pushCluster (s : State) (k : Nat) (core : Option Nat) : State := (s.dirtyLines k).foldl (fun x l => pushClc x k l core) s

/-- Every dirty line of the RDC of a die goes home. -/
def pushDie (s : State) (d : Nat) : State := (s.rdcDirtyLines d).foldl (fun x l => pushRdc x d l) s

/-- The bytes that the homes hold reach their memory controllers. -/
def flushHomes (s : State) : State :=
  s.homes.foldl (fun s h => h.2.lines.foldl (fun s e => if e.2.data.isEmpty then s else flushHome s e.1) s) s

/-- A release at a scope (07 Table 7-4, R176): at .wp and .bk the residencies of buffered stores are stale (07 Table 7-14);
at .cl and wider the buffers drain; at .di and wider the CLCs push; at .dv and .sy the RDCs' dirty bytes go home; at .sy the homes'
bytes reach their controllers. It performs what every core of the scope has stored (log 80). -/
def release (s : State) (core : Nat) (sc : Scope) : State :=
  let r := Scope.rank sc
  if r ≤ 1 then (s.core core).wbLines.foldl (fun s l => markStale s (l / 64)) s
  else
    let s1 := (s.coresOf core sc).foldl drainAll s
    if r = 2 then s1
    else
      let s2 := (s1.clustersOf core sc).foldl (fun x k => pushCluster x k (if k = s1.clusterOf core then some core else none)) s1
      if r ≤ 4 then s2
      else
        let s3 := (s2.dies.map (·.1)).foldl pushDie s2
        if r = 5 then s3 else flushHomes s3

/-- An acquire at a scope by a warp of the core (08 Table 8-1). -/
def acquire (s : State) (core : Nat) (sc : Scope) : State :=
  let r := Scope.rank sc
  if r ≤ 1 then s
  else if r = 2 then s.updCore core (fun c => { c with l1 := [] })
  else s.raisePts core (s.home (s.dieOf core)).dt

/-! ### Outstanding operations (03 Table 3-7) -/

def State.ldcnt (w : Warp) : Nat := w.loads.length + (w.atoms.filter (fun a => a.dest.isSome)).length
/-- Distinct store operations of a warp still in the write buffers. -/
def State.wbOps (s : State) (r : WRef) : List Nat :=
  ((((s.core r.core).wb.flatMap (·.2)).filter (fun e => e.slot = r.slot && !e.atom)).map (·.op)).eraseDups
def State.stcnt (s : State) (r : WRef) (w : Warp) : Nat :=
  (s.wbOps r).length + w.atoms.length + (s.heldOf r).length + (s.fed.arrivals.filter (s.sent r w)).length
/-- A copy whose segments are all done or failed. -/
def CopyOp.over (c : CopyOp) : Bool := c.segs.all (fun g => g.done || g.fail.isSome)
def State.cpcnt (w : Warp) : Nat := (w.copies.filter (fun c => !CopyOp.over c)).length
def State.tlcnt (s : State) (r : WRef) : Nat := ((s.core r.core).mu.filter (fun t => t.slot = r.slot)).length

/-! ### Timelines (07 R182) -/

def tlKey (ctx tlid : Nat) : Nat := 65536 * ctx + tlid
def State.timeline (s : State) (ctx tlid : Nat) : Timeline := mget {} s.fed.tls (tlKey ctx tlid)
/-- The next number of a timeline is given to a submitted operation. -/
def issueNum (s : State) (ctx tlid : Nat) : Nat × State :=
  let t := s.timeline ctx tlid
  (t.issued + 1, s.updFed (fun f => { f with tls := mset f.tls (tlKey ctx tlid) { t with issued := t.issued + 1 } }))
/-- The counter passes every number whose predecessors are complete. -/
def tlAdvance : Nat → Nat → List Nat → Nat
  | 0, c, _ => c
  | n + 1, c, d => if d.contains (c + 1) then tlAdvance n (c + 1) d else c
/-- An operation completes, done or failed (07 R182). -/
def completeNum (s : State) (ctx tlid n : Nat) : State :=
  let t := s.timeline ctx tlid
  let d := n :: t.done
  let c := tlAdvance d.length t.counter d
  s.updFed (fun f => { f with tls := mset f.tls (tlKey ctx tlid) { t with counter := c, done := d.filter (fun x => x > c) } })
/-- A queue's timeline for KIND 0, the tenant's otherwise. -/
def State.tlCounter (s : State) (ctx tlid : Nat) : Nat :=
  if tlid / 4096 = 0 then (s.queue (tlid % 4096)).tl.toNat else (s.timeline ctx tlid).counter

/-- What `.sc` waits for: copies, engine operations and `TMMA`s of the warp (07 Table 7-4). -/
def scReady (s : State) (r : WRef) (w : Warp) (ctx : Nat) : Bool :=
  State.cpcnt w = 0 && s.tlcnt r = 0 && w.tlops.all (fun o => decide (o.2 ≤ s.tlCounter ctx o.1))

end Sys2Proof.Machine
end

