-- ==== Sys2Proof/Machine/Vm.lean ====
section
/-! DEFINITION. Translation: contexts, range TLBs, the walk, page TLBs and heat (06 R151 to R159). -/

namespace Sys2Proof.Machine

/-- A translation. -/
structure Xlat where
  pa : Nat
  cls : Nat
  rs : Bool
deriving DecidableEq, Repr

/-- What an access needs of the permission bits U, X, W, R, as bits 3 to 0 (06 R154). -/
def needR : BitVec 4 := 1#4
def needW : BitVec 4 := 2#4
def needX : BitVec 4 := 4#4
def needU : BitVec 4 := 8#4

/-- Agents that hold TLBs beside the cores, whose number is their logical core (06 R158; log 10). -/
def agentKve (site : Nat) : Nat := 2000 + site
def agentRes (site : Nat) : Nat := 3000 + site
def agentCopy (site : Nat) : Nat := 4000 + site
def agentPort (p : Nat) : Nat := 5000 + p
def agentCp : Nat := 6000

/-- A range-table entry (06 Table 6-12), as a read at its home returns it. -/
def rangeOf (s : State) (a : Nat) : RangeEnt :=
  let w2 := s.snoopNum (a + 24) 8
  { v := bits w2 0 0 = 1, vbase := bits (s.snoopNum a 8) 41 0, vlimit := bits (s.snoopNum (a + 8) 8) 41 0,
    pbase := bits (s.snoopNum (a + 16) 8) 35 0, perm := BitVec.ofNat 4 (bits w2 5 2), cls := bits w2 9 8,
    rschk := bits w2 7 7 = 1 }

/-- The range table of a context (06 R159). -/
def rangeTable (s : State) (ctx : Nat) : List RangeEnt :=
  let c := s.ctxEnt ctx
  (List.range (min 32 c.nrange)).map (fun i => rangeOf s (c.rtab + 32 * i))

/-- The first entry that a virtual page hits. -/
def rangeHit (l : List RangeEnt) (va : Nat) : Option RangeEnt :=
  l.find? (fun e => e.v && e.vbase ≤ va / 4096 && va / 4096 ≤ e.vlimit)

/-- The cause that keeps the range table from being read (06 R142, 09 R215). -/
def rangeFault (s : State) (ctx : Nat) : Option Nat :=
  let c := s.ctxEnt ctx
  (List.range (min 32 c.nrange)).findSome? (fun i => s.mapCause (c.rtab + 32 * i) false)

/-- A range TLB is loaded at its agent's first use; none where the table cannot be read. -/
def loadRange (s : State) (agent ctx : Nat) : State × Option (List RangeEnt) :=
  match mfind s.vm.rtlb (64 * agent + ctx) with
  | some l => (s, some l)
  | none =>
    if (rangeFault s ctx).isSome then (s, none)
    else
      let c := s.ctxEnt ctx
      let s1 := (linesOf c.rtab (32 * min 32 c.nrange)).foldl readLine s
      let l := rangeTable s1 ctx
      ({ s1 with vm := { s1.vm with rtlb := mset s1.vm.rtlb (64 * agent + ctx) l } }, some l)

/-- The well-formedness of an entry read at a level (06 R152). -/
def pteBad (lvl : Nat) (e : Nat) : Bool :=
  let leaf := bits e 1 1 = 1
  if leaf then
    lvl ≤ 2 || (lvl = 4 && bits e 20 12 != 0) || (lvl = 3 && bits e 29 12 != 0) ||
      (bits e 3 3 = 1 && bits e 2 2 = 0) || ((lvl = 3 || lvl = 4) && bits e 7 7 = 1)
  else lvl = 5

/-- Bits of the offset below a leaf at a level (06 Table 6-8). -/
def leafLog2 (lvl : Nat) : Nat := if lvl = 3 then 30 else if lvl = 4 then 21 else 12

/-- The address of the entry of a level for a VA in the table at `base`. -/
def pteAddr (base lvl va : Nat) : Nat :=
  base + 8 * (if lvl = 1 then bits va 53 48 else bits va (47 - 9 * (lvl - 2)) (39 - 9 * (lvl - 2)))

/-- How a walk ends: a fault with its table level, or the leaf's address, entry and level. -/
inductive Walk
  | fault (cause lvl : Nat)
  | leaf (a e lvl : Nat)
deriving DecidableEq, Repr

/-- The walk from a table at a level; n levels are left (06 R151). A table that cannot be read faults as the access to it does
(06 R142, 09 R215). -/
def walkFrom (s : State) (va : Nat) : Nat → Nat → Nat → Walk
  | 0, _, lvl => .fault 17 lvl
  | n + 1, base, lvl =>
    let a := pteAddr base lvl va
    let e := s.snoopNum a 8
    if let some c := s.mapCause a false then .fault c 0
    else if bits e 0 0 = 0 then .fault 15 0
    else if pteBad lvl e then .fault 17 lvl
    else if bits e 1 1 = 1 then .leaf a e lvl
    else walkFrom s va n (bits e 47 12 * 4096) (lvl + 1)

/-- The physical page that the tables of a context give for a VA now. -/
def pageNow (s : State) (ctx va : Nat) : Option Nat :=
  match rangeHit (rangeTable s ctx) va with
  | some r => some (r.pbase + va / 4096 - r.vbase)
  | none => match walkFrom s va 5 (s.ctxEnt ctx).root 1 with
    | .fault _ _ => none
    | .leaf _ e lvl => some (bits e 47 12 + va / 4096 % 2 ^ (leafLog2 lvl - 12))

/-- The lines that a walk reads. -/
def walkLines (s : State) (va : Nat) : Nat → Nat → Nat → List Nat
  | 0, _, _ => []
  | n + 1, base, lvl =>
    let a := pteAddr base lvl va
    let e := s.snoopNum a 8
    if (s.mapCause a false).isSome then []
    else if bits e 0 0 = 0 || pteBad lvl e || bits e 1 1 = 1 then [a / 64]
    else a / 64 :: walkLines s va n (bits e 47 12 * 4096) (lvl + 1)

/-- A leaf with a 2-bit field at bit h set. -/
def putHeat (e h v : Nat) : Nat := e - bits e (h + 1) h * 2 ^ h + v * 2 ^ h

/-- The heat fields of a leaf after an update: RHEAT at bit 54, WHEAT at bit 56 (06 Table 6-9). -/
def heatOp (op : HeatOp) (e : Nat) : Nat :=
  match op with
  | .read => putHeat e 54 (min 3 (bits e 55 54 + 1))
  | .write => putHeat e 56 (min 3 (bits e 57 56 + 1))
  | .cool => putHeat (putHeat e 54 (bits e 55 54 / 2)) 56 (bits e 57 56 / 2)

/-- A relaxed device-scope atomic on the heat fields of a leaf, if its V and PFN are what was read (06 R155, R156). -/
def heatNow (s : State) (q : HeatReq) : State :=
  let cur := s.snoopNum q.a 8
  let new := heatOp q.op cur
  if bits cur 0 0 = 0 || bits cur 47 12 != q.pfn || new = cur then s
  else writePhys s (q.a + 6) (leBytes 2 (bits new 63 48)) 0 0 false

/-- A heat update is performed at once, or once its line is free. -/
def heatUpdate (s : State) (q : HeatReq) : State :=
  if s.lineBusy (q.a / 64) then { s with vm := { s.vm with heat := s.vm.heat ++ [q] } } else heatNow s q

/-- The heat updates whose lines are free now are performed, in order. -/
def serveHeat (s : State) : State :=
  s.vm.heat.foldl (fun s q => heatUpdate s q) { s with vm := { s.vm with heat := [] } }

/-- The raise of a walker's fill or of a count (06 R155). -/
def heatRaise (s : State) (a : Nat) (e : W64) (wr : Bool) : State :=
  heatUpdate s { a := a, pfn := bits e.toNat 47 12, op := if wr then .write else .read }

/-- One use of a TLB entry: its count rises, and at each multiple of 4,096 the heat (06 R155). -/
def useTlb (s : State) (t : TlbEnt) (wr : Bool) : State :=
  let t1 : TlbEnt := if wr then { t with writes := t.writes + 1 } else { t with reads := t.reads + 1 }
  let n := if wr then t1.writes else t1.reads
  let s1 : State := { s with vm := { s.vm with tlb := s.vm.tlb.map (fun x => if x = t then t1 else x) } }
  if n % 4096 = 0 then heatRaise s1 t.leaf t.pte wr else s1

/-- The entry of an agent that translates a VA; entries with G = 1 serve every context (06 R158). -/
def tlbHit (s : State) (agent ctx va : Nat) : Option TlbEnt :=
  s.vm.tlb.find? (fun t => t.agent = agent && (t.g || t.ctx = ctx) && t.vpage = va / 2 ^ t.log2)

/-- Translate one address for an agent: range entries win (06 R159), then the TLB, then a walk that fills it. The fault
is a cause and, for cause 17, the table level. `need` is what the access needs of U, X, W, R; `wr` counts as a write. -/
def translate (s : State) (agent ctx va : Nat) (need : BitVec 4) (wr : Bool) : State × (Nat × Nat ⊕ Xlat) :=
  let c := s.ctxEnt ctx
  if !c.en then (s, .inl (15, 0))
  else
    let lr := loadRange s agent ctx
    let s1 := lr.1
    match lr.2.bind (fun l => rangeHit l va) with
    | some r =>
      if r.perm &&& need != need then (s1, .inl (16, 0))
      else (s1, .inr { pa := r.pbase * 4096 + va - r.vbase * 4096, cls := r.cls, rs := r.rschk })
    | none =>
      if lr.2.isNone then (s1, .inl ((rangeFault s ctx).getD 19, 0))
      else match tlbHit s1 agent ctx va with
      | some t =>
        if t.perm &&& need != need then (s1, .inl (16, 0))
        else (useTlb s1 t wr, .inr { pa := t.pbase + va % 2 ^ t.log2, cls := t.cls, rs := t.rs })
      | none =>
        let s1 := (walkLines s1 va 5 c.root 1).foldl readLine s1
        match walkFrom s1 va 5 c.root 1 with
        | .fault cause lvl => (s1, .inl (cause, lvl))
        | .leaf a e lvl =>
          let perm : BitVec 4 := BitVec.ofNat 4 (bits e 5 2)
          if perm &&& need != need then (s1, .inl (16, 0))
          else
            let n := leafLog2 lvl
            let t : TlbEnt :=
              { agent := agent, ctx := ctx, g := bits e 6 6 = 1, vpage := va / 2 ^ n, log2 := n,
                pbase := bits e 47 12 * 4096, perm := perm, cls := bits e 53 52, rs := bits e 51 51 = 1,
                leaf := a, pte := BitVec.ofNat 64 e }
            let s2 : State := { s1 with vm := { s1.vm with tlb := t :: s1.vm.tlb } }
            (useTlb (heatRaise s2 a t.pte wr) t wr, .inr { pa := t.pbase + va % 2 ^ n, cls := t.cls, rs := t.rs })

/-! ### Checked accesses -/

/-- Whether a virtual address lies in the 54-bit space (06 R135). -/
def vaBad (va : Nat) : Bool := va ≥ 2 ^ 54

/-- Permission needs of a warp's access: U below level 2 (06 R154, 10 R245). -/
def warpNeed (w : Warp) (n : BitVec 4) : BitVec 4 := if w.level ≥ 2 then n else n ||| needU

/-- One page of an access by an engine or the CP, which reads and writes at the home: the physical address, or the
cause of the failure. -/
def engineXlat (s : State) (agent ctx va : Nat) (need : BitVec 4) (wr : Bool) : State × (Nat ⊕ Xlat) :=
  if vaBad va then (s, .inl 9)
  else match translate s agent ctx va need wr with
    | (s1, .inl e) => (s1, .inl e.1)
    | (s1, .inr x) => match s1.mapCause x.pa false with
      | some c => (s1, .inl c)
      | none => (s1, .inr x)

/-- The pieces of a virtual run at 4 KiB boundaries: address and length. -/
def pagesOf (va n : Nat) : List (Nat × Nat) :=
  if n = 0 then []
  else (List.range ((va + n - 1) / 4096 + 1 - va / 4096)).map (fun i =>
    let a := max va ((va / 4096 + i) * 4096)
    let b := min (va + n) ((va / 4096 + i + 1) * 4096)
    (a, b - a))

/-- Bytes read by an engine or the CP under a context, or the cause of the first failure. -/
def readVirt (s : State) (agent ctx va n : Nat) (need : BitVec 4) : State × (Nat ⊕ List Byte) :=
  (pagesOf va n).foldl (fun r p =>
    match r with
    | (s, .inl e) => (s, .inl e)
    | (s, .inr l) => match engineXlat s agent ctx p.1 need false with
      | (s1, .inl e) => (s1, .inl e)
      | (s1, .inr x) => let q := readPhys s1 x.pa p.2; (q.1, .inr (l ++ q.2))) (s, .inr [])

/-- Bytes written by an engine or the CP under a context and a chain, eviction-first when `ef`; the cause of the first failure, if
any. -/
def writeVirtE (s : State) (agent ctx va : Nat) (l : List Byte) (need : BitVec 4) (chain : Nat) (ef : Bool) : State × Option Nat :=
  (pagesOf va l.length).foldl (fun r p =>
    match r with
    | (s, some e) => (s, some e)
    | (s, none) => match engineXlat s agent ctx p.1 need true with
      | (s1, .inl e) => (s1, some e)
      | (s1, .inr x) => (writePhysE s1 x.pa ((l.drop (p.1 - va)).take p.2) x.cls chain ef false, none)) (s, none)
def writeVirtC (s : State) (agent ctx va : Nat) (l : List Byte) (need : BitVec 4) (chain : Nat) : State × Option Nat :=
  writeVirtE s agent ctx va l need chain false
def writeVirt (s : State) (agent ctx va : Nat) (l : List Byte) (need : BitVec 4) : State × Option Nat :=
  writeVirtC s agent ctx va l need 0

/-- Whether every line of a run that translates is idle, so that an engine can use it now. -/
def virtIdle (s : State) (agent ctx va n : Nat) (need : BitVec 4) (wr : Bool) : Bool :=
  (pagesOf va n).all (fun p => match (engineXlat s agent ctx p.1 need wr).2 with
    | .inl _ => true
    | .inr x => s.idleRange x.pa p.2)

/-- n free bytes (log 5). -/
def freeBytes : Nat → State → State × List Byte
  | 0, s => (s, [])
  | n + 1, s =>
    let b := s.freeByte
    let r := freeBytes n b.2
    (r.1, b.1 :: r.2)

/-- A run left undefined: free bytes on each of its pages that can be written. -/
def writeFree (s : State) (agent ctx va n : Nat) (need : BitVec 4) (chain : Nat) : State :=
  (pagesOf va n).foldl (fun s p =>
    let b := freeBytes p.2 s
    (writeVirtC b.1 agent ctx p.1 b.2 need chain).1) s

/-- A little-endian number of n bytes read under a context. -/
def readVirtN (s : State) (agent ctx va n : Nat) (need : BitVec 4) : State × (Nat ⊕ Nat) :=
  match readVirt s agent ctx va n need with
  | (s1, .inl e) => (s1, .inl e)
  | (s1, .inr l) => (s1, .inr (leNat l))

/-- An engine or a warp hands the fault of a page that is not present to Tchidal, once (06 R164). -/
def askPage (s : State) (ctx va : Nat) : State :=
  let i : Irq := .pageNeed ctx (va / 4096)
  if s.ctl.irqs.contains i then s else s.raise i

/-- Tchidal is asked for every page of a run that an engine found not present. -/
def askRun (s : State) (agent ctx va n : Nat) (need : BitVec 4) (wr : Bool) : State :=
  (pagesOf va n).foldl (fun s p => match (engineXlat s agent ctx p.1 need wr).2 with
    | .inl c => if c = 15 then askPage s ctx p.1 else s
    | .inr _ => s) s

/-- A source page of a residency lies in another physical page than the one recorded for it. -/
def movedSource (s : State) (e : RtEnt) : Bool :=
  e.pages.any (fun p => match pageNow s e.tenant.toNat (4096 * p.1) with
    | none => false
    | some q => q != p.2)

/-- After Tchidal has written a translation table: every residency made from a page that has moved is stale (05 R130). -/
def staleMoved (s : State) : State := markWhere s (movedSource s)

/-- The key of a fetched window: the context, the window's address, and whether its fetch needed U (06 R154). -/
def winKey (w : Warp) (ctx : Nat) (pc : VAddr) : Nat := ctx * 2 ^ 54 + pc.toNat / 32 * 32 + (if w.level ≥ 2 then 1 else 0)

/-- The fetched windows of the contexts where p holds are given up: their next fetch translates anew (21 R428). -/
def dropWindows (s : State) (p : Nat → Bool) : State :=
  { s with cores := s.cores.map (fun c => if c.2.iwin.any (fun y => p (y.1 / 2 ^ 54)) then
      (c.1, { c.2 with iwin := c.2.iwin.filter (fun y => !p (y.1 / 2 ^ 54)) }) else c) }

/-- Drop TLB entries, and the fetched windows of the contexts that they serve. -/
def dropTlb (s : State) (p : TlbEnt → Bool) : State :=
  let gone := s.vm.tlb.filter p
  dropWindows { s with vm := { s.vm with tlb := s.vm.tlb.filter (fun t => !p t) } } (fun c => gone.any (fun t => t.g || t.ctx = c))

/-- Every range TLB of a context is loaded again from its range table (21 R428); a table that cannot be read is asked for at the
next use. -/
def reloadRange (s0 : State) (ctx : Nat) : State :=
  let c := s0.ctxEnt ctx
  let s := dropWindows s0 (fun c => c = ctx)
  if (rangeFault s ctx).isSome then
    { s with vm := { s.vm with rtlb := s.vm.rtlb.filter (fun e => e.1 % 64 != ctx) } }
  else
    let s1 := (linesOf c.rtab (32 * min 32 c.nrange)).foldl readLine s
    let l := rangeTable s1 ctx
    { s1 with vm := { s1.vm with rtlb := s1.vm.rtlb.map (fun e => if e.1 % 64 = ctx then (e.1, l) else e) } }

end Sys2Proof.Machine
end

