-- ==== Sys2Proof/Machine/Access.lean ====
section
/-! DEFINITION. `LD`, `ST`, `ATOM`, `RED`, `QLD`, `QPOP` and the events by which their accesses bind and perform
(06 R133 to R139, 18 R322 to R326, 20 R396, R405 to R407, 21 R409, R425). -/

namespace Sys2Proof.Machine

/-! ### Lane addresses and checks -/

/-- The signed immediate of an address (06 R134). -/
def offVal (o : Option W32) : Int := (o.getD 0#32).toInt

/-- The address of a lane (06 Table 6-2). -/
def laneAddr (w : Warp) (sp : Space) (a : Reg) (off : Option W32) (lane : Nat) : Nat :=
  match sp with
  | .g => wrapInt 64 (((rdReg w true lane a).toNat : Int) + offVal off)
  | .s => wrapInt 32 (((rdReg w false lane a).toNat % 2 ^ 32 : Nat) + offVal off)

/-- The trap of an instruction some of whose lanes fault (10 R443): the lowest lane's cause; MASK its lanes, RMASK all. -/
def laneTrap (l : List LaneFault) (asH : Bool) : Option TrapReq :=
  match l with
  | [] => none
  | f :: _ =>
    let hit := l.filter (fun x => x.cause = f.cause)
    some { cause := f.cause, mask := maskOf (hit.map (·.lane)), rmask := maskOf (l.map (·.lane)),
           addr := BitVec.ofNat 64 f.addr, lanes := hit.map (fun x => (x.lane, BitVec.ofNat 64 x.addr)),
           dop0 := if f.cause = 17 || f.cause = 24 then BitVec.ofNat 64 f.lvl else 0#64, asH := asH }

/-- The checks of a .g lane in order (06 R135): range, alignment, translation, capacity and access error. A load that
the core's buffers and caches can serve meets no home (09 R236). -/
def checkG (s : State) (r : WRef) (ctx : Nat) (need : BitVec 4) (wr : Bool) (lane a w : Nat) :
    State × (LaneFault ⊕ LaneAcc) :=
  if vaBad a then (s, .inl { lane := lane, cause := 9, addr := a })
  else if a % w != 0 then (s, .inl { lane := lane, cause := 8, addr := a })
  else match translate s r.core ctx a need wr with
    | (s1, .inl e) => (s1, .inl { lane := lane, cause := e.1, lvl := e.2, addr := a })
    | (s1, .inr x) =>
      let cached := !wr && (s1.loadBytes r.core x.pa w).isSome
      match s1.mapCause x.pa cached with
      | some c => (s1, .inl { lane := lane, cause := c, addr := a })
      | none => (s1, .inr { lane := lane, va := a, pa := x.pa, w := w, cls := x.cls })

/-- Bytes of a block's scratchpad window (02 R40). -/
def Block.window (b : Block) : Nat := b.size - 16 * b.nbar

/-- The checks of a .s lane in order (06 R135). -/
def checkS (b : Block) (wr : Bool) (lane a w : Nat) : LaneFault ⊕ LaneAcc :=
  if a ≥ b.size then .inl { lane := lane, cause := 10, addr := a }
  else if a % w != 0 then .inl { lane := lane, cause := 8, addr := a }
  else if wr && a + w > Block.window b then .inl { lane := lane, cause := 11, addr := a }
  else .inr { lane := lane, va := a, pa := a, w := w }

/-- Every lane checked in ascending order. -/
def checkLanes (s : State) (e : Env) (sp : Space) (need : BitVec 4) (wr : Bool) (w : Nat) (addr : Nat → Nat)
    (lanes : List Nat) : State × List LaneFault × List LaneAcc :=
  lanes.foldl (fun r i =>
    let q := match sp with
      | .g => checkG r.1 e.r e.b.ctx (warpNeed e.w need) wr i (addr i) w
      | .s => (r.1, checkS e.b wr i (addr i) w)
    match q.2 with
    | .inl f => (q.1, r.2.1 ++ [f], r.2.2)
    | .inr a => (q.1, r.2.1, r.2.2 ++ [a])) (s, [], [])

/-- The lanes of an access: lane 0 alone in class 1 (10 R240). -/
def accLanes (e : Env) (c : Cls) : List Nat := if c = .scl then [0] else lanesOf e.act

/-- An instruction ends with the trap of its faulting lanes, or done. -/
def endLanes (s : State) (l : List LaneFault) : Res :=
  match laneTrap l false with
  | none => .done s
  | some t => .trap s t

/-- Lanes of the instruction are outstanding. Where others have faulted, the operation holds their faults, the warp waits at the
instruction, and its one trap comes when the last lane is over (10 R443). -/
def leaveLanes (s : State) (l : List LaneFault) : Res := if l.isEmpty then .done s else .wait s .faults

/-- The narrow signed types, whose loads are sign-extended (20 R397). -/
def DTy.sext : DTy → Bool
  | .int t => t.signed
  | .fp _ => false

/-- The bytes of a lane written to a load's destination (20 R397). -/
def bindLane (w : Warp) (d : Dest) (lane : Nat) (l : List Byte) : Warp :=
  let n := l.length
  let x := leNat l
  match d with
  | .vreg r sx =>
    if n < 4 then w.putV r lane (BitVec.ofNat 32 (if sx then wrapInt 32 (sextNat (8 * n) x) else x))
    else (List.range (n / 4)).foldl (fun w k => w.putV (r + k) lane (BitVec.ofNat 32 (x / 2 ^ (32 * k)))) w
  | .sreg r sx => w.putS r (if sx then w64OfInt (sextNat (8 * n) x) else BitVec.ofNat 64 x)
  | .queue _ _ _ => w

/-- A load, or an `ATOM` or `RED`, which is a load too (07 R178), of the warp has not yet bound: no later store or atomic of it
performs (07 Table 7-3). -/
def unbound (w : Warp) : Bool := !w.loads.isEmpty || !w.atoms.isEmpty

/-- Lines of atomics of the warp that are not performed (07 R170). -/
def atomLines (w : Warp) : List Nat := w.atoms.flatMap (fun a => a.reqs.map (fun q => q.pa / 64))

/-- The chain of the block's launch (06 R144). -/
def chainOf (s : State) (b : Block) : Nat := ((s.launch? b.lid).map (fun l => l.hdr.chain)).getD 0

/-! ### LD -/

/-- `LD` (20 R396, R397). -/
def execLd (x : FLdSt) (s : State) : Host.Outcome State Fault Refusal :=
  .next (issue (.ld x) s (fun e s =>
    let w := accW x.ty x.wid
    let addr := laneAddr e.w x.sp x.a x.off
    let dest : Dest := if x.cls = .scl then .sreg (Reg.idx x.d) (DTy.sext x.ty) else .vreg (Reg.idx x.d) (DTy.sext x.ty)
    if x.sp = .g && State.ldcnt e.w ≥ 64 then .wait s .counter
    else
      let q := checkLanes s e x.sp needR false w addr (accLanes e x.cls)
      match x.sp with
      | .s =>
        let s1 := q.1.updWarp e.r (fun v => q.2.2.foldl (fun v a => bindLane v dest a.lane (getBytes e.b.scr a.va w)) v)
        endLanes s1 q.2.1
      | .g =>
        if q.2.2.any (fun a => (atomLines e.w).contains (a.pa / 64)) then .wait s .other
        else if q.2.2.isEmpty then endLanes q.1 q.2.1
        else
          let n := q.1.freshId
          let op : LoadOp := { id := n.1, dest := dest, lanes := q.2.2, cache := x.cache, pt := issuePt s e.w, fails := q.2.1 }
          leaveLanes (n.2.updWarp e.r (fun v => { v with loads := v.loads ++ [op] })) q.2.1))

/-- A load hits a copy in the L1: the hit clears eviction-first (19 R354). -/
def l1Hit (s : State) (core line : Nat) : State :=
  match mfind (s.core core).l1 line with
  | none => s
  | some x => s.setL1 core line { x with used := s.ctl.clock, ef := false }

/-- The bytes of a load bind: where neither the write buffers nor the L1 has them all, they come from the CLC. -/
def readFill (s : State) (core pa n : Nat) (c : Cache) : State :=
  if (List.range n).all (fun i => (s.nearByte core (pa + i)).isSome) then l1Hit s core (pa / 64) else clcHit s core (pa / 64) c

/-- One lane binds: lanes that bind together take what the core reads in `s0`, before any of them has filled a copy (21 R397). -/
def bindFrom (s0 s : State) (r : WRef) (d : Dest) (c : Cache) (a : LaneAcc) : State :=
  match s0.loadBytes r.core a.pa a.w with
  | none => s
  | some l => (readFill s r.core a.pa a.w c).updWarp r (fun w => bindLane w d a.lane l)

/-- An outstanding load may read the line of an address. A queue load has no physical address before its lanes bind: one that
agrees in the offset within a page may be the same. -/
def LoadOp.meets (o : LoadOp) (pa : Nat) : Bool :=
  match o.dest with
  | .queue _ _ _ => o.lanes.any (fun a => a.pa != 1 && a.va / 64 % 64 = pa / 64 % 64)
  | _ => o.lanes.any (fun a => a.pa / 64 = pa / 64)

/-- The loads of the warp before one of them. -/
def earlierLoads (w : Warp) (id : Nat) : List LoadOp := w.loads.takeWhile (fun o => o.id != id)

/-- The lanes of a load in a mask that can bind now, and those whose home cannot be reached. An earlier load of the warp
on the same line binds first (07 R170). Lanes that name one byte bind together (20 R397): accesses are aligned, so they name one
address. -/
def loadSplit (s : State) (r : WRef) (w : Warp) (op : LoadOp) (lanes : Mask) : List LaneAcc × List LaneAcc :=
  let l := op.lanes.filter (fun a => op.lanes.any (fun b => b.pa = a.pa && lanes.getLsbD b.lane) &&
    !(earlierLoads w op.id).any (fun o => o.meets a.pa))
  (l.filter (fun a => (s.loadBytes r.core a.pa a.w).isSome),
   l.filter (fun a => (s.loadBytes r.core a.pa a.w).isNone && (s.mapCause a.pa false).isSome))

/-- Lane faults in ascending order of their lanes. -/
def byLane (l : List LaneFault) : List LaneFault := (List.range 32).flatMap (fun i => l.filter (fun f => f.lane = i))

/-- The lanes leave the load, which keeps the faults met so far; an empty load leaves the warp. -/
def dropLanes (w : Warp) (id : Nat) (gone : List Nat) (fails : List LaneFault) : Warp :=
  let l := w.loads.map (fun o => if o.id = id then
    { o with lanes := o.lanes.filter (fun a => !gone.contains a.lane), fails := fails } else o)
  { w with loads := l.filter (fun o => o.id != id || !o.lanes.isEmpty) }

/-- Lanes of a load are over, bound or with a fault. Once the last is, the faulting lanes of the load are one trap (10 R443). -/
def endLoadLanes (s : State) (r : WRef) (o : LoadOp) (gone : List Nat) (l : List LaneFault) : State :=
  let all := byLane (o.fails ++ l)
  let s1 := s.updWarp r (fun v => dropLanes v o.id gone all)
  if o.lanes.any (fun a => !gone.contains a.lane) then s1
  else match laneTrap all false with
    | none => s1
    | some t => lateTrap s1 r o.pt t

/-- LOAD_RETURN (03 R78, 09 R221): lanes of a load bind; with `out` failed they fault with its cause, and the trap comes once
every lane is over. Errors that the HBM controller meets are logged. -/
def execLoadReturn (core slot op : Nat) (lanes : Mask) (out : SegOutcome) (s : State) : Host.Outcome State Fault Refusal :=
  let r : WRef := { core := core, slot := slot }
  .next (match s.warp? r with
    | none => s
    | some w => match w.loads.find? (fun o => o.id = op) with
      | none => s
      | some o =>
        match o.dest, o.gather with
        | .queue _ _ _, _ => s
        | _, _ :: _ => s
        | _, [] =>
          let p := loadSplit s r w o lanes
          match out with
          | .failed c =>
            let l := o.lanes.filter (fun a => lanes.getLsbD a.lane)
            endLoadLanes (l.foldl (fun s a => logOutcome s a.pa out) s) r o (l.map (·.lane))
              (l.map (fun a => LaneFault.mk a.lane c 0 a.va))
          | _ =>
            endLoadLanes (p.1.foldl (fun t a => bindFrom s (logOutcome t a.pa out) r o.dest o.cache a) s) r o
              ((p.1 ++ p.2).map (·.lane)) (p.2.map (fun a => LaneFault.mk a.lane ((s.mapCause a.pa false).getD 19) 0 a.va)))

/-! ### ST -/

/-- The bytes a lane stores (21 R426). -/
def storeBytes (w : Warp) (c : Cls) (d : Reg) (lane n : Nat) : List Byte :=
  if c = .scl then leBytes n (rdReg w false 0 d).toNat
  else if n < 4 then leBytes n (w.getV (Reg.idx d) lane).toNat
  else (List.range (n / 4)).flatMap (fun k => leBytes 4 (w.getV (Reg.idx d + k) lane).toNat)

/-- The bytes of every lane, the highest lane winning (06 R136). -/
def mergeLanes (f : Nat → List Byte) (l : List LaneAcc) : SMap Byte :=
  l.foldl (fun m a => (bytesAt a.pa (f a.lane)).foldl (fun m b => mset m b.1 b.2) m) []

/-- A store's bytes enter the write buffers, line by line (07 R168). -/
def enterWb (s : State) (r : WRef) (e : Env) (op : Nat) (ef atom : Bool) (l : List LaneAcc) (m : SMap Byte) : State :=
  let lines := (m.map (fun b => b.1 / 64)).eraseDups
  lines.foldl (fun s ln =>
    let la := l.find? (fun a => a.pa / 64 = ln)
    let ent : WbEnt := { slot := r.slot, op := op, ctx := e.b.ctx, cls := (la.map (·.cls)).getD 0, chain := chainOf s e.b,
                         ef := ef, bytes := m.filter (fun b => b.1 / 64 = ln), atom := atom }
    s.updCore r.core (fun c => { c with wb := mput [] c.wb (ln % 4) (mget [] c.wb (ln % 4) ++ [ent]) })) s

/-- `ST` (21 R425, R426). -/
def execSt (x : FLdSt) (s : State) : Host.Outcome State Fault Refusal :=
  .next (issue (.st x) s (fun e s =>
    let w := accW x.ty x.wid
    let addr := laneAddr e.w x.sp x.a x.off
    if x.sp = .g && s.stcnt e.r e.w ≥ 64 then .wait s .counter
    else if unbound e.w then .wait s .load
    else
      let q := checkLanes s e x.sp needW true w addr (accLanes e x.cls)
      let m := mergeLanes (fun l => storeBytes e.w x.cls x.d l w) q.2.2
      match x.sp with
      | .s => endLanes (q.1.updBlock e.r.core e.w.blk (fun b => { b with scr := putBytes b.scr m })) q.2.1
      | .g =>
          let n := q.1.freshId
          endLanes (enterWb n.2 e.r e n.1 (x.cache = .ef) false q.2.2 m) q.2.1))

/-- WRITE_BUFFER_DRAIN (07 R168): the oldest entry of a buffer reaches the L1 and the CLC. -/
def execWriteBufferDrain (core buf : Nat) (s : State) : Host.Outcome State Fault Refusal := .next (drainOne s core (buf % 4))

/-! ### Atomics -/

/-- The new value of an atomic (18 Table 18-3) from the old value, the operand and the swap value. -/
def aopVal (op : AOp) (t : DTy) (ftz : Bool) (o b c : Nat) : Nat :=
  let n := 8 * DTy.bytes t
  let x := BitVec.ofNat 64 o
  let y := BitVec.ofNat 64 b
  let comb := fun k => (redCombine k t ftz x y).toNat % 2 ^ n
  match op with
  | .add => comb .add
  | .sub => match t with
    | .int i => wrapInt n (intVal i x - intVal i y)
    | .fp _ => o
  | .min => comb .min
  | .max => comb .max
  | .and => comb .and
  | .or => comb .or
  | .xor => comb .xor
  | .exch => b % 2 ^ n
  | .cas => if o = b % 2 ^ n then c % 2 ^ n else o

/-- The lanes of a request applied in ascending order: each lane's old value, and the last value (07 R179). -/
def aopLanes (op : AOp) (t : DTy) (ftz : Bool) (v : Nat) (l : List (Nat × Nat × Nat)) : List (Nat × Nat) × Nat :=
  l.foldl (fun r x => (r.1 ++ [(x.1, r.2)], aopVal op t ftz r.2 x.2.1 x.2.2)) ([], v)

/-- The lanes gathered by address, ascending (07 R179). -/
def atomGroups (l : List LaneAcc) (val : Nat → Nat × Nat) : List (LaneAcc × List (Nat × Nat × Nat)) :=
  ((l.map (·.pa)).eraseDups).filterMap (fun p =>
    (l.find? (fun a => a.pa = p)).map (fun a =>
      (a, (l.filter (fun y => y.pa = p)).map (fun y => (y.lane, (val y.lane).1, (val y.lane).2)))))

/-- The old value of a lane written to an atomic's destination. -/
def bindOld (w : Warp) (d : Option Dest) (t : DTy) (lane v : Nat) : Warp :=
  match d with
  | none => w
  | some d => bindLane w d lane (leBytes (DTy.bytes t) v)

/-- `ATOM` and `RED` (18 R324, 21 R410). -/
def atomic (i : Instr) (c : Cls) (op : AOp) (ty : DTy) (sc : Scope) (sp : Space) (d : Option Reg) (a b : Reg)
    (cc : Option Reg) (off : Option W32) (g : Byte) (cas : Bool) (s : State) : State :=
  issue i s (fun e s =>
    let w := DTy.bytes ty
    let addr := laneAddr e.w sp a off
    let val := fun l => ((rdReg e.w (DTy.is64 ty) l b).toNat % 2 ^ (8 * w),
      match cc with
      | some r => (rdReg e.w (DTy.is64 ty) l r).toNat % 2 ^ (8 * w)
      | none => 0)
    let dest : Option Dest := d.map (fun r => if c = .scl then .sreg (Reg.idx r) (DTy.sext ty) else .vreg (Reg.idx r) (DTy.sext ty))
    if sc = .gp && !groupOk s e.b g.toNat then .trap s { cause := 14, mask := e.w.exec, addr := g.zeroExtend 64 }
    else if sp = .g && (s.stcnt e.r e.w ≥ 64 || (cas && State.ldcnt e.w ≥ 64)) then .wait s .counter
    else if if sp = .g then !e.w.loads.isEmpty else unbound e.w then .wait s .load
    else
      let q := checkLanes s e sp needW true w addr (accLanes e c)
      let gs := atomGroups q.2.2 val
      match sp with
      | .s =>
        let s1 := gs.foldl (fun s x => match s.block? e.r.core e.w.blk with
          | none => s
          | some b =>
            let r := aopLanes op ty (fmtFtz e.w.fmt) (leNat (getBytes b.scr x.1.pa w)) x.2
            (s.setBlock e.r.core e.w.blk { b with scr := putBytes b.scr (bytesAt x.1.pa (leBytes w r.2)) }).updWarp e.r
              (fun v => r.1.foldl (fun v y => bindOld v dest ty y.1 y.2) v)) q.1
        endLanes s1 q.2.1
      | .g =>
        if gs.isEmpty then endLanes q.1 q.2.1
        else
          let n := q.1.freshId
          let ao : AtomOp :=
            { id := n.1, op := op, ty := ty, scope := effScope s e.b sc, ftz := fmtFtz e.w.fmt, dest := dest,
              reqs := (List.range gs.length).filterMap (fun k => (gs[k]?).map (fun x =>
                { id := k, pa := x.1.pa, va := x.1.va, lanes := x.2, cls := x.1.cls })),
              pt := issuePt s e.w, fails := q.2.1 }
          leaveLanes (n.2.updWarp e.r (fun v => { v with atoms := v.atoms ++ [ao] })) q.2.1)

/-- `ATOM` (18 R322 to R326). -/
def execAtom (x : FAtom) (s : State) : Host.Outcome State Fault Refusal :=
  .next (atomic (.atom x) x.cls x.op x.ty x.sc x.sp (some x.d) x.a x.b x.c x.off x.g true s)
/-- `RED` (21 R409, R410). -/
def execRed (x : FRed) (s : State) : Host.Outcome State Fault Refusal :=
  .next (atomic (.red x) x.cls x.op x.ty x.sc x.sp none x.a x.b none x.off x.g false s)

/-- A request at its point reads the old value there: none when that point cannot serve it yet (07 Table 7-5, R445). The
state returned has the drains and pushes of R445 done. -/
def atomOld (s : State) (r : WRef) (sc : Scope) (pa n : Nat) : State × Option Nat :=
  let line := pa / 64
  let k := s.clusterOf r.core
  let d := s.dieOf r.core
  let s1 := drainLine s r.core line
  let num := fun (l : Option (List Byte)) => l.map leNat
  if drainStuck s r.core line then (s, none)
  else if Scope.rank sc ≤ 1 then (readFill s1 r.core pa n .ca, num (s1.loadBytes r.core pa n))
  else if Scope.rank sc = 2 then
    (s1, num ((List.range n).foldr (fun i acc => match s1.hitByte r.core (s1.clc k) (pa + i), acc with
      | some v, some l => some (v :: l)
      | _, _ => none) (some [])))
  else if s1.lineBusy line || !s1.reaches d (s1.homeOf line) then (s, none)
  else
    let s2 := pushClc s1 k line (some r.core)
    let home := fun (s : State) => (s, some (leNat ((List.range n).map (fun i => s.homeByte line ((pa + i) % 64)))))
    if Scope.rank sc = 4 then
      if s2.homeOf line = d then home (recallAll (dieAccess s2 d (line / 64)) line d)
      else match s2.rdc? d line with
        | some x => if x.st ≥ 2 then (s2, some (leNat ((List.range n).map (fun i => mget 0#8 x.copy.data ((pa + i) % 64))))) else (s2, none)
        | none => (s2, none)
    else
      let s3 := pushRdc s2 d line
      home (recallAll (dieAccess (cross s3 d (s3.homeOf line)) (s3.homeOf line) (line / 64)) line 99)

/-- The new bytes of a request written at its point, and the copies and lease replies that R445 drops. Every residency that
records the page is stale first (05 R130). -/
def atomNew (s : State) (r : WRef) (a : AtomOp) (q : AtomReq) (ctx : Nat) (chain : Nat) (l : List Byte) : State :=
  let line := q.pa / 64
  let k := s.clusterOf r.core
  let d := s.dieOf r.core
  let bs : SMap Byte := bytesAt (q.pa % 64) l
  let s0 := markStale s (line / 64)
  if Scope.rank a.scope ≤ 1 then
    let ent : WbEnt := { slot := r.slot, op := a.id, ctx := ctx, cls := q.cls, chain := chain, ef := false,
                         bytes := bytesAt q.pa l, atom := true }
    (s0.updCore r.core (fun c => { c with wb := mput [] c.wb (line % 4) (mget [] c.wb (line % 4) ++ [ent]) })).delL1 r.core line
  else if Scope.rank a.scope = 2 then (clcWrite s0 r.core line bs q.cls chain false).delL1 r.core line
  else
    let p := some (s.pts r.core)
    let x :=
      if Scope.rank a.scope = 4 && s0.homeOf line != d then
        match s0.rdc? d line with
        | some y => rdcWrite s0 d line y bs p
        | none => (s0, 0)
      else homePut s0 line bs (if s0.homeOf line = d then p else none) q.cls chain false
    let s1 := (x.1.raisePts r.core x.2).raisePts r.core (if s0.homeOf line = d then 0 else (x.1.home d).dt)
    let s2 := dropLeases ((s1.delL1 r.core line).delClc k line) k line
    if a.scope = .sy then flushHome s2 line else s2

/-- A remote line that a .di atomic needs in ownership is asked for (07 Table 7-5), with the class and chain of its access. -/
def askOwner (s : State) (d line cls chain : Nat) : State :=
  if (s.die d).waits.contains line || evictionInFlight s d line then s
  else
    let k : ReqKind := match s.rdc? d line with
      | some _ => .upg
      | none => .rfo
    (send s { id := 0, kind := .req k, src := d, dst := s.homeOf line, line := line, cls := cls, chain := chain }).updDie d
      (fun i => { i with waits := line :: i.waits })

/-- The request leaves its atomic, which keeps the faults met so far; an atomic without one leaves the warp. -/
def dropReq (w : Warp) (op req : Nat) (fails : List LaneFault) : Warp :=
  { w with atoms := (w.atoms.map (fun o => if o.id = op then
      { o with reqs := o.reqs.filter (fun y => y.id != req), fails := fails } else o)).filter (fun o => !o.reqs.isEmpty) }

/-- A request is over, performed or with faults of its lanes. Once the last is, the faulting lanes of the instruction are one trap
(10 R443). -/
def endReq (s : State) (r : WRef) (a : AtomOp) (req : Nat) (l : List LaneFault) : State :=
  let all := byLane (a.fails ++ l)
  let s1 := s.updWarp r (fun w => dropReq w a.id req all)
  if a.reqs.any (fun q => q.id != req) then s1
  else match laneTrap all false with
    | none => s1
    | some t => lateTrap s1 r a.pt t

/-- The lanes of a request take a cause. -/
def failReq (s : State) (r : WRef) (a : AtomOp) (q : AtomReq) (c : Nat) : State :=
  endReq s r a q.id (q.lanes.map (fun y => LaneFault.mk y.1 c 0 q.va))

/-- The cause of a request that cannot be performed: its point is out of reach, or beyond the caches a controller met an
uncorrectable error (09 R221). -/
def reqCause (s : State) (a : AtomOp) (q : AtomReq) (out : SegOutcome) : Option Nat :=
  match s.mapCause q.pa (Scope.rank a.scope ≤ 2) with
  | some c => some c
  | none => match out with
    | .failed c => if Scope.rank a.scope ≤ 2 then none else some c
    | _ => none

/-- ATOMIC_REQUEST (07 R178, R179, R445): one request executes as one indivisible read-modify-write at its point, after
every earlier atomic of its warp (07 Table 7-3). A request whose point cannot serve it yet stays; for a .di request ownership
is asked for. -/
def execAtomicRequest (core slot op : Nat) : Nat × SegOutcome → State → Host.Outcome State Fault Refusal
  | (req, out), s =>
    let r : WRef := { core := core, slot := slot }
    .next (match s.warp? r with
      | none => s
      | some w => match w.atoms.head?, s.block? core w.blk with
        | some a, some b => (match if a.id = op then a.reqs.find? (fun q => q.id = req) else none with
          | none => s
          | some q =>
            match reqCause s a q out with
            | some c => failReq (logOutcome s q.pa out) r a q c
            | none =>
              let n := DTy.bytes a.ty
              (match atomOld s r a.scope q.pa n with
                | (s1, none) =>
                  if a.scope = .di && s.homeOf (q.pa / 64) != s.dieOf core then
                    askOwner s1 (s.dieOf core) (q.pa / 64) q.cls (chainOf s1 b) else s1
                | (s1, some v) =>
                  let x := aopLanes a.op a.ty a.ftz v q.lanes
                  endReq ((atomNew (logOutcome s1 q.pa out) r a q b.ctx (chainOf s1 b) (leBytes n x.2)).updWarp r (fun v =>
                    x.1.foldl (fun v y => bindOld v a.dest a.ty y.1 y.2) v)) r a req []))
        | _, _ => s)

/-! ### Operand queues -/

/-- The COMPUTE warp of a block with a WARPID. -/
def warpOfId (s : State) (core : Nat) (b : Block) (id : Nat) : Option (Nat × Warp) :=
  match b.slots[id]? with
  | none => none
  | some sl => match s.warp? { core := core, slot := sl } with
    | none => none
    | some w => if w.access then none else some (sl, w)

/-- `QLD` (20 R405, R406): the tail of the queue is reserved. A scratchpad lane is read now, in program order (07 R169); the
other lanes bind by QLD_FILL. -/
def execQld (x : FQld) (s : State) : Host.Outcome State Fault Refusal :=
  .next (issue (.qld x) s (fun e s =>
    let id := bits (rdReg e.w false 0 x.b).toNat 4 0
    match warpOfId s e.r.core e.b id with
    | none => .trap s { cause := 3, mask := e.w.exec }
    | some t =>
      let q := Reg.idx x.q
      if (mget [] t.2.q q).length ≥ 8 then .wait s .queue
      else if State.ldcnt e.w ≥ 64 then .wait s .counter
      else
        let n : Nat := match x.ty with
          | .fp .f32 => 4
          | .fp _ => 2
          | t => DTy.bytes t
        let base := ((rdReg e.w false 0 x.a).toNat : Int) + offVal x.off
        let lanes := (List.range 32).map (fun l =>
          let a : Int := base + ((l : Nat) : Int) * sextNat 8 x.c.toNat * ((n : Nat) : Int)
          let va := if x.sp = .g then wrapInt 64 a else wrapInt 32 a
          ({ lane := l, va := va, pa := if x.sp = .g then 0 else 1, w := n } : LaneAcc))
        let got := lanes.filter (fun l => x.sp = .s && (checkS e.b false l.lane l.va n).isRight)
        let ext := fun (l : List Byte) => BitVec.ofNat 32 (if DTy.sext x.ty then wrapInt 32 (sextNat (8 * n) (leNat l)) else leNat l)
        let f := s.freshId
        let op : LoadOp := { id := f.1, dest := .queue t.1 q (DTy.sext x.ty),
                             lanes := lanes.filter (fun l => !got.contains l), cache := x.cache, pt := issuePt s e.w }
        let s1 := f.2.updWarp e.r (fun v => { v with loads := v.loads ++ [op] })
        let ent : QEnt := { id := f.1, filled := false, data := got.map (fun l => (l.lane, ext (getBytes e.b.scr l.va n))) }
        .done (s1.updWarp { core := e.r.core, slot := t.1 } (fun v =>
          { v with q := mput [] v.q q (mget [] v.q q ++ [ent]) }))))

/-- One lane of a queue load that is not yet read: its value and physical address, a fault, or neither yet. A scratchpad lane
left, marked with physical address 1, is one that faults. It waits for the warp's earlier loads and atomics of its line (07
R170, R445). -/
def qldLane (s : State) (r : WRef) (w : Warp) (b : Block) (o : LoadOp) (sx : Bool) (a : LaneAcc) :
    State × (Option LaneFault ⊕ (W32 × Nat)) :=
  let ext := fun (l : List Byte) => BitVec.ofNat 32 (if sx then wrapInt 32 (sextNat (8 * a.w) (leNat l)) else leNat l)
  if a.pa = 1 then
    match checkS b false a.lane a.va a.w with
    | .inl f => (s, .inl (some f))
    | .inr _ => (s, .inr (ext (getBytes b.scr a.va a.w), 0))
  else match checkG s r b.ctx (if o.pt.lvl ≥ 2 then needR else needR ||| needU) false a.lane a.va a.w with
    | (s1, .inl f) => (s1, .inl (some f))
    | (s1, .inr y) =>
      if (earlierLoads w o.id).any (fun z => z.meets y.pa) || (atomLines w).contains (y.pa / 64) then (s1, .inl none)
      else match s1.loadBytes r.core y.pa y.w with
        | some l => (readFill s1 r.core y.pa y.w o.cache, .inr (ext l, y.pa))
        | none => (s1, .inl none)

/-- What QLD_FILL has found of the lanes so far: the faults, the values by lane, the physical addresses read, and whether no
lane is still without its bytes. -/
structure QldLanes where
  faults : List LaneFault := []
  vals : List (Nat × W32) := []
  pas : List Nat := []
  whole : Bool := true
deriving DecidableEq, Repr

/-- Every lane of a queue load in turn. -/
def qldLanes (s : State) (r : WRef) (w : Warp) (b : Block) (o : LoadOp) (sx : Bool) : State × QldLanes :=
  o.lanes.foldl (fun (z : State × QldLanes) a =>
    match qldLane z.1 r w b o sx a with
    | (s1, .inl (some f)) => (s1, { z.2 with faults := z.2.faults ++ [f] })
    | (s1, .inl none) => (s1, { z.2 with whole := false })
    | (s1, .inr v) => (s1, { z.2 with vals := z.2.vals ++ [(a.lane, v.1)], pas := if v.2 = 0 then z.2.pas else z.2.pas ++ [v.2] }))
    (s, {})

/-- An uncorrectable error fails the lanes that read memory (09 R221). -/
def qldFail (o : LoadOp) (z : QldLanes) (c : Nat) : List LaneFault :=
  (o.lanes.filter (fun a => a.pa != 1)).map (fun a =>
    (z.faults.find? (fun f => f.lane = a.lane)).getD (LaneFault.mk a.lane c 0 a.va))

/-- QLD_FILL (20 R406): every lane binds and the reserved entry is filled. A page that is not mapped, or is protected, makes the
entry wait for Tchidal; when Tchidal cannot map it (`out` failed), or on any other lane fault, the block halts. Errors that a
controller meets are logged. -/
def execQldFill (core slot op : Nat) (out : SegOutcome) (s : State) : Host.Outcome State Fault Refusal :=
  let r : WRef := { core := core, slot := slot }
  .next (match s.warp? r with
    | none => s
    | some w => match w.loads.find? (fun o => o.id = op), s.block? core w.blk with
      | some o, some b => (match o.dest with
        | .queue t q sx =>
          let z := qldLanes s r w b o sx
          let gone := fun (v : Warp) => { v with loads := v.loads.filter (fun y => y.id != op) }
          let fail := fun (l : List LaneFault) (s : State) => match laneTrap l true with
            | none => s
            | some tr => lateTrap (s.updWarp r gone) r o.pt tr
          let page := fun (f : LaneFault) => f.cause = 15 || f.cause = 16
          (match z.2.faults, out with
            | [], .failed c =>
              if o.lanes.all (fun a => a.pa = 1) then fail [] z.1
              else fail (qldFail o z.2 c) (z.2.pas.foldl (fun s p => logOutcome s p out) z.1)
            | [], _ =>
              if !z.2.whole then s
              else ((z.2.pas.foldl (fun s p => logOutcome s p out) z.1).updWarp r gone).updWarp { core := core, slot := t }
                (fun v => { v with q := mput [] v.q q ((mget [] v.q q).map (fun y => if y.id = op then
                    { y with filled := true, data := z.2.vals.foldl (fun m e => mset m e.1 e.2) y.data } else y)) })
            | l, .failed _ => fail l z.1
            | l, _ => if l.all page then l.foldl (fun s f => askPage s b.ctx f.addr) s else fail (l.filter (fun f => !page f)) z.1)
        | _ => s)
      | _, _ => s)

/-- An ACCESS warp of the block has not ended (02 R51). -/
def accessAlive (s : State) (core : Nat) (b : Block) : Bool :=
  b.slots.any (fun x => match s.warp? { core := core, slot := x } with
    | some w => w.access && w.exited != allLanes
    | none => false)

/-- `QPOP` (20 R407). -/
def execQpop (x : FDA) (s : State) : Host.Outcome State Fault Refusal :=
  .next (issue (.qpop x) s (fun e s =>
    let q := Reg.idx x.a
    match mget [] e.w.q q with
    | [] =>
      if accessAlive s e.r.core e.b then .wait s .queue
      else .trap s { cause := 13, mask := e.w.exec, addr := BitVec.ofNat 64 q }
    | h :: t =>
      if !h.filled then .wait s .queue
      else
        let w1 : Warp := { e.w with q := mput [] e.w.q q t }
        .done (s.setWarp e.r ((lanesOf e.act).foldl (fun w l => w.putV (Reg.idx x.d) l (mget 0#32 h.data l)) w1))))

end Sys2Proof.Machine
end

