-- ==== Sys2Proof/Machine/Net.lean ====
section
/-! DEFINITION. The package network and the coherence events: routes and link sleep (08 R201 to R205), leases (08 R188),
and the service of RDC requests, snoops and answers (08 R193 to R196). -/

namespace Sys2Proof.Machine

/-- Packets to one die about one line arrive in order (log 12). -/
def inOrder (s : State) (m : Msg) : Bool :=
  !s.net.any (fun x => x.id < m.id && x.dst = m.dst && x.line = m.line && (match x.kind with
    | .snoop _ | .discovery | .data _ | .ack => true
    | _ => false))

/-- Receive a packet of a kind: it leaves the network, and a stale one causes nothing (08 R204). -/
def receive (s : State) (id : Nat) (p : MsgKind → Bool) (ready : Msg → Bool) (f : Msg → State → State) : State :=
  match s.net.find? (fun m => m.id = id) with
  | none => s
  | some m =>
    if !p m.kind || !routeOpen s m then s
    else
      let gone : State := { s with net := s.net.filter (fun x => x.id != id) }
      if !incOk s m then gone
      else if !ready m || !inOrder s m then s
      else f m ((route s m.src m.dst).foldl (fun s i => s.updLink i (fun l => { l with lastFlit := s.ctl.time })) gone)

/-! ### The home's service -/

/-- The answer to a request. -/
def reply (s : State) (m : Msg) (k : MsgKind) (bytes : SMap Byte) : State :=
  send s { id := 0, kind := k, src := m.dst, dst := m.src, line := m.line, bytes := bytes, rinc := m.inc,
           cls := m.cls, chain := m.chain, ef := m.ef }

/-- The dies a request must snoop before it is served, and whether they invalidate (08 Table 8-5). -/
def snoopsOf (k : ReqKind) (e : DirEnt) (d : Nat) : List Nat × Bool :=
  match DirEnt.ownerOf e with
  | some x =>
    if x = d then ([], false)
    else (match k with
      | .rd => ([x], false)
      | .rfo | .upg => ([x], true)
      | _ => ([], false))
  | none =>
    (match k with
      | .rfo | .upg => (sitesOf (e.sharers &&& ~~~siteBit d), true)
      | _ => ([], false))

/-- A request is performed at the home once no snoop is outstanding (08 Table 8-5). `still` says that the snooped owner
kept the line in S. -/
def perform (s : State) (k : ReqKind) (m : Msg) (still : Bool) : State :=
  let n := m.dst
  let e := s.dirEnt n m.line
  let s0 := dieAccess s n (m.line / 64)
  match k with
  | .rd =>
    let sh := match DirEnt.ownerOf e with
      | some x => if still && x != m.src then siteBit x ||| siteBit m.src else siteBit m.src
      | none => e.sharers ||| siteBit m.src
    let s1 := (dirRoom (touchHome s0 n m.line m.cls m.chain m.ef) n m.line).putDir n m.line (dirS sh)
    settleHome (reply (addPshr s1 n m.line m.src) m (.data false) (s1.homeBytes m.line)) n m.line
  | .rfo | .upg =>
    let keep := k == .upg && e.state = 1#2 && e.sharers.getLsbD m.src
    let s1 := (dirRoom (touchHome s0 n m.line m.cls m.chain m.ef) n m.line).putDir n m.line (dirE m.src)
    let s2 := addPshr s1 n m.line m.src
    settleHome (if keep then reply s2 m .ack [] else reply s2 m (.data true) (s2.homeBytes m.line)) n m.line
  | .wb => retireEnt (homePut s0 m.line m.bytes none m.cls m.chain m.ef).1 n m.line m.src
  | .evn => retireEnt s n m.line m.src
  | .dirtyNotice =>
    if (mfind (s.home n).dir m.line).isNone then (lessDrop (dirRoom s n m.line) n m.line).putDir n m.line (dirM m.src)
    else if DirEnt.ownerOf e = some m.src then s.putDir n m.line (dirM m.src) else s

/-- Snoops to dies, and the request held for their answers (08 R193). -/
def hold (s : State) (m : Msg) (k : MsgKind) (l : List Nat) (disc : Bool) : State :=
  let s1 := l.foldl (fun s x => send s { id := 0, kind := k, src := m.dst, dst := x, line := m.line }) s
  s1.updHome m.dst (fun h => { h with held := h.held ++ [{ req := m, waits := l, disc := disc }] })

/-- A request whose discovery, if any, is over: snoops first, or at once. -/
def serveNow (s : State) (k : ReqKind) (m : Msg) : State :=
  let t := snoopsOf k (s.dirEnt m.dst m.line) m.src
  if t.1.isEmpty then perform s k m false else hold s m (.snoop t.2) t.1 false

/-- A request reaches the home (08 R193 to R196, 09 Table 9-7). -/
def serveReq (s : State) (k : ReqKind) (m : Msg) : State :=
  let n := m.dst
  if s.homeOf m.line != n then reply s m (.replay k) m.bytes
  else if s.expOff m.line then (match k with
    | .wb => s.countLost m.line
    | .rd | .rfo | .upg => reply s m .accessError []
    | _ => s)
  else if n != Config.fed && !s.onlineSite n then reply s m .accessError []
  else
    let asks := k == .rd || k == .rfo || k == .upg
    let dies := (List.range 8).filter (fun x => x != m.src && s.onlineSite x)
    if asks && (mfind (s.home n).dir m.line).isNone && mget 0 (s.home n).drop (dirSet m.line) != 0 && !dies.isEmpty then
      hold s m .discovery dies true
    else serveNow s k m

/-- A request of a kind is taken while no other on its line is in service. The events give the order of arrival; requests of
one die about a line arrive in the order it sent them (log 12). -/
def takeReq (k : ReqKind) (id : Nat) (s : State) : State :=
  receive s id (fun x => x == .req k)
    (fun m => !(s.home m.dst).held.any (fun h => h.req.line = m.line) && !s.dirStuck m.line &&
      !s.net.any (fun x => x.id < id && x.src = m.src && x.dst = m.dst && x.line = m.line && (match x.kind with
        | .req _ => true
        | _ => false)))
    (fun m s => serveReq s k m)

def execRd (id : Nat) (s : State) : Host.Outcome State Fault Refusal := .next (takeReq .rd id s)
def execRfo (id : Nat) (s : State) : Host.Outcome State Fault Refusal := .next (takeReq .rfo id s)
def execUpg (id : Nat) (s : State) : Host.Outcome State Fault Refusal := .next (takeReq .upg id s)
def execWb (id : Nat) (s : State) : Host.Outcome State Fault Refusal := .next (takeReq .wb id s)
def execEvn (id : Nat) (s : State) : Host.Outcome State Fault Refusal := .next (takeReq .evn id s)
def execDirtyNotice (id : Nat) (s : State) : Host.Outcome State Fault Refusal := .next (takeReq .dirtyNotice id s)

/-- PUSH (07 R176, 08 Table 8-5): the dirty bytes that a die's RDC holds of a line are written at the home, whole. -/
def execPush (site line : Nat) (s : State) : Host.Outcome State Fault Refusal :=
  .next (if s.lineBusy line || !s.reaches site (s.homeOf line) then s else pushRdc s site line)

/-- The agent number of a management core's device-access window (06 R158; log 10). -/
def agentWin (m : Nat) : Nat := 7100 + m

/-- The physical runs of an access, each with its CLASS: by an engine that works for Tchidal, by physical address, or by one of
the sixteen management cores, through its window, under the context loaded into it, where an entry needs V and its format alone
(06 R154, R158, 12 R293; log 63). None where a byte cannot be reached. -/
def winRuns (s : State) (win : Option Nat) (a n : Nat) (wr : Bool) : State × Option (List (Nat × Nat × Nat)) :=
  match win with
  | none => (s, if (linesOf a n).any (fun l => (s.mapCause (64 * l) false).isSome) then none else some [(a, n, 0)])
  | some m =>
    if m ≥ 16 then (s, none)
    else (pagesOf a n).foldl (fun r p => match r with
      | (s, none) => (s, none)
      | (s, some l) => match engineXlat s (agentWin m) (mget 0 s.vm.win m) p.1 0#4 wr with
        | (s1, .inl _) => (s1, none)
        | (s1, .inr x) => (s1, some (l ++ [(x.pa, p.2, x.cls)]))) (s, some [])

/-- Every line of the runs is free. -/
def runsIdle (s : State) (l : List (Nat × Nat × Nat)) : Bool := l.all (fun p => s.idleRange p.1 p.2.1)

/-- RDNC (08 Table 8-5): an agent that caches nothing reads a line at its home. -/
def execRdnc : Option Nat × Nat → State → Host.Outcome State Fault Refusal
  | (win, line), s =>
    .next (match winRuns s win (64 * line) 64 false with
      | (_, none) => s
      | (s1, some l) => if runsIdle s1 l then l.foldl (fun s p => (readPhys (cross s Config.fed
          (s.homeOf (p.1 / 64))) p.1 p.2.1).1) s1 else s)

/-- WRNC (08 Table 8-5): an agent that caches nothing writes bytes at their homes. A residency whose source page Tchidal has moved
by it is stale (05 R130). -/
def execWrnc : Option Nat × BytesAt → State → Host.Outcome State Fault Refusal
  | (win, x), s =>
    .next (match winRuns s win x.addr x.bytes.length true with
      | (_, none) => s
      | (s1, some l) =>
        if runsIdle s1 l then
          staleMoved (l.foldl (fun (r : State × List Byte) p =>
            (writePhys (cross r.1 Config.fed (r.1.homeOf (p.1 / 64))) p.1 (r.2.take p.2.1) p.2.2 0 false, r.2.drop p.2.1)) (s1, x.bytes)).1
        else s)

/-! ### At the dies -/

/-- A snoop or a discovery is answered to the home, dirty bytes with the CLASS and CHAIN by which the die got them. -/
def answer (s : State) (m : Msg) (held owner : Bool) (bytes : SMap Byte) : State :=
  let c := ((s.rdc? m.dst m.line).map (·.copy)).getD {}
  send s { id := 0, kind := .answer held owner (evictionInFlight s m.dst m.line), src := m.dst, dst := m.src,
           line := m.line, bytes := bytes, rinc := m.inc, cls := c.cls, chain := c.chain }

/-- SNOOP (08 Table 8-5): the RDC invalidates or downgrades its copy and sends its dirty bytes. -/
def execSnoop (id : Nat) (s : State) : Host.Outcome State Fault Refusal :=
  .next (receive s id (fun k => match k with
      | .snoop _ => true
      | _ => false) (fun _ => true) (fun m s =>
    let b := s.rdcDirty m.dst m.line
    match s.rdc? m.dst m.line with
    | none => answer s m false false []
    | some x =>
      let s1 := answer s m true (decide (x.st ≥ 2)) b
      if m.kind == .snoop true then dropRdc s1 m.dst m.line
      else s1.setRdc m.dst m.line { x with st := 1, copy := Copy.clean x.copy }))

/-- DISCOVERY_BROADCAST (08 R195): the die answers whether its RDC holds the line. -/
def execDiscoveryBroadcast (id : Nat) (s : State) : Host.Outcome State Fault Refusal :=
  .next (receive s id (fun k => k == .discovery) (fun _ => true) (fun m s =>
    match s.rdc? m.dst m.line with
    | none => answer s m false false []
    | some x => answer s m true (decide (x.st ≥ 2)) []))

/-- Every answer has come: the entry is rebuilt after a discovery, and the request goes on. Where every line of its directory set
is in service by then, the request arrives again once a way can be freed (08 R194, log 74). -/
def heldDone (s : State) (n : Nat) (h : Held) (k : ReqKind) : State :=
  let s0 := s.updHome n (fun x => { x with held := x.held.filter (fun y => y.req.id != h.req.id) })
  let s1 := h.answers.foldl (fun s a =>
    let s1 := if a.bytes.isEmpty then s else (homePut s a.line a.bytes none a.cls a.chain false).1
    match a.kind with
    | .answer _ _ true => takeEvicts s1 (fun m d => m.line = a.line && d = a.src)
    | _ => s1) s0
  if h.disc && s1.dirStuck h.req.line then { s1 with net := s1.net ++ [h.req] }
  else if h.disc then
    match h.answers.find? (fun a => match a.kind with
        | .answer _ true false => true
        | _ => false) with
    | none => serveNow s1 k h.req
    | some a => serveNow (rebuild s1 n a.line a.src) k h.req
  else
    perform s1 k h.req (h.answers.any (fun a => match a.kind with
      | .answer true _ _ => true
      | _ => false))

/-- SNOOP_ANSWER (08 R193, R196). -/
def execSnoopAnswer (id : Nat) (s : State) : Host.Outcome State Fault Refusal :=
  .next (receive s id (fun k => match k with
      | .answer _ _ _ => true
      | _ => false) (fun _ => true) (fun m s =>
    let n := m.dst
    match (s.home n).held.find? (fun h => h.req.line = m.line && h.waits.contains m.src) with
    | none => if m.bytes.isEmpty then s else (homePut s m.line m.bytes none m.cls m.chain false).1
    | some h =>
      let h1 : Held := { h with waits := h.waits.filter (· != m.src), answers := h.answers ++ [m] }
      if h1.waits.isEmpty then (match h1.req.kind with
        | .req k => heldDone s n h1 k
        | _ => s)
      else s.updHome n (fun x => { x with held := x.held.map (fun y => if y.req.id = h.req.id then h1 else y) })))

/-- Sets of an RDC: 64 MiB on a level-2 die, 32 MiB on a level-1 die, 16 ways (06 Table 6-5). -/
def rdcSets (s : State) (d : Nat) : Nat := if (s.fuse d).level = 1 then 32768 else 65536

/-- An RDC gives up a line: WB with dirty bytes, EVN without (08 Table 8-5). -/
def releaseRdc (s : State) (d line : Nat) : State :=
  match s.rdc? d line with
  | none => s
  | some x =>
    let b := Copy.dirtyBytes x.copy
    send (dropRdc s d line) { id := 0, kind := .req (if b.isEmpty then .evn else .wb), src := d, dst := s.homeOf line,
                              line := line, bytes := b, cls := x.copy.cls, chain := x.copy.chain, ef := x.copy.ef }

/-- The die has no stack in service: its L2 serves as additional RDC (06 R141, 09 R214). -/
def State.noStack (s : State) (d : Nat) : Bool := !s.pkg.tier.live.getLsbD d

/-- The lines of an RDC in the set of a line, in the RDC itself or in the L2's array, that line apart. -/
def rdcSet (s : State) (d line : Nat) (ext : Bool) : SMap RdcLine :=
  let n := if ext then l2Sets else rdcSets s d
  (s.die d).rdc.filter (fun e => e.2.ext == ext && e.1 % n = line % n && e.1 != line)

/-- The line that a full set of an RDC gives up: one marked eviction-first, else the least recently used (log 8), but none that a
request of the die is out for. -/
def rdcVictim (s : State) (d line : Nat) : Option Nat :=
  copyVictim (((rdcSet s d line false).filter (fun e => !(s.die d).waits.contains e.1)).map (fun e =>
    (e.1, { e.2.copy with used := e.2.used })))

/-- An RDC has no room for a line now: every line of its set has a request of the die out. -/
def rdcFull (s : State) (d line : Nat) : Bool :=
  (s.rdc? d line).isNone && (rdcSet s d line false).length ≥ 16 && !(s.noStack d && (rdcSet s d line true).length < 32) &&
    (rdcVictim s d line).isNone

/-- Room for a line in an RDC, and whether it lies in the L2's array. -/
def rdcRoom (s : State) (d line : Nat) : State × Bool :=
  match s.rdc? d line with
  | some x => (s, x.ext)
  | none =>
    if (rdcSet s d line false).length < 16 then (s, false)
    else if s.noStack d && (rdcSet s d line true).length < 32 then (s, true)
    else match rdcVictim s d line with
      | none => (s, false)
      | some v => (releaseRdc s d v, false)

/-- A wait of an RDC for a line is over. -/
def endWait (s : State) (d line : Nat) : State := s.updDie d (fun i => { i with waits := i.waits.filter (· != line) })

/-- DATA_REPLY (08 R202): the RDC fills the line at DT; a home out of reach answers with the access error, and then
nothing is filled. A reply of an expander that has gone offline is dropped (09 R235, R236), and one waits for room (06 R141). -/
def execDataReply (id : Nat) (s : State) : Host.Outcome State Fault Refusal :=
  .next (receive s id (fun k => match k with
      | .data _ | .accessError => true
      | _ => false) (fun m => m.kind == .accessError || s.expOff m.line || !rdcFull s m.dst m.line) (fun m s =>
    let d := m.dst
    match m.kind with
    | .data excl =>
      if s.expOff m.line then endWait s d m.line
      else
        let q := rdcRoom s d m.line
        let s1 := q.1
        let dt := (s1.home d).dt
        let x : RdcLine := { st := if excl then 2 else 1, used := s1.ctl.clock, ext := q.2,
                             copy := { wts := dt, rts := dt, grts := dt, fill := s1.ctl.clock, data := m.bytes,
                                       cls := m.cls, chain := m.chain, ef := m.ef } }
        endWait (s1.setRdc d m.line x) d m.line
    | _ => endWait s d m.line))

/-- ACKNOWLEDGEMENT (08 R202): an upgrade is granted without data. -/
def execAcknowledgement (id : Nat) (s : State) : Host.Outcome State Fault Refusal :=
  .next (receive s id (fun k => k == .ack) (fun _ => true) (fun m s =>
    let s1 := match s.rdc? m.dst m.line with
      | none => s
      | some x => if x.st = 1 then s.setRdc m.dst m.line { x with st := 2 } else s
    endWait s1 m.dst m.line))

/-- HBM_REPLAY (09 R218): the requester takes the new view and reissues its request. -/
def execHbmReplay (id : Nat) (s : State) : Host.Outcome State Fault Refusal :=
  .next (receive s id (fun k => match k with
      | .replay _ => true
      | _ => false) (fun _ => true) (fun m s =>
    match m.kind with
    | .replay k => send s { id := 0, kind := .req k, src := m.dst, dst := s.homeOf m.line, line := m.line,
                            bytes := m.bytes, cls := m.cls, chain := m.chain, ef := m.ef }
    | _ => s))

/-- PAGE_SNOOP (08 R199): a die in PSHR invalidates all its lines of the page. -/
def execPageSnoop (site page : Nat) (s : State) : Host.Outcome State Fault Refusal :=
  let n := s.homeOf (64 * page)
  .next (match s.pageEnt? n page with
    | none => s
    | some e =>
      if !e.pshr.getLsbD site || !s.reaches n site || ((s.die site).rdc.filter (fun x => x.1 / 64 = page)).any (fun x => s.lineBusy x.1) then s
      else (pageSnoopDie s page site).updHome n (fun h =>
        { h with pages := mupd {} h.pages page (fun e => { e with pshr := e.pshr &&& ~~~siteBit site }) }))

/-! ### Leases -/

/-- What an access brings to the caches: its CLASS, its launch's CHAIN, and where it allocates (06 R143, R144, 11 R271). -/
structure Tags where
  cls : Nat := 0
  chain : Nat := 0
  cache : Cache := .ca
deriving DecidableEq, Repr

/-- The CLASS under which a load waits for a line; a queue load translates when its lanes bind. -/
def LoadOp.clsOf (s : State) (core ctx : Nat) (o : LoadOp) (line : Nat) : Option Nat :=
  match o.dest with
  | .queue _ _ _ => o.lanes.findSome? (fun a =>
      if a.pa = 1 || a.va / 64 % 64 != line % 64 || vaBad a.va then none
      else match (translate s core ctx a.va needR false).2 with
        | .inr x => if x.pa / 64 = line then some x.cls else none
        | .inl _ => none)
  | _ => (o.lanes.find? (fun a => a.pa / 64 = line)).map (fun a => a.cls)

/-- The tags of the accesses of a warp that wait for a line. -/
def warpTags (s : State) (core line : Nat) (w : Warp) (b : Block) : Option Tags :=
  match w.loads.findSome? (fun o => (o.clsOf s core b.ctx line).map (fun c => (c, o.cache))) with
  | some x => some { cls := x.1, chain := chainOf s b, cache := x.2 }
  | none => (w.atoms.findSome? (fun a => a.reqs.find? (fun q => q.pa / 64 = line))).map
      (fun q => { cls := q.cls, chain := chainOf s b })

/-- The tags of the access of a core that waits for a line: the first by warp slot. -/
def waitTags (s : State) (core line : Nat) : Tags :=
  ((s.core core).warps.findSome? (fun x => (s.block? core x.2.blk).bind (fun b => warpTags s core line x.2 b))).getD {}

/-- The reply of a manager whose line holds wts and rts (08 Table 8-1), and the age at which the lease that it grants ends. -/
def leaseReply (s : State) (core line w rts : Nat) (bytes : SMap Byte) : State :=
  let d := s.dieOf core
  let k := s.clusterOf core
  let renew : Bool := match mfind (s.clc k) line with
    | none => false
    | some c => c.wts == w && c.gwts == some w && c.dirty == 0#64 && c.data.length == 64
  send s { id := 0, kind := .lease renew, src := d, dst := d, line := line, bytes := if renew then [] else bytes,
           pts := (w, rts), core := core, bound := s.leaseBound d }

/-- LEASE_REQUEST (08 Table 8-1): the manager extends rts to pts + TICKS and replies. An RDC without the line asks its
home. -/
def execLeaseRequest (core line : Nat) (s : State) : Host.Outcome State Fault Refusal :=
  let d := s.dieOf core
  let t := (s.die d).ticks
  let g := waitTags s core line
  .next (if (s.mapCause (64 * line) false).isSome then s
    else if s.homeOf line = d then
      if s.lineBusy line then s
      else
        let s0 := dieAccess s d (line / 64)
        let s1 := touchHome (pullDirty s0 line) d line g.cls g.chain (g.cache = .ef)
        let l : HomeLine := (s1.homeLine? d line).getD {}
        let rts := max l.rts (s1.pts core + t)
        let s2 := s1.setHomeLine d line { l with rts := rts }
        settleHome (leaseReply s2 core line l.wts rts (s2.homeBytes line)) d line
    else match s.rdc? d line with
      | some x =>
        let rts := max x.copy.rts (s.pts core + t)
        leaseReply (s.setRdc d line { x with used := s.ctl.clock, copy := { x.copy with rts := rts, ef := false } }) core line
          x.copy.wts rts x.copy.data
      | none =>
        if (s.die d).waits.contains line || evictionInFlight s d line || !s.reaches d (s.homeOf line) then s
        else (send s { id := 0, kind := .req .rd, src := d, dst := s.homeOf line, line := line, cls := g.cls, chain := g.chain,
                       ef := g.cache = .ef }).updDie d (fun i => { i with waits := line :: i.waits }))

/-- A lease reply gives a CLC copy nothing: it is older than the version that the copy holds, or renews one that the copy no longer
holds (07 R169, R170; log 72). -/
def leaseLate (c : Copy) (m : Msg) : Bool :=
  if m.kind == .lease true then c.gwts != some m.pts.1 else c.gwts.any (fun w => m.pts.1 < w)

/-- A CLC copy after a lease reply (08 Table 8-1): it takes the reply's wts and rts, and its clean bytes the reply's. A copy with
dirty bytes keeps a later wts and rts of theirs (log 72). -/
def leased (c : Copy) (m : Msg) (now : Nat) : Copy :=
  let up := fun (a b : Nat) => if c.dirty = 0#64 then b else max a b
  { c with wts := up c.wts m.pts.1, rts := up c.rts m.pts.2, grts := m.pts.2, gwts := some m.pts.1, fill := m.clock, bound := m.bound,
           used := now, data := m.bytes.foldl (fun d e => if c.dirty.getLsbD e.1 then d else mset d e.1 e.2) c.data }

/-- LEASE_REPLY (08 Table 8-1): pts rises to wts and the copies take the reply's wts and rts; dirty bytes stay. The lease ends
an age after it was granted. -/
def execLeaseReply (id : Nat) (s : State) : Host.Outcome State Fault Refusal :=
  .next (receive s id (fun k => match k with
      | .lease _ => true
      | _ => false) (fun m => !s.clcFull (s.clusterOf m.core) m.line) (fun m s =>
    let k := s.clusterOf m.core
    let g := waitTags s m.core m.line
    let s0 := s.raisePts m.core m.pts.1
    let c := mget { cls := g.cls, chain := g.chain, ef := g.cache = .ef } (s0.clc k) m.line
    if leaseLate c m then s0
    else
      let s1 := clcRoom s0 k m.line
      let c1 := leased c m s1.ctl.clock
      let s2 := s1.setClc k m.line c1
      if g.cache = .cg then s2.delL1 m.core m.line else fillL1 s2 m.core m.line c1))

/-- CLC_DIRTY_PUSH (07 R168): a line's dirty bytes go toward their home. -/
def execClcDirtyPush (cluster line : Nat) (s : State) : Host.Outcome State Fault Refusal :=
  .next (if s.lineBusy line || !s.reaches (cluster / 34) (s.homeOf line) then s else pushClc s cluster line none)

/-- PTS_TICK (08 Table 8-1): pts rises by 1 every TICKCC cc. -/
def execPtsTick (core : Nat) (s : State) : Host.Outcome State Fault Refusal :=
  let c := s.core core
  let t := (s.die (s.dieOf core)).tickcc
  .next (if s.ctl.clock < c.ptsAt + t then s
    else s.updCore core (fun c => { c with pts := c.pts + 1, ptsAt := c.ptsAt + t }))

/-! ### Links -/

/-- LINK_SLEEP (08 R205). -/
def execLinkSleep (l : Nat) (s : State) : Host.Outcome State Fault Refusal :=
  let k := s.link l
  .next (if k.width != 0 && !k.asleep && k.lsleep != 0 && s.ctl.time ≥ k.lastFlit + k.lsleep * usTicks then
    s.updLink l (fun x => { x with asleep := true }) else s)

/-- LINK_WAKE (08 R205): for a packet that waits on the link. -/
def execLinkWake (l : Nat) (s : State) : Host.Outcome State Fault Refusal :=
  .next (if (s.link l).asleep && s.net.any (fun m => (route s m.src m.dst).contains l) then
    s.updLink l (fun x => { x with asleep := false, lastFlit := s.ctl.time }) else s)

/-- LINK_WAKE_TIMEOUT (08 R205): a snoop that has waited 50 µs fails. The home logs it and sends the snoop once more, by another
route where one exists; at the second failure Tchidal is interrupted, and at each further one while the snoop waits (log 82). -/
def execLinkWakeTimeout (id : Nat) (s : State) : Host.Outcome State Fault Refusal :=
  .next (match s.net.find? (fun m => m.id = id) with
    | none => s
    | some m =>
      (match m.kind with
        | .snoop _ | .discovery =>
          if routeOpen s m || s.ctl.time < m.time + 50 * usTicks then s
          else
            let s1 : State := { s with net := s.net.map (fun x =>
              if x.id = id then { x with retried := true, time := s.ctl.time } else x) }
            if m.retried then s1.raise (.linkWake m.line)
            else s1.updHome m.src (fun h => { h with wakes := h.wakes ++ [m.line] })
        | _ => s))

/-- LINK_FAILURE (08 R203): the link is disabled and routes are recomputed. Of the packets whose route crosses it, those then on
it are lost: which, a free value decides (log 64). -/
def execLinkFailure (l : Nat) (s : State) : Host.Outcome State Fault Refusal :=
  .next (if (s.link l).width = 0 then s
    else
      let r := s.net.foldl (fun (r : State × List Msg) m =>
        if (route s m.src m.dst).contains l then
          let b := r.1.freeByte
          (b.2, if b.1.getLsbD 0 then r.2 else r.2 ++ [m])
        else (r.1, r.2 ++ [m])) (s, [])
      let s1 : State := { r.1 with net := r.2 }
      (s1.updLink l (fun x => { x with width := 0, asleep := false })).updPkg (fun p => { p with rerouted := true }))

end Sys2Proof.Machine
end

