-- ==== Sys2Proof/Machine/Ctl.lean ====
section
/-! DEFINITION. Control flow, the execution mask, special registers and counters (18, 19, 20, 21: R341 to R438 of these
forms). -/

namespace Sys2Proof.Machine

/-- `NOP` (20 R401). -/
def execNop (x : FNop) (s : State) : Host.Outcome State Fault Refusal := .next (issue (.nop x) s (fun _ s => .done s))

/-- `ILL` traps at decode, whatever its fields hold (20 R385). -/
def execIll (x : FIll) (s : State) : Host.Outcome State Fault Refusal :=
  .next (issue (.ill x) s (fun e s => .trap s { cause := 1, mask := e.w.exec }))

/-- `BRA` (18 R342). -/
def execBra (x : FBra) (s : State) : Host.Outcome State Fault Refusal :=
  .next (issue (.bra x) s (fun e s => .jump s (pcOff e.w.pc x.off)))

/-- A jump to an address held in a register: an address beyond 54 bits faults (18 R346, 19 R347, 21 R417). -/
def jumpTo (s : State) (e : Env) (t : W64) : Res :=
  if t.toNat ≥ 2 ^ 54 then .trap s { cause := 9, mask := e.w.exec, addr := t } else .jump s (t.truncate 54)

/-- `BRX` (18 R346). -/
def execBrx (x : FBrx) (s : State) : Host.Outcome State Fault Refusal :=
  .next (issue (.brx x) s (fun e s => jumpTo s e (rdReg e.w false 0 x.a + (x.off.getD 0#32).signExtend 64)))

/-- `BRC` (18 R344). -/
def execBrc (x : FBrc) (s : State) : Host.Outcome State Fault Refusal :=
  .next (issue (.brc x) s (fun e s =>
    let p := match x.p with
      | .p n => e.w.getP n.val
      | _ => 0#32
    let c := if x.inv then ~~~p else p
    let t := e.w.exec &&& c
    let n := e.w.exec &&& ~~~c
    let split := t != 0#32 && n != 0#32
    if e.w.stack.length + (if split then 2 else 1) > 32 then .trap s { cause := 5, mask := e.w.exec }
    else
      let j : StackEnt := { pc := pcAdd (pcOff e.w.pc x.join) 8, mask := e.w.exec, fmt := e.w.fmt }
      let st := j :: e.w.stack
      if split then
        let o : StackEnt := { pc := pcAdd e.w.pc 16, mask := n, fmt := e.w.fmt }
        .jump (s.setWarp e.r { e.w with stack := o :: st, exec := t }) (pcOff e.w.pc x.target)
      else .jump (s.setWarp e.r { e.w with stack := st }) (if n = 0#32 then pcOff e.w.pc x.target else pcAdd e.w.pc 16)))

/-- The stack depth saved at entry to the running level (20 R386). -/
def levelDepth (w : Warp) : Nat :=
  if w.level = 0 then 0 else if w.level = 1 then w.f1.depth else if w.level = 2 then w.f2.depth else w.f3.depth

/-- `JOIN` (20 R386). -/
def execJoin (s : State) : Host.Outcome State Fault Refusal :=
  .next (issue .join s (fun e s =>
    match e.w.stack with
    | [] => .trap s { cause := 6, mask := e.w.exec }
    | t :: st =>
      if e.w.level > 0 && e.w.stack.length = levelDepth e.w then .trap s { cause := 6, mask := e.w.exec }
      else .jump (s.setWarp e.r ({ e.w with stack := st, fmt := t.fmt } |>.setExec t.mask)) t.pc))

/-- `CALL` (19 R347): the link register is written after the target is read. -/
def execCall (x : FDSrc) (s : State) : Host.Outcome State Fault Refusal :=
  .next (issue (.call x) s (fun e s =>
    let t : W64 := match x.src with
      | .imm o => (pcOff e.w.pc o).zeroExtend 64
      | .reg r => rdReg e.w false 0 r
    jumpTo (if t.toNat ≥ 2 ^ 54 then s else s.setWarp e.r (wrReg e.w false 0 x.d (e.next.zeroExtend 64))) e t))

/-- `RET` (21 R417). -/
def execRet (x : FA) (s : State) : Host.Outcome State Fault Refusal :=
  .next (issue (.ret x) s (fun e s => jumpTo s e (rdReg e.w false 0 x.a)))

/-- Lanes exit: EXITED gains them, EXEC and every stack entry lose them (02 R32). -/
def exitLanes (w : Warp) (m : Mask) : Warp :=
  { w with exited := w.exited ||| m, exec := w.exec &&& ~~~m, stack := w.stack.map (fun e => { e with mask := e.mask &&& ~~~m }) }

/-- `EXIT` (19 R368, R369): when the primary warp of a halt ends in its handler, the halted warps resume. -/
def execExit (x : FExit) (s : State) : Host.Outcome State Fault Refusal :=
  .next (issue (.exit x) s (fun e s =>
    let w1 := exitLanes e.w (if x.cls = .scl then ~~~e.w.exited else e.act)
    let s1 := s.setWarp e.r w1
    if w1.exited = allLanes && e.b.halt = some e.r.slot then .done (resumeBlock s1 e.r.core e.w.blk) else .done s1))

/-- The issuing warp retires and leaves the active set, in a halt's skid too (log 78); an ACCESS warp gives up its issue slot
(21 R422). -/
def yieldRes (s : State) (e : Env) : Res :=
  .raw (s.updWarp e.r (fun w =>
    let w1 := retireWarp w e.next s.ctl.clock
    if w.access then w1 else { w1 with wait := some .yielded }))

/-- `YIELD` (21 R422). -/
def execYield (x : FHd) (s : State) : Host.Outcome State Fault Refusal :=
  .next (issue (.yield x) s (fun e s => yieldRes s e))

/-- `SLEEP` (21 R422): not ready for n cc from issue; n = 0 acts as `YIELD`. -/
def execSleep (x : FSrc) (s : State) : Host.Outcome State Fault Refusal :=
  .next (issue (.sleep x) s (fun e s =>
    let n := (srcS e.w x.src).toNat % 2 ^ 32
    if n = 0 then yieldRes s e
    else .wait (s.updWarp e.r (fun w => { w with issued := some s.ctl.clock })) (.sleep (s.ctl.clock + n) e.next)))

/-- SLEEP_EXPIRY (03 R74): the time has passed; the `SLEEP` retires and the warp joins the ready queue. -/
def execSleepExpiry (core slot : Nat) (s : State) : Host.Outcome State Fault Refusal :=
  let r : WRef := { core := core, slot := slot }
  .next (match s.warp? r with
    | none => s
    | some w =>
      (match w.wait with
        | some (.sleep t p) =>
          if s.ctl.clock < t then s else joinReady (s.setWarp r (retireWarp w p (w.issued.getD 0))) r
        | _ => s))

/-- `BKPT` (18 R341). -/
def execBkpt (x : FHd) (s : State) : Host.Outcome State Fault Refusal :=
  .next (issue (.bkpt x) s (fun e s => .trap s { cause := 25, mask := e.w.exec }))

/-- `TRAP` (21 R435): the warp parks. The instruction after it travels with the request. -/
def execTrap (x : FTrap) (s : State) : Host.Outcome State Fault Refusal :=
  .next (issue (.trap x) s (fun e s =>
    .trap s { cause := 26, mask := e.w.exec, dop0 := x.n.zeroExtend 64, dop2 := e.next.zeroExtend 64 }))

/-! ### Mask and format -/

/-- `EXECRD` (19 R366). -/
def execExecrd (x : FD) (s : State) : Host.Outcome State Fault Refusal :=
  .next (issueW (.execrd x) s (fun e => wrReg e.w false 0 x.d (e.w.exec.zeroExtend 64)))
/-- `EXECWR` (19 R366). -/
def execExecwr (x : FSrc) (s : State) : Host.Outcome State Fault Refusal :=
  .next (issueW (.execwr x) s (fun e => e.w.setExec ((srcS e.w x.src).truncate 32)))

/-- A write of FMT; a reserved AFMT or BFMT traps (04 R102). -/
def writeFmt (s : State) (e : Env) (v : W64) : Res :=
  match fmtOf v with
  | none => .trap s { cause := 3, mask := e.w.exec }
  | some f => .done (s.setWarp e.r { e.w with fmt := f })

/-- `SETFMT` (21 R419). -/
def execSetfmt (x : FSrc) (s : State) : Host.Outcome State Fault Refusal :=
  .next (issue (.setfmt x) s (fun e s => writeFmt s e (srcS e.w x.src)))

/-! ### Special registers (11 Table 11-11) -/

/-- The trap set that `SREAD` reads (10 R241). -/
def trapSetOf (w : Warp) : TrapSet := if w.level ≤ 1 then w.t1 else w.t2

/-- HMAP3 (01 Table 1-5). -/
def hmap3 (s : State) : Nat :=
  (List.range 8).foldl (fun r i => r + ((s.fuse i).level % 16 + (if s.onlineSite i then 128 else 0)) * 2 ^ (8 * i)) 0

/-- PKGLVL (01 Table 1-6). -/
def pkgLevel (s : State) : Nat :=
  match s.passedSites.map (fun i => (s.fuse i).level) with
  | [] => 0
  | a :: t => t.foldl min a

/-- A special register as a lane reads it; TADDR gives a lane its own address in the vector form (10 Table 10-2,
06 R161). -/
def spRead (s : State) (e : Env) (vec : Bool) (lane : Nat) (n : SpReg) : W64 :=
  let w := e.w
  let t := trapSetOf w
  let f := s.fuse (s.siteOf e.r.core)
  let ti := s.pkg.tier
  let num := fun (x : Nat) => BitVec.ofNat 64 x
  match n with
  | .exec => num w.exec.toNat
  | .fmt => num w.fmt.toNat
  | .nbv => num e.b.nbv
  | .isalvl => num f.level
  | .laneid => num lane
  | .warpid => num w.id
  | .roleid => num w.role
  | .blockid => num e.b.bid.toNat
  | .coreid => num e.r.core
  | .pcore => num (s.physOf e.r.core)
  | .dieid => num (s.siteOf e.r.core)
  | .diegen => num (f.step * 256 + f.gen)
  | .tenant => num e.b.ctx
  | .stepno => num w.stepno.toNat
  | .clock => num s.ctl.clock
  | .lease => let d := s.die (s.siteOf e.r.core); num (d.tickcc * 65536 + d.ticks)
  | .tcause => num (t.icount.toNat * 65536 + t.hlvl.toNat * 64 + t.cause.toNat)
  | .tpc => num t.pc.toNat
  | .tskid => num (t.prim.toNat * 256 + t.skid.toNat)
  | .taddr => if vec then (mfind t.lanes lane).getD t.addr else t.addr
  | .tdmask => num (t.rmask.toNat * 2 ^ 32 + t.mask.toNat)
  | .tdop0 => t.dop0
  | .tdop1 => t.dop1
  | .tdop2 => t.dop2
  | .tdop3 => t.dop3
  | .capacity => num s.capacity
  | .mphase => num ti.mphase.toNat
  | .migw => num ti.migw
  | .stacksLive => num (ti.live.toNat * 65536 + ti.nold * 256 + ti.n)
  | .survMap => num (ti.oldmap.toNat * 2 ^ 24 + ti.map.toNat)
  | .hmap0 => num (bits f.enabled.toNat 63 0)
  | .hmap1 => num (bits f.enabled.toNat 127 64)
  | .hmap2 => num (f.defect * 256 + bits f.enabled.toNat 135 128)
  | .hmap3 => num (hmap3 s)
  | .hmap4 => num (s.passedSites.length * 256 + pkgLevel s)
  | .ldcnt => num (State.ldcnt w)
  | .stcnt => num (s.stcnt e.r w)
  | .cpcnt => num (State.cpcnt w)
  | .tlcnt => num (s.tlcnt e.r)

/-- `SREAD` (21 R423). -/
def execSread (x : FSread) (s : State) : Host.Outcome State Fault Refusal :=
  .next (issue (.sread x) s (fun e s =>
    .done (s.setWarp e.r (perLane e x.cls x.d x.z64 (fun l => spRead s e (x.cls != .scl) l x.n)))))

/-- `SWRITE` (21 R424): every number but EXEC and FMT is ignored. -/
def execSwrite (x : FSwrite) (s : State) : Host.Outcome State Fault Refusal :=
  .next (issue (.swrite x) s (fun e s =>
    let v := srcS e.w x.src
    if x.n = .exec then .done (s.setWarp e.r (e.w.setExec (v.truncate 32)))
    else if x.n = .fmt then writeFmt s e v else .done s))

/-- `WAIT` (21 R438). -/
def execWait (x : FWait) (s : State) : Host.Outcome State Fault Refusal :=
  .next (issue (.wait x) s (fun e s =>
    let n := match x.c with
      | .ld => State.ldcnt e.w
      | .st => s.stcnt e.r e.w
      | .cp => State.cpcnt e.w
      | .tl => s.tlcnt e.r
    if n ≤ x.n.toNat then .done s else .wait s .counter))

end Sys2Proof.Machine
end

