-- ==== Sys2Proof/Machine/Sync.lean ====
section
/-! DEFINITION. Fences, steps, aborts, timelines, barriers and the accumulator moves (07 R174 to R183, 18 R315 to R335,
19 R375, R376, 21 R427 to R430). -/

namespace Sys2Proof.Machine

/-! ### Fences -/

/-- The parts of a fence kind: release, acquire, and what `.sc` adds. -/
structure FenceKind where
  rel : Bool
  acq : Bool
  sc : Bool
deriving DecidableEq, Repr

/-- What a fence of a warp still waits for (07 Table 7-4). A fence at .wp orders nothing but for `.sc` (19 R376). -/
def fenceWait (s : State) (r : WRef) (w : Warp) (ctx : Nat) (k : FenceKind) (q : Scope) : Option WaitR :=
  if k.sc && !scReady s r w ctx then some .other
  else if Scope.rank q = 0 then none
  else if !w.atoms.isEmpty || (k.rel && !(s.heldOf r).isEmpty) then some .other
  else if k.acq && !w.loads.isEmpty then some .load
  else if k.rel && !releaseReady s r.core q then some .other
  else none

/-- The effect of a fence that waits for nothing. -/
def fenceDo (s : State) (core : Nat) (k : FenceKind) (q : Scope) : State :=
  let s1 := if k.rel then release s core q else s
  if k.acq then acquire s1 core q else s1

/-- The group-membership fault (02 R54). -/
def groupTrap (e : Env) (g : Nat) : TrapReq := { cause := 14, mask := e.w.exec, addr := BitVec.ofNat 64 g }

/-- `FENCE` of a kind (19 R375, R376). -/
def fence (i : Instr) (k : FenceKind) (x : FFence) (s : State) : State :=
  issue i s (fun e s =>
    if x.sc = .gp && !groupOk s e.b x.g.toNat then .trap s (groupTrap e x.g.toNat)
    else
      let q := effScope s e.b x.sc
      match fenceWait s e.r e.w e.b.ctx k q with
      | some why => .wait s why
      | none => .done (fenceDo s e.r.core k q))

/-- `FENCE.acq`. -/
def execFenceAcq (x : FFence) (s : State) : Host.Outcome State Fault Refusal :=
  .next (fence (.fenceAcq x) { rel := false, acq := true, sc := false } x s)
/-- `FENCE.rel`. -/
def execFenceRel (x : FFence) (s : State) : Host.Outcome State Fault Refusal :=
  .next (fence (.fenceRel x) { rel := true, acq := false, sc := false } x s)
/-- `FENCE.ar`. -/
def execFenceAr (x : FFence) (s : State) : Host.Outcome State Fault Refusal :=
  .next (fence (.fenceAr x) { rel := true, acq := true, sc := false } x s)
/-- `FENCE.sc`. -/
def execFenceSc (x : FFence) (s : State) : Host.Outcome State Fault Refusal :=
  .next (fence (.fenceSc x) { rel := true, acq := true, sc := true } x s)

/-- `FENCE.rel` inside another instruction: its wait, or the state after it. -/
def relThen (s : State) (e : Env) (q : Scope) (f : State → Res) : Res :=
  match fenceWait s e.r e.w e.b.ctx { rel := true, acq := false, sc := false } q with
  | some why => .wait s why
  | none => f (release s e.r.core q)

/-- `FENCE.acq` inside another instruction: its wait, or the state after it. -/
def acqThen (s : State) (e : Env) (q : Scope) (f : State → Res) : Res :=
  match fenceWait s e.r e.w e.b.ctx { rel := false, acq := true, sc := false } q with
  | some why => .wait s why
  | none => f (acquire s e.r.core q)

/-! ### STEP and ABORTG -/

/-- The numbers of the block's ABORT groups (02 R53). -/
def abortGroups (s : State) (b : Block) : List Nat :=
  match s.launch? b.lid with
  | none => []
  | some l => (List.range (Launch.groups l).length).filter (fun i => match (Launch.groups l)[i]? with
    | some g => g.abort && GroupD.member g b.bid.toNat
    | none => false)

/-- Key of a block's recorded step for a group. -/
def stepKey (lid g bid : Nat) : Nat := 2 ^ 40 * lid + 2 ^ 32 * g + bid

/-- The unwind step of a group: the smallest of its members' latest recorded steps, 0 for a member that has recorded none; Tchidal
restarts the members from it (10 R256, R257). -/
def unwindStep (s : State) (lid g : Nat) : Nat :=
  match s.launch? lid with
  | none => 0
  | some l => match (Launch.groups l)[g]? with
    | none => 0
    | some e =>
      let rec' := ((List.range l.hdr.nblock).filter (fun b => GroupD.member e b)).map
        (fun b => (mget 0#32 s.fed.steps (stepKey lid g b)).toNat)
      match rec' with
      | [] => 0
      | a :: t => t.foldl min a

/-- `STEP` (21 R427, 10 R256). -/
def execStep (x : FSrc) (s : State) : Host.Outcome State Fault Refusal :=
  .next (issue (.step x) s (fun e s =>
    let n : W32 := (srcS e.w x.src).truncate 32
    if s.stcnt e.r e.w ≥ 64 then .wait s .counter
    else relThen s e .dv (fun s =>
      let s1 := (abortGroups s e.b).foldl (fun s g => s.updFed (fun f =>
        { f with steps := mset f.steps (stepKey e.b.lid g e.b.bid.toNat) n })) s
      .done (s1.updWarp e.r (fun w => { w with stepno := n })))))

/-! ### Timelines -/

/-- A queue that a warp of a context may name (21 R429). -/
def queueOk (s : State) (ctx tlid : Nat) : Bool :=
  tlid / 4096 = 0 && tlid % 4096 < 64 && (s.queue (tlid % 4096)).ctx = ctx

/-- QTL rises to a value (03 R60, 21 R429). -/
def raiseQtl (s : State) (q : Nat) (v : W64) : State :=
  s.updQueue q (fun x => { x with tl := if x.tl.toNat < v.toNat then v else x.tl })

/-- `TLSIG` (21 R429). -/
def execTlsig (x : FAB) (s : State) : Host.Outcome State Fault Refusal :=
  .next (issue (.tlsig x) s (fun e s =>
    let t := (rdReg e.w false 0 x.a).toNat % 65536
    if !queueOk s e.b.ctx t then .trap s { cause := 3, mask := e.w.exec }
    else if s.stcnt e.r e.w ≥ 64 then .wait s .counter
    else relThen s e .dv (fun s => .done (raiseQtl s (t % 4096) (rdReg e.w false 0 x.b)))))

/-- A TLID and number that a warp of a context may wait for (07 R183). -/
def tlOk (s : State) (ctx tlid n : Nat) : Bool :=
  let k := tlid / 4096
  let i := tlid % 4096
  if k = 0 then queueOk s ctx tlid
  else n ≤ (s.timeline ctx tlid).issued && (if k ≤ 2 then i < 8 else if k = 3 then i = 0 else k = 4 && i ≤ 1)

/-- The block that submitted an operation is stopped or swapped out, so the operation is parked (10 Table 10-5). -/
def ownerStopped (s : State) (o : Option (Nat × Nat)) : Bool :=
  match o with
  | none => false
  | some (lid, bid) =>
    s.fed.saved.any (fun x => x.lid = lid && x.bid.toNat = bid) ||
    s.cores.any (fun c => c.2.blocks.any (fun b => b.2.lid = lid && b.2.bid.toNat = bid &&
      (b.2.phase == .stopping || b.2.phase == .saving || b.2.phase == .restoring)))

/-- Operations of a timeline numbered n or below that are neither complete nor parked (10 R252). -/
def tlActive (s : State) (ctx tlid n : Nat) : Bool :=
  let i := tlid % 4096
  if tlid / 4096 = 1 then
    s.cores.any (fun c => s.siteOf c.1 = i && c.2.resl.any (fun r => r.ctx = ctx &&
      (r.num.toList ++ r.also).any (fun k => k ≤ n) && !ownerStopped s r.owner))
  else if tlid / 4096 = 2 then
    s.moves.any (fun m => m.site = i && m.ctx = ctx && m.num ≤ n)
  else decide (s.tlCounter ctx tlid < n)

/-- `TLWAIT` (21 R430, 07 R183): at level 3 it returns once every operation is complete or parked (10 R252). -/
def execTlwait (x : FTlwait) (s : State) : Host.Outcome State Fault Refusal :=
  .next (issue (.tlwait x) s (fun e s =>
    let t := (rdReg e.w false 0 x.a).toNat % 65536
    let n := (srcS e.w x.src).toNat
    if !tlOk s e.b.ctx t n then .trap s { cause := 3, mask := e.w.exec }
    else if n ≤ s.tlCounter e.b.ctx t || (e.w.level = 3 && !tlActive s e.b.ctx t n) then
      acqThen s e .dv (fun s => .done s)
    else .wait s .counter))

/-! ### Barrier objects (02 Table 2-3) -/

/-- A barrier object. -/
structure Bar where
  expect : Nat := 0
  arrived : Nat := 0
  phase : Nat := 0
  valid : Bool := false
  parked : W32 := 0#32
deriving DecidableEq, Repr

/-- The object in 16 bytes read as one number. -/
def barOf (x : Nat) : Bar :=
  { expect := bits x 15 0, arrived := bits x 31 16, phase := bits x 39 32, valid := bits x 40 40 = 1,
    parked := BitVec.ofNat 32 (bits x 95 64) }

/-- The 16 bytes of an object. -/
def barBytes (b : Bar) : List Byte :=
  leBytes 16 (b.expect % 65536 + b.arrived % 65536 * 2 ^ 16 + b.phase % 256 * 2 ^ 32 + b.valid.toNat * 2 ^ 40 +
    b.parked.toNat * 2 ^ 64)

/-- The scratchpad offset of barrier n (02 R40). -/
def barOff (b : Block) (n : Nat) : Nat := b.size - 16 * (b.nbar - n)

def getBar (b : Block) (n : Nat) : Bar := barOf (leNat (getBytes b.scr (barOff b n) 16))

def setBar (s : State) (core h n : Nat) (x : Bar) : State :=
  s.updBlock core h (fun b => { b with scr := putBytes b.scr (bytesAt (barOff b n) (barBytes x)) })

/-- Phase p is complete (18 R328). -/
def phaseDone (x : Bar) (p : Nat) : Bool :=
  let d := (x.phase + 256 - p % 256) % 256
  1 ≤ d && d ≤ 128

/-- Warps parked on an object wake and start their `BARWAIT` again (18 R329, R334). -/
def wakeParked (s : State) (core h : Nat) (m : W32) : State :=
  match s.block? core h with
  | none => s
  | some b => (lanesOf m).foldl (fun s i => match b.slots[i]? with
    | none => s
    | some sl =>
      let r : WRef := { core := core, slot := sl }
      match s.warp? r with
      | none => s
      | some w => if w.wait = some .barrier then joinReady (s.setWarp r { w with wait := none }) r else s) s

/-- Warps parked on an object that a `BARINV` makes invalid complete their `BARWAIT` with their predicate false, whatever becomes of
the object before they issue it again (18 R331). -/
def endParked (s : State) (core h : Nat) (m : W32) : State :=
  match s.block? core h with
  | none => s
  | some b => wakeParked ((lanesOf m).foldl (fun s i => match b.slots[i]? with
    | none => s
    | some sl => s.updWarp { core := core, slot := sl } (fun w => { w with barGone := some w.pc })) s) core h m

/-- An arrival at an object (18 R329): the phase it arrived in, and whether it counted. -/
def barArrive (s : State) (core h n : Nat) : State × Nat × Bool :=
  match s.block? core h with
  | none => (s, 0, false)
  | some b =>
    let x := getBar b n
    if !x.valid then (s, x.phase, false)
    else if x.arrived + 1 ≥ x.expect then
      (wakeParked (setBar s core h n { x with arrived := x.arrived + 1 - x.expect, phase := (x.phase + 1) % 256,
                                              parked := 0#32 }) core h x.parked, x.phase, true)
    else (setBar s core h n { x with arrived := x.arrived + 1 }, x.phase, true)

/-- `BARARV` (18 R329). -/
def execBararv (x : FBararv) (s : State) : Host.Outcome State Fault Refusal :=
  .next (issue (.bararv x) s (fun e s =>
    if x.tile && s.tlcnt e.r != 0 then .wait s .tile
    else relThen s e .bk (fun s =>
      let a := barArrive s e.r.core e.w.blk x.n.toNat
      let v : W64 := BitVec.ofNat 64 (a.2.1 + (if a.2.2 then 0 else 256))
      .done (match x.d with
        | none => a.1
        | some d => a.1.updWarp e.r (fun w => wrReg w false 0 d v)))))

/-- `BARINIT` (18 R330). -/
def execBarinit (x : FBarinit) (s : State) : Host.Outcome State Fault Refusal :=
  .next (issue (.barinit x) s (fun e s =>
    let v := (srcS e.w x.src).toNat
    let n := x.n.toNat
    if v = 0 || v > 65535 then .trap s { cause := 3, mask := e.w.exec }
    else if (getBar e.b n).parked != 0#32 then
      .trap s { cause := 12, mask := e.w.exec, addr := BitVec.ofNat 64 (barOff e.b n) }
    else .done (setBar s e.r.core e.w.blk n { expect := v, valid := true })))

/-- `BARINV` (18 R331). -/
def execBarinv (x : FBarinv) (s : State) : Host.Outcome State Fault Refusal :=
  .next (issue (.barinv x) s (fun e s =>
    let o := getBar e.b x.n.toNat
    if !o.valid then .done s
    else .done (endParked (setBar s e.r.core e.w.blk x.n.toNat { o with valid := false, arrived := 0, parked := 0#32 })
      e.r.core e.w.blk o.parked)))

/-- The predicate that a barrier instruction writes. -/
def putK (w : Warp) (r : Reg) (x : Bool) : Warp :=
  match r with
  | .k n => w.putK n.val x
  | _ => w

/-- `BARWAIT` (18 R334): one that observes a completed phase performs `FENCE.acq.bk` (07 R177). -/
def execBarwait (x : FBarwait) (s : State) : Host.Outcome State Fault Refusal :=
  .next (issue (.barwait x) s (fun e s =>
    let n := x.n.toNat
    let o := getBar e.b n
    let me : W32 := 1#32 <<< e.w.id
    let go := fun (v : Bool) =>
      let s1 := if o.parked &&& me = 0#32 then s else setBar s e.r.core e.w.blk n { o with parked := o.parked &&& ~~~me }
      Res.done (s1.updWarp e.r (fun w => putK { w with barGone := none } x.d v))
    if !o.valid || e.w.barGone = some e.w.pc then go false
    else if phaseDone o (srcS e.w x.src).toNat then acqThen s e .bk (fun _ => go true)
    else .wait (setBar s e.r.core e.w.blk n { o with parked := o.parked ||| me }) .barrier))

/-! ### Remote arrivals -/

/-- The block of a launch is a member of a group's entry (18 R332). -/
def targetOk (s : State) (b : Block) (g bid : Nat) : Bool :=
  match s.launch? b.lid with
  | none => false
  | some l => match (Launch.groups l)[g]? with
    | none => false
    | some e => GroupD.member e bid

/-- `BARRMT` (18 R332): a release at the group's scope, then the arrival is sent; it waits where it would raise STCNT above its
limit (03 R78). -/
def execBarrmt (x : FBarrmt) (s : State) : Host.Outcome State Fault Refusal :=
  .next (issue (.barrmt x) s (fun e s =>
    let t := (rdReg e.w false 0 x.a).toNat % 2 ^ 32
    let g := x.g.toNat
    if !groupOk s e.b g || !targetOk s e.b g t then .trap s (groupTrap e g)
    else if s.stcnt e.r e.w ≥ 64 then .wait s .counter
    else relThen s e (effScope s e.b .gp) (fun s =>
      let f := s.freshId
      let a : Arrival := { id := f.1, sb := e.b.bid, sw := e.w.id, kd := Reg.idx x.d, lid := e.b.lid,
                           bid := BitVec.ofNat 32 t, n := x.n.toNat }
      .done (f.2.updFed (fun d => { d with arrivals := d.arrivals ++ [a] })))))

/-- The core and handle of a resident block of a launch. -/
def findBlock (s : State) (lid bid : Nat) : Option (Nat × Nat × Block) :=
  s.cores.findSome? (fun c => (c.2.blocks.find? (fun b => b.2.lid = lid && b.2.bid.toNat = bid)).map
    (fun b => (c.1, b.1, b.2)))

/-- The outcome of an arrival is kept for a warp whose frame has been written (log 29). -/
def keepKd (a : Arrival) (v : Bool) (m : SMap Kept) : SMap Kept :=
  match mfind m a.sw with
  | none => m
  | some k => mset m a.sw { k with kds := k.kds ++ [(a.kd, v)] }

/-- The outcome of an arrival reaches the predicate of its sender, or is kept for the restore of a sender that is saved. -/
def endArrival (s : State) (a : Arrival) (v : Bool) : State :=
  let s1 := s.updFed (fun f => { f with
    arrivals := f.arrivals.filter (fun x => x.id != a.id)
    saved := f.saved.map (fun x => if x.lid = a.lid && x.bid = a.sb then { x with keep := keepKd a v x.keep } else x) })
  match findBlock s1 a.lid a.sb.toNat with
  | none => s1
  | some (core, h, b) =>
    let s2 := s1.setBlock core h { b with keep := keepKd a v b.keep }
    match b.slots[a.sw]? with
    | none => s2
    | some sl => s2.updWarp { core := core, slot := sl } (fun w => w.putK a.kd v)

/-- REMOTE_ARRIVAL (18 Table 18-4): judged at a resident target, and at the issuing block itself in every phase; held while the
target is saved or about to be restored, refused to the FED when it is swapped out, discarded when it has not started or has
ended. -/
def execRemoteArrival (id : Nat) (s : State) : Host.Outcome State Fault Refusal :=
  let hold := s.updFed (fun f => { f with arrivals := f.arrivals.map (fun x => if x.id = id then { x with held := true } else x) })
  .next (match s.fed.arrivals.find? (fun a => a.id = id) with
    | none => s
    | some a => match findBlock s a.lid a.bid.toNat with
      | some (core, h, b) =>
        if (b.phase = .stopping || b.phase = .saving) && a.bid != a.sb then hold
        else if a.n ≥ b.nbar then endArrival s a false
        else
          let r := barArrive s core h a.n
          endArrival r.1 a r.2.2
      | none =>
        if s.fed.saved.any (fun x => x.lid = a.lid && x.bid = a.bid) then hold
        else endArrival s a false)

/-- Virtual address of a barrier object in a save area, with the header's shape (10 Table 10-7). -/
def savedBarAt (save hdr n : Nat) : Nat :=
  save + 0x100 + 4096 * bits hdr 27 24 + bits hdr 63 32 - 16 * (bits hdr 23 16 - n)

/-- BARRMT_REDIRECT (10 R255): the FED judges a refused arrival against the save area. A page that is not present makes
it wait for Tchidal, and one that Tchidal cannot map (`out` failed) discards it (log 29). -/
def execBarrmtRedirect (id : Nat) (out : SegOutcome) (s : State) : Host.Outcome State Fault Refusal :=
  .next (match s.fed.arrivals.find? (fun a => a.id = id) with
    | none => s
    | some a => match s.fed.saved.find? (fun x => x.lid = a.lid && x.bid = a.bid) with
      | none => s
      | some v =>
        if !a.held || v.restoring.isSome then s
        else match readVirtN s agentCp v.ctx v.save 8 needR with
          | (s1, .inl c) => if pageWait out c then askRun s1 agentCp v.ctx v.save 8 needR false else endArrival s1 a false
          | (s1, .inr hdr) =>
            if a.n ≥ bits hdr 23 16 then endArrival s1 a false
            else
              let at' := savedBarAt v.save hdr a.n
              match readVirtN s1 agentCp v.ctx at' 8 needR with
              | (s2, .inl c) => if pageWait out c then askRun s2 agentCp v.ctx at' 8 needR false else endArrival s2 a false
              | (s2, .inr x) =>
                if bits x 40 40 = 0 then endArrival s2 a false
                else match writeVirt s2 agentCp v.ctx at' (leBytes 8 (x + 0x10000)) needW with
                  | (s3, none) => endArrival s3 a true
                  | (s3, some c) => if pageWait out c then askRun s3 agentCp v.ctx at' 8 needW true else endArrival s3 a false)

/-! ### Accumulators -/

/-- `ACCZ` (18 R318). -/
def execAccz (x : FD) (s : State) : Host.Outcome State Fault Refusal :=
  .next (issue (.accz x) s (fun e s =>
    let i := Reg.accIdx x.d
    if i < 8 then .done (s.setWarp e.r { e.w with acc := e.w.acc.filter (fun y => y.1 / 1024 != i) })
    else .done (s.updBlock e.r.core e.w.blk (fun b => { b with bacc := b.bacc.filter (fun y => y.1 / 1024 != i - 8) }))))

/-- Every lane L and register j of a 32-register run; the element beside them is 32 L + j (18 R318). -/
def laneRegs : List (Nat × Nat) := (List.range 32).flatMap (fun l => (List.range 32).map (fun j => (l, j)))

/-- `ACCMOV vD, aS` (18 R318). -/
def execAccmovAccToVec (x : FDA) (s : State) : Host.Outcome State Fault Refusal :=
  .next (issue (.accmovAccToVec x) s (fun e s =>
    let i := Reg.accIdx x.a
    .done (s.setWarp e.r (laneRegs.foldl (fun w p =>
      w.putV (Reg.idx x.d + p.2) p.1 (accGet e.w e.b i (32 * p.1 + p.2))) e.w))))

/-- Elements written to an accumulator. -/
def accWrite (s : State) (e : Env) (i : Nat) (f : Nat → Nat → W32) : State :=
  let r := laneRegs.foldl (fun (r : Warp × Block) p => accPut r.1 r.2 i (32 * p.1 + p.2) (f p.1 p.2)) (e.w, e.b)
  (s.setWarp e.r r.1).setBlock e.r.core e.w.blk r.2

/-- `ACCMOV aD, vS` (18 R318). -/
def execAccmovVecToAcc (x : FDA) (s : State) : Host.Outcome State Fault Refusal :=
  .next (issue (.accmovVecToAcc x) s (fun e s =>
    .done (accWrite s e (Reg.accIdx x.d) (fun l j => e.w.getV (Reg.idx x.a + j) l))))

/-- `ACCMOV aD, aS` (18 R318). -/
def execAccmovAccToAcc (x : FDA) (s : State) : Host.Outcome State Fault Refusal :=
  .next (issue (.accmovAccToAcc x) s (fun e s =>
    .done (accWrite s e (Reg.accIdx x.d) (fun l j => accGet e.w e.b (Reg.accIdx x.a) (32 * l + j)))))

end Sys2Proof.Machine
end

