-- ==== Sys2Proof/Machine/Copy.lean ====
section
/-! DEFINITION. Asynchronous copies and cache maintenance (06 R146 to R149, 07 R181, 19 R349 to R359). -/

namespace Sys2Proof.Machine

/-! ### Segments -/

/-- Where a copy is cut: every 4 KiB boundary of its source and its destination (06 R148). -/
def copyCuts (src dst len : Nat) : List Nat :=
  ((List.range (len / 4096 + 2)).flatMap (fun i =>
    let a := 4096 * (i + 1) - src % 4096
    let b := 4096 * (i + 1) - dst % 4096
    if a = b then [a] else [min a b, max a b])).filter (fun x => x < len)

/-- The segments of a copy. -/
def copySegs (src dst len : Nat) (srcS dstS : Bool) : List Seg :=
  if len = 0 then []
  else
    let c := copyCuts src dst len
    let p := (0 :: c).zip (c ++ [len])
    (List.range p.length).filterMap (fun i => (p[i]?).map (fun x =>
      { id := i, src := src + x.1, dst := dst + x.1, len := x.2 - x.1, srcS := srcS, dstS := dstS }))

/-- The issue checks of a copy, in order (19 Table 19-3). -/
def copyCheck (e : Env) (dst src len : Nat) (srcS dstS : Bool) : Option TrapReq :=
  let t := fun (c a : Nat) => some ({ cause := c, mask := e.w.exec, addr := BitVec.ofNat 64 a } : TrapReq)
  let far := fun (a : Nat) => len != 0 && (a ≥ 2 ^ 54 || (a + len - 1) ≥ 2 ^ 54)
  let out := fun (a : Nat) => len != 0 && a + len > e.b.size
  if len ≥ 2 ^ 32 then t 3 0
  else if dst % 4 != 0 then t 8 dst
  else if src % 4 != 0 then t 8 src
  else if len % 4 != 0 then t 8 len
  else if !dstS && far dst then t 9 dst
  else if !srcS && far src then t 9 src
  else if dstS && out dst then t 10 dst
  else if srcS && out src then t 10 src
  else if dstS && len != 0 && dst + len > Block.window e.b then t 11 dst
  else none

/-- The issue of a copy (19 R356 to R358). -/
def copyIssue (i : Instr) (x : FCpy) (sS dS : Bool) (s : State) : State :=
  issue i s (fun e s =>
    let op := fun (r : Reg) (sc : Bool) => let v := (rdReg e.w false 0 r).toNat; if sc then v % 2 ^ 32 else v
    let dst := op x.a dS
    let src := op x.b sS
    let len := (srcS e.w x.len).toNat
    match copyCheck e dst src len sS dS with
    | some t => .trap s t
    | none =>
      if len != 0 && State.cpcnt e.w ≥ 16 then .wait s .counter
      else
        let f := s.freshId
        let c : CopyOp := { id := f.1, batch := e.w.batch, segs := copySegs src dst len sS dS,
                            sup := decide (e.w.level ≥ 2), ef := x.cache == .ef, time := s.ctl.time }
        .done (f.2.updWarp e.r (fun w => if c.segs.isEmpty then w else { w with copies := w.copies ++ [c] })))

/-- `CPY.ld`. -/
def execCpyLd (x : FCpy) (s : State) : Host.Outcome State Fault Refusal := .next (copyIssue (.cpyLd x) x false true s)
/-- `CPY.st`. -/
def execCpySt (x : FCpy) (s : State) : Host.Outcome State Fault Refusal := .next (copyIssue (.cpySt x) x true false s)
/-- `CPYG`. -/
def execCpyg (x : FCpy) (s : State) : Host.Outcome State Fault Refusal := .next (copyIssue (.cpyg x) x false false s)

/-- What an engine working for a warp needs of a page (06 R154; log 13). -/
def engineNeed (sup : Bool) (n : BitVec 4) : BitVec 4 := if sup then n else n ||| needU

/-- Lines that an engine reads are brought into their home's cache under the copy's chain (19 R358). -/
def tagLines (s : State) (x : Xlat) (n chain : Nat) (ef : Bool) : State :=
  (linesOf x.pa n).foldl (fun s l => settleHome (touchHome s (s.homeOf l) l x.cls chain ef) (s.homeOf l) l) s

/-- A segment that fails: its destination bytes are free values (06 R148). -/
def segFail (s : State) (core : Nat) (h : Nat) (b : Block) (sup : Bool) (g : Seg) : State :=
  if g.dstS then
    let f := freeBytes g.len s
    f.1.updBlock core h (fun b => { b with scr := putBytes b.scr (bytesAt g.dst f.2) })
  else writeFree s (agentCopy (s.siteOf core)) b.ctx g.dst g.len (engineNeed sup needW) (chainOf s b)

/-- The bytes of a segment to be written: those at addresses that the whole copy also reads are free values (06 R148). -/
def segBytes (s : State) (c : CopyOp) (g : Seg) (l : List Byte) : State × List Byte :=
  if g.srcS != g.dstS then (s, l)
  else
    let inSrc := fun (a : Nat) => c.segs.any (fun y => y.src ≤ a && a < y.src + y.len)
    (List.range l.length).foldl (fun r i =>
      if inSrc (g.dst + i) then
        let f := r.1.freeByte
        (f.2, r.2 ++ [f.1])
      else (r.1, r.2 ++ [l.getD i 0#8])) (s, [])

/-- A segment's move: none while it waits for a line or for Tchidal to map a page (06 R164), else the state after it and
the cause of its failure, if any. -/
def segMove (s : State) (core h : Nat) (b : Block) (c : CopyOp) (g : Seg) : Option (State × Option Nat) :=
  let ag := agentCopy (s.siteOf core)
  let nr := engineNeed c.sup needR
  let nw := engineNeed c.sup needW
  if !(g.srcS || virtIdle s ag b.ctx g.src g.len nr false) || !(g.dstS || virtIdle s ag b.ctx g.dst g.len nw true) then none
  else
    let rd : State × (Nat ⊕ List Byte) :=
      if g.srcS then (s, .inr (getBytes b.scr g.src g.len))
      else match engineXlat s ag b.ctx g.src nr false with
        | (s1, .inl e) => (s1, .inl e)
        | (s1, .inr x) =>
          let q := readPhys s1 x.pa g.len
          (tagLines q.1 x g.len (chainOf s b) c.ef, .inr q.2)
    match rd with
    | (s1, .inl e) => if e = 15 then none else some (segFail s1 core h b c.sup g, some e)
    | (s1, .inr l) =>
      let f := segBytes s1 c g l
      if g.dstS then
        some (f.1.updBlock core h (fun b => { b with scr := putBytes b.scr (bytesAt g.dst f.2) }), none)
      else match writeVirtE f.1 ag b.ctx g.dst f.2 nw (chainOf s b) c.ef with
        | (s2, none) => some (s2, none)
        | (s2, some e) => if e = 15 then none else some (segFail s2 core h b c.sup g, some e)

/-- Tchidal is asked for the pages of a segment that are not present (06 R164). -/
def segAsk (s : State) (core : Nat) (b : Block) (c : CopyOp) (g : Seg) : State :=
  let ag := agentCopy (s.siteOf core)
  let s1 := if g.srcS then s else askRun s ag b.ctx g.src g.len (engineNeed c.sup needR) false
  if g.dstS then s1 else askRun s1 ag b.ctx g.dst g.len (engineNeed c.sup needW) true

/-- A segment of a warp's copy changed. -/
def updSeg (w : Warp) (op seg : Nat) (f : Seg → Seg) : Warp :=
  { w with copies := w.copies.map (fun c => if c.id = op then
      { c with segs := c.segs.map (fun g => if g.id = seg then f g else g) } else c) }

/-- An error that a memory controller meets on a side of a segment is logged (09 R221, R223): on its source, or on its destination
where the source is scratchpad or `dst` says so. -/
def segLog (s : State) (ag : Nat) (b : Block) (c : CopyOp) (g : Seg) (dst : Bool) (out : SegOutcome) : State :=
  let w := g.srcS || dst && !g.dstS
  let a := if w then (g.dst, engineNeed c.sup needW) else (g.src, engineNeed c.sup needR)
  match (engineXlat s ag b.ctx a.1 a.2 w).2 with
  | .inl _ => s
  | .inr x => logOutcome s x.pa out

/-- COPY_SEGMENT_COMPLETE (06 R148, R149): one segment moves its bytes, or fails with a cause; `out` failed is a failure of
the device, or of Tchidal to map its page, and `dst` says that a controller met it at the destination. -/
def execCopySegmentComplete (core slot op seg : Nat) : Bool × SegOutcome → State → Host.Outcome State Fault Refusal
  | (dst, out), s =>
  let r : WRef := { core := core, slot := slot }
  .next (match s.warp? r with
    | none => s
    | some w => match w.copies.find? (fun c => c.id = op), s.block? core w.blk with
      | some c, some b => (match c.segs.find? (fun g => g.id = seg) with
        | none => s
        | some g =>
          if g.done || g.fail.isSome || g.parked then s
          else
            let s0 := segLog s (agentCopy (s.siteOf core)) b c g dst out
            match out with
            | .failed e => (segFail s0 core w.blk b c.sup g).updWarp r (fun w => updSeg w op seg (fun g => { g with fail := some e }))
            | _ => (match segMove s0 core w.blk b c g with
              | none => segAsk s core b c g
              | some (s1, none) => s1.updWarp r (fun w => updSeg w op seg (fun g => { g with done := true }))
              | some (s1, some e) => s1.updWarp r (fun w => updSeg w op seg (fun g => { g with fail := some e }))))
      | _, _ => s)

/-! ### Batches -/

/-- (a - b) mod 2^32. -/
def serial (a b : W32) : Nat := (a - b).toNat

/-- Closed batches of a warp with a segment neither done nor failed (06 R146). -/
def openBatches (w : Warp) : List W32 :=
  ((w.copies.filter (fun c => c.batch != w.batch && !CopyOp.over c)).map (·.batch)).eraseDups

/-- `CBCLOSE` (19 R349). -/
def execCbclose (x : FD) (s : State) : Host.Outcome State Fault Refusal :=
  .next (issue (.cbclose x) s (fun e s =>
    if (openBatches e.w).length ≥ 8 then .wait s .counter
    else .done (s.setWarp e.r (wrReg { e.w with batch := e.w.batch + 1#32 } false 0 x.d (e.w.batch.zeroExtend 64)))))

/-- The copies of the closed batches that `CBWAIT n` covers (06 R147). -/
def covered (w : Warp) (n : W32) : List CopyOp :=
  w.copies.filter (fun c => c.batch != w.batch && serial n c.batch < 2 ^ 31)

/-- The first unreported failure: by batch, then by destination (06 R149). -/
def firstFail (w : Warp) (l : List CopyOp) : Option (CopyOp × Seg) :=
  (l.flatMap (fun c => (c.segs.filter (fun g => g.fail.isSome)).map (fun g => (c, g)))).foldl
    (fun (b : Option (CopyOp × Seg)) y => match b with
      | none => some y
      | some z =>
        let k := fun (q : CopyOp × Seg) => 2 ^ 64 * (2 ^ 32 - serial w.batch q.1.batch) + q.2.dst
        if k y < k z then some y else b) none

/-- `CBWAIT` (19 R350, R351): at level 3 it returns once every covered segment is complete or parked, and reports
nothing. -/
def execCbwait (x : FSrc) (s : State) : Host.Outcome State Fault Refusal :=
  .next (issue (.cbwait x) s (fun e s =>
    let n : W32 := (srcS e.w x.src).truncate 32
    let l := covered e.w n
    if serial n e.w.batch < 2 ^ 31 then .trap s { cause := 3, mask := e.w.exec }
    else if e.w.level = 3 then
      if l.all (fun c => c.segs.all (fun g => g.done || g.fail.isSome || g.parked)) then acqThen s e .dv (fun s => .done s)
      else .wait s .counter
    else if l.any (fun c => !CopyOp.over c) then .wait s .counter
    else match firstFail e.w l with
      | some (c, g) =>
        .trap (s.setWarp e.r (updSeg e.w c.id g.id (fun g => { g with fail := none, done := true })))
          { cause := 20, mask := e.w.exec, dop0 := c.batch.zeroExtend 64, dop1 := BitVec.ofNat 64 g.src,
            dop2 := BitVec.ofNat 64 g.dst, dop3 := BitVec.ofNat 64 (g.len + 65536 * (g.fail.getD 0 % 64)) }
      | none =>
        let ids := l.map (·.id)
        acqThen s e .dv (fun s => .done (s.updWarp e.r (fun w =>
          { w with copies := w.copies.filter (fun c => !ids.contains c.id) })))))

/-! ### Cache maintenance -/

/-- The dirty bytes of a line go onward until they are performed at a scope (19 Table 19-1). -/
def flushLine (s : State) (core line : Nat) (sc : Scope) : State :=
  let s1 := drainLine s core line
  if Scope.rank sc ≤ 2 then s1
  else
    let s2 := pushClc s1 (s1.clusterOf core) line (some core)
    if Scope.rank sc ≤ 4 then s2
    else
      let s3 := pushRdc s2 (s2.dieOf core) line
      if sc = .sy then flushHome s3 line else s3

/-- `CINV` of one line after its flush. -/
def invLine (s : State) (core line : Nat) (sc : Scope) : State :=
  let k := s.clusterOf core
  let d := s.dieOf core
  let s1 := dropLeases (((pushClc s k line (some core)).delL1 core line).delClc k line) k line
  if Scope.rank sc ≥ 4 && s1.homeOf line != d then releaseRdc s1 d line else s1

/-- The lines that lanes name, each once. -/
def namedLines (l : List LaneAcc) : List Nat := (l.map (fun a => a.pa / 64)).eraseDups

/-- A line cannot be sent onward now: it is in service or out of reach, a request of the die for it is outstanding, or at .dv
and .sy an eviction of the die's RDC still carries its bytes. -/
def lineStuck (s : State) (core line : Nat) (sc : Scope) : Bool :=
  let d := s.dieOf core
  s.lineBusy line || (s.die d).waits.contains line || !s.reaches d (s.homeOf line) ||
    (Scope.rank sc ≥ 5 && evictionInFlight s d line)

/-- What the lanes of an operation at a scope meet: at .sy a line goes to its memory controller, so that one that cannot be reached
faults even where the caches hold it (19 R381, 09 R235). -/
def reachLanes (sc : Scope) (q : State × List LaneFault × List LaneAcc) : State × List LaneFault × List LaneAcc :=
  if sc != .sy then q
  else
    let bad := q.2.2.filterMap (fun a => (q.1.mapCause a.pa false).map (fun c => LaneFault.mk a.lane c 0 a.va))
    (q.1, byLane (q.2.1 ++ bad), q.2.2.filter (fun a => (q.1.mapCause a.pa false).isNone))

/-- `CFLUSH` and `CINV` (19 R352, R353). They count in STCNT until they are complete, so that one waits at its limit (03 R78). -/
def maintain (i : Instr) (x : FCm) (inv : Bool) (s : State) : State :=
  issue i s (fun e s =>
    let q := reachLanes x.sc (checkLanes s e .g needR false 1 (laneAddr e.w .g x.a x.off) (accLanes e x.cls))
    let ls := namedLines q.2.2
    if s.stcnt e.r e.w ≥ 64 then .wait s .counter
    else if ls.any (fun l => (atomLines e.w).contains l) then .wait s .other
    else if ls.any (fun l => lineBuffered (ls.foldl (fun s l => drainLine s e.r.core l) q.1) e.r.core l) then .wait s .other
    else if (inv || Scope.rank x.sc > 2) && ls.any (fun l => lineStuck s e.r.core l x.sc) then .wait s .other
    else
      let s0 := ls.foldl (fun s l => drainLine s e.r.core l) q.1
      let s1 := ls.foldl (fun s l => flushLine s e.r.core l x.sc) s0
      endLanes (if inv then ls.foldl (fun s l => invLine s e.r.core l x.sc) s1 else s1) q.2.1)

/-- `CFLUSH`. -/
def execCflush (x : FCm) (s : State) : Host.Outcome State Fault Refusal := .next (maintain (.cflush x) x false s)
/-- `CINV`. -/
def execCinv (x : FCm) (s : State) : Host.Outcome State Fault Refusal := .next (maintain (.cinv x) x true s)

/-- A line is marked eviction-first in every cache that holds it (19 Table 19-1). -/
def markLine (s : State) (line : Nat) : State :=
  let mk := fun (c : Copy) => ({ c with ef := true } : Copy)
  let at1 := fun (m : SMap Copy) => m.map (fun e => if e.1 = line then (e.1, mk e.2) else e)
  let s1 : State := { s with
    cores := s.cores.map (fun c => (c.1, { c.2 with l1 := at1 c.2.l1 }))
    clcs := s.clcs.map (fun c => (c.1, at1 c.2))
    dies := s.dies.map (fun d => (d.1, { d.2 with rdc := d.2.rdc.map (fun e =>
      if e.1 = line then (e.1, { e.2 with copy := mk e.2.copy }) else e) })) }
  match s1.homeLine? (s1.homeOf line) line with
  | none => s1
  | some h => s1.setHomeLine (s1.homeOf line) line { h with ef := true }

/-- `CLV` (19 R352, R354): a lane whose address or translation fails is skipped. -/
def execClv (x : FClv) (s : State) : Host.Outcome State Fault Refusal :=
  .next (issue (.clv x) s (fun e s =>
    let q := checkLanes s e .g needR false 1 (laneAddr e.w .g x.a x.off) (accLanes e x.cls)
    .done ((namedLines q.2.2).foldl markLine q.1)))

end Sys2Proof.Machine
end

