-- ==== Sys2Proof/Machine/Page.lean ====
section
/-! DEFINITION. First-touch mapping and invalidation of translations (06 R160 to R163, 20 R402, R403, 21 R428). -/

namespace Sys2Proof.Machine

/-! ### PFMAP -/

/-- What a walk by `PFMAP` finds: a mapped leaf, a fault (a malformed entry with its level, or a table that cannot be read), a
level-5 entry with V = 0, or an upper-level entry with V = 0 (20 R403). -/
inductive PfWalk
  | mapped
  | bad (cause lvl : Nat)
  | leaf (a e : Nat)
  | upper
deriving DecidableEq, Repr

def pfWalk (s : State) (va : Nat) : Nat → Nat → Nat → PfWalk
  | 0, _, lvl => .bad 17 lvl
  | n + 1, base, lvl =>
    let a := pteAddr base lvl va
    let e := s.snoopNum a 8
    if let some c := s.mapCause a false then .bad c 0
    else if bits e 0 0 = 0 then (if lvl = 5 then .leaf a e else .upper)
    else if pteBad lvl e then .bad 17 lvl
    else if bits e 1 1 = 1 then .mapped
    else pfWalk s va n (bits e 47 12 * 4096) (lvl + 1)

/-- A level-5 leaf that is first-touch (06 R160): LEAF and FT set. -/
def pteFt (e : Nat) : Bool := bits e 8 8 = 1 && bits e 1 1 = 1

/-- The leaf as MAPPED-NEW writes it: V set, FT clear, PFN the page, heat 0 (06 R162). -/
def pteNew (e page : Nat) : Nat :=
  (BitVec.ofNat 64 e &&& ~~~(BitVec.ofNat 64 ((2 ^ 36 - 1) * 2 ^ 12 + 2 ^ 8 + 15 * 2 ^ 54)) |||
    BitVec.ofNat 64 (page / 4096 % 2 ^ 36 * 4096 + 1)).toNat

/-- The address of the pool entry k places after HEAD, and the page it holds (06 R162). -/
def poolEnt (s : State) (pool k : Nat) : Nat × Nat :=
  let size := max 1 (bits (s.snoopNum (pool + 8) 8) 31 0)
  let a := bits (s.snoopNum pool 8) 47 12 * 4096 + 8 * ((s.snoopNum (pool + 16) 8 + k) % size)
  (a, bits (s.snoopNum a 8) 47 12 * 4096)

/-- The cause that keeps the pool, or the page that it gives, from being reached (06 R142, 09 R215). -/
def poolFault (s : State) (pool : Nat) : Option Nat :=
  match s.mapCause pool false with
  | some c => some c
  | none => match s.mapCause (poolEnt s pool 0).1 false with
    | some c => some c
    | none => s.mapCause (poolEnt s pool 0).2 false

/-- The lines that taking an entry of a pool reads: the pool's words, and the entry that its HEAD names. -/
def poolRead (s : State) (pool : Nat) : State :=
  let s1 := (linesOf pool 32).foldl readLine s
  (linesOf (poolEnt s1 pool 0).1 8).foldl readLine s1

/-- One page served by the device-scope atomic of R162: its status code, or the cause of a fault and, for cause 17, the level
of the malformed entry. -/
def pfOne (s0 : State) (ctx va : Nat) : State × ((Nat × Nat) ⊕ Nat) :=
  let c := s0.ctxEnt ctx
  let s := (walkLines s0 va 5 c.root 1).foldl readLine s0
  match pfWalk s va 5 c.root 1 with
  | .mapped => (s, .inr 1)
  | .bad k l => (s, .inl (k, l))
  | .upper => (s, .inr 3)
  | .leaf a e =>
    if !pteFt e || bits e 7 7 = 1 then (s, .inr 3)
    else
      match s.mapCause c.pool false with
      | some k => (s, .inl (k, 0))
      | none =>
        let s := poolRead s c.pool
        let h := s.snoopNum (c.pool + 16) 8
        if h = s.snoopNum (c.pool + 24) 8 then (s, .inr 2)
        else match poolFault s c.pool with
          | some k => (s, .inl (k, 0))
          | none =>
            let p := (poolEnt s c.pool 0).2
            let s1 := writePhys s p (List.replicate 4096 0#8) 0 0 false
            let s2 := writePhys s1 (c.pool + 16) (leBytes 8 (h + 1)) 0 0 false
            (writePhys s2 a (leBytes 8 (pteNew e p)) 0 0 false, .inr 0)

/-- A line that `PFMAP` would write is in service. -/
def pfBusy (s : State) (ctx : Nat) (pages : List Nat) : Bool :=
  let c := s.ctxEnt ctx
  !s.idleRange c.pool 32 || pages.any (fun p => match pfWalk s (4096 * p) 5 c.root 1 with
    | .leaf a _ => !s.idleRange a 8
    | _ => false) ||
  (List.range pages.length).any (fun k => !s.idleRange (poolEnt s c.pool k).2 4096)

/-- `PFMAP` (20 R402, R403). -/
def execPfmap (x : FPfmap) (s : State) : Host.Outcome State Fault Refusal :=
  .next (issue (.pfmap x) s (fun e s =>
    let la := (accLanes e x.cls).map (fun i => (i, laneAddr e.w .g x.a x.off i))
    let good := la.filter (fun p => !vaBad p.2)
    let pages := (good.map (fun p => p.2 / 4096)).eraseDups
    if s.stcnt e.r e.w ≥ 64 then .wait s .counter
    else if pfBusy s e.b.ctx pages then .wait s .other
    else
      let r := pages.foldl (fun (r : State × List (Nat × ((Nat × Nat) ⊕ Nat))) p =>
        let q := pfOne r.1 e.b.ctx (4096 * p)
        (q.1, r.2 ++ [(p, q.2)])) (s, [])
      let out : List (Nat × (LaneFault ⊕ Nat)) := la.map (fun p =>
        (p.1, if vaBad p.2 then Sum.inl (LaneFault.mk p.1 9 0 p.2)
          else match r.2.find? (fun y => y.1 = p.2 / 4096) with
            | some (_, Sum.inl l) => Sum.inl (LaneFault.mk p.1 l.1 l.2 p.2)
            | some (_, Sum.inr c) => Sum.inr c
            | none => Sum.inr 3))
      let w1 := out.foldl (fun w y => match y.2 with
        | .inl _ => w
        | .inr c => wrReg w false y.1 x.d (BitVec.ofNat 64 c)) e.w
      endLanes (r.1.setWarp e.r w1) (out.filterMap (fun y => match y.2 with
        | .inl f => some f
        | .inr _ => none))))

/-! ### TLBINV -/

/-- An access that has translated and is neither bound nor performed satisfies p, on its context and its virtual address (where it
is still known) or its physical one. -/
def pendingThrough (s : State) (p : Nat → Option Nat → Nat → Bool) : Bool :=
  s.cores.any (fun c =>
    c.2.wb.any (fun q => q.2.any (fun e => e.bytes.any (fun y => p e.ctx none y.1))) ||
    c.2.warps.any (fun w => match mfind c.2.blocks w.2.blk with
      | none => false
      | some b => w.2.loads.any (fun l => l.lanes.any (fun a => p b.ctx (some a.va) a.pa)) ||
        w.2.atoms.any (fun l => l.reqs.any (fun a => p b.ctx (some a.va) a.pa))))

/-- An access went through a page-TLB entry: one of its context, or one that serves every context. -/
def throughTlb (l : List TlbEnt) (ctx : Nat) (va : Option Nat) (pa : Nat) : Bool :=
  l.any (fun t => (t.g || t.ctx = ctx) && (match va with
    | some v => t.vpage = v / 2 ^ t.log2
    | none => t.pbase ≤ pa && pa < t.pbase + 2 ^ t.log2))

/-- `TLBINV` of page-TLB entries: the release, then the drop once no access through a dropped entry is pending. -/
def tlbDrop (i : Instr) (s : State) (p : Env → TlbEnt → Bool) : State :=
  issue i s (fun e s =>
    if s.stcnt e.r e.w ≥ 64 then .wait s .counter
    else relThen s e .dv (fun s1 =>
      if pendingThrough s (throughTlb (s.vm.tlb.filter (p e))) then .wait s .other
      else .done (dropTlb s1 (p e))))

/-- `TLBINV.page` (21 R428): G entries included. -/
def execTlbinvPage (x : FA) (s : State) : Host.Outcome State Fault Refusal :=
  .next (tlbDrop (.tlbinvPage x) s (fun e t =>
    (t.ctx = e.b.ctx || t.g) && t.vpage = (rdReg e.w false 0 x.a).toNat / 2 ^ t.log2))

/-- `TLBINV.ctx` (21 R428): every entry of the context without G. -/
def execTlbinvCtx (x : FHd) (s : State) : Host.Outcome State Fault Refusal :=
  .next (tlbDrop (.tlbinvCtx x) s (fun e t => t.ctx = e.b.ctx && !t.g))

/-- `TLBINV.range` (21 R428). -/
def execTlbinvRange (x : FHd) (s : State) : Host.Outcome State Fault Refusal :=
  .next (issue (.tlbinvRange x) s (fun e s =>
    let old := (s.vm.rtlb.filter (fun y => y.1 % 64 = e.b.ctx)).flatMap (fun y => y.2)
    let thr := fun (c : Nat) (va : Option Nat) (pa : Nat) => c = e.b.ctx && old.any (fun r => r.v && (match va with
      | some v => r.vbase ≤ v / 4096 && v / 4096 ≤ r.vlimit
      | none => r.pbase ≤ pa / 4096 && pa / 4096 ≤ r.pbase + (r.vlimit - r.vbase)))
    relThen s e .dv (fun s1 =>
      if pendingThrough s thr then .wait s .other
      else .done (reloadRange s1 e.b.ctx))))

end Sys2Proof.Machine
end

