-- ==== Sys2Proof/Machine/Launch.lean ====
section
/-! DEFINITION. Launches: the header and its checks (02 R44 to R58, 03 R62), the deal (03 R64 to R67), the start and end
of blocks, `LAUNCH` and `EMIT` (20 R394, R395, 19 R363 to R365). -/

namespace Sys2Proof.Machine

/-! ### Slot tables (03 R68) -/

/-- The reset value of an entry. -/
def slotReset (i : Nat) : BitVec 16 := if i % 8 = 0 then 0xC0#16 else 0x80#16

/-- An entry in effect at a clock. An entry with i mod 8 = 0 reads KIND = 3. -/
def Core.slotAt (c : Core) (now i : Nat) : BitVec 16 :=
  let old := mget (slotReset i) c.slott i
  let x := if now ≥ c.slottAt then (mfind c.slottNew i).getD old else old
  if i % 8 = 0 then x ||| 0xC0#16 else x

def slotKind (e : BitVec 16) : Nat := bits e.toNat 7 6
def slotCtx (e : BitVec 16) : Nat := bits e.toNat 5 0
def slotLend (e : BitVec 16) : Bool := e.getLsbD 15

/-- The tenant owns or shares an entry of the core's table (03 R66). -/
def tenantSlots (c : Core) (now ctx : Nat) : Bool :=
  (List.range 64).any (fun i => let e := c.slotAt now i; slotKind e = 2 || (slotKind e = 1 && slotCtx e = ctx))

/-! ### Resources (02 R40, R42) -/

/-- What a block needs of a core. -/
structure Need where
  warps : Nat
  access : Nat
  vregs : Nat
  sregs : Nat
  acc : Nat
  scr : Nat
deriving DecidableEq, Repr

def sumNat (l : List Nat) : Nat := l.foldl (· + ·) 0

def hdrNeed (h : Header) : Need :=
  let c := h.roles.filter (fun r => !r.access)
  { warps := sumNat (c.map (·.warps)), access := sumNat ((h.roles.filter (·.access)).map (·.warps)),
    vregs := sumNat (c.map (fun r => r.warps * r.vregs)), sregs := sumNat (c.map (fun r => r.warps * r.sregs)),
    acc := sumNat (c.map (fun r => r.warps * r.nacc)) + h.nshacc, scr := h.scr }

/-- What the blocks and warps of a core hold. -/
def coreUsed (c : Core) : Need :=
  let w := (c.warps.filter (fun e => e.1 < 64)).map (·.2)
  { warps := w.length, access := (c.warps.filter (fun e => e.1 ≥ 64)).length,
    vregs := sumNat (w.map (·.vregs)), sregs := sumNat (w.map (·.sregs)),
    acc := sumNat (w.map (·.nacc)) + sumNat (c.blocks.map (fun b => b.2.nshacc)),
    scr := sumNat (c.blocks.map (fun b => b.2.size)) }

/-- A use and a need are within the capacities of a core with a partition of `spu` units. -/
def within (u n : Need) (spu : Nat) : Bool :=
  u.warps + n.warps ≤ 64 && u.access + n.access ≤ 16 && u.vregs + n.vregs ≤ 4096 && u.sregs + n.sregs ≤ 4096 &&
  u.acc + n.acc ≤ 64 && u.scr + n.scr ≤ 32768 * spu

def noUse : Need := { warps := 0, access := 0, vregs := 0, sregs := 0, acc := 0, scr := 0 }

/-- An empty core holds the need; a split that waits for the core to empty counts. -/
def emptyFits (c : Core) (n : Need) : Bool := within noUse n (c.spuNew.getD c.spu)

/-- Blocks of a need that an empty core holds at once. -/
def emptyCount (c : Core) (n : Need) : Nat :=
  ((List.range 64).filter (fun k => within
    { warps := k * n.warps, access := k * n.access, vregs := k * n.vregs, sregs := k * n.sregs, acc := k * n.acc,
      scr := k * n.scr } n (c.spuNew.getD c.spu))).length

/-- The work distributor may place a block of the need: no split is pending (06 R140) and no restore waits (03 R67). -/
def coreFits (c : Core) (n : Need) : Bool :=
  c.spuNew.isNone && !(c.rst.busy && c.rst.blk.isNone) && within (coreUsed c) n c.spu

/-! ### Reading a header (02 Tables 2-4 to 2-7) -/

/-- A little-endian field of a list of bytes. -/
def fieldAt (l : List Byte) (off n : Nat) : Nat := leNat ((l.drop off).take n)

def roleOf (l : List Byte) (i : Nat) : RoleD :=
  let a := 0x40 + 32 * i
  let w := fieldAt l (a + 8) 8
  { entry := fieldAt l a 8, access := bits w 15 15 = 1, warps := bits w 21 16, vregs := 8 * bits w 7 0,
    sregs := bits w 14 8, nacc := bits w 24 22 }

/-- The header's fields, its groups and nodes left out. -/
def headerOf (addr : Nat) (l : List Byte) : Header :=
  let w0 := fieldAt l 0 8
  { addr := addr, chain := bits w0 55 50, norefuse := bits w0 41 41 = 1, affinity := bits w0 40 40 = 1,
    nshacc := bits w0 39 32, nbv := bits w0 31 24, nbar := bits w0 23 16, scr := 256 * bits (fieldAt l 8 8) 42 32,
    nblock := fieldAt l 8 4 + 1, affBase := BitVec.ofNat 64 (fieldAt l 0x20 8),
    affStride := BitVec.ofNat 64 (fieldAt l 0x28 8), affMod := fieldAt l 0x34 4, affDiv := fieldAt l 0x30 4,
    karg := BitVec.ofNat 64 (fieldAt l 0x38 8), cmask := BitVec.ofNat 1024 (fieldAt l 0x100 128),
    roles := (List.range (min 4 (bits w0 15 8))).map (roleOf l) }

/-- The byte offset of the lowest header or role field out of its range (03 R62). A sum of WARPS above 32 counts at the
role that passes it. -/
def badField (l : List Byte) : Option Nat :=
  let w0 := fieldAt l 0 8
  let w3 := fieldAt l 0x18 8
  let nrole := bits w0 15 8
  let ngroup := bits w3 8 0
  let nnode := bits w3 18 16
  let upto := fun (i : Nat) => sumNat ((List.range (i + 1)).map (fun k => (roleOf l k).warps))
  let roleBad := fun (i : Nat) =>
    let r := roleOf l i
    if r.entry % 8 != 0 || r.entry ≥ 2 ^ 54 then some (0x40 + 32 * i)
    else if r.nacc > 4 || r.warps = 0 || r.warps > 32 || r.sregs < 4 || r.sregs > 64 || upto i > 32 ||
        (if r.access then r.vregs != 0 else r.vregs = 0 || r.vregs > 256) then some (0x48 + 32 * i)
    else none
  if bits w0 7 0 != 1 || nrole = 0 || nrole > 4 || bits w0 23 16 > 64 || bits w0 31 24 > 2 || bits w0 39 32 > 8 then some 0
  else if bits (fieldAt l 8 8) 42 32 > 1280 then some 8
  else if ngroup > 0 && fieldAt l 0x10 8 % 64 != 0 then some 0x10
  else if ngroup > 256 || nnode > 4 then some 0x18
  else if bits w0 40 40 = 1 && fieldAt l 0x30 4 = 0 then some 0x30
  else match (List.range nrole).findSome? roleBad with
    | some o => some o
    | none => ((List.range nnode).find? (fun i => fieldAt l (0xC0 + 8 * i) 8 % 64 != 0)).map (fun i => 0xC0 + 8 * i)

def groupOf (l : List Byte) : GroupD :=
  let f := fun i => fieldAt l (4 * i) 4
  { valid := bits (f 6) 0 0 = 1, coloc := bits (f 6) 1 1 = 1, abort := bits (f 6) 2 2 = 1, base0 := f 0, count0 := f 1,
    stride0 := f 2, base1 := f 3, count1 := f 4, stride1 := f 5 }

def nodeOf (addr : Nat) (l : List Byte) : NodeD :=
  let w := fieldAt l 0x10 8
  { addr := addr, header := fieldAt l 0 8, ring := fieldAt l 8 8, timeout := bits w 63 48, thresh := bits w 32 24,
    recsz := 16 * bits w 23 16, cap := bits w 15 0 }

/-- A node descriptor's fields are in their ranges (02 Table 2-7). One that is not refuses the launch with CODE 1 and the
DETAIL of its NODE word in the header, and HEADER may have any alignment (log 54). -/
def nodeFieldsOk (n : NodeD) : Bool :=
  n.ring % 4096 = 0 && 1 ≤ n.thresh && n.thresh ≤ 256 && 16 ≤ n.recsz && n.recsz ≤ 1024 && n.thresh ≤ n.cap

/-- A group-table entry that R54 refuses, the count of entries of a block apart. -/
def groupBad (nblock : Nat) (g : GroupD) : Bool :=
  let rng := fun (base count stride : Nat) =>
    (count > 1 && stride = 0) || (count > 0 && base + (count - 1) * stride ≥ nblock)
  g.valid && (rng g.base0 g.count0 g.stride0 || rng g.base1 g.count1 g.stride1 || (g.count0 = 0 && g.count1 = 0))

/-- The lowest group index that R54 refuses: by its own ranges, or as the fifth VALID entry of a block. -/
def badGroup (nblock : Nat) (gs : List GroupD) : Option Nat :=
  let many := fun (i : Nat) => (List.range nblock).any (fun b =>
    ((gs[i]?).map (fun g => GroupD.member g b)).getD false &&
      ((gs.take (i + 1)).filter (fun g => GroupD.member g b)).length > 4)
  (List.range gs.length).find? (fun i => ((gs[i]?).map (groupBad nblock)).getD false || (gs.length > 4 && many i))

/-! ### Eligibility and acceptance -/

/-- The cores of a mask that launch code may use (02 R45). -/
def maskCores (s : State) (m : BitVec 1024) : List Nat :=
  (List.range 1024).filter (fun c => m.getLsbD c && (match s.lpt c with
    | some (site, _) => s.onlineSite site
    | none => false))

/-- Eligible cores, ascending (03 R66). -/
def eligible (s : State) (ctx : Nat) (h : Header) : List Nat :=
  (maskCores s h.cmask).filter (fun c => tenantSlots (s.core c) s.ctl.clock ctx)

/-- Sites whose cores appear in a mask, ascending, in service or not (01 R24). -/
def maskSites (s : State) (m : BitVec 1024) : List Nat :=
  (((List.range 1024).filter (fun c => m.getLsbD c && (s.lpt c).isSome)).map (fun c => s.siteOf c)).eraseDups

/-- Groups of the COLOC set that a group belongs to: those that share a member, transitively (03 R65). -/
def colocClose (nblock : Nat) (gs : List GroupD) : Nat → List Nat → List Nat
  | 0, l => l
  | n + 1, l =>
    let mem := fun (i b : Nat) => ((gs[i]?).map (fun g => g.coloc && GroupD.member g b)).getD false
    colocClose nblock gs n ((List.range gs.length).filter (fun i => l.contains i ||
      (List.range nblock).any (fun b => mem i b && l.any (fun j => mem j b))))

/-- The COLOC set of a block: the indices of its groups and its members; none where it is in no COLOC group. -/
def colocSet (h : Header) (b : Nat) : Option (List Nat × List Nat) :=
  let gs := h.groups
  let own := (List.range gs.length).filter (fun i => ((gs[i]?).map (fun g => g.coloc && GroupD.member g b)).getD false)
  if own.isEmpty then none
  else
    let ids := colocClose h.nblock gs gs.length own
    some (ids, (List.range h.nblock).filter (fun x => ids.any (fun i =>
      ((gs[i]?).map (fun g => GroupD.member g x)).getD false)))

/-- A number of blocks fits at once on the cores of an empty core mask (02 R55). -/
def setFits (s : State) (ctx : Nat) (h : Header) (n : Nat) : Bool :=
  n ≤ sumNat ((eligible s ctx h).map (fun c => emptyCount (s.core c) (hdrNeed h)))

/-- The groups of the COLOC sets that cannot be resident at once, ascending (02 R55). -/
def looseGroups (s : State) (ctx : Nat) (h : Header) : List Nat :=
  (List.range h.groups.length).filter (fun i => match h.groups[i]? with
    | none => false
    | some g => g.valid && g.coloc && (match ((List.range h.nblock).find? (fun b => GroupD.member g b)).bind (colocSet h) with
      | none => false
      | some (_, m) => !setFits s ctx h m.length))

/-- The lowest of them. -/
def badColoc (s : State) (ctx : Nat) (h : Header) : Option Nat := (looseGroups s ctx h).head?

/-- The CP reads under a tenant's context (03 R60): an address with any of bits [63:54] set faults. -/
def cpRead (s : State) (ctx va n : Nat) : State × Option (List Byte) :=
  match readVirt s agentCp ctx va n needR with
  | (s1, .inl _) => (s1, none)
  | (s1, .inr l) => (s1, some l)

/-- Equal pieces read one after another from a list of addresses. -/
def cpReadAll (s : State) (ctx n : Nat) (l : List Nat) : State × Option (List (List Byte)) :=
  l.foldl (fun r a => match r with
    | (s, none) => (s, none)
    | (s, some acc) => match cpRead s ctx a n with
      | (s1, none) => (s1, none)
      | (s1, some x) => (s1, some (acc ++ [x]))) (s, some [])

/-- A successor's scratchpad below its barrier window holds THRESH records (02 R58). -/
def nodeRoom (n : NodeD) (h : Header) : Bool := n.thresh * n.recsz ≤ h.scr - 16 * h.nbar

/-- The outcome of the checks of 03 R62: a refusal with CODE and DETAIL, or the header and those of the successors, in which
NGROUP is ignored with the fields that 02 R56 names (log 27). -/
def checkLaunch (s : State) (ctx addr : Nat) : State × ((Nat × Nat) ⊕ (Header × List (NodeD × Header))) :=
  if addr % 64 != 0 then (s, .inl (8, 0))
  else match cpRead s ctx addr 384 with
    | (s1, none) => (s1, .inl (8, 0))
    | (s1, some l) => match badField l with
      | some o => (s1, .inl (1, o / 8))
      | none =>
        let h0 := headerOf addr l
        let ng := bits (fieldAt l 0x18 8) 8 0
        let nn := bits (fieldAt l 0x18 8) 18 16
        match cpReadAll s1 ctx 32 ((List.range ng).map (fun i => fieldAt l 0x10 8 + 32 * i)) with
        | (s2, none) => (s2, .inl (8, 0))
        | (s2, some gl) => match cpReadAll s2 ctx 64 ((List.range nn).map (fun i => fieldAt l (0xC0 + 8 * i) 8)) with
          | (s3, none) => (s3, .inl (8, 0))
          | (s3, some nl) =>
            let nodes := (List.range nn).map (fun i => nodeOf (fieldAt l (0xC0 + 8 * i) 8) (nl.getD i []))
            match cpReadAll s3 ctx 384 (nodes.map (·.header)) with
            | (s4, none) => (s4, .inl (8, 0))
            | (s4, some hl) =>
              let gs := gl.map groupOf
              let h : Header := { h0 with groups := gs, nodes := nodes }
              let subs := (List.range nn).map (fun i => headerOf ((nodes.map (·.header)).getD i 0) (hl.getD i []))
              let all := h :: subs
              let small := (List.range nn).find? (fun i => match nodes[i]?, subs[i]? with
                | some n, some x => !nodeRoom n x
                | _, _ => false)
              match (List.range nn).findSome? (fun i =>
                  if ((nodes[i]?).map nodeFieldsOk).getD true then badField ((hl.getD i []).take 0x18 ++
                    List.replicate 8 0#8 ++ (hl.getD i []).drop 0x20) else some (0xC0 + 8 * i)) with
              | some o => (s4, .inl (1, o / 8))
              | none => match badGroup h.nblock gs with
                | some i => (s4, .inl (6, i))
                | none => match small with
                  | some i => (s4, .inl (7, i))
                  | none =>
                    if all.any (fun x => (eligible s4 ctx x).isEmpty) then (s4, .inl (5, 0))
                    else match all.findSome? (fun x => (maskSites s4 x.cmask).find? (fun i => x.nbv > (s4.fuse i).level)) with
                      | some i => (s4, .inl (4, i))
                      | none =>
                        if all.any (fun x => 16 * x.nbar > x.scr ||
                            !(eligible s4 ctx x).any (fun c => emptyFits (s4.core c) (hdrNeed x))) then (s4, .inl (2, 0))
                        else match if h.norefuse then none else badColoc s4 ctx h with
                          | some i => (s4, .inl (3, i))
                          | none => (s4, .inr (h, nodes.zip subs))

/-- The NBV of a grid (01 R24). -/
def nbvOf (s : State) (h : Header) : Nat :=
  if h.nbv != 0 then h.nbv
  else match (maskSites s h.cmask).map (fun i => (s.fuse i).level) with
    | [] => 1
    | a :: t => t.foldl min a

/-- A status word is written at .dv; one that cannot be written is lost and Tchidal is told (03 R62). -/
def writeStatus (s : State) (ctx addr v num : Nat) : State :=
  if addr = 0 then s
  else match writeVirt s agentCp ctx addr (leBytes 8 v) needW with
    | (s1, none) => s1
    | (s1, some _) => s1.raise (.statusLost num)

/-- The launches of a launch's successor nodes, with their numbers. -/
def childrenOf (s : State) (lid : Nat) : List (Nat × Launch) :=
  s.fed.launches.filter (fun e => match e.2.issuer with
    | .node p _ => p = lid
    | _ => false)

/-- The launch of a successor node. -/
def childOf (s : State) (lid idx : Nat) : Option (Nat × Launch) :=
  s.fed.launches.find? (fun e => e.2.issuer == .node lid idx)

/-- Every block of a launch has been dealt. -/
def Launch.allDealt (l : Launch) : Bool := l.next ≥ l.hdr.nblock

/-- A launch completes when every block of it and of its successors has ended; its queue's command completes with it
(03 R61, R62). -/
def tryComplete (s : State) (lid : Nat) : State :=
  match s.launch? lid with
  | none => s
  | some l =>
    let kids := childrenOf s lid
    if l.complete || l.running != 0 || !(l.aborted || l.allDealt) || kids.any (fun k => k.2.running != 0) ||
        l.pending.any (fun p => !p.2.isEmpty && !((childOf s lid p.1).map (fun k => k.2.aborted)).getD true) then s
    else
      let s1 := s.setLaunch lid { l with complete := true }
      let s2 := writeStatus s1 l.ctx l.status (if l.aborted || l.lost then 9 else 0) lid
      match l.issuer with
      | .queue q => s2.updQueue q (fun x => { x with cmds := x.cmds.filter (fun c => c.lid != some lid) })
      | _ => s2

/-- A launch accepted or refused (03 R62): its number, none where it is refused. -/
def acceptLaunch (s : State) (ctx addr status : Nat) (who : Issuer) : State × Option Nat :=
  match checkLaunch s ctx addr with
  | (s1, .inl (code, detail)) => (writeStatus s1 ctx status (code + 256 * detail) s1.fed.nextLid, none)
  | (s1, .inr (h, subs)) =>
    let lid := s1.fed.nextLid
    let s2 := s1.updFed (fun f => { f with nextLid := lid + 1 + subs.length })
    let s3 := s2.setLaunch lid
      { ctx := ctx, hdr := h, issuer := who, status := status, nbvEff := nbvOf s1 h, loose := looseGroups s1 ctx h }
    ((List.range subs.length).foldl (fun s i => match subs[i]? with
      | none => s
      | some x => s.setLaunch (lid + 1 + i) { ctx := ctx, hdr := { x.2 with nodes := [], groups := [] },
                                              issuer := .node lid i, status := 0, nbvEff := nbvOf s x.2 }) s3, some lid)

/-! ### Placement -/

/-- The lowest free slots of a kind on a core. -/
def freeSlots (c : Core) (access : Bool) (n : Nat) : List Nat :=
  (((if access then (List.range 16).map (· + 64) else List.range 64)).filter (fun x => (mfind c.warps x).isNone)).take n

/-- The warps of a header in WARPID order: role number and descriptor (02 R41). -/
def warpRoles (h : Header) : List (Nat × RoleD) :=
  (List.range h.roles.length).flatMap (fun i => match h.roles[i]? with
    | none => []
    | some r => List.replicate r.warps (i, r))

/-- A warp as it starts (02 R43). -/
def startWarp (blk id role : Nat) (r : RoleD) (karg : W64) (bid : W32) (recs : Nat) : Warp :=
  let w : Warp := { blk := blk, id := id, role := role, access := r.access, vregs := r.vregs, sregs := r.sregs,
                    nacc := if r.access then 0 else r.nacc, pc := BitVec.ofNat 54 r.entry }
  ((w.putS 0 karg).putS 1 (bid.zeroExtend 64)).putS 2 (BitVec.ofNat 64 recs)

/-- Slots for every warp of a block, in WARPID order. -/
def slotsFor (c : Core) (kinds : List Bool) : List Nat :=
  let cs := freeSlots c false (kinds.filter (fun a => !a)).length
  let as := freeSlots c true (kinds.filter (fun a => a)).length
  (kinds.foldl (fun (r : List Nat × List Nat × List Nat) a =>
    if a then (r.1 ++ r.2.2.take 1, r.2.1, r.2.2.drop 1) else (r.1 ++ r.2.1.take 1, r.2.1.drop 1, r.2.2)) ([], cs, as)).1

/-- A warp takes a place in the active set, or joins the ready queue. -/
def enterReady (s : State) (core slot : Nat) : State :=
  if slot ≥ 64 then s
  else if (s.core core).hasPlace && (s.core core).ready.isEmpty then
    (s.updCore core (fun c => c.takePlace slot)).updWarp { core := core, slot := slot }
      (fun w => { w with enter := s.ctl.clock })
  else joinReady s { core := core, slot := slot }

/-- A block is placed on a core and its warps start (02 R43); its start acts as `FENCE.acq.dv` (20 R395), and the
tenant's windows are fetched again (11 R278). -/
def placeBlock (s : State) (lid : Nat) (l : Launch) (bid core : Nat) (recs : List Byte) (nrec : Nat) : State :=
  let h := l.hdr
  let c := s.core core
  let handle := s.fed.nextBlk
  let rs := warpRoles h
  let slots := slotsFor c (rs.map (fun r => r.2.access))
  let b : Block := { lid := lid, bid := BitVec.ofNat 32 bid, ctx := l.ctx, nbv := l.nbvEff, size := h.scr, nbar := h.nbar,
                     nshacc := h.nshacc, scr := putBytes [] (bytesAt 0 recs), slots := slots,
                     bslot := slots.headD 0 }
  let s1 := (s.setBlock core handle b).updFed (fun f => { f with nextBlk := handle + 1 })
  let s2 := (List.range rs.length).foldl (fun s i => match rs[i]?, slots[i]? with
    | some r, some sl => enterReady (s.setWarp { core := core, slot := sl }
        (startWarp handle i r.1 r.2 h.karg (BitVec.ofNat 32 bid) nrec)) core sl
    | _, _ => s) s1
  let s3 := s2.updCore core (fun c => { c with iwin := c.iwin.filter (fun e => e.1 / 2 ^ 54 != l.ctx), quota := c.quota.map (fun e =>
    if e.1 = l.ctx then (e.1, { e.2 with pre := false }) else e) })
  acquire (s3.updLaunch lid (fun x => { x with running := x.running + 1 })) core .dv

/-- The first core at or after a cursor, in wrapping order, that fits (03 R64). -/
def firstFit (s : State) (el : List Nat) (cursor : Nat) (n : Need) : Option Nat :=
  ((el.filter (fun c => c ≥ cursor)) ++ (el.filter (fun c => c < cursor))).find? (fun c => coreFits (s.core c) n)

/-- The residency name of a block (02 R46). -/
def affName (h : Header) (b : Nat) : W64 :=
  let q := b / max 1 h.affDiv
  h.affBase + BitVec.ofNat 64 (if h.affMod = 0 then q else q % h.affMod) * h.affStride

/-- Eligible cores whose residency table holds a name for the tenant (03 R65). -/
def holders (s : State) (ctx : Nat) (el : List Nat) (n : W64) : List Nat :=
  el.filter (fun c => (s.core c).rt.any (fun e => e.2.name = n && e.2.tenant.toNat = ctx && 1 ≤ e.2.state.toNat &&
    e.2.state.toNat ≤ 5))

/-- The first block not yet dealt. -/
def nextBlock : Nat → Nat → List Nat → Nat
  | 0, b, _ => b
  | n + 1, b, e => if e.contains b then nextBlock n (b + 1) e else b

/-- The next move of a launch's deal (03 R64): none where the next block must wait. A COLOC set is placed whole, once every
member fits at once; the members of one that NOREFUSE accepted although it fits no empty mask are placed one by one, without
regard to affinity (02 R55, 03 R65). -/
def dealOne (s : State) (lid : Nat) (l : Launch) : Option State :=
  let el := eligible s l.ctx l.hdr
  let n := hdrNeed l.hdr
  let b := nextBlock l.early.length l.next l.early
  let mv := fun (s : State) (cur : Nat) (nx : Nat) (early : List Nat) =>
    s.updLaunch lid (fun x => { x with cursor := cur, next := nx, early := early.filter (fun y => y ≥ nx) })
  if l.complete || l.aborted || l.allDealt then none
  else if el.isEmpty then some (tryComplete (s.setLaunch lid { l with aborted := true }) lid)
  else if b ≥ l.hdr.nblock then some (tryComplete (mv s l.cursor b l.early) lid)
  else match colocSet l.hdr b with
    | some (ids, m) =>
      if ids.any (fun i => l.loose.contains i) then
        (firstFit s el l.cursor n).map (fun c => mv (placeBlock s lid l b c [] 0) (c + 1) (b + 1) l.early)
      else (match m.foldl (fun (r : Option (State × Nat)) x => r.bind (fun y =>
          (firstFit y.1 el y.2 n).map (fun c => (placeBlock y.1 lid l x c [] 0, c + 1)))) (some (s, l.cursor)) with
        | none => none
        | some (s1, cur) => some (mv s1 cur (nextBlock (l.early ++ m).length b (l.early ++ m)) (l.early ++ m)))
    | none =>
      let hs := if l.hdr.affinity then holders s l.ctx el (affName l.hdr b) else []
      if hs.isEmpty then (firstFit s el l.cursor n).map (fun c => mv (placeBlock s lid l b c [] 0) (c + 1) (b + 1) l.early)
      else (hs.find? (fun c => coreFits (s.core c) n)).map (fun c =>
        mv (placeBlock s lid l b c [] 0) l.cursor (b + 1) l.early)

/-- An earlier launch of the same queue or warp has blocks left to deal (03 R61, 20 R395). -/
def dealBlocked (s : State) (lid : Nat) (l : Launch) : Bool :=
  s.fed.launches.any (fun e => e.1 < lid && e.2.issuer == l.issuer && !e.2.complete && !e.2.aborted && !e.2.allDealt)

/-- BLOCK_PLACE (03 R64): the work distributor places the next block of a launch, or a whole COLOC set. -/
def execBlockPlace (lid : Nat) (s : State) : Host.Outcome State Fault Refusal :=
  .next (match s.launch? lid with
    | none => s
    | some l => (match l.issuer with
      | .node _ _ => s
      | _ => if dealBlocked s lid l then s else (dealOne s lid l).getD s))

/-! ### Work-graph nodes (02 R56 to R58) -/

/-- The oldest records of a node's ring: free bytes for one whose slot was not written, or cannot be read now, with which the
block starts all the same (log 53); none while a page is not present. -/
def readRecs (s : State) (ctx : Nat) (n : NodeD) (head : Nat) (l : List (Nat × Bool)) (out : SegOutcome) : State × Option (List Byte) :=
  (List.range l.length).foldl (fun r i => match r with
    | (s, none) => (s, none)
    | (s, some acc) =>
      let free := let f := freeBytes n.recsz s; (f.1, some (acc ++ f.2))
      if !((l[i]?).map (·.2)).getD false then free
      else
        let at' := n.ring + (head + i) % max 1 n.cap * n.recsz
        match readVirt s agentCp ctx at' n.recsz needR with
        | (s1, .inr x) => (s1, some (acc ++ x))
        | (s1, .inl c) => if pageWait out c then (askRun s1 agentCp ctx at' n.recsz needR false, none) else free) (s, some [])

/-- The producing launch and every successor block already started have ended, now or when a block for remaining records started
(02 R58). -/
def drained (s : State) (lid : Nat) (l : Launch) : Bool :=
  l.draining || (l.running = 0 && (l.aborted || l.allDealt) && (childrenOf s lid).all (fun k => k.2.running = 0))

/-- A successor block starts with the oldest records (02 R58); it waits while no core fits. A node starts none after a fatal fault
in a block of it, or once no core of its own is left: its producer ends with CODE 9 (log 56). -/
def startNode (s : State) (lid idx : Nat) (l : Launch) (n : NodeD) (out : SegOutcome) : State :=
  match childOf s lid idx with
  | none => s
  | some (cid, x) =>
    let p := mget [] l.pending idx
    let recs := p.take (max 1 n.thresh)
    let el := eligible s x.ctx x.hdr
    let go := fun (core cur : Nat) =>
      let head := mget 0 l.heads idx
      match readRecs s l.ctx n head recs out with
      | (s1, none) => s1
      | (s1, some bytes) =>
        let s2 := (placeBlock s1 cid x x.next core bytes recs.length).updLaunch cid (fun y =>
          { y with cursor := cur, next := y.next + 1 })
        let s3 := s2.updLaunch lid (fun y => { y with pending := mput [] y.pending idx (p.drop recs.length),
                                                      heads := mset y.heads idx (head + recs.length)
                                                      draining := drained s lid l })
        (writeVirt s3 agentCp l.ctx (n.addr + 0x20) (leBytes 8 (head + recs.length)) needW).1
    if recs.isEmpty || x.aborted then s
    else if el.isEmpty then tryComplete (markLaunch s x cid (fun y => { y with aborted := true })) lid
    else
      let hs := if x.hdr.affinity then holders s x.ctx el (affName x.hdr x.next) else []
      match if hs.isEmpty then firstFit s el x.cursor (hdrNeed x.hdr) else hs.find? (fun c => coreFits (s.core c) (hdrNeed x.hdr)) with
      | none => s
      | some c => go c (if hs.isEmpty then c + 1 else x.cursor)

/-- NODE_BLOCK_START (02 R58): THRESH records are pending, or the producers have ended and some remain. -/
def execNodeBlockStart (lid idx : Nat) (out : SegOutcome) (s : State) : Host.Outcome State Fault Refusal :=
  .next (match s.launch? lid with
    | none => s
    | some l => (match l.hdr.nodes[idx]? with
      | none => s
      | some n =>
        if (mget [] l.pending idx).length ≥ max 1 n.thresh || drained s lid l then startNode s lid idx l n out else s))

/-- NODE_TIMEOUT (02 R58): TIMEOUT µs have passed since the oldest pending record was written. -/
def execNodeTimeout (lid idx : Nat) (out : SegOutcome) (s : State) : Host.Outcome State Fault Refusal :=
  .next (match s.launch? lid with
    | none => s
    | some l => (match l.hdr.nodes[idx]?, mget [] l.pending idx with
      | some n, p :: _ =>
        if n.timeout != 0 && s.ctl.time ≥ p.1 + n.timeout * usTicks then startNode s lid idx l n out else s
      | _, _ => s))

/-- The virtual address of the next slot of a node's ring: TAIL counts from 0 for each accepted launch and node (log 57). -/
def ringSlot (l : Launch) (n : Nat) (d : NodeD) : Nat := d.ring + mget 0 l.tails n % max 1 d.cap * d.recsz

/-- A slot counts as written, well or not: TAIL advances, here and in memory (19 R364). -/
def countSlot (s : State) (lid ctx : Nat) (l : Launch) (n : Nat) (d : NodeD) (ok : Bool) : State :=
  let tail := mget 0 l.tails n
  let s1 := s.updLaunch lid (fun y => { y with
    tails := mset y.tails n (tail + 1)
    pending := mput [] y.pending n (mget [] y.pending n ++ [(s.ctl.time, ok)]) })
  (writeVirt s1 agentCp ctx (d.addr + 0x18) (leBytes 8 (tail + 1)) needW).1

/-- A ring write that failed (19 R365): the slot counts as written, with free bytes. -/
def emitFailed (s : State) (lid ctx : Nat) (l : Launch) (n : Nat) (d : NodeD) : State :=
  countSlot (writeFree s agentCp ctx (ringSlot l n d) d.recsz needW 0) lid ctx l n d false

/-- Its trap in the emitting warp. -/
def emitTrap (w : Warp) (l : Launch) (n : Nat) (d : NodeD) : TrapReq :=
  { cause := 19, mask := w.exec, addr := BitVec.ofNat 64 (ringSlot l n d) }

/-- `EMIT` (19 R363 to R365): it waits where it would raise STCNT above its limit (03 R78). -/
def execEmit (x : FEmit) (s : State) : Host.Outcome State Fault Refusal :=
  .next (issue (.emit x) s (fun e s =>
    let n := x.n.toNat
    let o := (rdReg e.w false 0 x.a).toNat % 2 ^ 32
    let t := fun (c a : Nat) => Res.trap s { cause := c, mask := e.w.exec, addr := BitVec.ofNat 64 a }
    match s.launch? e.b.lid with
    | none => t 3 0
    | some l => match l.hdr.nodes[n]? with
      | none => t 3 0
      | some d =>
        if o % 16 != 0 then t 8 o
        else if o + d.recsz > e.b.size then t 10 o
        else if s.stcnt e.r e.w ≥ 64 then .wait s .counter
        else relThen s e .dv (fun s =>
          let at' := ringSlot l n d
          if mget 0 l.tails n - mget 0 l.heads n = d.cap then .done (s.updWarp e.r (fun w => putK w x.d false))
          else if !virtIdle s agentCp e.b.ctx at' d.recsz needW true then .wait s .other
          else match writeVirt s agentCp e.b.ctx at' (getBytes e.b.scr o d.recsz) needW with
            | (s1, none) => .done ((countSlot s1 e.b.lid e.b.ctx l n d true).updWarp e.r (fun w => putK w x.d true))
            | (s1, some c) =>
              if c = 15 then .wait (askRun s agentCp e.b.ctx at' d.recsz needW true) (.ring n)
              else .trap (emitFailed s1 e.b.lid e.b.ctx l n d) (emitTrap e.w l n d))))

/-! ### LAUNCH -/

/-- `LAUNCH` (20 R394): the launch is submitted; LAUNCH_COMMAND accepts it. -/
def execLaunch (x : FLaunch) (s : State) : Host.Outcome State Fault Refusal :=
  .next (issue (.launch x) s (fun e s =>
    let a := (rdReg e.w false 0 x.a).toNat
    let b := (rdReg e.w false 0 x.b).toNat
    let t := fun (c y : Nat) => Res.trap s { cause := c, mask := e.w.exec, addr := BitVec.ofNat 64 y }
    if a % 64 != 0 then t 8 a
    else if b != 0 && b % 8 != 0 then t 8 b
    else if a ≥ 2 ^ 54 then t 9 a
    else if b ≥ 2 ^ 54 then t 9 b
    else relThen s e .dv (fun s =>
      let ok := decide ((s.fed.subs.filter (fun y => y.ctx = e.b.ctx)).length < 64)
      let s1 := if ok then s.updFed (fun f => { f with subs := f.subs ++
        [{ header := a, status := b, ctx := e.b.ctx, lid := e.b.lid, bid := e.b.bid, warp := e.w.id }] }) else s
      .done (s1.updWarp e.r (fun w => putK w x.d ok)))))

/-- The k-th submitted launch is accepted or refused, those of one warp in issue order (20 R395). -/
def acceptSubmit (s : State) (k : Nat) : State :=
  match s.fed.subs[k]? with
  | none => s
  | some x =>
    if (s.fed.subs.take k).any (fun y => y.lid = x.lid && y.bid = x.bid && y.warp = x.warp) then s
    else
      (acceptLaunch (s.updFed (fun f => { f with subs := f.subs.eraseIdx k })) x.ctx x.header x.status
        (.warp x.lid x.bid x.warp)).1

/-! ### The end of warps and blocks -/

/-- A split that waits applies once the core holds no block: the L1 is written back and invalidated (06 R140). -/
def applySplit (s : State) (core : Nat) : State :=
  let c := s.core core
  match c.spuNew with
  | none => s
  | some n =>
    if !c.blocks.isEmpty then s
    else (drainAll s core).updCore core (fun c => { c with spu := n, spuNew := none, l1 := [] })

/-- A warp leaves its core; its slot in the block reads as none. -/
def dropWarp (s : State) (r : WRef) : State :=
  match s.warp? r with
  | none => s
  | some w =>
    let s1 := s.updCore r.core (fun c =>
      { c.leave r.slot with
        warps := mdel c.warps r.slot
        ready := c.ready.filter (· != r.slot)
        mu := c.mu.filter (fun t => t.slot != r.slot) })
    s1.updBlock r.core w.blk (fun b => { b with slots := b.slots.map (fun x => if x = r.slot then 255 else x) })

/-- The remote arrivals that a block sent go with it. -/
def dropArrivals (s : State) (lid : Nat) (bid : W32) : State :=
  s.updFed (fun f => { f with arrivals := f.arrivals.filter (fun a => !(a.lid = lid && a.sb = bid)) })

/-- A block ends: its resources are released and its launch may complete (19 R368, 03 R62). A pre-emption or a restore of
it is over with it, with DONE and FAIL as they are (log 21). -/
def endBlock (s : State) (core h : Nat) : State :=
  match s.block? core h with
  | none => s
  | some b =>
    let s1 := b.slots.foldl (fun s x => dropWarp s { core := core, slot := x }) s
    let letGo := fun (p : PreCtl) => if p.blk = some h then { p with busy := false, blk := none } else p
    let s2 := (dropArrivals s1 b.lid b.bid).updCore core (fun c => { c with blocks := mdel c.blocks h, pre := letGo c.pre, rst := letGo c.rst })
    let s3 := s2.updLaunch b.lid (fun l => { l with running := l.running - 1, ended := l.ended + 1 })
    let s4 := applySplit (tryComplete s3 b.lid) core
    match s4.launch? b.lid with
    | none => s4
    | some l => match l.issuer with
      | .node p _ => tryComplete s4 p
      | _ => s4

/-- WARP_END (02 R32): a warp whose lanes have all exited ends once its outstanding operations are complete; one that a
pre-emption has sent to its save or restore routine executes `TRET` first, unless its block ended there. The last warp's end ends
the block, whose writes are performed at .dv. -/
def execWarpEnd (core slot : Nat) (s : State) : Host.Outcome State Fault Refusal :=
  let r : WRef := { core := core, slot := slot }
  .next (match s.warp? r with
    | none => s
    | some w =>
      let ended := w.stopped && ((s.block? core w.blk).map (fun b => decide (b.phase = .aborting))).getD true
      let saved := w.level = 3 && w.t2.mask = 0#32 && w.t2.cause != 34#6 && !ended
      if w.exited != allLanes || saved || State.ldcnt w != 0 || s.stcnt r w != 0 || State.cpcnt w != 0 || s.tlcnt r != 0 then s
      else match s.block? core w.blk with
        | none => s
        | some b =>
          let last := b.slots.all (fun x => x = 255 || x = slot)
          let s1 := dropWarp s r
          let s2 := if b.halt = some slot then resumeBlock s1 core w.blk else s1
          if last && !releaseReady s2 core .dv then s
          else
            if last then endBlock (release s2 core .dv) core w.blk else s2)

end Sys2Proof.Machine
end

