-- ==== Sys2Proof/Machine/Cp.lean ====
section
/-! DEFINITION. The command processor's queues and the issue slots of the cores: doorbells, commands and stops (03 R60 to
R63), the swaps of the warp scheduler (03 R73 to R76). -/

namespace Sys2Proof.Machine

/-! ### Queues -/

/-- A queue stops with a code and Tchidal is interrupted (03 R63). -/
def stopQueue (s : State) (q code : Nat) : State := (s.updQueue q (fun x => { x with stop := code })).raise (.queueStop q)

/-- QTAIL is more than a ring ahead of QHEAD (03 Table 3-3, STOP 3). -/
def queueOver (x : Queue) : Bool := (x.tail - x.head).toNat > 2 ^ x.log2n

/-- QTAIL is written (03 R60): a value more than a ring ahead of QHEAD stops the queue (03 Table 3-3, STOP 3); a stopped queue
only records it (03 R79). -/
def writeTail (s : State) (q : Nat) (v : W64) : State :=
  let s1 := s.updQueue q (fun x => { x with tail := v })
  if (s1.queue q).stop = 0 && queueOver (s1.queue q) then stopQueue s1 q 3 else s1

/-- What the CP finds at QHEAD. -/
inductive Found
  | idle
  | stop (code : Nat)
  | cmd (l : List Byte)
deriving DecidableEq, Repr

/-- A STATUS address that stops the queue (03 R62). -/
def badStatus (v : Nat) : Bool := v != 0 && (v % 8 != 0 || v ≥ 2 ^ 54)

/-- The command at QHEAD, or why the queue stops there. -/
def findCmd (s : State) (q : Nat) : State × Found :=
  let x := s.queue q
  if !s.jobs || !x.en || x.stop != 0 then (s, .idle)
  else if x.tail = x.head then (s, .idle)
  else match cpRead s x.ctx (x.base + 64 * (x.head.toNat % 2 ^ x.log2n)) 64 with
    | (s1, none) => (s1, .stop 2)
    | (s1, some l) =>
      let c := fieldAt l 0 1
      if c = 0 || c > 7 then (s1, .stop 1)
      else if (c = 1 && badStatus (fieldAt l 0x10 8)) || (c = 5 && badStatus (fieldAt l 0x20 8)) then (s1, .stop 4)
      else (s1, .cmd l)

/-- The CP looks at QHEAD and stops the queue where it must. -/
def checkQueue (s : State) (q : Nat) : State :=
  match findCmd s q with
  | (s1, .stop c) => stopQueue s1 q c
  | _ => s

/-- QTAIL_DOORBELL (03 R60): QTAIL is written. -/
def execQtailDoorbell (q v : Nat) (s : State) : Host.Outcome State Fault Refusal :=
  .next (if q ≥ 64 then s else checkQueue (writeTail s q (BitVec.ofNat 64 v)) q)

/-- QUEUE_RESUME (03 Table 3-1): STOP is written 0 and the CP goes on at QHEAD. -/
def execQueueResume (q : Nat) (s : State) : Host.Outcome State Fault Refusal :=
  .next (if q ≥ 64 then s else checkQueue (s.updQueue q (fun x => { x with stop := 0 })) q)

/-- QHEAD advances and the CP looks at the next command. -/
def nextCmd (s : State) (q : Nat) : State := checkQueue (s.updQueue q (fun x => { x with head := x.head + 1#64 })) q

/-- A command of a code at QHEAD runs; a queue that must stop stops. -/
def runCmd (s : State) (q code : Nat) (f : State → List Byte → State) : State :=
  if q ≥ 64 then s
  else match findCmd s q with
    | (_, .idle) => s
    | (s1, .stop c) => stopQueue s1 q c
    | (s1, .cmd l) => if fieldAt l 0 1 = code then f s1 l else s

/-- Every earlier command of the queue is complete. -/
def queueIdle (s : State) (q : Nat) : Bool := (s.queue q).cmds.isEmpty

/-- LAUNCH_COMMAND (03 R61, R62). A number from 64 on is the launch that many places after the first of those submitted by
`LAUNCH` (20 R395). -/
def execLaunchCommand (q : Nat) (s : State) : Host.Outcome State Fault Refusal :=
  .next (if q ≥ 64 then acceptSubmit s (q - 64)
    else runCmd s q 1 (fun s l =>
      let a := fieldAt l 8 8
      let r := acceptLaunch s (s.queue q).ctx (if a ≥ 2 ^ 54 then 1 else a) (fieldAt l 0x10 8) (.queue q)
      let s1 := match r.2 with
        | none => r.1
        | some lid => r.1.updQueue q (fun x => { x with cmds := x.cmds ++ [{ num := x.head.toNat, lid := some lid }] })
      nextCmd s1 q))

/-- CHAIN_END (06 R145): every L2 line tagged with the chain becomes eviction-first. -/
def execChainEnd (q : Nat) (s : State) : Host.Outcome State Fault Refusal :=
  .next (runCmd s q 2 (fun s l =>
    if !queueIdle s q then s
    else
      let c := bits (fieldAt l 0 8) 13 8
      let s1 : State := if c = 0 then s else { s with homes := s.homes.map (fun h =>
        if h.1 = Config.fed then h
        else (h.1, { h.2 with lines := h.2.lines.map (fun e => if e.2.chain = c then (e.1, { e.2 with ef := true }) else e) })) }
      nextCmd s1 q))

/-- TL_SIGNAL (03 Table 3-2). -/
def execTlSignal (q : Nat) (s : State) : Host.Outcome State Fault Refusal :=
  .next (runCmd s q 3 (fun s l =>
    if !queueIdle s q then s else nextCmd (raiseQtl s q (BitVec.ofNat 64 (fieldAt l 8 8))) q))

/-- A TLID that TL_WAIT can ever see reach a value (07 R183). -/
def tlNamed (s : State) (ctx tlid : Nat) : Bool :=
  let k := tlid / 4096
  let i := tlid % 4096
  if k = 0 then queueOk s ctx tlid else if k ≤ 2 then i < 8 else if k = 3 then i = 0 else k = 4 && i ≤ 1

/-- TL_WAIT (03 Table 3-2): the queue is held until the timeline reads VALUE. -/
def execTlWait (q : Nat) (s : State) : Host.Outcome State Fault Refusal :=
  .next (runCmd s q 4 (fun s l =>
    let t := fieldAt l 2 2
    let c := (s.queue q).ctx
    if tlNamed s c t && fieldAt l 8 8 ≤ s.tlCounter c t then nextCmd s q else s))

/-- FENCE command (03 Table 3-2): at system scope the homes' bytes reach their controllers; completed work is already
performed at .dv. -/
def execFenceCommand (q : Nat) (s : State) : Host.Outcome State Fault Refusal :=
  .next (runCmd s q 6 (fun s l =>
    if !queueIdle s q then s
    else
      let s1 := if bits (fieldAt l 0 8) 10 8 = 6 then s.homes.foldl (fun s h => h.2.lines.foldl (fun s e =>
        if e.2.data.isEmpty then s else flushHome s e.1) s) s else s
      nextCmd s1 q))

/-- BARRIER command (03 Table 3-2). -/
def execBarrierCommand (q : Nat) (s : State) : Host.Outcome State Fault Refusal :=
  .next (runCmd s q 7 (fun s _ => if !queueIdle s q then s else nextCmd s q))

/-! ### Slot tables and swaps -/

/-- SLOTT_WRITE (03 R68): four entries; in effect from the next cycle that is 0 mod 64. -/
def execSlottWrite (core j : Nat) (v : W64) (s : State) : Host.Outcome State Fault Refusal :=
  .next (if j ≥ 16 || (s.lpt core).isNone then s
    else s.updCore core (fun c =>
      let now := s.ctl.clock
      let old := if now ≥ c.slottAt then c.slottNew.foldl (fun m e => mset m e.1 e.2) c.slott else c.slott
      let new := if now ≥ c.slottAt then [] else c.slottNew
      { c with
        slott := old
        slottNew := (List.range 4).foldl (fun m i => mset m (4 * j + i) (v.extractLsb' (16 * i) 16 &&& 0x80FF#16)) new
        slottAt := (now / 64 + 1) * 64 }))

/-- A wait by which a warp leaves the active set (03 R73). -/
def swapWait : Option WaitR → Bool
  | some .load | some .counter | some .queue | some .tile | some .barrier | some (.sleep _ _) | some .yielded => true
  | some .other | some (.service _ _ _) | some (.page _ _) | some (.ring _) | some .area | some .faults | none => false

/-- A warp of the active set that gives up its place: it meets a wait of 03 R73, or is gone. -/
def vacates (c : Core) (slot : Nat) : Bool :=
  match mfind c.warps slot with
  | none => true
  | some w => swapWait w.wait

/-- The first ready pending warp takes the vacant place, and issues after the 2 cc of the swap. -/
def admitWarp (s : State) (core : Nat) : State :=
  match (s.core core).ready with
  | [] => s
  | x :: t => (s.updCore core (fun c => ({ c with ready := t } : Core).takePlace x)).updWarp
      { core := core, slot := x } (fun w => { w with enter := s.ctl.clock + 2 })

/-- WARP_SWAP (03 R73, R74): an active warp that waits leaves its place to the first ready pending warp; one that ran
`YIELD` joins the tail of the ready queue. With `out` no active slot, a free place is filled. -/
def execWarpSwap (core out : Nat) (s : State) : Host.Outcome State Fault Refusal :=
  let c := s.core core
  .next (if out != vacant && c.active.contains out then
      if !vacates c out then s
      else
        admitWarp (s.updCore core (fun c => (c.leave out).toTail out)) core
    else if c.hasPlace then admitWarp s core else s)

/-- ACTIVE_SET_ROTATE (03 R75): the active warp that entered earliest, handlers excepted, leaves its place to the first ready
pending warp; where it could go on it joins the tail of the ready queue (03 R74). -/
def execActiveSetRotate (core : Nat) (s : State) : Host.Outcome State Fault Refusal :=
  let c := s.core core
  .next (if c.ready.isEmpty then s
    else match c.earliest with
      | none => s
      | some out => admitWarp (s.updCore core (fun c => (c.leave out).toTail out)) core)

end Sys2Proof.Machine
end

