-- ==== Sys2Proof/Machine/Resid.lean ====
section
/-! DEFINITION. Residencies: handles, quotas, quads and eviction, loads and refills (05 R117 to R132, 13 R299 to R301, 21
R411 to R416), and the CP's RES_PRELOAD. -/

namespace Sys2Proof.Machine

/-! ### Entries and handles -/

def Core.rtEnt (c : Core) (i : Nat) : RtEnt := mget {} c.rt i
def State.setRt (s : State) (core i : Nat) (e : RtEnt) : State := s.updCore core (fun c => { c with rt := mset c.rt i e })
/-- The handle of an entry (05 R117). -/
def rtHandle (i : Nat) (e : RtEnt) : Nat := e.gen.toNat * 64 + i
/-- An entry that a name or a handle can reach: neither free nor revoked. -/
def rtLive (e : RtEnt) : Bool := 1 ≤ e.state.toNat && e.state.toNat ≤ 5

/-- The index and entry of a valid handle (05 R118). -/
def rtValid (c : Core) (ctx h : Nat) : Option (Nat × RtEnt) :=
  let e := c.rtEnt (h % 64)
  if rtLive e && e.gen.toNat = h / 64 && e.tenant.toNat = ctx then some (h % 64, e) else none

/-- The tenant's live entry of a name. -/
def rtByName (c : Core) (ctx : Nat) (n : W64) : Option (Nat × RtEnt) :=
  c.rt.find? (fun e => rtLive e.2 && e.2.name = n && e.2.tenant.toNat = ctx)

/-- Quads of a core: 32, or 16 on a level-1 die (05 R104). -/
def quadsOf (s : State) (core : Nat) : Nat := if s.isaLevel core = 1 then 16 else 32
/-- The macro quota of a tenant: a LIMIT above the core's macros acts as that count (05 R125). -/
def quotaOf (s : State) (core ctx : Nat) : Quota :=
  let q := mget {} (s.core core).quota ctx
  { q with limit := min q.limit (4 * quadsOf s core) }

/-- Quads that no entry holds, ascending. -/
def freeQuads (s : State) (core : Nat) : List Nat :=
  (List.range (quadsOf s core)).filter (fun q => (s.core core).rt.all (fun e => !e.2.qmask.getLsbD q))

/-- NOW of the residency engine (05 R127). -/
def rtNow (s : State) : Nat := s.ctl.clock / 1024 % 2 ^ 32
/-- An entry's age; one never touched is older than every other. -/
def rtAge (s : State) (e : RtEnt) : Nat :=
  (rtNow s + 2 ^ 32 - e.lastuse.toNat) % 2 ^ 32 + (if e.touched then 0 else 2 ^ 32)

/-- An accepted `TMMA` of the core names the entry. -/
def rtNamed (c : Core) (i : Nat) : Bool := c.mu.any (fun t => t.handle.toNat % 64 = i)

/-- The next residency to evict for a tenant (05 R127). -/
def rtVictim (s : State) (core ctx : Nat) : Option Nat :=
  let c := s.core core
  let can := c.rt.filter (fun e => e.2.state = 2#3 && !rtNamed c e.1)
  let pick := fun (l : List (Nat × RtEnt)) => (l.foldl (fun (b : Option (Nat × RtEnt)) e => match b with
    | none => some e
    | some x => if rtAge s e.2 > rtAge s x.2 then some e else b) none).map (fun (e : Nat × RtEnt) => e.1)
  match pick (can.filter (fun e => e.2.tenant.toNat != ctx && (mget ({} : Quota) c.quota e.2.tenant.toNat).pre)) with
  | some i => some i
  | none => pick (can.filter (fun e => e.2.tenant.toNat = ctx))

/-- Evict until n quads are free: none where that cannot be reached. The number counts the evictions left. -/
def evictFor (core ctx n : Nat) : Nat → State → Option State
  | 0, s => if (freeQuads s core).length ≥ n then some s else none
  | k + 1, s =>
    if (freeQuads s core).length ≥ n then some s
    else match rtVictim s core ctx with
      | none => none
      | some i => evictFor core ctx n k (s.setRt core i { (s.core core).rtEnt i with state := 4#3, qmask := 0#32 })

/-- A mask of quads. -/
def quadMask (l : List Nat) : W32 := l.foldl (fun m q => m ||| (1#32 <<< q)) 0#32

/-- n quads for a tenant, the lowest-numbered first. -/
def takeQuads (s : State) (core ctx n : Nat) : Option (State × W32) :=
  (evictFor core ctx n 64 s).map (fun s1 => (s1, quadMask ((freeQuads s1 core).take n)))

/-- The quads of an entry, tile 0 first (05 Table 5-6). -/
def quadList (m : W32) : List Nat := (List.range 32).filter (fun q => m.getLsbD q)

/-- Cells and scale stores of some quads read 0 (05 R123). -/
def clearQuads (s : State) (core : Nat) (m : W32) : State :=
  s.updCore core (fun c => { c with cells := c.cells.filter (fun e => !m.getLsbD (e.1 / 32768)),
                                    scales := c.scales.filter (fun e => !m.getLsbD (e.1 / 4096)) })

/-- A revoked entry becomes free once its last accepted `TMMA` is done and its load has stopped (05 Table 5-8). -/
def rtRelease (s : State) (core i : Nat) : State :=
  let c := s.core core
  let e := c.rtEnt i
  if e.state != 6#3 || rtNamed c i || c.resl.any (fun r => r.idx = i) then s
  else
    let t := e.tenant.toNat
    (s.setRt core i { gen := e.gen + 1#10 }).updCore core (fun c =>
      { c with quota := mupd {} c.quota t (fun q => { q with used := q.used - 4 * e.nquad.toNat }) })

/-! ### Loads -/

/-- Bytes of a tile image (05 Table 5-7). -/
def imageLen (f : Nat) : Nat := if f = 0 then 34816 else if f = 1 then 26624 else 36864

/-- The 4 KiB pages of a load's source. -/
def srcPages (e : RtEnt) : List Nat := (pagesOf e.src.toNat e.length.toNat).map (·.1)

/-- One source page is marked: RS in its leaf, or RSCHK in its range entry, its translations are dropped, and its physical
page is recorded: under a larger leaf, the 4 KiB pages that the source touches (05 R129, 06 R157; log 59). -/
def markSource (s : State) (core i ctx va : Nat) (sup : Bool) : State :=
  let c := s.ctxEnt ctx
  let ag := agentRes (s.siteOf core)
  let tbl := rangeTable s ctx
  let s1 := match (List.range tbl.length).find? (fun k => match tbl[k]? with
      | some r => r.v && r.vbase ≤ va / 4096 && va / 4096 ≤ r.vlimit
      | none => false) with
    | some k =>
      let a := c.rtab + 32 * k + 24
      reloadRange (writePhys s a [BitVec.ofNat 8 (s.snoopNum a 1) ||| 0x80#8] 0 0 false) ctx
    | none => match walkFrom s va 5 c.root 1 with
      | .fault _ _ => s
      | .leaf a _ lvl =>
        let x := BitVec.ofNat 8 (s.snoopNum (a + 6) 1)
        dropTlb (writePhys s (a + 6) [x ||| 8#8] 0 0 false)
          (fun t => (t.ctx = ctx || t.g) && t.vpage = va / 2 ^ leafLog2 lvl)
  match translate s1 ag ctx va (engineNeed sup needR) false with
  | (s2, .inl _) => s2
  | (s2, .inr x) =>
    let e := (s2.core core).rtEnt i
    if e.pages.contains (va / 4096, x.pa / 4096) then s2
    else s2.setRt core i { e with pages := e.pages ++ [(va / 4096, x.pa / 4096)] }

/-- A line that the marking of a source would write is in service. -/
def sourceBusy (s : State) (ctx src len : Nat) : Bool :=
  let c := s.ctxEnt ctx
  !s.idleRange c.rtab (32 * min 32 c.nrange) || (pagesOf src len).any (fun p => match walkFrom s p.1 5 c.root 1 with
    | .fault _ _ => false
    | .leaf a _ _ => s.lineBusy (a / 64))

/-- A load or refill of an entry begins: `TMMA`s accepted and not started wait for it (21 R432). -/
def startLoad (s : State) (core i : Nat) (l : ResLoad) : State :=
  let e := (s.core core).rtEnt i
  let s1 := s.setRt core i { e with state := 1#3, pages := if e.srcv then [] else e.pages }
  let s2 := if e.srcv then (srcPages e).foldl (fun s va => markSource s core i e.tenant.toNat va l.sup) s1 else s1
  s2.updCore core (fun c => { c with
    resl := c.resl ++ [{ l with time := s.ctl.time }]
    mu := c.mu.map (fun t => if t.handle.toNat % 64 = i && t.run.isNone && !t.ran && !t.held then { t with lateLoad := true } else t) })

/-- The quads of an entry, or quads taken for an entry that has none since it was evicted (05 R127). -/
def entryQuads (s : State) (core : Nat) (e : RtEnt) : Option (State × W32) :=
  if e.qmask = 0#32 then takeQuads s core e.tenant.toNat e.nquad.toNat else some (s, e.qmask)

/-- An entry without quads takes them and reloads (05 R128); none where R127 cannot supply them. -/
def startRefill (s : State) (core i : Nat) (l : ResLoad) : Option State :=
  let e := (s.core core).rtEnt i
  (entryQuads s core e).map (fun r =>
    startLoad (r.1.setRt core i { (r.1.core core).rtEnt i with qmask := r.2 }) core i l)

/-- The numbers of a load complete, and the CP command that waits for it (05 R122, 03 Table 3-2). A RES_PRELOAD whose load failed
or was stopped reports status 0 as one that finished: its residency tells the failure (log 58). -/
def loadNumbers (s : State) (core : Nat) (l : ResLoad) : State :=
  let t := 4096 + s.siteOf core
  let s1 := (l.num.toList ++ l.also).foldl (fun s n => completeNum s l.ctx t n) s
  let s2 := match l.status with
    | none => s1
    | some (a, n) => writeStatus s1 l.ctx a 0 n
  match l.queue with
  | none => s2
  | some q => s2.updQueue q (fun x => { x with cmds := x.cmds.filter (fun c => c.pre != some (core, l.idx)) })

/-- The residency checks of R432: the entry of a usable handle, or the trap. -/
def tmmaRes (c : Core) (ctx h tile : Nat) (mask : Mask) : TrapReq ⊕ (Nat × RtEnt) :=
  match rtValid c ctx h with
  | none => .inl { cause := 21, mask := mask, addr := BitVec.ofNat 64 h }
  | some (i, e) =>
    if tile ≥ e.nquad.toNat then .inl { cause := 21, mask := mask, addr := BitVec.ofNat 64 h }
    else if e.state = 5#3 then .inl { cause := 22, mask := mask, addr := BitVec.ofNat 64 h, dop0 := e.name }
    else .inr (i, e)

/-- A fault of a reissued `TMMA` takes its place among those still to be raised, in the order of the records. -/
def Warp.addLate (w : Warp) (t : LateTrap) : Warp :=
  { w with late := w.late.filter (fun x => x.ord < t.ord) ++ t :: w.late.filter (fun x => t.ord ≤ x.ord) }

/-- The load that a held warp waits for has ended (21 R432): its `TMMA` goes on where the residency is usable, else it is withdrawn
and its warp traps at it, or before its first instruction where a restore put it back (21 R434). -/
def freeHeld (s : State) (core i : Nat) : State :=
  ((s.core core).mu.filter (fun t => t.held && t.handle.toNat % 64 = i)).foldl (fun s t =>
    let r : WRef := { core := core, slot := t.slot }
    let hold := fun (h : VAddr → HeldTmma) (w : Warp) => ({ w with heldAt := match w.heldAt with
      | some (.waits n) => some (h n)
      | x => x } : Warp)
    match tmmaRes (s.core core) (((s.block? core t.blk).map (fun b => b.ctx)).getD 0) t.handle.toNat t.tile allLanes with
    | .inr _ =>
      (s.updCore core (fun c => { c with mu := c.mu.map (fun y => if y.id = t.id then { y with held := false } else y) })).updWarp r
        (hold .goes)
    | .inl tr =>
      (s.updCore core (fun c => { c with mu := c.mu.filter (fun y => y.id != t.id) })).updWarp r (match t.again with
        | none => hold (fun _ => .withdrawn tr.cause t.handle.toNat tr.dop0)
        | some (m, lvl) => fun w => w.addLate { cause := tr.cause, addr := tr.addr, dop0 := tr.dop0, idx := m + 1, lvl := lvl, ord := m })) s

/-- A load is over: done, failed, or stopped. -/
def endLoad (s : State) (core : Nat) (l : ResLoad) (ok : Bool) : State :=
  let i := l.idx
  let e := (s.core core).rtEnt i
  let st : BitVec 3 := if e.state != 1#3 then e.state else if !ok then 5#3 else if e.pin then 3#3 else 2#3
  let s1 := s.setRt core i { e with state := st, failed := if e.state = 1#3 then !ok else e.failed }
  let good := ok && e.state = 1#3
  let s2 := s1.updCore core (fun c => { c with
    resl := c.resl.filter (fun r => r.idx != i)
    mu := c.mu.map (fun t => if t.lateLoad && t.handle.toNat % 64 = i then
      (if good then { t with lateLoad := false } else { t with lateLoad := false, dead := true }) else t) })
  rtRelease (freeHeld (loadNumbers s2 core l) core i) core i

/-- The cells of one tile from its image (05 R120, R121). -/
def tileCells (f : Nat) (img : List Byte) (quad : Nat) : SMap Byte × SMap Byte :=
  let w := if f = 0 then 8 else if f = 1 then 6 else 4
  let elen := if f = 0 then 32768 else if f = 1 then 24576 else 32768
  let arr := img.toArray
  let at' := fun (i : Nat) => (arr.getD i 0#8).toNat
  let el := fun (b j : Nat) =>
    let k := 4 * w * b
    let o := j * w / 8
    (at' (k + o) + 256 * at' (k + o + 1)) / 2 ^ (j * w % 8) % 2 ^ w
  let cells := (List.range 512).flatMap (fun kr => (List.range 64).map (fun n =>
    let b := 16 * n + kr / 32
    let v := if f = 2 then el b (kr % 32) + 16 * el (1024 + b) (kr % 32) else el b (kr % 32)
    (32768 * quad + 64 * kr + n, BitVec.ofNat 8 v)))
  let sc := (List.range (if f = 2 then 4096 else 2048)).map (fun i => (4096 * quad + i, BitVec.ofNat 8 (at' (elen + i))))
  (cells, sc)

/-- Every tile of an entry takes its image. -/
def fillTiles (s : State) (core : Nat) (e : RtEnt) (img : List Byte) : State :=
  let s1 := clearQuads s core e.qmask
  let qs := quadList e.qmask
  (List.range qs.length).foldl (fun s t => match qs[t]? with
    | none => s
    | some q =>
      let n := imageLen e.lfmt.toNat
      let r := tileCells e.lfmt.toNat ((img.drop (n * t)).take n) q
      s.updCore core (fun c => { c with cells := putBytes c.cells r.1, scales := putBytes c.scales r.2 })) s1

/-- The load of an entry that is running and not parked. -/
def runningLoad (s : State) (core i : Nat) : Option ResLoad :=
  ((s.core core).resl.find? (fun r => r.idx = i)).bind (fun r => if ownerStopped s r.owner then none else some r)

/-- An error that a controller met at an offset of the source of a load is logged (09 R221). -/
def loadLog (s : State) (core : Nat) (e : RtEnt) (sup : Bool) (off : Nat) (out : SegOutcome) : State :=
  if !e.srcv || off ≥ e.length.toNat then s
  else match engineXlat s (agentRes (s.siteOf core)) e.tenant.toNat (e.src.toNat + off) (engineNeed sup needR) false with
    | (s1, .inl _) => s1
    | (s1, .inr x) => logOutcome s1 x.pa out

/-- The source of a load is read and the cells and scales are written. A source page that is not present waits for Tchidal (06
R164); any other failure fails the load. -/
def loadTiles (s : State) (core idx : Nat) (l : ResLoad) : State :=
  let e := (s.core core).rtEnt idx
  let ctx := e.tenant.toNat
  let ag := agentRes (s.siteOf core)
  let s1 := (srcPages e).foldl (fun s va => markSource s core idx ctx va l.sup) s
  match readVirt s1 ag ctx e.src.toNat e.length.toNat (engineNeed l.sup needR) with
  | (s2, .inr img) => endLoad (fillTiles s2 core e img) core l true
  | (s2, .inl c) =>
    if c = 15 then askRun s ag ctx e.src.toNat e.length.toNat (engineNeed l.sup needR) false
    else endLoad s2 core l false

/-- RESIDENCY_LOAD_COMPLETE (05 R121, Table 5-8): a load completes. An error that a controller met is logged, and fails the load
where it is uncorrectable (09 R221). -/
def execResidencyLoadComplete (core : Nat) : Nat × Nat × SegOutcome → State → Host.Outcome State Fault Refusal
  | (idx, off, out), s =>
    .next (match runningLoad s core idx with
      | none => s
      | some l =>
        let e := (s.core core).rtEnt idx
        let ctx := e.tenant.toNat
        let ag := agentRes (s.siteOf core)
        if l.stopping || e.state != 1#3 || (s.core core).mu.any (fun t => t.run.isSome && t.handle.toNat % 64 = idx) then s
        else if !e.srcv then endLoad (clearQuads s core e.qmask) core l true
        else if sourceBusy s ctx e.src.toNat e.length.toNat || !virtIdle s ag ctx e.src.toNat e.length.toNat (engineNeed l.sup needR) false then s
        else match out with
          | .failed _ => endLoad (loadLog s core e l.sup off out) core l false
          | _ => loadTiles (loadLog s core e l.sup off out) core idx l)

/-- RESIDENCY_LOAD_FAIL (05 Table 5-8): a fault or an access error on the source, logged where a controller met it (09 R221). -/
def execResidencyLoadFail (core : Nat) : Nat × Nat × SegOutcome → State → Host.Outcome State Fault Refusal
  | (idx, off, out), s =>
    .next (match runningLoad s core idx with
      | none => s
      | some l =>
        if l.stopping then s else endLoad (loadLog s core ((s.core core).rtEnt idx) l.sup off out) core l false)

/-- RESIDENCY_LOAD_STOP (05 Table 5-8): a load whose entry was freed or went stale stops at a macro. -/
def execResidencyLoadStop (core idx : Nat) (s : State) : Host.Outcome State Fault Refusal :=
  .next (match (s.core core).resl.find? (fun r => r.idx = idx) with
    | none => s
    | some l => if l.stopping then endLoad s core l false else s)

/-- LASTUSE_AGE (05 R127): at every 2^30 units of NOW an age above 2^31 falls to 2^31, in every entry of the table. -/
def execLastuseAge (s : State) : Host.Outcome State Fault Refusal :=
  let now := rtNow s
  let old := fun (e : RtEnt) => (now + 2 ^ 32 - e.lastuse.toNat) % 2 ^ 32 > 2 ^ 31
  .next (if s.ctl.clock / 1024 % 2 ^ 30 != 0 then s
    else { s with cores := s.cores.map (fun c => (c.1, { c.2 with rt := (List.range 64).foldl (fun m i =>
      if old (mget {} m i) then mset m i { mget {} m i with lastuse := BitVec.ofNat 32 (now + 2 ^ 31) } else m) c.2.rt })) })

/-! ### Instructions -/

/-- `RESALLOC` of a name and Q quads (05 R123): the handle and the status. LASTUSE of the new entry is NOW, so that no age passes
the bound of 05 R127 (log 68). -/
def resAlloc (s : State) (core ctx : Nat) (name : W64) (q : Nat) : State × Nat × Nat :=
  let c := s.core core
  if name = 0#64 then (s, 0, 5)
  else match rtByName c ctx name with
    | some (i, e) => (s, rtHandle i e, 1)
    | none =>
      let qu := quotaOf s core ctx
      if q = 0 || q > 32 || q > quadsOf s core then (s, 0, 5)
      else if qu.used + 4 * q > qu.limit then (s, 0, 2)
      else match (List.range 64).find? (fun i => (c.rtEnt i).state = 0#3) with
        | none => (s, 0, 4)
        | some i => match takeQuads s core ctx q with
          | none => (s, 0, 3)
          | some (s1, m) =>
            let e : RtEnt := { name := name, gen := (c.rtEnt i).gen, state := 2#3, tenant := BitVec.ofNat 6 ctx,
                               nquad := BitVec.ofNat 6 q, qmask := m, lastuse := BitVec.ofNat 32 (rtNow s) }
            let s2 := (clearQuads s1 core m).setRt core i e
            (s2.updCore core (fun c => { c with quota := mupd {} c.quota ctx (fun x => { x with used := x.used + 4 * q }) }),
             rtHandle i e, 0)

/-- `RESALLOC` (21 R411, R412, 13 R299). -/
def execResalloc (x : FResalloc) (s : State) : Host.Outcome State Fault Refusal :=
  .next (issue (.resalloc x) s (fun e s =>
    let r := resAlloc s e.r.core e.b.ctx (rdReg e.w false 0 x.a) (srcS e.w x.src).toNat
    .done (r.1.updWarp e.r (fun w => wrReg w false 0 x.d (BitVec.ofNat 64 (r.2.1 + r.2.2 * 2 ^ 32))))))

/-- The handle operand: illegal above bit 15, a residency-handle fault where it fails R118 (21 R411, R412). -/
def withHandle (s : State) (e : Env) (r : Reg) (f : Nat → RtEnt → Res) : Res :=
  let h := (rdReg e.w false 0 r).toNat
  if h ≥ 65536 then .trap s { cause := 3, mask := e.w.exec }
  else match rtValid (s.core e.r.core) e.b.ctx h with
    | none => .trap s { cause := 21, mask := e.w.exec, addr := BitVec.ofNat 64 h }
    | some (i, en) => f i en

/-- A refused load or refresh (21 R414). -/
def resRefused (s : State) (e : Env) (d : Reg) (st : Nat) : Res :=
  .done (s.updWarp e.r (fun w => wrReg w false 0 d (BitVec.ofNat 64 (2 ^ 63 + st))))

/-- A number of the die's residency timeline goes to a warp (13 R300). -/
def giveNum (s : State) (e : Env) (d : Reg) (tlid n : Nat) : State :=
  s.updWarp e.r (fun w => { wrReg w false 0 d (BitVec.ofNat 64 n) with tlops := w.tlops ++ [(tlid, n)] })

/-- `RESLOAD` (21 R413, R414). -/
def execResload (x : FResload) (s : State) : Host.Outcome State Fault Refusal :=
  .next (issue (.resload x) s (fun e s =>
    withHandle s e x.a (fun i en =>
      let core := e.r.core
      let src := (rdReg e.w false 0 x.b).toNat
      let len := (rdReg e.w false 0 x.c).toNat
      let f := match x.ty with
        | .bfp8 => 0
        | .bfp6 => 1
        | .bfp4 => 2
      let t := fun (c : Nat) => Res.trap s { cause := c, mask := e.w.exec, addr := BitVec.ofNat 64 src }
      if src % 64 != 0 then t 8
      else if src ≥ 2 ^ 54 then t 9
      else if len != en.nquad.toNat * imageLen f then resRefused s e x.d 5
      else if en.state = 1#3 then resRefused s e x.d 6
      else if (s.core core).resl.any (fun r => r.idx = i) || sourceBusy s e.b.ctx src len then .wait s .other
      else relThen s e .dv (fun s =>
        let tl := 4096 + s.siteOf core
        let en := (s.core core).rtEnt i
        match entryQuads s core en with
        | none => resRefused s e x.d 3
        | some (s1, m) =>
          let n := issueNum s1 e.b.ctx tl
          let en1 : RtEnt := { en with src := BitVec.ofNat 54 src, length := BitVec.ofNat 32 len, lfmt := BitVec.ofNat 2 f,
                                       srcv := true, qmask := m, failed := if en.state = 5#3 then false else en.failed }
          .done (giveNum (startLoad (n.2.setRt core i en1) core i
            { idx := i, ctx := e.b.ctx, num := some n.1, owner := some (e.b.lid, e.b.bid.toNat), sup := decide (e.w.level ≥ 2) })
              e x.d tl n.1)))))

/-- `RESPIN` (05 Table 5-8, 21 R415). -/
def execRespin (x : FA) (s : State) : Host.Outcome State Fault Refusal :=
  .next (issue (.respin x) s (fun e s =>
    withHandle s e x.a (fun i en =>
      let core := e.r.core
      let st := en.state.toNat
      let s1 := s.setRt core i { en with pin := true, state := if st = 2 then 3#3 else en.state }
      if st != 4 then .done s1
      else if sourceBusy s e.b.ctx en.src.toNat en.length.toNat then .wait s .other
      else relThen s1 e .dv (fun s =>
        if ((s.core core).rtEnt i).state != 4#3 then .done s
        else .done ((startRefill s core i { idx := i, ctx := e.b.ctx, num := none, sup := decide (e.w.level ≥ 2) }).getD s)))))

/-- `RESUNPIN` (05 Table 5-8). -/
def execResunpin (x : FA) (s : State) : Host.Outcome State Fault Refusal :=
  .next (issue (.resunpin x) s (fun e s =>
    withHandle s e x.a (fun i en =>
      .done (s.setRt e.r.core i { en with pin := false, state := if en.state = 3#3 then 2#3 else en.state }))))

/-- `RESQ` (21 Table 21-3). -/
def execResq (x : FDA) (s : State) : Host.Outcome State Fault Refusal :=
  .next (issue (.resq x) s (fun e s =>
    let v := match rtByName (s.core e.r.core) e.b.ctx (rdReg e.w false 0 x.a) with
      | none => 8 * 2 ^ 32
      | some (i, en) => en.nquad.toNat * 2 ^ 20 + en.pin.toNat * 2 ^ 19 + en.state.toNat * 2 ^ 16 + rtHandle i en
    .done (s.updWarp e.r (fun w => wrReg w false 0 x.d (BitVec.ofNat 64 v)))))

/-- `RESREF` (05 Table 5-8, 21 R414). -/
def execResref (x : FDA) (s : State) : Host.Outcome State Fault Refusal :=
  .next (issue (.resref x) s (fun e s =>
    withHandle s e x.a (fun i en =>
      let core := e.r.core
      let tl := 4096 + s.siteOf core
      let own := some (e.b.lid, e.b.bid.toNat)
      if en.state = 5#3 && !en.srcv then resRefused s e x.d 7
      else relThen s e .dv (fun s =>
        let st := ((s.core core).rtEnt i).state.toNat
        let n := issueNum s e.b.ctx tl
        let l : ResLoad := { idx := i, ctx := e.b.ctx, num := some n.1, owner := own, sup := decide (e.w.level ≥ 2) }
        if st = 5 && (s.core core).resl.any (fun r => r.idx = i) then .wait s .other
        else if (st = 4 || st = 5) && sourceBusy s e.b.ctx en.src.toNat en.length.toNat then .wait s .other
        else if st = 1 then
          .done (giveNum (n.2.updCore core (fun c => { c with resl := c.resl.map (fun r =>
            if r.idx = i then { r with also := r.also ++ [n.1] } else r) })) e x.d tl n.1)
        else if st = 4 || st = 5 then (match startRefill n.2 core i l with
          | none => resRefused s e x.d 3
          | some s1 => .done (giveNum s1 e x.d tl n.1))
        else .done (giveNum (completeNum n.2 e.b.ctx tl n.1) e x.d tl n.1)))))

/-- `RESFREE` (05 R124): the entry is revoked at once; a load of it stops. -/
def execResfree (x : FA) (s : State) : Host.Outcome State Fault Refusal :=
  .next (issue (.resfree x) s (fun e s =>
    withHandle s e x.a (fun i en =>
      let core := e.r.core
      let s1 := (s.setRt core i { en with state := 6#3 }).updCore core (fun c =>
        { c with resl := c.resl.map (fun r => if r.idx = i then { r with stopping := true } else r) })
      .done (rtRelease s1 core i))))

/-! ### RES_PRELOAD -/

/-- The formats and quad counts whose images have a length (05 R120). -/
def preShapes (len : Nat) : List (Nat × Nat) :=
  (List.range 3).filterMap (fun f => if len % imageLen f = 0 && 1 ≤ len / imageLen f && len / imageLen f ≤ 32
    then some (f, len / imageLen f) else none)

/-- RES_PRELOAD (03 Table 3-2). The command states neither the format nor the quads: those whose image length it gives,
one of them by a free value where several do (log 14). The status is that of the `RESALLOC`: the checks of R123 that need no
quad count come first, so a tenant without a quota gets QUOTA whatever the length (05 R126); a CORE without an LPT entry, a
LENGTH of no image, and a SOURCE that is not 64-byte aligned or lies at 2^54 or above get BADARG (log 58). -/
def execResPreload (q : Nat) (s : State) : Host.Outcome State Fault Refusal :=
  .next (runCmd s q 5 (fun s l =>
    let ctx := (s.queue q).ctx
    let w0 := fieldAt l 0 8
    let core := bits w0 25 16
    let name := BitVec.ofNat 64 (fieldAt l 8 8)
    let src := fieldAt l 0x10 8
    let len := fieldAt l 0x18 8
    let st := fieldAt l 0x20 8
    let num := (s.queue q).head.toNat
    let refuse := fun (s : State) (c : Nat) => nextCmd (writeStatus s ctx st c num) q
    let sh := preShapes len
    let f := if sh.length ≤ 1 then (0#8, s) else s.freeByte
    if (s.lpt core).isNone || name = 0#64 then refuse s 5
    else if (rtByName (s.core core) ctx name).isSome then refuse s 1
    else match sh[f.1.toNat % max 1 sh.length]? with
    | none => refuse s (if (quotaOf s core ctx).limit = 0 then 2 else 5)
    | some (fm, n) =>
      match resAlloc f.2 core ctx name n with
      | (s1, h, 0) =>
        if src % 64 != 0 || src ≥ 2 ^ 54 then refuse s 5
        else if sourceBusy s ctx src len then s
        else
          let i := h % 64
          let e := (s1.core core).rtEnt i
          let e1 : RtEnt := { e with src := BitVec.ofNat 54 src, length := BitVec.ofNat 32 len, lfmt := BitVec.ofNat 2 fm,
                                     srcv := true, pin := bits w0 8 8 = 1 }
          let tn := issueNum (s1.setRt core i e1) ctx (4096 + s1.siteOf core)
          let s2 := startLoad tn.2 core i { idx := i, ctx := ctx, num := some tn.1, queue := some q,
                                            status := if st = 0 then none else some (st, num) }
          nextCmd (s2.updQueue q (fun x => { x with cmds := x.cmds ++ [{ num := num, pre := some (core, i) }] })) q
      | (s1, _, c) => refuse s1 c))

end Sys2Proof.Machine
end

