-- ==== Sys2Proof/Machine/Tmma.lean ====
section
/-! DEFINITION. `TMMA`: its checks, the matrix unit, and the exact accumulation (04 R95 to R98, 05 R104 to R116, 21 R431 to
R434). -/

namespace Sys2Proof.Machine

/-! ### Arithmetic -/

/-- Element width of an A format (05 Table 5-1). -/
def afmtW (f : Nat) : Nat := if f = 0 then 8 else if f = 1 then 6 else if f = 2 then 4 else 16

/-- Where the pair of row i and K-block k lies in the 512 scale bytes (05 R113, Tables 5-3 and 5-4). -/
def scalePos (sel : Byte) (i k : Nat) : Nat × Nat :=
  let i' := if sel.getLsbD 2 then 0 else i
  let k' := if sel.getLsbD 3 then 0 else k
  let p := 16 * i' + k'
  let lay := bits sel.toNat 1 0
  if lay = 0 then (2 * p, 2 * p + 1)
  else if lay = 1 then (p, 256 + p)
  else
    let a := 128 * (k' / 4) + 4 * (i' + 16 * (k' / 2 % 2)) + 2 * (k' % 2)
    (a, a + 1)

def scaleDelta (sel : Byte) : Nat := bits sel.toNat 6 4
/-- A reserved scale-select code (05 Table 5-3). -/
def scaleBad (sel : Byte) : Bool := sel.getLsbD 7 || bits sel.toNat 1 0 = 3

/-- The registers after vS that hold a referenced byte (05 R113). -/
def scaleRegs (sel : Byte) : List Nat :=
  ((List.range 16).flatMap (fun i => (List.range 16).flatMap (fun k =>
    let p := scalePos sel i k
    (if scaleDelta sel = 0 then [p.1 / 128] else []) ++ [p.2 / 128]))).eraseDups

/-- The exponents of row i and K-block k. -/
def scalePair (sel : Byte) (sc : List Byte) (i k : Nat) : Nat × Nat :=
  let p := scalePos sel i k
  let e1 := (sc.getD p.2 0#8).toNat
  (if scaleDelta sel = 0 then (sc.getD p.1 0#8).toNat else e1 - scaleDelta sel, e1)

/-- The exact block sum: an exact zero is +0 (04 R96). -/
def blockSum (l : List (FVal × FVal)) : FVal :=
  match l.foldl (fun r p => fvAdd .rn r (fvMul p.1 p.2)) (.fin false 0 0) with
  | .fin s m e => .fin (if m = 0 then false else s) m e
  | v => v

/-- ACC26 after one more block sum, in its 26 bits. -/
def accAdd26 (nbv a : Nat) (x : FVal) : Nat :=
  packVal acc26F (if nbv = 1 then .rz else .rn) false (fvAdd .rn (unpackFp acc26F false a) x)

/-- One promotion into C (04 R97, R98). -/
def promote32 (ftz : Bool) (c : W32) (a : FVal) : W32 :=
  BitVec.ofNat 32 (packVal f32F .rn ftz (fvAdd .rn (unpackFp f32F ftz c.toNat) a))

/-- K-block k of the sequence of R97 for one element: its block sum enters ACC26; a promotion, where one is due, adds ACC26 to C
and clears it. The first component says whether C was written. -/
def accStep (nbv per : Nat) (ftz : Bool) (k : Nat) (c : W32) (a : Nat) (x : FVal) : Bool × W32 × Nat :=
  let a1 := accAdd26 nbv a x
  if (k + 1) % per = 0 || k = 15 then (true, promote32 ftz c (unpackFp acc26F false a1), 0) else (false, c, a1)

/-- The whole sequence of R97 for one element: `xs` are the block sums in ascending k. -/
def accumulate (nbv per : Nat) (ftz : Bool) (c : W32) (xs : List FVal) : W32 :=
  (xs.foldl (fun (r : W32 × Nat × Nat) x =>
    let y := accStep nbv per ftz r.2.2 r.1 r.2.1 x
    (y.2.1, y.2.2, r.2.2 + 1)) (c, 0, 0)).1

/-- Where the run of row i and K-block k lies in an A tile (05 R106). -/
def runAt (w i k : Nat) : Nat := 64 * w * i + 4 * w * k

/-- A elements of row i and K-block k from their run of bytes (05 R106). -/
def tileA (bytes : List Byte) (w : Nat) (sel : Byte) (sc : List Byte) (i k : Nat) : List FVal :=
  let run := leNat bytes
  let e := scalePair sel sc i k
  (List.range 32).map (fun j => bfpVal w (bits run (w * j + w - 1) (w * j)) e.1 e.2)

/-- B elements of K-block k and column n from a quad's cells (04 R92, 05 R112, R114, R121). -/
def tileB (c : Core) (quad bf : Nat) (plane1 : Bool) (k n : Nat) : List FVal :=
  let w := if bf = 0 then 8 else if bf = 1 then 6 else 4
  let hi := if plane1 then 1 else 0
  let sa := 4096 * quad + 2048 * hi + 2 * (16 * n + k)
  let e0 := (mget 0#8 c.scales sa).toNat
  let e1 := (mget 0#8 c.scales (sa + 1)).toNat
  (List.range 32).map (fun j =>
    let x := (mget 0#8 c.cells (32768 * quad + 64 * (32 * k + j) + n)).toNat
    bfpVal w (x / 2 ^ (4 * hi) % 2 ^ w) e0 e1)

/-- The period of promotion (04 Table 4-8). -/
def promPeriod (nbv : Nat) (fmt : BitVec 24) : Nat := if nbv = 1 then 8 else fmtProm fmt

/-- Bytes of an A tile (05 Table 5-1). -/
def tileLen (fmt : BitVec 24) : Nat := 1024 * afmtW (fmtAfmt fmt)

/-- The bytes of a run that the unit reads: one that has been stored to since the `TMMA` was accepted is read old or new, by a
free value (05 R111). -/
def runBytes (s : State) (old new : List Byte) : State × List Byte :=
  (old.zip new).foldl (fun r p =>
    if p.1 = p.2 then (r.1, r.2 ++ [p.1])
    else
      let f := r.1.freeByte
      (f.2, r.2 ++ [if f.1.getLsbD 0 then p.2 else p.1])) (s, [])

/-- The runs of K-block k of the rows in use, and nothing for the others. A run that was read for another element is read as it was
then. -/
def blockBytes (s : State) (b : Block) (t : Tmma) (k : Nat) (use : Nat → Bool) : State × List (List Byte) :=
  let w := afmtW (fmtAfmt t.fmt)
  (List.range 16).foldl (fun r i =>
    if use i && t.known.contains (16 * i + k) then (r.1, r.2 ++ [(t.image.drop (runAt w i k)).take (4 * w)])
    else if use i then
      let p := runBytes r.1 ((t.image.drop (runAt w i k)).take (4 * w)) (getBytes b.scr (t.base + runAt w i k) (4 * w))
      (p.1, r.2 ++ [p.2])
    else (r.1, r.2 ++ [[]])) (s, [])

/-- The current K-block of the operation on some elements of C (04 R97): those promoted, and ACC26 of all. -/
def tmmaBlock (c : Core) (b : Block) (w : Warp) (t : Tmma) (r : TmmaRun) (runs : List (List Byte)) (todo : Nat → Bool) :
    List (Nat × W32) × List Nat :=
  let aw := afmtW (fmtAfmt t.fmt)
  let per := promPeriod t.nbv t.fmt
  let rows := (List.range 16).map (fun i => tileA (runs.getD i []) aw (fmtSsel t.fmt) t.scales i r.k)
  let cols := (List.range 64).map (fun n => tileB c r.quad (fmtBfmt t.fmt) t.plane1 r.k n)
  let out := (List.range 1024).map (fun j => if todo j then
      accStep t.nbv per (fmtFtz t.fmt) r.k (accGet w b t.acc j) (r.acc.getD j 0)
        (blockSum ((rows.getD (j / 64) []).zip (cols.getD (j % 64) [])))
    else (false, 0#32, r.acc.getD j 0))
  ((List.range 1024).filterMap (fun j => match out[j]? with
      | some (true, x, _) => some (j, x)
      | _ => none), out.map (fun x => x.2.2))

/-! ### Issue -/

/-- The 512 scale bytes (05 R113). -/
def scaleBytes (w : Warp) (r : Nat) : List Byte :=
  (List.range 4).flatMap (fun k => (List.range 32).flatMap (fun l => leBytes 4 (w.getV (r + k) l).toNat))

/-- The checks before the residency (21 R432). -/
def tmmaCheck (e : Env) (x : FTmma) (sel : Byte) (base h : Nat) : Option TrapReq :=
  let t := fun (c a : Nat) => some ({ cause := c, mask := e.w.exec, addr := BitVec.ofNat 64 a } : TrapReq)
  if e.w.exec != allLanes then t 4 0
  else if h ≥ 65536 then t 3 0
  else if scaleBad sel || (scaleRegs sel).any (fun r => Reg.idx x.c + r ≥ e.w.vregs) then t 3 0
  else if x.plane1 && fmtBfmt e.w.fmt != 2 then t 3 0
  else if base % 128 != 0 then t 8 base
  else if base + 1024 * afmtW (fmtAfmt e.w.fmt) > e.b.size then t 10 base
  else none

/-- A `TMMA` of a core changed. -/
def updTmma (s : State) (core id : Nat) (f : Tmma → Tmma) : State :=
  s.updCore core (fun c => { c with mu := c.mu.map (fun t => if t.id = id then f t else t) })

/-- The matrix unit accepts a `TMMA` with what it captures (21 R432); `held` says that its warp is held behind a load. -/
def tmmaAccept (s : State) (e : Env) (x : FTmma) (sel : Byte) (base h : Nat) (held : Bool) : State :=
  let n := s.freshId
  let fmt : BitVec 24 := (e.w.fmt &&& 0x00FFFF#24) ||| (sel.zeroExtend 24 <<< 16)
  let t : Tmma := { id := n.1, slot := e.r.slot, blk := e.w.blk, acc := Reg.accIdx x.d, base := base,
                    handle := BitVec.ofNat 16 h, tile := x.t.val, plane1 := x.plane1, fmt := fmt,
                    scales := scaleBytes e.w (Reg.idx x.c), nbv := e.b.nbv, held := held,
                    image := getBytes e.b.scr base (tileLen fmt) }
  let s1 := n.2.updCore e.r.core (fun c => { c with mu := c.mu ++ [t] })
  if held then s1.updWarp e.r (fun w => { w with heldAt := some (.waits e.next) }) else s1

/-- `TMMA` (21 R432). A warp held behind a load issues the same `TMMA` again once the load has ended. -/
def execTmma (x : FTmma) (s : State) : Host.Outcome State Fault Refusal :=
  .next (issue (.tmma x) s (fun e s =>
    let core := e.r.core
    let c := s.core core
    let sel := if x.ssv then x.ssel else fmtSsel e.w.fmt
    let base := (rdReg e.w false 0 x.a).toNat % 2 ^ 32
    let h := (rdReg e.w false 0 x.b).toNat
    match e.w.heldAt with
    | some (.waits _) => .wait s .tile
    | some (.goes _) => .done (s.updWarp e.r (fun w => { w with heldAt := none }))
    | some (.withdrawn cause hd name) =>
      .trap (s.updWarp e.r (fun w => { w with heldAt := none }))
        { cause := cause, mask := e.w.exec, addr := BitVec.ofNat 64 hd, dop0 := name }
    | none =>
      match tmmaCheck e x sel base h with
      | some t => .trap s t
      | none => match tmmaRes c e.b.ctx h x.t.val e.w.exec with
        | .inl t => .trap s t
        | .inr (i, en) =>
          if s.tlcnt e.r ≥ 4 || c.mu.length ≥ 8 then .wait s .tile
          else if en.state = 4#3 && sourceBusy s e.b.ctx en.src.toNat en.length.toNat then .wait s .other
          else if en.state = 4#3 then
            relThen s e .dv (fun s => match tmmaRes (s.core core) e.b.ctx h x.t.val e.w.exec with
              | .inl t => .trap s t
              | .inr _ => match startRefill s core i { idx := i, ctx := e.b.ctx, num := none, sup := decide (e.w.level ≥ 2) } with
                | none => .trap s { cause := 23, mask := e.w.exec, addr := BitVec.ofNat 64 h }
                | some s1 => .wait (tmmaAccept s1 e x sel base h true) .tile)
          else if en.state = 1#3 then .wait (tmmaAccept s e x sel base h true) .tile
          else .done (tmmaAccept s e x sel base h false)))

/-! ### The matrix unit -/

/-- The oldest accepted `TMMA` starts once no load that it waits for is running (05 R108, 21 R432), and not while the throttle
holds the array (12 R297). One whose load failed or was stopped ends without changing C. -/
def tmmaStart (s : State) (core : Nat) (t : Tmma) : State :=
  let i := t.handle.toNat % 64
  let en := (s.core core).rtEnt i
  if t.held || t.lateLoad || issueHeld s then s
  else if t.dead then updTmma s core t.id (fun t => { t with ran := true })
  else match (quadList en.qmask)[t.tile]? with
    | none => s
    | some q =>
      updTmma (s.setRt core i { en with touched := true, lastuse := BitVec.ofNat 32 (rtNow s) }) core t.id
        (fun t => { t with run := some { quad := q, k := 0, acc := List.replicate 1024 0 } })

/-- The run of row i and K-block k stays as it has been read (05 R111). -/
def keepRun (t : Tmma) (i k : Nat) (run : List Byte) : Tmma :=
  let o := runAt (afmtW (fmtAfmt t.fmt)) i k
  { t with image := t.image.take o ++ run ++ t.image.drop (o + run.length), known := (16 * i + k) :: t.known }

/-- A started `TMMA` goes on: one element does its next K-block, whatever the others have done, or every element that has not yet
done K-block k does it. Each promotion is one read-add-write of its element, so that an unordered `ACCMOV` sees any of them before
or after it (05 R116). -/
def tmmaNext (s : State) (core : Nat) (t : Tmma) (r : TmmaRun) (el : Option Nat) : State :=
  let rf : WRef := { core := core, slot := t.slot }
  match s.warp? rf, s.block? core t.blk with
  | some w, some b =>
    let k := r.k + (match el with
      | none => 0
      | some j => r.part.count j)
    let todo := fun (j : Nat) => match el with
      | none => !r.part.contains j
      | some x => j = x && k < 16
    let y := blockBytes s b t k (fun i => el.isNone || el.map (· / 64) = some i)
    let z := tmmaBlock (s.core core) b w t { r with k := k } y.2 todo
    let c := z.1.foldl (fun (q : Warp × Block) p => accPut q.1 q.2 t.acc p.1 p.2) (w, b)
    updTmma ((y.1.setWarp rf c.1).setBlock core t.blk c.2) core t.id (fun t => match el with
      | none => { t with run := some { r with k := k + 1, acc := z.2, part := r.part.eraseDups.foldl List.erase r.part }, ran := decide (k = 15) }
      | some j => if todo j then { keepRun t (j / 64) k (y.2.getD (j / 64) []) with run := some { r with acc := z.2, part := j :: r.part } }
        else t)
  | _, _ => s

/-- Throttling holds the start of array cycles in T of every 16 cycles (12 R297). -/
def arrayHeld (s : State) : Bool := s.ctl.clock % 16 < s.pkg.pwr.throttle

/-- TMMA_RUN (05 R108, R116, 21 R432): the oldest accepted `TMMA` of the core starts, or goes on with a K-block, of one element or of
all that have not done it. -/
def execTmmaRun (core : Nat) : Nat × Option Nat → State → Host.Outcome State Fault Refusal
  | (id, el), s =>
    .next (match (s.core core).mu with
      | [] => s
      | t :: _ =>
        if t.id != id || t.ran then s
        else match t.run with
          | none => tmmaStart s core t
          | some r => if arrayHeld s then s else tmmaNext s core t r el)

/-- TMMA_COMPLETE (21 R432): TLCNT falls when the last promotion is written. -/
def execTmmaComplete (core id : Nat) (s : State) : Host.Outcome State Fault Refusal :=
  .next (match (s.core core).mu with
    | [] => s
    | t :: r =>
      if t.id != id || !t.ran then s
      else rtRelease (s.updCore core (fun c => { c with mu := r })) core (t.handle.toNat % 64))

end Sys2Proof.Machine
end

