-- ==== Sys2Proof/Machine/Kv.lean ====
section
/-! DEFINITION. The key-value engine: pools, block directory, gathers, copy-on-write, moves (09 R224 to R234, 14 R302 to
R307, 20 R387 to R393). -/

namespace Sys2Proof.Machine

/-! ### Pools -/

/-- A pool as its descriptor gives it (09 Table 9-9): the descriptor's physical address, and the page that follows the
first when it crosses one. -/
structure KvPool where
  p0 : Nat
  p1 : Nat
  dir : Nat
  nblk : Nat
  tok : Nat
  bs : Nat
deriving DecidableEq, Repr

/-- Bytes of a record. -/
def KvPool.recLen (p : KvPool) : Nat := 2 ^ p.tok
/-- Tokens of a block (09 R226). -/
def KvPool.tpb (p : KvPool) : Nat := 2 ^ (p.bs - p.tok)
/-- Bytes of a block. -/
def KvPool.bytes (p : KvPool) : Nat := 2 ^ p.bs

/-- The physical address of a byte of the descriptor. -/
def poolAt (p0 p1 off : Nat) : Nat := if p0 % 4096 + off < 4096 then p0 + off else p1 + (p0 % 4096 + off - 4096)

/-- A number read at its home. -/
def kvGet (s : State) (pa n : Nat) : State × Nat := let r := readPhys s pa n; (r.1, leNat r.2)
/-- A number written at its home; a word that cannot be reached is not written (06 R142, log 76). -/
def kvPut (s : State) (pa n v : Nat) : State :=
  if (s.mapCause pa false).isSome then s else writePhys s pa (leBytes n v) 0 0 false

/-- What the memory controllers meet on the engine's next copy or store, whose bytes lie in the runs of a list: an error is
logged, and an uncorrectable one is an access error (09 R221, R223; log 75). -/
def kvMeet (s : State) (l : List (Nat × Nat)) : State × Option Nat :=
  match s.ctl.kvMet with
  | [] => (s, none)
  | (off, out) :: t =>
    let s0 := s.updCtl (fun c => { c with kvMet := t })
    let at' := (l.flatMap (fun r => linesOf r.1 r.2)).map (fun l => 64 * l)
    match at'[off % max 1 at'.length]?, out with
    | none, _ => (s0, none)
    | some pa, .failed _ => (logOutcome s0 pa (.failed 19), some 19)
    | some pa, _ => (logOutcome s0 pa out, none)

/-- The pool at a physical address. -/
def poolGet (s : State) (p0 p1 : Nat) : State × KvPool :=
  let a := kvGet s (poolAt p0 p1 0) 8
  let b := kvGet a.1 (poolAt p0 p1 8) 8
  (b.1, { p0 := p0, p1 := p1, dir := a.2, nblk := bits b.2 63 32, tok := bits b.2 15 8, bs := bits b.2 7 0 })

/-- Where a ring lies in the descriptor: IDRING 0, STORE1 to STORE4 1 to 4. -/
def ringOff (n : Nat) : Nat := 0x10 + 32 * n

/-- A word of a ring: 0 BASE, 1 SIZE, 2 HEAD, 3 TAIL. -/
def ringWord (s : State) (p : KvPool) (n i : Nat) : State × Nat := kvGet s (poolAt p.p0 p.p1 (ringOff n + 8 * i)) 8

/-- The address of a ring's item. -/
def ringItem (base size i : Nat) : Nat := base + 4 * (i % max 1 (size % 2 ^ 32))

/-- An item taken from a ring; none where it is empty. -/
def ringTake (s : State) (p : KvPool) (n : Nat) : State × Option Nat :=
  let b := ringWord s p n 0
  let z := ringWord b.1 p n 1
  let h := ringWord z.1 p n 2
  let t := ringWord h.1 p n 3
  if h.2 = t.2 then (t.1, none)
  else
    let v := kvGet t.1 (ringItem b.2 z.2 h.2) 4
    (kvPut v.1 (poolAt p.p0 p.p1 (ringOff n + 16)) 8 (h.2 + 1), some v.2)

/-- The ring has no item. -/
def ringEmpty (s : State) (p : KvPool) (n : Nat) : Bool := (ringWord s p n 2).2 == (ringWord s p n 3).2

/-- An item returned to a ring; where its place cannot be reached the ring stays as it is (06 R142, log 76). -/
def ringGive (s : State) (p : KvPool) (n v : Nat) : State :=
  let b := ringWord s p n 0
  let z := ringWord b.1 p n 1
  let t := ringWord z.1 p n 3
  let a := ringItem b.2 z.2 t.2
  if (t.1.mapCause a false).isSome then t.1
  else kvPut (kvPut t.1 a 4 v) (poolAt p.p0 p.p1 (ringOff n + 24)) 8 (t.2 + 1)

/-- The cause that keeps the item of a ring at its HEAD, or at its TAIL, from being reached (06 R142, 09 R215, R235). -/
def ringCause (s : State) (p : KvPool) (n : Nat) (tail : Bool) : Option Nat :=
  s.mapCause (ringItem (ringWord s p n 0).2 (ringWord s p n 1).2 (ringWord s p n (if tail then 3 else 2)).2) false

/-! ### Directory entries -/

/-- A block-directory entry (09 Table 9-10). -/
structure KvEnt where
  addr : Nat
  ver : Nat := 0
  moving : Bool := false
  tier : Nat
  ref : Nat
  oaddr : Nat := 0
  otier : Nat := 0
  grace : Nat := 0
deriving DecidableEq, Repr

def entAt (p : KvPool) (i : Nat) : Nat := p.dir + 16 * i

def entGet (s : State) (p : KvPool) (i : Nat) : State × KvEnt :=
  let a := kvGet s (entAt p i) 8
  let b := kvGet a.1 (entAt p i + 8) 8
  (b.1, { addr := bits a.2 63 32, ver := bits a.2 31 24, moving := bits a.2 23 23 = 1, tier := bits a.2 22 20,
          ref := bits a.2 15 0, oaddr := bits b.2 63 32, otier := bits b.2 22 20, grace := bits b.2 15 0 })

def entPut (s : State) (p : KvPool) (i : Nat) (e : KvEnt) : State :=
  kvPut (kvPut s (entAt p i) 8 (e.addr * 2 ^ 32 + e.ver % 256 * 2 ^ 24 + e.moving.toNat * 2 ^ 23 + e.tier * 2 ^ 20 + e.ref))
    (entAt p i + 8) 8 (e.oaddr * 2 ^ 32 + e.otier * 2 ^ 20 + e.grace)

/-- The cause that keeps a directory entry from being reached (06 R142, 09 R215, R235). -/
def entCause (s : State) (p : KvPool) (i : Nat) : Option Nat := s.mapCause (entAt p i) false

/-- The block is free or dying (09 R234). -/
def KvEnt.gone (e : KvEnt) : Bool := e.tier = 0 || e.ref = 0

/-- The tier bases (09 R225). -/
def tierBase (t : Nat) : Nat := if t = 2 then 0x10000000000 else if t = 3 then 0x40000000000 else if t = 4 then 0x80000000000 else 0
/-- The physical address of storage. -/
def storeAt (tier addr : Nat) : Nat := tierBase tier + 4096 * addr

/-- Gathers in flight of a block, of one version or of any. -/
def gathersOf (s : State) (p : KvPool) (i : Nat) (ver : Option Nat) : Nat :=
  (s.gathers.filter (fun g => g.ent = entAt p i && (match ver with
    | none => true
    | some v => g.ver = v))).length

/-- A dying block that no gather reads becomes free: its ID and its storage return to their rings (09 R232). -/
def tryFree (s : State) (p : KvPool) (i : Nat) : State :=
  let e := entGet s p i
  if e.2.ref != 0 || e.2.tier = 0 || e.2.moving || gathersOf e.1 p i none != 0 then e.1
  else
    let s1 := ringGive (ringGive e.1 p 0 i) p e.2.tier e.2.addr
    let s2 := if e.2.otier = 0 then s1 else ringGive s1 p e.2.otier e.2.oaddr
    entPut s2 p i { e.2 with ver := e.2.ver + 1, tier := 0, otier := 0, grace := 0 }

/-- The number of a move that is over completes. -/
def doneMove (s : State) (m : KvMove) : State :=
  completeNum { s with moves := s.moves.filter (fun x => x.id != m.id) } m.ctx (0x2000 + m.site) m.num

/-- A move ends: its status word is written, then its timeline number completes (14 R306). The word waits for a page that is not
present (06 R164); one that cannot be written is lost (20 R393). -/
def endMove (s : State) (m : KvMove) (st : Nat) : State :=
  match writeVirt s (agentKve m.site) m.ctx m.status (leBytes 8 st) (engineNeed m.sup needW) with
  | (s1, none) => doneMove s1 m
  | (s1, some c) =>
    if c = 15 then
      askPage { s with moves := s.moves.filter (fun x => x.id != m.id) ++ [{ m with word := some st }] } m.ctx m.status
    else (doneMove s1 m).raise (.statusLost m.num)

/-- A move that does not flip: the destination returns to its ring (09 R233). -/
def dropMove (s : State) (p : KvPool) (m : KvMove) (st : Nat) : State :=
  let e := entGet s p m.blk
  let s1 := entPut (ringGive e.1 p e.2.otier e.2.oaddr) p m.blk { e.2 with moving := false, otier := 0 }
  endMove s1 m st

/-- One reference fewer (09 R232); at 0 a move of the block stops (R233) and the block dies. -/
def decRef (s : State) (p : KvPool) (i : Nat) : State :=
  let e := entGet s p i
  let s1 := entPut e.1 p i { e.2 with ref := e.2.ref - 1 }
  if e.2.ref != 1 then s1
  else
    let s2 := match s1.moves.find? (fun m => m.pool = p.p0 && m.blk = i && m.word.isNone) with
      | none => s1
      | some m => dropMove s1 p m 5
    tryFree s2 p i

/-- How a KV operation fails: the cause of its fault, 24 for a KV reference, and the status of cause 24. -/
abbrev KvErr := Nat × Nat

/-- A new block: an ID and tier-1 storage, or the status that says which ring is empty (09 R230), or the cause for which a word of
the rings or the directory cannot be reached. -/
def newBlk (s : State) (p : KvPool) : State × (KvErr ⊕ Nat) :=
  if ringEmpty s p 0 then (s, .inl (24, 1))
  else if ringEmpty s p 1 then (s, .inl (24, 2))
  else match (ringCause s p 0 false) <|> (ringCause s p 1 false) with
  | some c => (s, .inl (c, 0))
  | none => match ringTake s p 0 with
    | (s1, none) => (s1, .inl (24, 1))
    | (s1, some i) => match ringTake s1 p 1 with
      | (s2, none) => (s2, .inl (24, 2))
      | (s2, some a) => match entCause s2 p i with
        | some c => (s, .inl (c, 0))
        | none => (entPut s2 p i { addr := a, tier := 1, ref := 1 }, .inr i)

/-- The storage of a block. -/
def blkStore (s : State) (p : KvPool) (i : Nat) : Nat := let e := (entGet s p i).2; storeAt e.tier e.addr

/-- The cause that keeps a byte of a run from being reached (06 R142). -/
def runCause (s : State) (pa n : Nat) : Option Nat := (linesOf pa n).findSome? (fun l => s.mapCause (64 * l) false)

/-- Copy-on-write of a block (09 R230): the new ID, or how it fails, which leaves everything as it was (09 R228). `put` swaps the
sequence's table entry. -/
def cowBlk (s : State) (p : KvPool) (i : Nat) (put : State → Nat → State) : State × (KvErr ⊕ Nat) :=
  let e := entGet s p i
  let src := storeAt e.2.tier e.2.addr
  match runCause e.1 src p.bytes with
  | some c => (e.1, .inl (c, 0))
  | none => match newBlk e.1 p with
    | (_, .inl c) => (e.1, .inl c)
    | (s1, .inr n) =>
      let dst := blkStore s1 p n
      match runCause s1 dst p.bytes with
      | some c => (e.1, .inl (c, 0))
      | none =>
        let d := readPhys s1 src p.bytes
        let s2 := writePhys d.1 dst d.2 0 0 false
        (decRef (put s2 n) p i, .inr n)

/-! ### Reading the descriptors -/

/-- Nothing is in service at a home: the engine's swaps take effect at once. -/
def netQuiet (s : State) : Bool :=
  s.homes.all (fun h => h.2.held.isEmpty) && s.net.all (fun m => match m.kind with
    | .snoop _ | .answer _ _ _ | .data _ | .ack | .discovery => false
    | _ => true)

/-- The first address that is misaligned, or beyond 54 bits (20 R387): address and alignment, in operand order. -/
def kvCheck (l : List (Nat × Nat)) : Option (Nat × Nat) :=
  (l.find? (fun x => x.1 % x.2 != 0 || vaBad x.1)).map (fun x => (if x.1 % x.2 != 0 then 8 else 9, x.1))

/-- A read of a KV structure that fails: a page not present goes to Tchidal (06 R164), any other failure is an access error (20
R387). -/
def kvFail (s : State) (e : Env) (m : Mask) (c va : Nat) : Res :=
  if c = 15 then .wait (askPage s e.b.ctx va) (.page va m)
  else .trap s { cause := 19, mask := m, addr := BitVec.ofNat 64 va }

/-- An access to a word that the descriptors name by its physical address fails with the first cause of a list (06 R142). -/
def kvGuard (s : State) (m : Mask) (va : Nat) (l : List (Option Nat)) (f : Res) : Res :=
  match l.findSome? id with
  | some c => .trap s { cause := c, mask := m, addr := BitVec.ofNat 64 va }
  | none => f

/-- The KVE of the issuing die. -/
def kvAgent (s : State) (e : Env) : Nat := agentKve (s.siteOf e.r.core)
/-- What the KVE needs of a tenant's page when it reads, and when it writes. -/
def kvR (e : Env) : BitVec 4 := engineNeed (decide (e.w.level ≥ 2)) needR
def kvW (e : Env) : BitVec 4 := engineNeed (decide (e.w.level ≥ 2)) needW

/-- The start of every KV instruction: the address checks and the pool, which the KVE reads as an engine acting for
Tchidal (14 R302). The KV operations of one warp take effect in issue order (09 R227): one waits behind a held one. -/
def withPool (s : State) (e : Env) (m : Mask) (addrs : List (Nat × Nat)) (va : Nat) (f : State → KvPool → Res) : Res :=
  match kvCheck addrs with
  | some (c, a) => .trap s { cause := c, mask := m, addr := BitVec.ofNat 64 a }
  | none =>
    if !netQuiet s || !(s.heldOf e.r).isEmpty then .wait s .other
    else
      let ag := kvAgent s e
      match engineXlat s ag e.b.ctx va needR false with
      | (_, .inl c) => kvFail s e m c va
      | (s1, .inr x) => match engineXlat s1 ag e.b.ctx (va + 191) needR false with
        | (_, .inl c) => kvFail s e m c (va + 191)
        | (s2, .inr y) =>
          let p := poolGet s2 x.pa (y.pa - y.pa % 4096)
          f p.1 p.2

/-- A sequence descriptor (09 R226). -/
structure KvSeq where
  va : Nat
  bt : Nat
  nbte : Nat
  len : Nat
deriving DecidableEq, Repr

/-- A number read from a tenant's structure. -/
def withWord (s : State) (e : Env) (m : Mask) (va n : Nat) (need : BitVec 4) (f : State → Nat → Res) : Res :=
  match engineXlat s (kvAgent s e) e.b.ctx va need false with
  | (_, .inl c) => kvFail s e m c va
  | (s1, .inr x) => let r := kvGet s1 x.pa n; f r.1 r.2

/-- A sequence read; `need` also holds W where it is to be written. -/
def withSeq (s : State) (e : Env) (m : Mask) (va : Nat) (need : BitVec 4) (f : State → KvSeq → Res) : Res :=
  withWord s e m va 8 need (fun s bt => withWord s e m (va + 8) 8 need (fun s x =>
    f s { va := va, bt := bt, nbte := bits x 63 32, len := bits x 31 0 }))

/-- Table entries of a sequence read in order. -/
def withTable (e : Env) (m : Mask) (bt : Nat) (need : BitVec 4) : List Nat → State → (State → List Nat → Res) → Res
  | [], s, f => f s []
  | i :: t, s, f => withWord s e m (bt + 4 * i) 4 need (fun s v => withTable e m bt need t s (fun s l => f s (v :: l)))

/-- VALID of a table entry, and its block. -/
def bteValid (v : Nat) : Bool := bits v 31 31 = 1
def bteBlk (v : Nat) : Nat := bits v 27 0

/-- A number written to a tenant's structure. -/
def kvStore (s : State) (e : Env) (va n v : Nat) : State :=
  (writeVirt s (kvAgent s e) e.b.ctx va (leBytes n v) (kvW e)).1
/-- A table entry that names a block. -/
def kvSetBte (s : State) (e : Env) (q : KvSeq) (ix blk : Nat) : State := kvStore s e (q.bt + 4 * ix) 4 (2 ^ 31 + blk)
/-- LEN of a sequence. -/
def kvSetLen (s : State) (e : Env) (q : KvSeq) (n : Nat) : State := kvStore s e (q.va + 8) 4 n

/-! ### Lanes of `KVLD` and `KVST` -/

/-- A lane's token and record offset. -/
structure KvLane where
  lane : Nat
  tok : Nat
  off : Nat
deriving DecidableEq, Repr

def kvLanes (e : Env) (c : Reg) : List KvLane :=
  (lanesOf e.act).map (fun i => { lane := i, tok := (e.w.getV (Reg.idx c) i).toNat, off := (e.w.getV (Reg.idx c + 1) i).toNat })

/-- The token and offset lie in the sequence and the record (09 R226, 14 R304). -/
def laneInside (p : KvPool) (q : KvSeq) (w : Nat) (l : KvLane) : Bool :=
  l.tok < q.len && l.tok / KvPool.tpb p < q.nbte && l.off % w = 0 && l.off + w ≤ KvPool.recLen p

/-- A lane resolved: its block, table entry and block offset, or its status. -/
structure KvHit where
  lane : Nat
  ix : Nat
  blk : Nat
  off : Nat
deriving DecidableEq, Repr

/-- Every lane resolved against the directory: the lanes that fault, with the status of a KV reference or the cause for which the
block's entry cannot be reached, and the others (09 R229, 06 R142). -/
def kvResolve (s : State) (p : KvPool) (q : KvSeq) (w : Nat) (ls : List KvLane) (tbl : Nat → Nat) :
    State × List LaneFault × List KvHit :=
  ls.foldl (fun r l =>
    let ix := l.tok / KvPool.tpb p
    let v := tbl ix
    let bad := fun (c st : Nat) => (r.1, r.2.1 ++ [LaneFault.mk l.lane c st q.va], r.2.2)
    if !laneInside p q w l || !bteValid v || bteBlk v ≥ p.nblk then bad 24 4
    else match entCause r.1 p (bteBlk v) with
      | some c => bad c 0
      | none =>
        let en := entGet r.1 p (bteBlk v)
        if KvEnt.gone en.2 then bad 24 5
        else (en.1, r.2.1, r.2.2 ++ [{ lane := l.lane, ix := ix, blk := bteBlk v,
                                       off := l.tok % KvPool.tpb p * KvPool.recLen p + l.off }]))
    (s, [], [])

/-- The table entries that some lanes use, read under the access's needs, then the lanes resolved. -/
def withLanes (s : State) (e : Env) (p : KvPool) (q : KvSeq) (need : BitVec 4) (w : Nat) (c : Reg)
    (f : State → List LaneFault → List KvHit → Res) : Res :=
  let ls := kvLanes e c
  let ixs := ((ls.filter (laneInside p q w)).map (fun l => l.tok / KvPool.tpb p)).eraseDups
  withTable e e.act q.bt need ixs s (fun s vs =>
    let r := kvResolve s p q w ls (fun ix => (mfind (ixs.zip vs) ix).getD 0)
    f r.1 r.2.1 r.2.2)

/-- The number of an operand register. -/
def kvReg (e : Env) (r : Reg) : Nat := (rdReg e.w false 0 r).toNat

/-- `KVLD` (20 R388): the lanes resolve now; their bytes are read by KVLD_GATHER_COMPLETE from the storage resolved. -/
def execKvld (x : FKv) (s : State) : Host.Outcome State Fault Refusal :=
  .next (issue (.kvld x) s (fun e s =>
    let w := accW x.ty x.wid
    let va := kvReg e x.b
    if State.ldcnt e.w ≥ 64 then .wait s .counter
    else withPool s e e.act [(kvReg e x.a, 64), (va, 16)] (kvReg e x.a) (fun s p =>
      withSeq s e e.act va (kvR e) (fun s q => withLanes s e p q (kvR e) w x.c (fun s bad hits =>
        if hits.isEmpty then endLanes s (byLane bad)
        else
          let n := s.freshId
          let blks := (hits.map (·.blk)).eraseDups
          let es := blks.map (fun b => (b, (entGet n.2 p b).2))
          let st := fun (b : Nat) => match mfind es b with
            | none => 0
            | some en => storeAt en.tier en.addr
          let op : LoadOp :=
            { id := n.1, dest := .vreg (Reg.idx x.d) (DTy.sext x.ty),
              lanes := hits.map (fun h => { lane := h.lane, va := va, pa := st h.blk + h.off, w := w }),
              gather := es.map (fun b => (entAt p b.1, b.2.ver, storeAt b.2.tier b.2.addr)), pt := issuePt s e.w,
              fails := byLane bad }
          let gs : List KvGather := es.map (fun b =>
            { core := e.r.core, slot := e.r.slot, op := n.1, pool := p.p0, pool2 := p.p1, ent := entAt p b.1, blk := b.1, ver := b.2.ver })
          let s1 : State := { n.2 with gathers := n.2.gathers ++ gs }
          leaveLanes (s1.updWarp e.r (fun v => { v with loads := v.loads ++ [op] })) (byLane bad))))))

/-- One gather of a block is over (09 R233), whose entry is left where it cannot be reached (log 76): the old storage returns when
the last reader of the old version completes. A dying block keeps it, and is freed, when no gather of any version is left (09
R232). -/
def gatherDone (s : State) (g : KvGather) : State :=
  let p := poolGet s g.pool g.pool2
  let s0 : State := { p.1 with gathers := p.1.gathers.filter (fun x => x != g) }
  if ([s.mapCause g.pool false, s.mapCause g.pool2 false, entCause s p.2 g.blk]).any (·.isSome) then s0
  else
  let e := entGet s0 p.2 g.blk
  let s1 :=
    if e.2.otier != 0 && !e.2.moving && e.2.grace != 0 && e.2.ver = (g.ver + 1) % 256 then
      if e.2.grace = 1 && e.2.ref != 0 then
        entPut (ringGive e.1 p.2 e.2.otier e.2.oaddr) p.2 g.blk { e.2 with grace := 0, otier := 0 }
      else entPut e.1 p.2 g.blk { e.2 with grace := e.2.grace - 1 }
    else e.1
  tryFree s1 p.2 g.blk

/-- The gathers of a load are over. -/
def endGathers (s : State) (r : WRef) (op : Nat) : State :=
  (s.gathers.filter (fun g => g.core = r.core && g.slot = r.slot && g.op = op)).foldl gatherDone s

/-- The fault of a gather's lane: its storage cannot be reached, or a controller met an uncorrectable error (09 R221, R229). -/
def gatherFault (s : State) (lanes : Mask) (out : SegOutcome) (a : LaneAcc) : Option LaneFault :=
  let f := fun (c : Nat) => some (LaneFault.mk a.lane c 0 a.va)
  match runCause s a.pa a.w with
  | some c => f c
  | none => match out with
    | .failed c => if lanes.getLsbD a.lane then f c else none
    | _ => none

/-- A read at their homes of bytes for a core binds a load: the core's pts rises to the wts of the lines read and to its die's DT
(08 R187, 20 R388; log 77). -/
def bindPts (s : State) (core pa n : Nat) : State :=
  let d := s.dieOf core
  let w := (linesOf pa n).foldl (fun m l => max m (((s.homeLine? (s.homeOf l) l).map (·.wts)).getD (s.home (s.homeOf l)).dt)) (s.home d).dt
  s.raisePts core w

/-- KVLD_GATHER_COMPLETE (09 R229, 14 R307): every lane binds from the storage it resolved; a lane whose storage cannot be
read takes that fault alone. `out` is what a controller met for the lanes of a mask. -/
def execKvldGatherComplete (core slot : Nat) : Nat × Mask × SegOutcome → State → Host.Outcome State Fault Refusal
  | (op, lanes, out), s =>
    let r : WRef := { core := core, slot := slot }
    .next (match s.warp? r with
      | none => s
      | some w => match w.loads.find? (fun o => o.id = op && !o.gather.isEmpty) with
        | none => s
        | some o =>
          if !netQuiet s then s
          else
            let bad := o.lanes.filterMap (gatherFault s lanes out)
            let s0 := (o.lanes.filter (fun a => lanes.getLsbD a.lane)).foldl (fun s a => logOutcome s a.pa out) s
            let s1 := (o.lanes.filter (fun a => (gatherFault s lanes out a).isNone)).foldl (fun s a =>
              let b := readPhys s a.pa a.w
              (bindPts b.1 core a.pa a.w).updWarp r (fun v => bindLane v o.dest a.lane b.2)) s0
            let s3 := (endGathers s1 r op).updWarp r (fun v => { v with loads := v.loads.filter (fun y => y.id != op) })
            (match laneTrap (byLane (o.fails ++ bad)) false with
              | none => s3
              | some t => lateTrap s3 r o.pt t))

/-- The bytes of one lane written in a block; the cause of its fault where the storage cannot be reached. -/
def kvWrite (s : State) (p : KvPool) (blk off : Nat) (l : List Byte) : Nat ⊕ State :=
  let e := entGet s p blk
  let pa := storeAt e.2.tier e.2.addr + off
  match runCause e.1 pa l.length with
  | some c => .inl c
  | none => .inr (writePhys e.1 pa l 0 0 false)

/-- The bytes that the copy of a block reads and writes: its storage, and the new block's. -/
def cowRuns (s : State) (p : KvPool) (i : Nat) : List (Nat × Nat) :=
  match newBlk s p with
  | (s1, .inr n) => [(blkStore s p i, p.bytes), (blkStore s1 p n, p.bytes)]
  | _ => [(blkStore s p i, p.bytes)]

/-- Each shared block that `KVST` writes is copied first: the blocks that stand in for the old ones, or how the copy failed. -/
def kvCows (e : Env) (p : KvPool) (q : KvSeq) (hits : List KvHit) : List Nat → State → State × List (Nat × (KvErr ⊕ Nat))
  | [], s => (s, [])
  | b :: t, s =>
    let en := entGet s p b
    let ixs := ((hits.filter (fun h => h.blk = b)).map (·.ix)).eraseDups
    let r := if en.2.ref ≤ 1 then (en.1, .inr b)
      else match kvMeet en.1 (cowRuns en.1 p b) with
        | (s1, some c) => (s1, .inl (c, 0))
        | (s1, none) => cowBlk s1 p b (fun s n => ixs.foldl (fun s ix => kvSetBte s e q ix n) s)
    let z := kvCows e p q hits t r.1
    (z.1, (b, r.2) :: z.2)

/-- One lane of `KVST` is written in the block that stands in for its own, or faults. -/
def kvstLane (x : FKv) (e : Env) (p : KvPool) (va : Nat) (subst : List (Nat × (KvErr ⊕ Nat))) (r : State × List LaneFault) (h : KvHit) :
    State × List LaneFault :=
  let l := storeBytes e.w .vec x.d h.lane (accW x.ty x.wid)
  let fault := fun (s : State) (c st : Nat) => (s, r.2 ++ [LaneFault.mk h.lane c st va])
  match mfind subst h.blk with
  | none => r
  | some (.inl k) => fault r.1 k.1 k.2
  | some (.inr b) => match kvMeet r.1 [(blkStore r.1 p b + h.off, l.length)] with
    | (s1, some c) => fault s1 c 0
    | (s1, none) => match kvWrite s1 p b h.off l with
      | .inr s2 => (s2, r.2)
      | .inl c => fault s1 c 0

/-- `KVST` once it may run (20 R389); `hold` is what it does while a block that it writes alone is copying. -/
def kvstBody (x : FKv) (hold : State → Res) (s : State) (e : Env) : Res :=
  let w := accW x.ty x.wid
  let va := kvReg e x.b
  withPool s e e.act [(kvReg e x.a, 64), (va, 16)] (kvReg e x.a) (fun s p =>
    withSeq s e e.act va (kvR e) (fun s q => withLanes s e p q (kvR e) w x.c (fun s bad hits =>
      let blks := (hits.map (·.blk)).eraseDups
      let es := blks.map (fun b => (b, (entGet s p b).2))
      let shared := ((es.filter (fun b => b.2.ref > 1)).map (·.1))
      let ixs := ((hits.filter (fun h => shared.contains h.blk)).map (·.ix)).eraseDups
      if es.any (fun b => b.2.ref = 1 && b.2.moving) then hold s
      else withTable e e.act q.bt (kvW e) ixs s (fun s _ =>
        let c := kvCows e p q hits blks s
        let r := hits.foldl (kvstLane x e p va c.2) (c.1, bad)
        endLanes r.1 (byLane r.2)))))

/-- The instruction ends at issue and its write is held to the end of the move (09 R233, 14 R303). -/
def kvHold (app : Bool) (x : FKv) (e : Env) (s : State) : Res :=
  let f := s.freshId
  let k : KvHeld := { id := f.1, core := e.r.core, slot := e.r.slot, app := app, form := x, v := e.w.v, s := e.w.s, exec := e.w.exec,
                      act := e.act, pt := issuePt s e.w }
  .done { f.2 with kvHeld := f.2.kvHeld ++ [k] }

/-- `KVST` (20 R389). -/
def execKvst (x : FKv) (s : State) : Host.Outcome State Fault Refusal :=
  .next (issue (.kvst x) s (fun e s =>
    if s.stcnt e.r e.w ≥ 64 then .wait s .counter
    else if unbound e.w then .wait s .load
    else kvstBody x (kvHold false x e) s e))

/-! ### Sequence operations -/

/-- A status written to sD (14 R303). -/
def kvStatus (s : State) (e : Env) (d : Reg) (st : Nat) : Res :=
  .done (s.updWarp e.r (fun w => wrReg w false 0 d (BitVec.ofNat 64 st)))

/-- The appended token's bytes, lane by lane (14 R304), or the cause for which the storage cannot be reached. -/
def kvToken (s : State) (e : Env) (p : KvPool) (blk off w : Nat) (c : Reg) : Nat ⊕ State :=
  ((lanesOf e.act).filter (fun i => w * i < KvPool.recLen p)).foldl (fun (r : Nat ⊕ State) i => match r with
    | .inl k => .inl k
    | .inr s => kvWrite s p blk (off + w * i) (storeBytes e.w .vec c i w)) (.inr s)

/-- A KV operation that fails writes its status, or takes the fault for which it cannot reach a word (09 R228, 06 R142). -/
def kvErr (s : State) (e : Env) (d : Reg) (m : Mask) (va : Nat) (k : KvErr) : Res :=
  if k.1 = 24 then kvStatus s e d k.2 else .trap s { cause := k.1, mask := m, addr := BitVec.ofNat 64 va }

/-- The end of `KVAPP` (09 R230, R231): `mk` gives the block that takes the token, `runs` the bytes that this copies or writes,
`tbl` the table entries that it changes. Nothing changes before every word that it writes can be written (20 R390). -/
def kvAppend (x : FKv) (e : Env) (p : KvPool) (q : KvSeq) (tbl : List Nat) (mk : State → State × (KvErr ⊕ Nat))
    (runs : State → Nat → List (Nat × Nat)) (s : State) : Res :=
  let w := accW x.ty x.wid
  let off := q.len % KvPool.tpb p * KvPool.recLen p
  let fail := fun (s : State) (k : KvErr) => kvErr s e x.d e.w.exec q.va k
  match mk s with
  | (_, .inl k) => fail s k
  | (s1, .inr b) => match kvMeet s (runs s1 b) with
    | (s2, some c) => fail s2 (c, 0)
    | (s2, none) => withTable e e.w.exec q.bt (kvW e) tbl s2 (fun s3 _ => withWord s3 e e.w.exec (q.va + 8) 4 (kvW e) (fun s4 _ =>
        match mk s4 with
        | (_, .inl k) => fail s4 k
        | (s5, .inr b) => match kvToken s5 e p b off w x.c with
          | .inl c => fail s4 (c, 0)
          | .inr s6 => kvStatus (kvSetLen s6 e q (q.len + 1)) e x.d 0))

/-- `KVAPP` once it may run (20 R390, 09 R231): it executes once per warp, so its faults are of EXEC (10 R240). -/
def kvappBody (x : FKv) (hold : State → Res) (s : State) (e : Env) : Res :=
  let va := kvReg e x.b
  let m := e.w.exec
  withPool s e m [(kvReg e x.a, 64), (va, 16)] (kvReg e x.a) (fun s p =>
    withSeq s e m va (kvR e) (fun s q =>
      let ix := q.len / KvPool.tpb p
      let tok := fun (s : State) (b : Nat) => [(blkStore s p b + q.len % KvPool.tpb p * KvPool.recLen p, KvPool.recLen p)]
      if ix ≥ q.nbte then kvStatus s e x.d 4
      else withTable e m q.bt (kvR e) [ix] s (fun s vs =>
        let v := vs.headD 0
        let b := bteBlk v
        if q.len % KvPool.tpb p = 0 then
          kvAppend x e p q [ix] (fun s => match newBlk s p with
            | (s1, .inr n) => (kvSetBte s1 e q ix n, .inr n)
            | r => r) tok s
        else if !bteValid v || b ≥ p.nblk then kvStatus s e x.d 4
        else kvGuard s m va [entCause s p b] (
          let en := entGet s p b
          if KvEnt.gone en.2 then kvStatus s e x.d 5
          else if en.2.ref > 1 then
            kvAppend x e p q [ix] (fun s => cowBlk s p b (fun s n => kvSetBte s e q ix n)) (fun _ _ => cowRuns en.1 p b) en.1
          else if en.2.moving then hold s
          else kvAppend x e p q [] (fun s => (s, .inr b)) tok en.1))))

/-- `KVAPP` (20 R390). -/
def execKvapp (x : FKv) (s : State) : Host.Outcome State Fault Refusal :=
  .next (issue (.kvapp x) s (fun e s =>
    if s.stcnt e.r e.w ≥ 64 then .wait s .counter
    else if unbound e.w then .wait s .load
    else kvappBody x (kvHold true x e) s e))

/-! ### Held writes -/

/-- The view of a held write: the registers and lanes that its instruction captured. -/
def KvHeld.env (s : State) (k : KvHeld) : Option Env :=
  let r : WRef := { core := k.core, slot := k.slot }
  (s.warp? r).bind (fun w => (s.block? k.core w.blk).map (fun b =>
    { r := r, w := { w with v := k.v, s := k.s, exec := k.exec, level := k.pt.lvl }, b := b, act := k.act, next := 0#54, len := 0 }))

/-- The held writes without one. -/
def State.dropHeld (s : State) (id : Nat) : State := { s with kvHeld := s.kvHeld.filter (fun y => y.id != id) }
/-- The page that a held write waits for. -/
def State.heldPage (s : State) (id : Nat) (p : Option (Nat × Mask)) : State :=
  { s with kvHeld := s.kvHeld.map (fun y => if y.id = id then { y with page := p } else y) }

/-- A held write is performed once no move holds it (09 R233) and its pages are there (06 R164); its faults are its
instruction's. -/
def kvServe (s : State) (k : KvHeld) : State :=
  let s0 := s.dropHeld k.id
  match k.env s with
  | none => s0
  | some e =>
    let still := fun (s : State) => Res.wait s .other
    match (if k.app then kvappBody k.form still s0 e else kvstBody k.form still s0 e) with
    | .done s1 => s1
    | .trap s1 t => lateTrap s1 e.r k.pt t
    | .wait _ (.page va m) => (askPage s e.b.ctx va).heldPage k.id (some (va, m))
    | _ => s.heldPage k.id none

/-- Tchidal cannot map the page that a held write waits for: its instruction's access error (20 R387). -/
def heldUnmapped (s : State) (r : WRef) (id : Nat) : State :=
  match (s.heldOf r).find? (fun k => k.id = id) with
  | some k => (match k.page with
    | some (va, m) => lateTrap (s.dropHeld id) r k.pt { cause := 19, mask := m, addr := BitVec.ofNat 64 va }
    | none => s)
  | none => s

/-- Every held write in order. -/
def serveHeld (s : State) : State := s.kvHeld.foldl kvServe s

/-- One reference more for each block in order; the first that cannot take it gives its status, or the cause of an entry
that cannot be reached (14 R305). -/
def addRefs (p : KvPool) : List Nat → State → State × (Nat ⊕ Nat)
  | [], s => (s, .inr 0)
  | b :: t, s =>
    let e := entGet s p b
    match entCause s p b with
    | some c => (s, .inl c)
    | none =>
    if KvEnt.gone e.2 then (e.1, .inr 5)
    else if e.2.ref ≥ 65535 then (e.1, .inr 3)
    else addRefs p t (entPut e.1 p b { e.2 with ref := e.2.ref + 1 })

/-- `KVFORK` (14 R305, 20 R391): its tests and the additions that can fail come before what it writes is asked for. -/
def execKvfork (x : FKv4) (s : State) : Host.Outcome State Fault Refusal :=
  .next (issue (.kvfork x) s (fun e s =>
    let m := e.w.exec
    let dst := kvReg e x.b
    let src := kvReg e x.c
    let k := x.im.toNat
    if s.stcnt e.r e.w ≥ 64 then .wait s .counter
    else withPool s e m [(kvReg e x.a, 64), (dst, 16), (src, 16)] (kvReg e x.a) (fun s p =>
      withSeq s e m dst (kvR e) (fun s qd => withSeq s e m src (kvR e) (fun s qs =>
        if dst = src || qd.len != 0 || k > qd.nbte || k > qs.nbte then kvStatus s e x.d 4
        else withTable e m qs.bt (kvR e) (List.range k) s (fun s vs =>
          let ids := vs.map bteBlk
          if vs.any (fun v => !bteValid v || bteBlk v ≥ p.nblk) then kvStatus s e x.d 4
          else
            let ends := fun (s : State) (y : State × (Nat ⊕ Nat)) (f : State → Res) => match y with
              | (_, .inl c) => Res.trap s { cause := c, mask := m, addr := BitVec.ofNat 64 dst }
              | (s1, .inr 0) => f s1
              | (_, .inr st) => kvStatus s e x.d st
            ends s (addRefs p ids s) (fun _ =>
              withTable e m qd.bt (kvW e) (List.range k) s (fun s _ => withWord s e m (dst + 8) 4 (kvW e) (fun s _ =>
                ends s (addRefs p ids s) (fun s1 =>
                  let s2 := (List.range k).foldl (fun s i => kvStore s e (qd.bt + 4 * i) 4 (vs.getD i 0)) s1
                  kvStatus (kvSetLen s2 e qd (min qs.len (k * KvPool.tpb p))) e x.d 0))))))))))

/-- The causes for which what a `KVREL` returns to the rings cannot be reached: where a block's last references go, the item at
the TAIL of IDRING and of its tier's ring. -/
def relCauses (s : State) (p : KvPool) (ids : List Nat) : List (Option Nat) :=
  let last := ids.eraseDups.filter (fun i => (entGet s p i).2.ref ≤ ids.count i)
  if last.isEmpty then [] else ringCause s p 0 true :: last.map (fun i => ringCause s p (entGet s p i).2.tier true)

/-- `KVREL` (20 R392): its tests come before what it writes is asked for, the entries with VALID = 1 alone. -/
def execKvrel (x : FKvrel) (s : State) : Host.Outcome State Fault Refusal :=
  .next (issue (.kvrel x) s (fun e s =>
    let m := e.w.exec
    let va := kvReg e x.b
    let j := x.j.toNat
    if s.stcnt e.r e.w ≥ 64 then .wait s .counter
    else withPool s e m [(kvReg e x.a, 64), (va, 16)] (kvReg e x.a) (fun s p =>
      withSeq s e m va (kvR e) (fun s q =>
        if j > q.nbte then kvStatus s e x.d 4
        else
          let ixs := (List.range (q.nbte - j)).map (fun i => j + i)
          withTable e m q.bt (kvR e) ixs s (fun s vs =>
            let live := (ixs.zip vs).filter (fun y => bteValid y.2)
            let ids := live.map (fun y => bteBlk y.2)
            if live.any (fun y => bteBlk y.2 ≥ p.nblk) then kvStatus s e x.d 4
            else kvGuard s m va (ids.map (entCause s p)) (
              if live.any (fun y => KvEnt.gone (entGet s p (bteBlk y.2)).2) then kvStatus s e x.d 5
              else kvGuard s m va (relCauses s p ids) (
                withTable e m q.bt (kvW e) (live.map (·.1)) s (fun s _ => withWord s e m (va + 8) 4 (kvW e) (fun s _ =>
                  let s1 := live.foldl (fun s y => kvStore (decRef s p (bteBlk y.2)) e (q.bt + 4 * y.1) 4 0) s
                  kvStatus (kvSetLen s1 e q (min q.len (j * KvPool.tpb p))) e x.d 0)))))))))

/-! ### Moves -/

/-- Why `KVDEM` refuses a move (20 R393), in order; none where it runs. -/
def demRefusal (s : State) (p : KvPool) (blk tier : Nat) : Option Nat :=
  if blk ≥ p.nblk then some 4
  else
    let e := (entGet s p blk).2
    if KvEnt.gone e then some 5
    else if e.moving || e.otier != 0 then some 6
    else if e.tier = tier then some 7
    else if ringEmpty s p tier then some 2
    else none

/-- The cause for which a directory entry or ring that `KVDEM` uses cannot be reached. -/
def demCause (s : State) (p : KvPool) (blk tier : Nat) : Option Nat :=
  if blk ≥ p.nblk then none
  else match entCause s p blk with
    | some c => some c
    | none => if (demRefusal s p blk tier).isSome then none else ringCause s p tier false

/-- `KVDEM` (20 R393, 14 R306): the move's number goes to sD; a refusal completes at once. -/
def execKvdem (x : FKv4) (s : State) : Host.Outcome State Fault Refusal :=
  .next (issue (.kvdem x) s (fun e s =>
    let st := kvReg e x.c
    let blk := kvReg e x.b
    let tier := x.im.toNat
    withPool s e e.w.exec [(kvReg e x.a, 64), (st, 8)] (kvReg e x.a) (fun s p => kvGuard s e.w.exec (kvReg e x.a) [demCause s p blk tier] (
      let site := s.siteOf e.r.core
      let tl := 0x2000 + site
      let f := s.freshId
      let n := issueNum f.2 e.b.ctx tl
      let s1 := giveNum n.2 e x.d tl n.1
      let mv : KvMove := { id := f.1, num := n.1, site := site, ctx := e.b.ctx, pool := p.p0, pool2 := p.p1, blk := blk,
                           status := st, owner := some (e.b.lid, e.b.bid.toNat), sup := decide (e.w.level ≥ 2),
                           time := s.ctl.time }
      match demRefusal s1 p blk tier with
      | some c => .done (endMove s1 mv c)
      | none => match ringTake s1 p tier with
        | (s2, none) => .done (endMove s2 mv 2)
        | (s2, some a) =>
          let en := entGet s2 p blk
          let s3 := entPut en.1 p blk { en.2 with moving := true, oaddr := a, otier := tier }
          .done { s3 with moves := s3.moves ++ [mv] }))))

/-- A move in flight that the engine can go on with. A pre-emption of its submitter does not stop it (09 Table 9-15). -/
def runningMove (s : State) (id : Nat) : Option KvMove :=
  if netQuiet s then s.moves.find? (fun m => m.id = id) else none

/-- The copy of a move is complete and one swap flips the entry (09 R233). A segment that cannot be copied ends the move
instead. -/
def flipMove (s : State) (m : KvMove) : State :=
  let p := poolGet s m.pool m.pool2
  let e := entGet p.1 p.2 m.blk
  let src := storeAt e.2.tier e.2.addr
  let dst := storeAt e.2.otier e.2.oaddr
  let n := KvPool.bytes p.2
  if (runCause e.1 src n).isSome || (runCause e.1 dst n).isSome || (entCause s p.2 m.blk).isSome then dropMove e.1 p.2 m 8
  else
    let d := readPhys e.1 src n
    let s1 := writePhys d.1 dst d.2 0 0 false
    let g := gathersOf s1 p.2 m.blk (some e.2.ver)
    let e1 : KvEnt := { e.2 with
      addr := e.2.oaddr
      tier := e.2.otier
      oaddr := e.2.addr
      otier := if g = 0 then 0 else e.2.tier
      ver := (e.2.ver + 1) % 256
      moving := false
      grace := g }
    let s2 := if g = 0 then ringGive s1 p.2 e.2.tier e.2.addr else s1
    endMove (entPut s2 p.2 m.blk e1) m 0

/-- What a controller met on a move's copy is logged (09 R221, R223): at an offset of the block where it lies, or, from the block's
length on, at one of its destination. -/
def moveLog (s : State) (m : KvMove) (off : Nat) (out : SegOutcome) : State :=
  let p := poolGet s m.pool m.pool2
  let e := entGet p.1 p.2 m.blk
  let n := KvPool.bytes p.2
  if off < n then logOutcome e.1 (storeAt e.2.tier e.2.addr + off) out
  else if off < 2 * n then logOutcome e.1 (storeAt e.2.otier e.2.oaddr + (off - n)) out
  else s

/-- A copy segment of a move failed: the move ends (09 R233). -/
def failMove (s : State) (m : KvMove) (off : Nat) (out : SegOutcome) : State :=
  let s1 := moveLog s m off out
  let p := poolGet s1 m.pool m.pool2
  dropMove p.1 p.2 m 8

/-- KV_MOVE_FLIP (09 R233): the move flips; one whose status word waited for its page writes it. What a controller met on its last
segment is logged, and fails the move where it is uncorrectable. -/
def execKvMoveFlip : Nat × Nat × SegOutcome → State → Host.Outcome State Fault Refusal
  | (id, off, out), s =>
    .next (match runningMove s id with
      | none => s
      | some m => match m.word, out with
        | some st, _ => endMove s m st
        | none, .failed _ => failMove s m off out
        | none, _ => flipMove (moveLog s m off out) m)

/-- KV_MOVE_FAIL (09 R233): a copy segment failed; an error that a controller met is logged. The status word of a move that is over,
for which Tchidal cannot map the page, is lost (20 R393). -/
def execKvMoveFail : Nat × Nat × SegOutcome → State → Host.Outcome State Fault Refusal
  | (id, off, out), s =>
    .next (match runningMove s id with
      | none => s
      | some m => match m.word with
        | some _ => (doneMove s m).raise (.statusLost m.num)
        | none => failMove s m off out)

end Sys2Proof.Machine
end

