-- ==== Sys2Proof/Machine/Fetch.lean ====
section
/-! DEFINITION. Fetching and decoding the next instruction of a warp (11 R261, R273, R276, R278). -/

namespace Sys2Proof.Machine

/-- What a fetch needs of its page (06 R154). -/
def fetchNeed (w : Warp) : BitVec 4 := warpNeed w needX

/-- The fetch of a window, or the trap of its translation (11 Table 11-9 step 2), whose TDMASK is EXEC and whose TADDR is the PC
(log 46). A window that the core has fetched before with the same need of U stays as it is, unless it is fetched again. -/
def fetchWindow (s : State) (core ctx : Nat) (w : Warp) (pc : VAddr) (fresh : Bool) : State × (TrapReq ⊕ BitVec 256) :=
  match if fresh then none else mfind (s.core core).iwin (winKey w ctx pc) with
  | some x => (s, .inr x)
  | none =>
    let trap := fun (s : State) (c lvl : Nat) =>
      ((s, .inl { cause := c, mask := w.exec, addr := pc.zeroExtend 64, dop0 := BitVec.ofNat 64 lvl }) :
        State × (TrapReq ⊕ BitVec 256))
    match translate s core ctx (pc.toNat / 32 * 32) (fetchNeed w) false with
    | (s1, .inl e) => trap s1 e.1 e.2
    | (s1, .inr x) => match s1.mapCause x.pa false with
      | some c => trap s1 c 0
      | none =>
        let s2 := readLine s1 (x.pa / 64)
        let b := BitVec.ofNat 256 (s2.snoopNum x.pa 32)
        (s2.updCore core (fun c => { c with iwin := mset c.iwin (winKey w ctx pc) b }), .inr b)

/-- The bits of a window from an address on; beyond its end they are 0. -/
def winBits (x : BitVec 256) (pc : VAddr) : BitVec 128 := BitVec.ofNat 128 (x.toNat / 2 ^ (8 * (pc.toNat % 32)))

/-- The bytes of an instruction by its length code; 0b11 is read as 64 bits (10 R239). -/
def lenOf (w : BitVec 128) : Nat := match Len.ofCode (w.extractLsb' 0 2) with
  | none => 8
  | some l => l.bytes

/-- The 16 bytes at an address that may cross windows, for the TDOP registers of cause 7; what cannot be fetched reads 0. -/
def bytesHere (s : State) (core ctx : Nat) (w : Warp) (pc : VAddr) : BitVec 128 :=
  let win := fun (p : VAddr) => match (fetchWindow s core ctx w p false).2 with
    | .inl _ => 0
    | .inr x => x.toNat
  let o := pc.toNat % 32
  BitVec.ofNat 128 ((win pc + 2 ^ 256 * (if o > 16 then win (pcAdd pc 32) else 0)) / 2 ^ (8 * o))

/-- A word as its fields are written, whatever its length code (10 R240). -/
def rawHere (w : BitVec 128) : Option Raw :=
  match Raw.ofBits w with
  | some r => some r
  | none => Raw.ofBits (w &&& ~~~3#128)

/-- The trap of a word that does not decode, with its TDOP registers. TDMASK is that of a trap raised at decode (10 R240). `late`:
the word has passed the steps before 8 of 11 Table 11-9, so that a `TMMA` fails there for the FMT it reads (R276). -/
def rejectTrap (s : State) (r : WRef) (w : Warp) (bits : BitVec 128) (n : Nat) (cause : Nat) (late : Bool) : State :=
  let b := bits &&& BitVec.ofNat 128 (2 ^ (8 * n) - 1)
  match rawHere bits with
  | none => s
  | some raw =>
    let t : TrapReq := { decodeTrap w raw cause with addr := if cause = 7 then w.pc.zeroExtend 64 else 0#64 }
    takeTrap s r (withDops (late && levelTwoTmma (s.isaLevel r.core) w.fmt raw.op) t b n raw.op (pcAdd w.pc n))

/-- The cause of a word that the decoder rejects: steps 7 and 8 of Table 11-9 come before step 9. -/
def rejectCause (w : Warp) (bits : BitVec 128) (e : DecodeError) : Nat :=
  match e, rawHere bits with
  | .fieldReserved, some raw => if w.access && !accessAllows w.level raw then 1 else 2
  | _, _ => 2

/-- Fetch and decode at the warp's PC: steps 1 to 4 of 11 Table 11-9, then the decoder. -/
def fetchAt (s : State) (r : WRef) (w : Warp) (ctx : Nat) (fresh : Bool) : State × Option Instr :=
  if w.pc.toNat % 4 != 0 then
    let x := bytesHere s r.core ctx w w.pc
    (rejectTrap s r w x (lenOf x) 7 false, none)
  else match fetchWindow s r.core ctx w w.pc fresh with
    | (s1, .inl t) => (takeTrap s1 r t, none)
    | (s1, .inr x) =>
      let y := winBits x w.pc
      let n := lenOf y
      if w.pc.toNat % 32 + n > 32 then
        let z := bytesHere s1 r.core ctx w w.pc
        (rejectTrap s1 r w z n 7 false, none)
      else match decode y with
        | .ok i => (s1, some i)
        | .error e => (rejectTrap s1 r w y n (rejectCause w y e) (e == .fieldReserved), none)

/-- The next instruction of a warp, or none where its fetch or its decoding traps, or where a fault of a reissued `TMMA`
comes first (21 R434): one that a halt keeps from being taken stays to be raised. -/
def fetchNext (s : State) (r : WRef) (fresh : Bool) : State × Option Instr :=
  match s.warp? r with
  | none => (s, none)
  | some w => match s.block? r.core w.blk with
    | none => (s, none)
    | some b =>
      match w.late with
      | [] => fetchAt s r w b.ctx fresh
      | t :: rest =>
        if t.lvl = w.level then
          let tr : TrapReq := { cause := t.cause, mask := w.exec, addr := t.addr, dop0 := t.dop0, dop1 := BitVec.ofNat 64 t.idx,
                                dop2 := w.pc.zeroExtend 64 }
          let s1 := takeTrap s r tr
          (if w.skid.isSome && (takesOver s r tr).isNone then s1 else s1.updWarp r (fun v => { v with late := rest }), none)
        else fetchAt s r w b.ctx fresh

/-- The bytes of the instruction at an address, as the core fetched it. -/
def lenAt (s : State) (core ctx : Nat) (w : Warp) (pc : VAddr) : Nat :=
  match (fetchWindow s core ctx w pc false).2 with
  | .inl _ => 8
  | .inr x => lenOf (winBits x pc)

end Sys2Proof.Machine
end

