-- ==== Sys2Proof/Machine/Preempt.lean ====
section
/-! DEFINITION. `TRET`, pre-emption, the save area, restore and abort (10 R244 to R259, R434, R444, 17 R312, R313). -/

namespace Sys2Proof.Machine

/-! ### Entry to level 3 -/

/-- A warp loses its PARKED bits (10 R253). -/
def unpark (s : State) (core h id : Nat) : State :=
  match s.block? core h with
  | none => s
  | some b => (List.range b.nbar).foldl (fun s n =>
    let x := getBar b n
    if x.parked.getLsbD id then setBar s core h n { x with parked := x.parked &&& ~~~(1#32 <<< id) } else s) s

/-- A warp enters level 3 at SVEC (10 R245, R253); a `TMMA` that it is held at is dropped. -/
def toLevel3 (s : State) (r : WRef) (cause : Nat) (addr : Nat) : State :=
  match s.warp? r with
  | none => s
  | some w => match s.block? r.core w.blk with
    | none => s
    | some b =>
      let s1 := unpark s r.core w.blk w.id
      let s2 := s1.setWarp r (enterLevel3 w cause (BitVec.ofNat 64 addr) (s.ctxEnt b.ctx).svec)
      s2.updCore r.core (fun c =>
        promote { c with mu := c.mu.filter (fun t => !(t.slot = r.slot && t.held)) } r.slot s.ctl.clock)

/-- Every live warp of a block, with its slot, in WARPID order. -/
def liveWarps (s : State) (core : Nat) (b : Block) : List (Nat × Warp) :=
  b.slots.filterMap (fun x => (s.warp? { core := core, slot := x }).map (fun w => (x, w)))

/-- A warp of an aborted block enters level 3 with cause 34, from a handler at level 1 or 2 after it (10 R249). -/
def abortWarp (s : State) (core slot : Nat) (w : Warp) (save : Nat) : State :=
  let r : WRef := { core := core, slot := slot }
  if w.level = 0 || w.level = 3 || w.held then toLevel3 s r 34 save
  else s.updWarp r (fun w => { w with handlerSince := s.ctl.clock })

/-- A block is aborted (10 R257): its warps at level 0 enter level 3 with cause 34, those in a handler after it (R249). Work
held for the pre-emption goes on. -/
def abortBlock (s : State) (core h : Nat) : State :=
  match s.block? core h with
  | none => s
  | some b =>
    let free := fun (w : Warp) => ({ w with copies := w.copies.map (fun c =>
      { c with segs := c.segs.map (fun g => { g with parked := false }) }) } : Warp)
    let s1 := s.setBlock core h { b with phase := .aborting, abort := true, acks := [] }
    (liveWarps s core b).foldl (fun s x =>
      let s2 := s.updWarp { core := core, slot := x.1 } free
      if x.2.exited = allLanes then s2 else abortWarp s2 core x.1 x.2 b.save) s1

/-- The own block of an `ABORTG` executed at level 3 (18 R316): it takes no token, and ends when its level-3 warps execute `TRET`.
Of a block that is being restored, the warps that have left level 3 enter it with cause 34, and the restore is over (log 21). -/
def abortHere (s : State) (core h : Nat) : State :=
  match s.block? core h with
  | none => s
  | some b =>
    let s1 := s.updFed (fun f => { f with tokens := f.tokens.erase { lid := b.lid, bid := b.bid } })
    match b.phase with
    | .saving => s1.setBlock core h { b with abort := true }
    | .restoring =>
      let rst := fun (p : PreCtl) => if p.blk = some h then { p with busy := false, blk := none } else p
      let s2 := (s1.setBlock core h { b with phase := .aborting, abort := true, keep := [] }).updCore core
        (fun c => { c with rst := rst c.rst })
      (liveWarps s core b).foldl (fun s x =>
        if x.2.level = 3 then s.updWarp { core := core, slot := x.1 } (fun w => { w with held := false })
        else if x.2.exited = allLanes then s
        else abortWarp s core x.1 x.2 b.save) s2
    | _ => s1

/-- `ABORTG` (18 R315, R316): the issuing warp issues nothing after it, but at level 3, whose warps end by `TRET`. -/
def execAbortg (x : FHd) (s : State) : Host.Outcome State Fault Refusal :=
  .next (issue (.abortg x) s (fun e s =>
    relThen s e .dv (fun s =>
      let s1 := s.updWarp e.r (fun w =>
        let w1 := retireWarp w e.next s.ctl.clock
        if w.level = 3 then w1 else { w1 with aborting := true })
      let s2 := fatalFault s1 e.b.lid e.b.bid
      .raw (if e.w.level = 3 then abortHere s2 e.r.core e.w.blk else s2))))

/-- A save-area access of the part failed (10 R444): the block ends as a fatal fault. -/
def failArea (s : State) (core h : Nat) : State :=
  match s.block? core h with
  | none => s
  | some b =>
    let f := fun (p : PreCtl) => if p.blk = some h then { p with busy := false, done := true, fail := true, blk := none } else p
    let s1 := (abortBlock s core h).updCore core (fun c => { c with pre := f c.pre, rst := f c.rst })
    (fatalFault s1 b.lid b.bid).raise (.saveArea core)

/-! ### The save area (10 Table 10-7) -/

def tcauseBits (t : TrapSet) : Nat := t.icount.toNat * 65536 + t.hlvl.toNat * 64 + t.cause.toNat

/-- The 16 words of a trap set with its return state. -/
def setBytes (t : TrapSet) (f : Frame) : List Byte :=
  ([tcauseBits t, t.pc.toNat, t.prim.toNat * 256 + t.skid.toNat, t.addr.toNat, t.rmask.toNat * 2 ^ 32 + t.mask.toNat,
    t.dop0.toNat, t.dop1.toNat, t.dop2.toNat, t.dop3.toNat, f.pc.toNat, f.exec.toNat,
    f.fmt.toNat + f.depth * 2 ^ 24, 0, 0, 0, 0]).flatMap (leBytes 8)

/-- A trap set and its return state from their 16 words. A frame holds one TADDR: the per-lane addresses are gone (log 70). -/
def setOfBytes (l : List Byte) : TrapSet × Frame :=
  let w := fun (i : Nat) => fieldAt l (8 * i) 8
  ({ cause := BitVec.ofNat 6 (bits (w 0) 5 0), hlvl := BitVec.ofNat 2 (bits (w 0) 7 6), icount := BitVec.ofNat 48 (bits (w 0) 63 16),
     pc := BitVec.ofNat 54 (w 1), prim := bits (w 2) 8 8 = 1, skid := BitVec.ofNat 3 (bits (w 2) 2 0), addr := BitVec.ofNat 64 (w 3),
     mask := BitVec.ofNat 32 (bits (w 4) 31 0), rmask := BitVec.ofNat 32 (bits (w 4) 63 32), dop0 := BitVec.ofNat 64 (w 5),
     dop1 := BitVec.ofNat 64 (w 6), dop2 := BitVec.ofNat 64 (w 7), dop3 := BitVec.ofNat 64 (w 8) },
   { pc := BitVec.ofNat 54 (w 9), exec := BitVec.ofNat 32 (w 10), fmt := fmtBits (BitVec.ofNat 24 (bits (w 11) 23 0)), depth := bits (w 11) 29 24 })

/-- n rounded up to a multiple of 256. -/
def up256 (n : Nat) : Nat := (n + 255) / 256 * 256

/-- Filled entries of queue j of a warp. -/
def filledIn (w : Warp) (j : Nat) : Nat := ((mget [] w.q j).filter (·.filled)).length

/-- Bytes of a frame (10 R253). -/
def frameLen (r : RoleD) (qn : Nat) : Nat :=
  up256 (0x1000 + (if r.access then 0 else 128 * r.vregs + 4096 * r.nacc) + 128 * qn)

/-- Frame offsets in WARPID order, the first after the scratchpad image (17 R312), and the end of the save area. -/
def frameOffs (rs : List RoleD) (qn : Nat → Nat) (b : Block) : List Nat × Nat :=
  (List.range rs.length).foldl (fun (r : List Nat × Nat) i => match rs[i]? with
    | none => r
    | some x => (r.1 ++ [r.2], r.2 + frameLen x (qn i))) ([], up256 (0x100 + 4096 * b.nshacc + b.size))

/-- The `TMMA`s of a warp that the save records, in order: those that did not start. -/
def recordsOf (c : Core) (slot : Nat) : List Tmma := c.mu.filter (fun t => t.slot = slot && t.run.isNone && !t.ran)

/-- The first two words of the record of a `TMMA`; its scale bytes are at +0x40, and what lies between is not written (17 R312). -/
def recBytes (t : Tmma) : List Byte :=
  leBytes 8 (t.base + t.handle.toNat * 2 ^ 32 + t.tile * 2 ^ 48 + t.plane1.toNat * 2 ^ 53 + t.acc * 2 ^ 56) ++ leBytes 8 t.fmt.toNat

/-- Where a warp held at an accepted `TMMA` goes on: after it. -/
def heldNext (w : Warp) : Option VAddr :=
  match w.heldAt with
  | some (.waits n) | some (.goes n) => some n
  | _ => none

/-- The frame PC: a warp that waits at an accepted `TMMA`, recorded or done since, goes on after it. -/
def framePc (w : Warp) : VAddr := (heldNext w).getD w.pc

/-- What the part writes of a frame: offsets and bytes. -/
def frameParts (c : Core) (slot : Nat) (w : Warp) : List (Nat × List Byte) :=
  let rs := recordsOf c slot
  let n := w.stack.length
  [(0, leBytes 8 (framePc w).toNat ++ leBytes 8 (w.exec.toNat + w.exited.toNat * 2 ^ 32) ++
     leBytes 8 (w.fmt.toNat + n * 2 ^ 24 + w.level * 2 ^ 30 + rs.length * 2 ^ 32) ++
     (List.range 7).flatMap (fun i => leBytes 4 (w.getP i).toNat) ++ leBytes 4 (w.k.toNat % 128) ++ leBytes 8 w.batch.toNat),
   (0x40, setBytes w.t1 w.f1), (0xC0, setBytes w.t2 w.f2)] ++
  (List.range 4).map (fun j => (0x140 + 16 * j, leBytes 1 (filledIn w j))) ++
  (List.range n).filterMap (fun e => (w.stack.reverse[e]?).map (fun x =>
    (0x200 + 16 * e, leBytes 8 x.pc.toNat ++ leBytes 4 x.mask.toNat ++ leBytes 4 x.fmt.toNat))) ++
  [(0x400, (List.range 4).flatMap (fun i => leBytes 8 (w.getS i).toNat))] ++
  (List.range rs.length).flatMap (fun m => match rs[m]? with
    | none => []
    | some t => [(0x600 + 0x240 * m, recBytes t), (0x640 + 0x240 * m, t.scales)]) ++
  (List.range (min 2 w.vregs)).map (fun i => (0x1000 + 128 * i, (List.range 32).flatMap (fun l => leBytes 4 (w.getV i l).toNat)))

/-- The part's writes, as an engine acting for Tchidal (10 R444): the cause of the first failure. -/
def areaWrite (s : State) (core ctx : Nat) (l : List (Nat × List Byte)) : State × Option Nat :=
  l.foldl (fun r x => match r with
    | (s, some c) => (s, some c)
    | (s, none) => writeVirt s (agentCopy (s.siteOf core)) ctx x.1 x.2 needW) (s, none)

/-- The part's reads. Tchidal is asked for a page that is not present (06 R164). -/
def areaRead (s : State) (core ctx va n : Nat) : State × (Nat ⊕ List Byte) :=
  let ag := agentCopy (s.siteOf core)
  match readVirt s ag ctx va n needR with
  | (_, .inl 15) => (askRun s ag ctx va n needR false, .inl 15)
  | r => r

/-! ### Pre-emption (10 Table 10-6) -/

/-- WSLOTn of a core (10 Table 10-4), as a management core reads it: VALID, ACC, BSLOT, CTX, WARPID and BLOCKID; 0 while the
slot is empty. -/
def State.wslot (s : State) (core n : Nat) : W64 :=
  match s.warp? { core := core, slot := n } with
  | none => 0#64
  | some w => match s.block? core w.blk with
    | none => 0#64
    | some b => BitVec.ofNat 64 (2 ^ 63 + (if n ≥ 64 then 2 ^ 62 else 0) + b.bslot % 128 * 2 ^ 49 + b.ctx % 64 * 2 ^ 42 +
        w.id % 32 * 2 ^ 37 + b.bid.toNat)

/-- A GO names a block that can be pre-empted: no pre-emption is in progress, the slot is VALID, and its block is neither
being saved, restored nor aborted (10 R250). -/
def preemptTakes (s : State) (core slot : Nat) : Bool :=
  match s.warp? { core := core, slot := slot } with
  | none => false
  | some w => match s.block? core w.blk with
    | none => false
    | some b => !(s.core core).pre.busy && slot < 80 && b.phase == .run && !b.abort

/-- PREEMPT_GO (10 R250): the block's warps at level 0 stop; those in a handler go on (R249). A warp that waits, one parked by a
T-class trap among them, executes its instruction again after the restore (log 65). -/
def execPreemptGo (core save slot : Nat) (s : State) : Host.Outcome State Fault Refusal :=
  .next (match s.warp? { core := core, slot := slot } with
    | none => s
    | some w => match s.block? core w.blk with
      | none => s
      | some b =>
        if !preemptTakes s core slot then s
        else
          let a := save % 2 ^ 54 / 4096 * 4096
          let s1 := s.updCore core (fun c => { c with pre := { c.pre with
            busy := true
            save := BitVec.ofNat 42 (a / 4096)
            slot := BitVec.ofNat 7 slot
            blk := some w.blk } })
          let s2 := s1.setBlock core w.blk { b with phase := .stopping, acks := [], save := a, keep := [] }
          b.slots.foldl (fun s x => s.updWarp { core := core, slot := x } (fun v =>
            if v.level = 0 then { v with stopped := true, wait := stayWait v.wait } else { v with handlerSince := s.ctl.clock })) s2)

/-- An engine has reached its stopping point (10 Table 10-5). -/
def ackReady (s : State) (core h : Nat) (b : Block) (e : Engine) : Bool :=
  let ws := liveWarps s core b
  match e with
  | .warps => ws.all (fun x => (x.2.level = 0 || x.2.held) && x.2.atoms.isEmpty &&
      x.2.loads.all (fun o => match o.dest with
        | .queue _ _ _ => true
        | _ => false) && !s.fed.arrivals.any (fun a => s.sent { core := core, slot := x.1 } x.2 a && !a.held))
  | .matrix =>
    let mu := (s.core core).mu
    (List.range mu.length).all (fun i => match mu[i]? with
      | none => true
      | some t => t.blk != h || (mu.take (i + 1)).any (fun y => y.lateLoad || y.held))
  | .kve => !s.gathers.any (fun g => g.core = core && b.slots.contains g.slot) &&
      !s.moves.any (fun m => m.owner = some (b.lid, b.bid.toNat) && m.word.isNone) &&
      !s.kvHeld.any (fun k => k.core = core && b.slots.contains k.slot)
  | .aae => ws.all (fun x => x.2.loads.all (fun o => match o.dest with
      | .queue _ _ _ => false
      | _ => true))
  | .copy | .collective | .residency => true

/-- Steps 3 and 4: the header, the scratchpad image and the frames are written, and every warp enters level 3 with cause 32. A
page that is not present goes to Tchidal and makes the step wait; any other failure, and a page that Tchidal cannot map (`out`
failed), ends the block (10 R444). -/
def saveBlock (s : State) (core h : Nat) (b : Block) (out : SegOutcome) : State :=
  match s.launch? b.lid with
  | none => s
  | some l =>
    let c := s.core core
    let ws := liveWarps s core b
    let qn := fun (i : Nat) => ((ws.find? (fun x => x.2.id = i)).map (fun x =>
      ((List.range 4).map (filledIn x.2)).foldl (· + ·) 0)).getD 0
    let rs := (warpRoles l.hdr).map (·.2)
    let lay := frameOffs rs qn b
    let offs := lay.1
    let head := leBytes 8 (1 + rs.length * 2 ^ 8 + b.nbar * 2 ^ 16 + b.nshacc * 2 ^ 24 + b.size * 2 ^ 32) ++ leBytes 8 l.hdr.addr ++
      leBytes 8 (b.bid.toNat + b.ctx * 2 ^ 32 + b.nbv * 2 ^ 40) ++ leBytes 8 core
    let parts := [(b.save, head), (b.save + 0x80, offs.flatMap (leBytes 4)),
        (b.save + 0x100 + 4096 * b.nshacc, getBytes b.scr 0 b.size)] ++
      ws.flatMap (fun x => (frameParts c x.1 x.2).map (fun p => (b.save + offs.getD x.2.id 0 + p.1, p.2)))
    match areaWrite s core b.ctx parts with
    | (s1, some e) =>
      if pageWait out e then parts.foldl (fun s p => askRun s (agentCopy (s.siteOf core)) b.ctx p.1 p.2.length needW true) s
      else failArea s1 core h
    | (s1, none) =>
      let recs := (ws.flatMap (fun x => recordsOf c x.1))
      let s2 := s1.updCore core (fun c => { c with mu := c.mu.filter (fun t => !recs.any (fun y => y.id = t.id)) })
      let s3 := recs.foldl (fun s t => rtRelease s core (t.handle.toNat % 64)) (s2.updBlock core h (fun b =>
        { b with phase := .saving, saveLen := lay.2, keep := ws.map (fun x => (x.2.id,
          { rmask := x.2.rmask, late := x.2.late, barGone := x.2.barGone, primary := b.halt == some x.1 })) }))
      ws.foldl (fun s x =>
        let r : WRef := { core := core, slot := x.1 }
        let fr := b.save + offs.getD x.2.id 0
        let past := x.2.level = 0 && (heldNext x.2).isSome
        (toLevel3 (s.updWarp r (fun w => { w with icount := if past then w.icount + 1#48 else w.icount })) r 32 fr).updWarp r (fun w =>
          (w.putS 0 (BitVec.ofNat 64 fr)).putS 1 (BitVec.ofNat 64 b.save))) s3

/-- Every segment of a block's copies is over or parked: one that a handler has issued since is parked by a further
acknowledgement. -/
def copiesStopped (s : State) (core : Nat) (b : Block) : Bool :=
  (liveWarps s core b).all (fun x => x.2.copies.all (fun c => c.segs.all (fun g => g.done || g.fail.isSome || g.parked)))

/-- PREEMPT_ACK (10 R251): an engine acknowledges; the copy engine parks what is left of the block's copies. With every
acknowledgement held, and every engine still at its stopping point, the save begins. -/
def execPreemptAck (core blk : Nat) (eng : Engine) (out : SegOutcome) (s : State) : Host.Outcome State Fault Refusal :=
  .next (match s.block? core blk with
    | none => s
    | some b =>
      if b.phase != .stopping || !ackReady s core blk b eng then s
      else
        let b1 : Block := if b.acks.contains eng then b else { b with acks := eng :: b.acks }
        let s1 := s.setBlock core blk b1
        let s2 := if eng != .copy then s1 else b.slots.foldl (fun s x => s.updWarp { core := core, slot := x } (fun w =>
          { w with copies := w.copies.map (fun c => { c with segs := c.segs.map (fun g =>
            if g.done || g.fail.isSome then g else { g with parked := true }) }) })) s1
        let all := [Engine.warps, .matrix, .copy, .kve, .aae, .collective, .residency].all (fun e =>
          b1.acks.contains e && ackReady s2 core blk b1 e)
        if all && copiesStopped s2 core b1 && netQuiet s2 then saveBlock s2 core blk b1 out else s2)

/-- HANDLER_TIMEOUT (10 R249): 65,536 cc after a pre-emption or an abort token found it there, a warp leaves its handler. -/
def execHandlerTimeout (core slot : Nat) (s : State) : Host.Outcome State Fault Refusal :=
  let r : WRef := { core := core, slot := slot }
  .next (match s.warp? r with
    | none => s
    | some w => match s.block? core w.blk with
      | none => s
      | some b =>
        if !(w.level = 1 || w.level = 2) || w.held || s.ctl.clock < w.handlerSince + 65536 then s
        else if b.phase = .aborting then toLevel3 s r 34 b.save
        else if b.phase = .stopping then s.setWarp r { w with held := true, wait := none }
        else s)

/-- Step 7: the last warp is saved. A block that an abort token reached ends instead (10 Table 10-11). -/
def finishSave (s : State) (core h : Nat) : State :=
  match s.block? core h with
  | none => s
  | some b =>
    let s1 := s.updCore core (fun c => { c with
      pre := { c.pre with busy := false, done := true, blk := none }
      quota := mupd {} c.quota b.ctx (fun q => { q with pre := true }) })
    if b.abort then endBlock s1 core h
    else
      let x : SavedBlk := { lid := b.lid, bid := b.bid, ctx := b.ctx, save := b.save, keep := b.keep }
      applySplit ((s1.updCore core (fun c => { c with blocks := mdel c.blocks h })).updFed (fun f => { f with saved := f.saved ++ [x] })) core

/-- Blocks that are being saved to memory whose home is a die (10 Table 10-11). -/
def savingTo (s : State) (die : Nat) : List (Nat × W32) :=
  s.cores.flatMap (fun c => c.2.blocks.filterMap (fun b =>
    if b.2.phase = .saving && (pagesOf b.2.save b.2.saveLen).any (fun p =>
        match (translate s (agentCopy (s.siteOf c.1)) b.2.ctx p.1 0#4 false).2 with
        | .inl _ => false
        | .inr x => (linesOf (x.pa / 4096 * 4096) 4096).any (fun n => s.homeOf n = die))
    then some (b.2.lid, b.2.bid) else none))

/-! ### Restore (10 Table 10-8) -/

/-- The saved block of a save area that a GO restores on a core: none where the GO is ignored (10 R254). -/
def restoreTakes (s : State) (core save : Nat) : Option SavedBlk :=
  (s.fed.saved.find? (fun x => x.save = save % 2 ^ 54 / 4096 * 4096 && x.restoring.isNone)).bind (fun x =>
    (s.launch? x.lid).bind (fun l =>
      if (s.core core).rst.busy || (s.lpt core).isNone || !emptyFits (s.core core) (hdrNeed l.hdr) then none else some x))

/-- RESTORE_GO (10 R254): a save area is named for a core. -/
def execRestoreGo (core save : Nat) (s : State) : Host.Outcome State Fault Refusal :=
  let a := save % 2 ^ 54 / 4096 * 4096
  .next (match restoreTakes s core save with
    | none => s
    | some x =>
      (s.updCore core (fun c => { c with rst := { c.rst with busy := true, save := BitVec.ofNat 42 (a / 4096), blk := none } })).updFed
        (fun f => { f with saved := f.saved.map (fun y => if y = x then { y with restoring := some core } else y) }))

/-- A barrier object as step 1 leaves it: no warp parked, whole phases complete. -/
def barRestore (x : Bar) : Bar :=
  let y : Bar := { x with parked := 0#32 }
  if x.valid && x.expect ≥ 1 then { y with phase := (x.phase + x.arrived / x.expect) % 256, arrived := x.arrived % x.expect } else y

/-- A saved block is gone: its launch counts it as ended. -/
def dropSaved (s : State) (x : SavedBlk) : State :=
  let s1 := (dropArrivals s x.lid x.bid).updFed (fun f => { f with saved := f.saved.filter (fun y => y != x) })
  let s2 := tryComplete (s1.updLaunch x.lid (fun l => { l with running := l.running - 1, ended := l.ended + 1 })) x.lid
  match s2.launch? x.lid with
  | none => s2
  | some l => match l.issuer with
    | .node p _ => tryComplete s2 p
    | _ => s2

/-- The masks of each saved warp as its frame holds them: its address, EXEC and EXITED. -/
def readMasks (core ctx save : Nat) : List Nat → State → State × (Nat ⊕ List (Nat × Nat × Nat))
  | [], s => (s, .inr [])
  | i :: t, s => match areaRead s core ctx (save + 0x80 + 4 * i) 4 with
    | (s1, .inl c) => (s1, .inl c)
    | (s1, .inr o) => match areaRead s1 core ctx (save + leNat o + 8) 8 with
      | (s2, .inl c) => (s2, .inl c)
      | (s2, .inr m) => match readMasks core ctx save t s2 with
        | (s3, .inl c) => (s3, .inl c)
        | (s3, .inr l) => (s3, .inr ((i, save + leNat o, leNat m) :: l))

/-- RESTORE_START (10 Table 10-8): the block takes its place on the core, the scratchpad image is read and every warp
enters level 3 with cause 33; ACCESS warps after the lowest are held until that one has executed `TRET`. -/
def execRestoreStart (core : Nat) (out : SegOutcome) (s : State) : Host.Outcome State Fault Refusal :=
  let c := s.core core
  .next (match s.fed.saved.find? (fun x => x.restoring = some core) with
    | none => s
    | some x => match s.launch? x.lid with
      | none => s
      | some l =>
        let h := l.hdr
        if !c.rst.busy || c.rst.blk.isSome || c.spuNew.isSome || !within (coreUsed c) (hdrNeed h) c.spu || !netQuiet s then s
        else
          let fail := fun (s : State) (e : Nat) => if pageWait out e then s else
            ((dropSaved (fatalFault (s.updCore core (fun c => { c with rst := { c.rst with busy := false, done := true, fail := true } }))
              x.lid x.bid) x).raise (.saveArea core))
          let ids := x.keep.map (·.1)
          match areaRead s core x.ctx (x.save + 0x100 + 4096 * h.nshacc) h.scr with
          | (s1, .inl e) => fail s1 e
          | (s1, .inr img) => match readMasks core x.ctx x.save ids s1 with
            | (s2, .inl e) => fail s2 e
            | (s2, .inr ms) =>
              let rs := warpRoles h
              let live := (List.range rs.length).filter (fun i => ids.contains i)
              let sl := slotsFor c (live.filterMap (fun i => (rs[i]?).map (fun r => r.2.access)))
              let at' := live.zip sl
              let handle := s2.fed.nextBlk
              let b0 : Block := { lid := x.lid, bid := x.bid, ctx := x.ctx, nbv := l.nbvEff, size := h.scr, nbar := h.nbar,
                                  nshacc := h.nshacc, scr := putBytes [] (bytesAt 0 img), phase := .restoring, save := x.save,
                                  slots := (List.range rs.length).map (fun i => (mfind at' i).getD 255), keep := x.keep,
                                  bslot := sl.headD 0,
                                  halt := (x.keep.find? (fun k => k.2.primary)).bind (fun k => mfind at' k.1) }
              let b : Block := (List.range h.nbar).foldl (fun b n =>
                { b with scr := putBytes b.scr (bytesAt (barOff b n) (barBytes (barRestore (getBar b n)))) }) b0
              let s3 := (s2.setBlock core handle b).updFed (fun f =>
                { f with nextBlk := handle + 1, saved := f.saved.filter (fun y => y != x) })
              let s4 := s3.updCore core (fun c => { c with
                rst := { c.rst with blk := some handle }
                iwin := c.iwin.filter (fun e => e.1 / 2 ^ 54 != x.ctx)
                quota := c.quota.map (fun e => if e.1 = x.ctx then (e.1, { e.2 with pre := false }) else e) })
              let firstA := at'.find? (fun y => y.2 ≥ 64)
              at'.foldl (fun s y => match rs[y.1]?, ms.find? (fun m => m.1 = y.1) with
                | some r, some m =>
                  let k := mget {} x.keep y.1
                  let ref : WRef := { core := core, slot := y.2 }
                  let w : Warp := { startWarp handle y.1 r.1 r.2 0#64 0#32 0 with
                    exec := BitVec.ofNat 32 m.2.2
                    exited := BitVec.ofNat 32 (m.2.2 / 2 ^ 32)
                    copies := k.copies
                    tlops := k.tlops
                    icount := k.icount }
                  let s5 := (toLevel3 (enterReady (s.setWarp ref w) core y.2) ref 33 m.2.1)
                  s5.updWarp ref (fun v => { ((v.putS 0 (BitVec.ofNat 64 m.2.1)).putS 1 (BitVec.ofNat 64 x.save)) with
                    held := y.2 ≥ 64 && firstA != some y })
                | _, _ => s) s4)

/-- A recorded `TMMA` is reissued with its captured values (21 R434): accepted, its warp held where the residency is loading or is
refilled for it (21 R432), or the fault to raise first. -/
def reissue (s : State) (core slot h ctx lvl : Nat) (nbv m : Nat) (l : List Byte) : State :=
  let w := fieldAt l 0 8
  let hd := bits w 47 32
  let n := s.freshId
  let fmt := fmtBits (BitVec.ofNat 24 (fieldAt l 8 3))
  let scr := match s.block? core h with
    | none => []
    | some b => b.scr
  let t : Tmma := { id := n.1, slot := slot, blk := h, acc := bits w 59 56, base := bits w 31 0, handle := BitVec.ofNat 16 hd,
                    tile := bits w 52 48, plane1 := bits w 53 53 = 1, fmt := fmt, scales := (l.drop 0x40).take 512, nbv := nbv,
                    image := getBytes scr (bits w 31 0) (tileLen fmt), again := some (m, lvl) }
  let late := fun (s : State) (tr : TrapReq) (i : Nat) => s.updWarp { core := core, slot := slot } (fun v =>
    v.addLate { cause := tr.cause, addr := tr.addr, dop0 := tr.dop0, idx := i, lvl := lvl, ord := m })
  let accept := fun (s : State) (wait : Bool) => s.updCore core (fun c => { c with mu := c.mu ++ [{ t with held := wait }] })
  match tmmaRes (s.core core) ctx hd t.tile allLanes with
  | .inl tr => late n.2 tr (m + 1)
  | .inr (i, en) =>
    if en.state = 4#3 then
      match startRefill (accept n.2 true) core i { idx := i, ctx := ctx, num := none, sup := decide (lvl ≥ 2) } with
      | some s1 => s1
      | none => late n.2 { cause := 23, mask := allLanes, addr := BitVec.ofNat 64 hd } 0
    else accept n.2 (en.state == 1#3)

/-- The warp as its frame holds it (10 Table 10-8 step 3). -/
def warpOfFrame (w : Warp) (k : Kept) (l v : List Byte) : Warp :=
  let g := fun (o n : Nat) => fieldAt l o n
  let m := g 8 8
  let f := g 0x10 8
  let s1 := setOfBytes (l.drop 0x40)
  let s2 := setOfBytes (l.drop 0xC0)
  let ex := BitVec.ofNat 32 (m / 2 ^ 32)
  let w1 : Warp := { w with
    pc := BitVec.ofNat 54 (g 0 8)
    exec := BitVec.ofNat 32 m &&& ~~~ex
    exited := ex
    fmt := fmtBits (BitVec.ofNat 24 f)
    level := bits f 31 30
    k := BitVec.ofNat 8 (g 0x34 1 % 128)
    batch := BitVec.ofNat 32 (g 0x38 4)
    t1 := s1.1
    f1 := s1.2
    t2 := s2.1
    f2 := s2.2
    rmask := k.rmask
    stack := ((List.range (bits f 29 24)).map (fun e =>
      ({ pc := BitVec.ofNat 54 (g (0x200 + 16 * e) 8), mask := BitVec.ofNat 32 (g (0x208 + 16 * e) 4),
         fmt := fmtBits (BitVec.ofNat 24 (g (0x20C + 16 * e) 4)) } : StackEnt))).reverse
    copies := w.copies.map (fun c => { c with segs := c.segs.map (fun x => { x with parked := false }) })
    wait := none
    held := false
    heldAt := none
    late := k.late
    barGone := k.barGone
    aborting := k.aborting }
  let w2 := (List.range 7).foldl (fun w i => w.putP i (BitVec.ofNat 32 (g (0x18 + 4 * i) 4))) w1
  let wk := k.kds.foldl (fun (w : Warp) x => w.putK x.1 x.2) w2
  let w3 := (List.range (min 4 w.sregs)).foldl (fun w i => w.putS i (BitVec.ofNat 64 (g (0x400 + 8 * i) 8))) wk
  (List.range (min 2 w.vregs)).foldl (fun w i => (List.range 32).foldl (fun w j =>
    w.putV i j (BitVec.ofNat 32 (fieldAt v (128 * i + 4 * j) 4))) w) w3

/-- Step 4: the last warp is restored. An abort token that met the restore takes effect now. -/
def finishRestore (s : State) (core h : Nat) : State :=
  match s.block? core h with
  | none => s
  | some b =>
    if !b.keep.isEmpty then s
    else
      let s1 := (s.setBlock core h { b with phase := .run, save := 0, saveLen := 0 }).updCore core (fun c =>
        { c with rst := { c.rst with busy := false, done := true, blk := none } })
      if b.abort then abortBlock s1 core h else s1

/-- `TRET` at cause 33: it waits as `FENCE.acq.dv` does (07 R186), and for room in the matrix unit for what it reissues (05 R108).
-/
def tretRestore (s : State) (e : Env) : Res :=
  let core := e.r.core
  let fr := e.w.t2.addr.toNat
  match fenceWait s e.r e.w e.b.ctx { rel := false, acq := true, sc := false } .dv with
  | some why => .wait s why
  | none =>
  if !netQuiet s then .wait s .other
  else
    let fail := fun (s1 : State) (c : Nat) =>
      if c = 15 then Res.wait s1 .area else .raw (failArea s1 core e.w.blk)
    match areaRead s core e.b.ctx fr 0x420 with
    | (s1, .inl c) => fail s1 c
    | (s1, .inr l) => match areaRead s1 core e.b.ctx (fr + 0x1000) (128 * min 2 e.w.vregs) with
      | (s2, .inl c) => fail s2 c
      | (s2, .inr v) => match areaRead s2 core e.b.ctx (fr + 0x600) (0x240 * bits (fieldAt l 0x10 8) 34 32) with
        | (s3, .inl c) => fail s3 c
        | (s3, .inr rec) =>
          let k := mget {} e.b.keep e.w.id
          let w1 := warpOfFrame e.w k l v
          let halted := e.b.halt.isSome && e.b.halt != some e.r.slot
          let w2 : Warp := { w1 with
            issued := some s.ctl.clock
            stopped := halted
            skid := if halted then some 0 else none
            inHandler := halted && w1.level != 0 }
          let s4 := (s3.setWarp e.r w2).updBlock core e.w.blk (fun b => { b with keep := mdel b.keep e.w.id })
          let s5 := (List.range (bits (fieldAt l 0x10 8) 34 32)).foldl (fun s m =>
            reissue s core e.r.slot e.w.blk e.b.ctx w1.level e.b.nbv m ((rec.drop (0x240 * m)).take 0x240)) s4
          if (s5.core core).mu.length > max 8 (s.core core).mu.length then .wait s .tile else
          let s6 := if e.r.slot < 64 then s5 else e.b.slots.foldl (fun s x => if x < 64 || x = 255 then s else
            s.updWarp { core := core, slot := x } (fun w => { w with held := false })) s5
          .raw (acquire (finishRestore s6 core e.w.blk) core .dv)

/-- `TRET` at cause 32 (10 Table 10-6): `FENCE.sc.dv`, which covers parked work only as R252 gives, then the warp is
released. -/
def tretSave (s : State) (e : Env) : Res :=
  let k : FenceKind := { rel := true, acq := true, sc := false }
  let idle := e.w.copies.all (fun c => c.segs.all (fun g => g.done || g.fail.isSome || g.parked)) && s.tlcnt e.r = 0 &&
    e.w.tlops.all (fun o => o.2 ≤ s.tlCounter e.b.ctx o.1 || !tlActive s e.b.ctx o.1 o.2)
  if !idle then .wait s .other
  else match fenceWait s e.r e.w e.b.ctx k .dv with
    | some why => .wait s why
    | none =>
      let core := e.r.core
      let s1 := (fenceDo s core k .dv).updBlock core e.w.blk (fun b => { b with keep := mupd {} b.keep e.w.id (fun k =>
        { k with copies := e.w.copies, tlops := e.w.tlops, icount := e.w.icount, aborting := e.w.aborting }) })
      let s2 := dropWarp s1 e.r
      match s2.block? core e.w.blk with
      | none => .raw s2
      | some b => .raw (if b.slots.all (· == 255) then finishSave s2 core e.w.blk else s2)

/-- `TRET` at cause 34 (10 R257): the warp ends. -/
def tretAbort (s : State) (e : Env) : Res := .done (s.setWarp e.r (exitLanes e.w (~~~e.w.exited)))

/-- A return to level 0 or 1: the issue counts for the ports and for a halt's skid, not in ICOUNT; a warp whose block is
being aborted enters level 3 (10 R249). -/
def tretTo (s : State) (e : Env) (pc : VAddr) (rmask : Mask) (count : Bool) : Res :=
  let s1 := (returnFrom s e.r e.w pc rmask).updWarp e.r (fun w => { w with
    issued := some s.ctl.clock
    wait := none
    icount := if count && w.level = 0 then w.icount + 1#48 else w.icount
    skid := w.skid.map (· + 1)
    stopped := w.stopped || (match w.skid with
      | some n => decide (n + 1 ≥ 6)
      | none => false) })
  match s1.warp? e.r, s1.block? e.r.core e.w.blk with
  | some w, some b => .raw (if w.level = 0 && b.phase = .aborting then toLevel3 s1 e.r 34 b.save else s1)
  | _, _ => .raw s1

/-- The trap set of the running level, and the PC it saved. -/
def runSet (w : Warp) : TrapSet × VAddr := if w.level = 1 then (w.t1, w.f1.pc) else (w.t2, w.f2.pc)

/-- `TRET` (21 R436, 10 R246). -/
def execTret (x : FHd) (s : State) : Host.Outcome State Fault Refusal :=
  .next (issue (.tret x) s (fun e s =>
    if e.w.level = 3 then
      let c := e.w.t2.cause.toNat
      if c = 32 then tretSave s e else if c = 33 && e.b.phase = .restoring then tretRestore s e else tretAbort s e
    else
      let t := runSet e.w
      tretTo s e t.2 t.1.rmask false))

/-- `TRET.skip` (21 R436, 10 R246, R434). At level 3 it raises the illegal-instruction trap when its guard holds (log 49). -/
def execTretSkip (x : FHd) (s : State) : Host.Outcome State Fault Refusal :=
  .next (issue (.tretSkip x) s (fun e s =>
    let t := runSet e.w
    let c := t.1.cause.toNat
    if e.w.level = 3 then .trap s { cause := 1, mask := e.w.exec }
    else if (c = 21 || c = 22) && t.1.dop1 != 0#64 then tretTo s e t.2 allLanes false
    else if 1 ≤ c && c ≤ 7 then tretTo s e (t.1.dop2.truncate 54) allLanes true
    else tretTo s e (pcAdd t.2 (lenAt s e.r.core e.b.ctx e.w t.2)) allLanes true))

/-! ### Abort tokens (10 R257) -/

/-- A warp that a fatal fault stopped at level 3 cannot end its block: the block ends at once, and a pre-emption or a restore of
it is over, with DONE and FAIL as they are (log 21). -/
def endStuck (s : State) (core h : Nat) (b : Block) : State :=
  let f := fun (p : PreCtl) => if p.blk = some h then { p with busy := false, blk := none } else p
  (b.slots.foldl (fun s x => s.updWarp { core := core, slot := x } (fun w =>
    exitLanes { w with held := false, stopped := true, copies := [] } (~~~w.exited)))
    (s.setBlock core h { b with phase := .aborting, abort := true, keep := [] })).updCore core (fun c =>
      { c with pre := f c.pre, rst := f c.rst, mu := c.mu.filter (fun t => !(t.blk = h && t.held)) })

/-- A token that the collective engine brings from a peer package for an ABORT group of a launch: every present member of the
group gets one, and the launch completes with CODE 9 (10 R257, 12 R292). -/
def peerToken (s : State) (lid g : Nat) : State :=
  match s.launch? lid with
  | none => s
  | some l => match l.groups[g]? with
    | none => s
    | some x =>
      if l.complete || !x.abort || !x.valid then s
      else tokensTo (markLaunch s l lid (fun y => { y with aborted := true })) lid x.member

/-- ABORT_TOKEN (10 R257, Table 10-11): at a running block its warps enter level 3 with cause 34; a save or a restore
completes first; a swapped-out block ends, its save area discarded. With `peer`, it is a token from a peer package for that
group. -/
def execAbortToken (lid : Nat) : W32 × Option Nat → State → Host.Outcome State Fault Refusal
  | (bid, peer), s =>
    let t : Token := { lid := lid, bid := bid }
    .next (match peer with
    | some g => peerToken s lid g
    | none =>
      if !s.fed.tokens.contains t then s
      else
        let s1 := s.updFed (fun f => { f with tokens := f.tokens.erase t })
        match findBlock s1 lid bid.toNat with
        | some (core, h, b) =>
          if (liveWarps s1 core b).any (fun x => x.2.level = 3 && x.2.stopped) then endStuck s1 core h b
          else if b.phase = .run then abortBlock s1 core h
          else s1.setBlock core h { b with abort := true }
        | none => match s1.fed.saved.find? (fun x => x.lid = lid && x.bid = bid) with
          | none => s1
          | some x =>
            let s2 := match x.restoring with
              | none => s1
              | some core => s1.updCore core (fun c => { c with rst := { c.rst with busy := false } })
            dropSaved s2 x)

/-! ### Services of Tchidal -/

/-- Tchidal cannot map the page that a warp waits for: a KV instruction takes the access-error fault (20 R387), a `TRET`
that restores a block ends it (10 R444), and an `EMIT` counts its slot and takes the fault (19 R365). -/
def unmapped (s : State) (r : WRef) (w : Warp) : State :=
  match w.wait, s.block? r.core w.blk with
  | some (.page a m), _ => takeTrap s r { cause := 19, mask := m, addr := BitVec.ofNat 64 a }
  | some .area, _ => failArea s r.core w.blk
  | some (.ring n), some b => (match s.launch? b.lid with
    | none => s
    | some l => match l.hdr.nodes[n]? with
      | none => s
      | some d => takeTrap (emitFailed s b.lid b.ctx l n d) r (emitTrap w l n d))
  | _, _ => s

/-- TRAP_SERVICE_RELEASE (10 R238, 21 R435): the parked warp goes on past its `TRAP`, or at the instruction whose trap was
served; a `TRAP 1`, or Tchidal's choice, ends the block as a fatal fault. A warp that waits for a page tries again, or
fails where Tchidal cannot map it. -/
def execTrapServiceRelease (core slot : Nat) (v : Service) (s : State) : Host.Outcome State Fault Refusal :=
  let r : WRef := { core := core, slot := slot }
  .next (match v, s.warp? r with
    | .unmapped id, _ => heldUnmapped s r id
    | _, none => s
    | _, some w =>
      (match w.wait with
        | some (.service c n p) =>
          if v = .fatal || (c = 26 && n = 1) then
            (match s.block? core w.blk with
              | none => s
              | some b => fatalFault (s.setWarp r { w with stopped := true, aborting := true, wait := none }) b.lid b.bid)
          else if c = 26 then joinReady (s.setWarp r (retireWarp w p (w.issued.getD 0))) r
          else joinReady (s.setWarp r { w with wait := none }) r
        | some (.page _ _) | some (.ring _) | some .area =>
          if v = .fatal then unmapped s r w else joinReady (s.setWarp r { w with wait := none }) r
        | _ => s))

end Sys2Proof.Machine
end

