-- ==== Sys2Proof/Machine/Pack.lean ====
section
/-! DEFINITION. Package reset and enumeration (01 R17 to R25, 09 R212, R222, 12 R294), heartbeats, die resets and rejoins
(08 R204, R206, R207). -/

namespace Sys2Proof.Machine

/-! ### Package reset -/

/-- An image may run (12 R294). -/
def imageOk (f : Fw) (i : Image) : Bool := i.sigOk && i.version ≥ f.minVersion

/-- Boot: slot 0, then slot 1 (12 R294). A pending update is in slot 0 from now on (12 R295). -/
def bootFw (f : Fw) : Fw :=
  let s0 := f.update.getD f.slot0
  let g : Fw := { f with slot0 := s0, update := none, running := none, failed := false, measure1 := 0#64, reports := [] }
  if imageOk g s0 then { g with running := some 0, measure1 := s0.hash }
  else if imageOk g g.slot1 then { g with running := some 1, measure1 := g.slot1.hash }
  else { g with failed := true, reports := [.bootFailed] }

/-- The links after training (01 Table 1-9 step 3). -/
def trainLinks (x : FReset) : SMap Link :=
  (List.range 18).map (fun i => (i, { width := if x.down.getLsbD i then 0 else if x.half.getLsbD i then 1 else 2 }))

/-- The sites of a list as a mask. -/
def siteMask (l : List Nat) : BitVec 8 := l.foldl (fun m i => m ||| siteBit i) 0#8

/-- A survivor list as MAP and OLDMAP hold it (09 Table 9-3). -/
def survOf (l : List Nat) : BitVec 24 :=
  BitVec.ofNat 24 ((List.range l.length).foldl (fun m i => m + l.getD i 0 * 8 ^ i) 0)

/-- The dies that pass enumeration: self-test, and a path to the FED (01 Table 1-9 step 4). A package whose firmware fails
holds every die in reset. -/
def passOf (x : FReset) (links : SMap Link) (failed : Bool) : List Nat :=
  let r := reach (fun i => (mget { width := 0 } links i).width != 0) 9 [8]
  if failed then [] else (List.range 8).filter (fun d => x.selfTest.getLsbD d && r.contains d)

/-- The tier registers at reset (09 R212, R222). -/
def bootTier (retired : BitVec 8) (pass : List Nat) : Tier :=
  let live := pass.filter (fun d => !retired.getLsbD d)
  { live := siteMask live, nold := live.length, n := live.length, map := survOf live, oldmap := survOf live, retired := retired }

/-- A route of enumeration crosses a link that is out of service, so the routes are those of up*/down* (08 R203). -/
def routesBroken (s : State) (pass : List Nat) : Bool :=
  let ns := pass ++ [8]
  ns.any (fun a => ns.any (fun b => (baseRoute s a b).any (fun i => (s.link i).width = 0)))

/-- Package reset and enumeration (01 R22): every register takes its Reset value; fuses, flash, the attached expanders and
the bytes of memory stay. -/
def packageReset (x : FReset) (s : State) : State :=
  let fw := bootFw s.pkg.fw
  let links := trainLinks x
  let pass := passOf x links fw.failed
  let retired := if x.maint then s.pkg.tier.retired &&& ~~~x.repaired else s.pkg.tier.retired
  let fw1 : Fw := if pass.isEmpty && !fw.failed then { fw with reports := fw.reports ++ [.noDie] } else fw
  let s1 : State := { State.reset with
    mem := s.mem
    ctl := { booted := true, agenda := s.ctl.agenda, free := s.ctl.free, nextId := s.ctl.nextId }
    pkg := { State.reset.pkg with
      fuses := s.pkg.fuses
      links := links
      passed := siteMask pass
      online := siteMask pass
      tier := bootTier retired pass
      exp := { size0 := s.pkg.exp.size0, size1 := s.pkg.exp.size1 }
      fw := fw1 } }
  s1.updPkg (fun p => { p with rerouted := routesBroken s1 pass })

/-- PACKAGE_RESET (01 R22). -/
def execPackageReset (x : FReset) (s : State) : Host.Outcome State Fault Refusal := .next (packageReset x s)

/-- The reset that the first step from `State.reset` makes when the schedule names no other: everything passes (log 6). -/
def plainReset : FReset := { selfTest := 0xFF#8, half := 0#18, down := 0#18, maint := false, repaired := 0#8 }

/-! ### Heartbeats -/

/-- HEARTBEAT (08 R206): every 100 µs a die in service tells the FED that it lives, if a path to the FED is left. -/
def execHeartbeat (site : Nat) (s : State) : Host.Outcome State Fault Refusal :=
  .next (if site < 8 && s.onlineSite site && s.ctl.time ≥ (s.die site).beat + 100 * usTicks &&
      (reach (fun i => (s.link i).width != 0) 9 [8]).contains site then
    (cross s Config.fed site).updDie site (fun d => { d with beat := s.ctl.time }) else s)

/-! ### Die reset (08 Table 8-9) -/

/-- Step 3: a home forgets a die; a line that it owned dirty reverts to the home's copy with a loss record. Every drop count
is cleared (08 R195). -/
def forgetDie (s : State) (d : Nat) : State :=
  s.homes.foldl (fun s h =>
    let lost := h.2.dir.filter (fun e => e.2.state = 3#2 && e.2.owner.toNat = d)
    let fix := fun (e : DirEnt) => if DirEnt.ownerOf e = some d then ({} : DirEnt)
      else if e.state = 1#2 then dirS (e.sharers &&& ~~~siteBit d) else e
    let s1 := s.updHome h.1 (fun x => { x with
      dir := (x.dir.map (fun e => (e.1, fix e.2))).filter (fun e => e.2 != {})
      pages := x.pages.map (fun e => (e.1, { e.2 with pshr := e.2.pshr &&& ~~~siteBit d }))
      hostShr := x.hostShr.map (fun e => (e.1, e.2 &&& ~~~siteBit d))
      drop := [] })
    lost.foldl (fun s e => lossRecord s h.1 e.1 1 d (s.inc d)) s1) s

/-- Requests in service: those of the die, and those that its home serves, end with what their answers brought; any other
goes on without the die's answer (step 4). -/
def resolveHeld (s : State) (d : Nat) : State :=
  s.homes.foldl (fun s h => h.2.held.foldl (fun s x =>
    let drop := fun (s : State) => s.updHome h.1 (fun y => { y with held := y.held.filter (fun z => z.req.id != x.req.id) })
    if h.1 = d then drop s
    else if x.req.src = d then
      x.answers.foldl (fun s a => if a.bytes.isEmpty then s else (homePut s a.line a.bytes none a.cls a.chain false).1) (drop s)
    else if !x.waits.contains d then s
    else
      let x1 : Held := { x with waits := x.waits.filter (· != d) }
      if x1.waits.isEmpty then (match x1.req.kind with
        | .req k => heldDone s h.1 x1 k
        | _ => drop s)
      else s.updHome h.1 (fun y => { y with held := y.held.map (fun z => if z.req.id = x.req.id then x1 else z) })) s) s

/-- The residency table after a die reset: every entry free, its old handles stale (05 Table 5-11). -/
def emptyRt (m : SMap RtEnt) : SMap RtEnt :=
  m.map (fun e => (e.1, ({ gen := if e.2.state = 0#3 then e.2.gen else e.2.gen + 1#10 } : RtEnt)))

/-- A core after a die reset: its configuration registers and logical time stay, a quota entry's LIMIT among them; PRE and the
count of macros in use are cleared, since nothing of the tenant is left on the core (00 R6; log 23). -/
def resetCore (c : Core) : Core :=
  { slott := c.slott, slottNew := c.slottNew, slottAt := c.slottAt, spu := c.spuNew.getD c.spu, rt := emptyRt c.rt,
    quota := c.quota.map (fun e => (e.1, { e.2 with pre := false, used := 0 })), pts := c.pts, ptsAt := c.ptsAt }

/-- A block on the die is gone: its grid is aborted with CODE 9 (step 5). -/
def lostBlock (s : State) (lid : Nat) (bid : W32) : State :=
  let s1 := (lossFault s lid bid).updLaunch lid (fun l => { l with running := l.running - 1, ended := l.ended + 1 })
  let s2 := tryComplete s1 lid
  match s2.launch? lid with
  | none => s2
  | some l => match l.issuer with
    | .node p _ => tryComplete s2 p
    | _ => s2

/-- The engines of a die end their work: every number of its timelines is complete, and its KV moves have failed. The status word
of a move that was over already is lost. -/
def stopEngines (s : State) (d : Nat) : State :=
  let cs := s.cores.filter (fun c => s.siteOf c.1 = d)
  let s1 := cs.foldl (fun s c => c.2.resl.foldl (fun s l => loadNumbers s c.1 l) s) s
  let s2 := (s1.moves.filter (fun m => m.site = d)).foldl (fun s m =>
    if m.word.isSome then (doneMove s m).raise (.statusLost m.num)
    else
      let p := poolGet s m.pool m.pool2
      dropMove p.1 p.2 m 8) s1
  (s2.gathers.filter (fun g => s.siteOf g.core = d)).foldl gatherDone s2

/-- The agents of a die that hold TLBs. -/
def dieAgent (s : State) (d a : Nat) : Bool :=
  if a < 2000 then s.siteOf a = d else a = agentKve d || a = agentRes d || a = agentCopy d

/-- Die reset of a site (08 Table 8-9). A block elsewhere that is being saved to its memory is aborted (10 Table 10-11). `alive`:
the die still answers, and writes its L2's dirty lines back. -/
def dieReset (s : State) (d : Nat) (alive : Bool) : State :=
  let lost := (s.cores.filter (fun c => s.siteOf c.1 = d)).flatMap (fun c => c.2.blocks.map (fun b => (b.2.lid, b.2.bid)))
  let s0 := stopEngines s d
  let s1 := s0.updPkg (fun p => { p with online := p.online &&& ~~~siteBit d })
  let s2 : State := if alive then { s1 with mem := (s1.home d).lines.foldl (fun m e => memPutLine m e.1 e.2.data) s1.mem } else s1
  let s3 : State := { s2.updHome d (fun h => { h with lines := [] }) with
    net := s2.net.filter (fun m => m.src != d && m.dst != d)
    clcs := s2.clcs.filter (fun c => c.1 / 34 != d)
    cores := s2.cores.map (fun c => if s2.siteOf c.1 = d then (c.1, resetCore c.2) else c)
    vm := { s2.vm with tlb := s2.vm.tlb.filter (fun t => !dieAgent s2 d t.agent)
                       rtlb := s2.vm.rtlb.filter (fun e => !dieAgent s2 d (e.1 / 64)) }
    dies := s2.dies.map (fun x => if x.1 = d then (x.1, { x.2 with rdc := [], waits := [] })
      else (x.1, { x.2 with waits := x.2.waits.filter (fun l => s2.homeOf l != d) })) }
  let s4 := resolveHeld (forgetDie s3 d) d
  let s5 := s4.updFed (fun f => { f with
    saved := f.saved.map (fun x => if (x.restoring.map s4.siteOf) = some d then { x with restoring := none } else x)
    arrivals := f.arrivals.filter (fun a => !lost.contains (a.lid, a.sb)) })
  let s6 := (savingTo s d).foldl (fun s b => if lost.contains b then s else lossFault s b.1 b.2) s5
  lost.foldl (fun s b => lostBlock s b.1 b.2) s6

/-- DEAD_DIE_VERDICT (08 R206): no heartbeat for 2 ms. -/
def execDeadDieVerdict (site : Nat) (s : State) : Host.Outcome State Fault Refusal :=
  .next (if site < 8 && s.onlineSite site && s.ctl.time ≥ (s.die site).beat + 2000 * usTicks then dieReset s site false else s)

/-- DIE_RESET (08 R206): Tchidal resets a die. -/
def execDieReset (site : Nat) (alive : Bool) (s : State) : Host.Outcome State Fault Refusal :=
  .next (if site < 8 && s.onlineSite site then dieReset s site alive else s)

/-- The incarnation after a rejoin (08 R204). -/
def nextInc (n : Nat) : Nat := if (n + 1) % 256 = 0 then 1 else (n + 1) % 256

/-- DIE_REJOIN (08 Table 8-9 step 6): a reset die that passed enumeration passes self-test and is in service again. -/
def execDieRejoin (site : Nat) (s : State) : Host.Outcome State Fault Refusal :=
  .next (if s.pkg.passed.getLsbD site && !s.onlineSite site then
    (s.updPkg (fun p => { p with online := p.online ||| siteBit site, inc := mset p.inc site (nextInc (s.inc site)) })).updDie
      site (fun d => { d with beat := s.ctl.time })
  else s)

end Sys2Proof.Machine
end

