-- ==== Sys2Proof/Machine/Extern.lean ====
section
/-! DEFINITION. Agents outside the package: the host over CXL (08 R197 to R200, 12 R287, R288), expanders (09 R235, R236),
the Ethernet ports and the collective engine (12 R290 to R292). -/

namespace Sys2Proof.Machine

/-! ### External accesses at the home (08 R198, R199) -/

/-- A page that an external agent may reach through the home now: HBM of a home in service, LPDDR6, with no line in
service. -/
def extPage (s : State) (page : Nat) : Bool :=
  (regionOf (4096 * page) == .hbm || regionOf (4096 * page) == .lpddr) && (s.mapCause (4096 * page) false).isNone &&
  s.idleRange (4096 * page) 4096

/-- The state of a page after an access in a mode: the host keeps no copy, read-only copies, or ownership. -/
def extMode (s : State) (page : Nat) (m : HostMode) : State :=
  let n := s.homeOf (64 * page)
  s.updHome n (fun h => { h with pages := mupd {} h.pages page (fun e => match m with
    | .none => e
    | .shared => if e.state = 3 then e else { e with state := 2 }
    | .own => { e with state := 3 }) })

/-- Page snoops to every die in PSHR, which is then cleared. -/
def snoopPage (s : State) (page : Nat) : State :=
  let n := s.homeOf (64 * page)
  let l := match s.pageEnt? n page with
    | none => []
    | some e => sitesOf e.pshr
  (l.foldl (fun s d => pageSnoopDie s page d) s).updHome n (fun h =>
    { h with pages := mupd {} h.pages page (fun e => { e with pshr := 0#8 }) })

/-- An external read of bytes of one page: a hit clears eviction-first (06 R145). -/
def extRead (s : State) (pa n : Nat) (m : HostMode) : State × List Byte :=
  let page := pa / 4096
  let s1 := handover s (s.homeOf (64 * page)) page
  let s2 := (linesOf pa n).foldl (fun s l => hitHome (pullDirty s l) (s.homeOf l) l) (if m = .own then snoopPage s1 page else s1)
  (extMode s2 page m, (List.range n).map (fun i => s2.homeByte ((pa + i) / 64) ((pa + i) % 64)))

/-- An external write of bytes of one page, performed at .sy, under the CLASS of its translation (06 R143). -/
def extWrite (s : State) (pa : Nat) (l : List Byte) (cls : Nat) (m : HostMode) : State :=
  let page := pa / 4096
  let s1 := snoopPage (handover (markStale s page) (s.homeOf (64 * page)) page) page
  let s2 := (linesOf pa l.length).foldl (fun s ln =>
    let b := (bytesAt pa l).filter (fun e => e.1 / 64 = ln)
    let s1 := recallAll s ln 99
    flushHome (homePut s1 ln (b.map (fun e => (e.1 % 64, e.2))) none cls 0 false).1 ln) s1
  extMode s2 page m

/-! ### The host -/

/-- HOST_MEM_READ (08 R199): the host reads n bytes from an address over CXL.mem. -/
def execHostMemRead (pa n : Nat) (m : HostMode) (s : State) : Host.Outcome State Fault Refusal :=
  let ps := pagesOf pa n
  .next (if ps.all (fun p => extPage s (p.1 / 4096)) then ps.foldl (fun s p => (extRead s p.1 p.2 m).1) s else s)

/-- HOST_MEM_WRITE (08 R199): the host writes bytes over CXL.mem. -/
def execHostMemWrite (x : BytesAt) (m : HostMode) (s : State) : Host.Outcome State Fault Refusal :=
  let ps := pagesOf x.addr x.bytes.length
  .next (if ps.all (fun p => extPage s (p.1 / 4096)) then
    ps.foldl (fun s p => extWrite s p.1 ((x.bytes.drop (p.1 - x.addr)).take p.2) 0 m) s else s)

/-- One die answers a snoop of the host: it invalidates or downgrades its copy, its dirty bytes going to the home. -/
def hostSnoopDie (s0 : State) (line d : Nat) (inv : Bool) : State :=
  let s := takeEvicts s0 (fun m x => m.line = line && x = d)
  match s.rdc? d line with
  | none => s
  | some x =>
    let n := s.homeOf line
    let s1 := cross (ownerHome s line d) n d
    let e := s1.dirEnt n line
    if inv then
      (dropRdc s1 d line).putDir n line (if DirEnt.ownerOf e = some d then {} else dirS (e.sharers &&& ~~~siteBit d))
    else
      (s1.setRdc d line { x with st := 1, copy := Copy.clean x.copy }).putDir n line
        (if DirEnt.ownerOf e = some d then dirS (siteBit d) else e)

/-- HOST_SNOOP (08 R200): a snoop of the host for a line of host memory goes to the dies in PSHR; the bytes reach host
memory. -/
def execHostSnoop (line : Nat) (inv : Bool) (s : State) : Host.Outcome State Fault Refusal :=
  .next (if regionOf (64 * line) != .host || s.lineBusy line then s
    else
      let pshr := mget 0#8 (s.home (s.homeOf line)).hostShr (line / 64)
      flushHome ((sitesOf pshr).foldl (fun s d => hostSnoopDie s line d inv) s) line)

/-- CXLTO.MS in units of `Ctl.time`; 0 acts as 1 (09 Table 9-14). -/
def State.cxlLimit (s : State) : Nat := max 1 s.pkg.exp.ms * 1000 * usTicks
/-- What began at a time has been outstanding for CXLTO.MS (09 R235, 12 R288). -/
def State.overdue (s : State) (t : Nat) : Bool := t + s.cxlLimit ≤ s.ctl.time

/-- A page recall that the host does not complete is logged, and the page goes to line mode with the home's data. The
record names no die: its SITE and INC are free values (log 24). -/
def recallLost (s : State) (n page : Nat) : State :=
  let a := s.freeByte
  let b := a.2.freeByte
  (lossRecord b.2 n (64 * page) 2 (a.1.toNat % 16) b.1.toNat).updHome n (fun h => { h with pages := mdel h.pages page })

/-- PAGE_RECALL_TIMEOUT (08 R200, R207, 12 R288): a recall of a page in PS or PE that the host does not complete. It begins with the
first such event of the page, and is given up after CXLTO.MS (log 66). -/
def execPageRecallTimeout (page : Nat) (s : State) : Host.Outcome State Fault Refusal :=
  let n := s.homeOf (64 * page)
  .next (match s.pageEnt? n page with
    | none => s
    | some e =>
      if e.state < 2 then s
      else match e.recallAt with
        | none => s.updHome n (fun h => { h with pages := mset h.pages page { e with recallAt := some s.ctl.time } })
        | some t => if s.overdue t then recallLost s n page else s)

/-! ### Accesses that fail from outside (09 R235, 12 R288) -/

/-- The lanes of a queue load whose address lies where p holds. -/
def queueLanes (s : State) (r : WRef) (w : Warp) (b : Block) (o : LoadOp) (p : Nat → Bool) : List LaneAcc :=
  o.lanes.filter (fun a => a.pa != 1 && (match (translate s r.core b.ctx a.va (warpNeed w needR) false).2 with
    | .inl _ => false
    | .inr x => p x.pa))

/-- A side of a copy segment lies where p holds. -/
def segHits (s : State) (core : Nat) (b : Block) (c : CopyOp) (g : Seg) (p : Nat → Bool) : Bool :=
  let hit := fun (va : Nat) (need : BitVec 4) => match (translate s (agentCopy (s.siteOf core)) b.ctx va need false).2 with
    | .inl _ => false
    | .inr x => p x.pa
  !g.done && g.fail.isNone && !g.parked &&
    ((!g.srcS && hit g.src (engineNeed c.sup needR)) || (!g.dstS && hit g.dst (engineNeed c.sup needW)))

/-- A warp has an access to an address where p holds that has been outstanding for CXLTO.MS; with `only`, the operation of that
number (09 R235, 12 R288). -/
def overdueAccess (s : State) (r : WRef) (only : Option Nat) (p : Nat → Bool) : Bool :=
  match s.warp? r with
  | none => false
  | some w => match s.block? r.core w.blk with
    | none => false
    | some b =>
      let named := fun (id : Nat) => only.isNone || only == some id
      w.loads.any (fun o => named o.id && s.overdue o.pt.time &&
        (o.lanes.any (fun a => p a.pa) || !(queueLanes s r w b o p).isEmpty)) ||
      w.atoms.any (fun o => named o.id && s.overdue o.pt.time && o.reqs.any (fun q => p q.pa)) ||
      w.copies.any (fun c => named c.id && s.overdue c.time && c.segs.any (fun g => segHits s r.core b c g p))

/-- A load, an operand-queue load or an atomic whose last lane has just failed: its number, where it was issued, the faults of its
lanes, and whether its lanes are those of a queue load. -/
structure FailedOp where
  id : Nat
  pt : IssuePt
  faults : List LaneFault
  queue : Bool
deriving DecidableEq, Repr

/-- A load without the lanes at addresses where p holds: they are over, with the access-error fault. -/
def failLanes (p : Nat → Bool) (o : LoadOp) : LoadOp :=
  { o with lanes := o.lanes.filter (fun a => !p a.pa)
           fails := byLane (o.fails ++ (o.lanes.filter (fun a => p a.pa)).map (fun a => LaneFault.mk a.lane 19 0 a.va)) }

/-- An atomic without the requests at addresses where p holds: their lanes are over, with the access-error fault. -/
def failReqs (p : Nat → Bool) (o : AtomOp) : AtomOp :=
  { o with reqs := o.reqs.filter (fun q => !p q.pa)
           fails := byLane (o.fails ++ (o.reqs.filter (fun q => p q.pa)).flatMap (fun q =>
             q.lanes.map (fun y => LaneFault.mk y.1 19 0 q.va))) }

/-- Outstanding accesses of a warp to addresses where p holds end with the access-error fault, and a failed segment for each segment
of a copy. Of the instructions whose last lane this ends, the oldest traps. With `only`, the operation of that number alone. -/
def failAccess (s : State) (r : WRef) (only : Option Nat) (p : Nat → Bool) : State :=
  match s.warp? r with
  | none => s
  | some w => match s.block? r.core w.blk with
    | none => s
    | some b =>
      let named := fun (id : Nat) => only.isNone || only == some id
      let isQ := fun (o : LoadOp) => match o.dest with
        | .queue _ _ _ => true
        | _ => false
      let ld := (w.loads.filter (fun o => named o.id && !isQ o && o.lanes.any (fun a => p a.pa))).map (failLanes p)
      let at' := (w.atoms.filter (fun o => named o.id && o.reqs.any (fun q => p q.pa))).map (failReqs p)
      let qs := w.loads.filter (fun o => named o.id && isQ o && !(queueLanes s r w b o p).isEmpty)
      let ended := (ld.filter (·.lanes.isEmpty)).map (fun o => FailedOp.mk o.id o.pt o.fails false) ++
        (at'.filter (·.reqs.isEmpty)).map (fun o => FailedOp.mk o.id o.pt o.fails false) ++
        qs.map (fun o => FailedOp.mk o.id o.pt ((queueLanes s r w b o p).map (fun a => LaneFault.mk a.lane 19 0 a.va)) true)
      let s1 := s.updWarp r (fun v => { v with
        loads := (v.loads.map (fun o => (ld.find? (fun x => x.id = o.id)).getD o)).filter (fun o =>
          !(ld.any (fun x => x.id = o.id && x.lanes.isEmpty) || qs.any (fun y => y.id = o.id)))
        atoms := (v.atoms.map (fun o => (at'.find? (fun x => x.id = o.id)).getD o)).filter (fun o => !o.reqs.isEmpty) })
      let s2 := (w.copies.filter (fun c => named c.id)).foldl (fun s c => c.segs.foldl (fun s g =>
        if segHits s r.core b c g p then
          (segFail s r.core w.blk b c.sup g).updWarp r (fun v => updSeg v c.id g.id (fun g => { g with fail := some 19 }))
        else s) s) s1
      let left := ((s2.warp? r).map (fun v => v.loads)).getD []
      let s3 := (w.loads.filter (fun o => !o.gather.isEmpty && !left.any (fun y => y.id = o.id))).foldl (fun s o => endGathers s r o.id) s2
      match ended.find? (fun o => ended.all (fun y => o.id ≤ y.id)) with
      | none => s3
      | some o => match laneTrap o.faults o.queue with
        | none => s3
        | some t => lateTrap s3 r o.pt t

/-- Every warp of the package. -/
def allWarps (s : State) : List WRef := s.cores.flatMap (fun c => c.2.warps.map (fun w => { core := c.1, slot := w.1 }))

/-! ### Expanders -/

/-- The address lies in the window of expander n. -/
def inExp (n pa : Nat) : Bool := regionOf pa == (if n = 0 then Region.exp0 else Region.exp1)

/-- OFF of expander n. -/
def setOff (s : State) (n : Nat) (v : Bool) : State :=
  s.updPkg (fun p => { p with exp := if n = 0 then { p.exp with off0 := v } else { p.exp with off1 := v } })

/-- The block of a KV move has storage in the window of expander n: in the tier that it leaves, or in the one that it goes to. -/
def moveHits (s : State) (n : Nat) (m : KvMove) : Bool :=
  let p := poolGet s m.pool m.pool2
  let e := (entGet p.1 p.2 m.blk).2
  m.word.isNone && (e.tier = 3 + n || e.otier = 3 + n)

/-- The source of a residency load has a page where p holds. -/
def loadHits (s : State) (core : Nat) (p : Nat → Bool) (l : ResLoad) : Bool :=
  let e := (s.core core).rtEnt l.idx
  e.srcv && e.state = 1#3 && !l.stopping && (srcPages e).any (fun va =>
    match (engineXlat s (agentRes (s.siteOf core)) l.ctx va (engineNeed l.sup needR) false).2 with
    | .inl _ => false
    | .inr x => p x.pa)

/-- The residency loads whose source has a page where p holds fail, those for which `late` holds. -/
def failLoads (s : State) (p : Nat → Bool) (late : ResLoad → Bool) : State :=
  s.cores.foldl (fun x c => (c.2.resl.filter (fun l => late l && loadHits s c.1 p l)).foldl (fun x l => endLoad x c.1 l false) x) s

/-- The KV moves and residency loads that reach expander n fail: each of their accesses takes the access error (09 R235, Table
9-15). -/
def failEngines (s : State) (n : Nat) : State :=
  let s1 := (s.moves.filter (moveHits s n)).foldl (fun s m =>
    let p := poolGet s m.pool m.pool2
    dropMove p.1 p.2 m 8) s
  failLoads s1 (inExp n) (fun _ => true)

/-- An expander goes offline (09 R235, R236): outstanding accesses fail, OFF is set, the RDC copies of its lines are invalidated
through the directory, their dirty bytes counted as lost, and replies on their way fill nothing. -/
def expOffline (s : State) (n : Nat) : State :=
  let mine := fun (l : Nat) => inExp n (64 * l)
  let s1 := failEngines ((allWarps s).foldl (fun s r => failAccess s r none (inExp n)) s) n
  let s2 := ((s1.home Config.fed).lines.filter (fun e => mine e.1)).foldl (fun s e =>
    (flushHome s e.1).updHome Config.fed (fun h => { h with lines := mdel h.lines e.1 })) s1
  let s3 := (List.range 8).foldl (fun s d => ((s.die d).rdc.filter (fun e => mine e.1)).foldl (fun s e =>
    dropRdc (if e.2.copy.dirty != 0#64 then s.countLost e.1 else s) d e.1) s) s2
  let s4 := s3.updHome Config.fed (fun h => { h with dir := h.dir.filter (fun e => !mine e.1) })
  let s5 := (s4.home Config.fed).held.foldl (fun s x => if !mine x.req.line then s else
    reply (s.updHome Config.fed (fun h => { h with held := h.held.filter (fun y => y.req.id != x.req.id) })) x.req .accessError []) s4
  let s6 := (s5.net.filter (fun m => mine m.line && (match m.kind with
      | .data _ | .ack => true
      | _ => false))).foldl (fun s m => endWait { s with net := s.net.filter (fun y => y.id != m.id) } m.dst m.line) s5
  (setOff s6 n true).raise (.expander n)

/-! ### The host's link -/

/-- HOST_COMPLETION_TIMEOUT (12 R288): a host access of one operation of a warp has been outstanding for CXLTO.MS, or the host
accesses of residency loads have, which fail with it. -/
def execHostCompletionTimeout (core slot op : Nat) (s : State) : Host.Outcome State Fault Refusal :=
  let r : WRef := { core := core, slot := slot }
  let p := fun (pa : Nat) => regionOf pa == .host
  let s1 := failLoads s p (fun l => s.overdue l.time)
  .next (if overdueAccess s1 r (some op) p then failAccess s1 r (some op) p else s1)

/-- HOST_LINK_DOWN (12 R288). -/
def execHostLinkDown (s : State) : Host.Outcome State Fault Refusal :=
  let p := fun (pa : Nat) => regionOf pa == .host
  let s1 := failLoads ((allWarps s).foldl (fun s r => failAccess s r none p) s) p (fun _ => true)
  let s2 := s1.homes.foldl (fun s h => (h.2.pages.filter (fun e => e.2.state ≥ 2)).foldl (fun s e => recallLost s h.1 e.1) s) s1
  .next (s2.raise .hostDown)

/-! ### Expanders' events -/

/-- EXPANDER_LINK_DOWN (09 R235). -/
def execExpanderLinkDown (n : Nat) (s : State) : Host.Outcome State Fault Refusal := .next (if n < 2 then expOffline s n else s)
/-- A completion of expander n has been outstanding for CXLTO.MS: of a warp's access, of a KV move or a residency load, or of a
request at the FED (09 R235). -/
def expOverdue (s : State) (n : Nat) : Bool :=
  (allWarps s).any (fun r => overdueAccess s r none (inExp n)) ||
  s.moves.any (fun m => s.overdue m.time && moveHits s n m) ||
  s.cores.any (fun c => c.2.resl.any (fun l => s.overdue l.time && loadHits s c.1 (inExp n) l)) ||
  (s.home Config.fed).held.any (fun h => inExp n (64 * h.req.line) && s.overdue h.req.time)

/-- EXPANDER_TIMEOUT (09 R235): a completion has been outstanding for CXLTO.MS. -/
def execExpanderTimeout (n : Nat) (s : State) : Host.Outcome State Fault Refusal :=
  .next (if n < 2 && expOverdue s n then expOffline s n else s)
/-- EXPST_OFF_CLEAR (09 R235). -/
def execExpstOffClear (n : Nat) (s : State) : Host.Outcome State Fault Refusal := .next (if n < 2 then setOff s n false else s)

/-! ### Ethernet ports -/

def State.port (s : State) (p : Nat) : Port := mget {} s.pkg.ports p
def State.updPort (s : State) (p : Nat) (f : Port → Port) : State := s.updPkg (fun k => { k with ports := mupd {} k.ports p f })

/-- Queue pairs of a port (12 R290). -/
def queuePairs : Nat := 16384
/-- A port is up and has the queue pair. -/
def portTakes (s : State) (p qp : Nat) : Bool := p < 2 && (s.port p).up && qp < queuePairs

/-- A piece of a run that a port has translated: its virtual and physical addresses, its length and its CLASS. -/
structure PortPiece where
  va : Nat
  pa : Nat
  len : Nat
  cls : Nat
deriving DecidableEq, Repr

/-- The pieces of a run that a port translates under its own context, or the cause of the first that cannot be reached. -/
def portRun (s : State) (p va n : Nat) (need : BitVec 4) (wr : Bool) : State × (Nat ⊕ List PortPiece) :=
  (pagesOf va n).foldl (fun r x => match r with
    | (s, .inl c) => (s, .inl c)
    | (s, .inr l) => match engineXlat s (agentPort p) (s.port p).ctx x.1 (engineNeed false need) wr with
      | (s1, .inl c) => (s1, .inl c)
      | (s1, .inr y) => (s1, .inr (l ++ [{ va := x.1, pa := y.pa, len := x.2, cls := y.cls }]))) (s, .inr [])

/-- An operation of a port on a run of a tenant's bytes, one page at a time. A page that is not present waits for Tchidal (06
R164); where `out` says that it cannot be mapped, or the run cannot be reached, the operation fails and moves no data. -/
def portOp (s : State) (p va n : Nat) (need : BitVec 4) (wr : Bool) (out : SegOutcome) (f : State → PortPiece → State)
    (done : State → State) : State :=
  match portRun s p va n need wr with
  | (_, .inl c) => if pageWait out c then askRun s (agentPort p) (s.port p).ctx va n (engineNeed false need) wr else s
  | (s1, .inr l) => if l.all (fun y => s1.idleRange (y.pa / 4096 * 4096) 4096) then done (l.foldl f s1) else s

/-- RDMA_WRITE (12 R290): a port receives bytes for a virtual address on a queue pair and writes them at .sy; then the immediate, if
the WRITE has one. -/
def execRdmaWrite : Nat × Nat → BytesAt × Option W32 × SegOutcome → State → Host.Outcome State Fault Refusal
  | (p, qp), (x, imm, out), s =>
    .next (if !portTakes s p qp then s
      else portOp s p x.addr x.bytes.length needW true out
        (fun s y => extWrite s y.pa ((x.bytes.drop (y.va - x.addr)).take y.len) y.cls .none)
        (fun s => match imm with
          | none => s
          | some v => s.updPort p (fun k => { k with recv := k.recv ++ [.imm qp v] })))

/-- RDMA_READ (12 R290): a port reads n bytes for a peer package. -/
def execRdmaRead : Nat × Nat → Nat → Nat × SegOutcome → State → Host.Outcome State Fault Refusal
  | (p, qp), va, (n, out), s =>
    .next (if !portTakes s p qp then s
      else portOp s p va n needR false out (fun s y => (extRead s y.pa y.len .none).1) (fun s => s))

/-- RDMA_SEND (12 R290): a port receives a message on a queue pair. -/
def execRdmaSend : Nat × Nat → BytesAt → State → Host.Outcome State Fault Refusal
  | (p, qp), x, s =>
    .next (if !portTakes s p qp then s else s.updPort p (fun k => { k with recv := k.recv ++ [.send qp x] }))

/-- An operation of a port is over: its number is complete, done or failed (07 R182). -/
def portEnd (s : State) (p : Nat) (o : PortOp) (ok : Bool) : State :=
  completeNum (s.updPort p (fun k => { k with
    ops := k.ops.filter (fun y => y != o)
    errs := if ok then k.errs else k.errs ++ [o] })) o.ctx (0x4000 + p) o.num

/-- RDMA_OPERATION_COMPLETE (12 R290, 07 R182): an operation that a port issues takes its number at submission, and completes,
done or failed; on a port that is down it fails at once (12 R298). -/
def execRdmaOperationComplete : Nat × RdmaStep → State → Host.Outcome State Fault Refusal
  | (p, x), s =>
    .next (if p ≥ 2 then s
      else match x with
        | .submit qp =>
          if qp ≥ queuePairs then s
          else
            let c := (s.port p).ctx
            let n := issueNum s c (0x4000 + p)
            let o : PortOp := { num := n.1, ctx := c, qp := qp }
            let s1 := n.2.updPort p (fun k => { k with ops := k.ops ++ [o] })
            if (s.port p).up then s1 else portEnd s1 p o false
        | .complete num ok => match (s.port p).ops.find? (fun o => o.num = num) with
          | none => s
          | some o => portEnd s p o ok)

/-! ### Collectives -/

/-- The element type of a descriptor (11 Table 11-6). -/
def collTy (c : Nat) : Option DTy :=
  if c = 0 then some (.fp .f32) else if c = 1 then some (.fp .f16) else if c = 2 then some (.fp .bf16)
  else if c = 6 then some (.int .s32) else none

/-- The reduction of a descriptor. -/
def collOp (r : Nat) : ROp := if r = 0 then .add else if r = 1 then .max else .min

/-- A descriptor's fields are in their ranges (12 R291): SRC and DST are virtual addresses of 54 bits. -/
def collOk (x : FColl) : Bool :=
  x.op ≤ 2 && (collTy x.ty).isSome && x.redop ≤ 2 && x.group ≤ 255 && 1 ≤ x.count && x.count ≤ 2 ^ 32 && !vaBad x.src && !vaBad x.dst

/-- Element i of a rank's data. -/
def collElem (w : Nat) (l : List Byte) (i : Nat) : W64 := BitVec.ofNat 64 (leNat ((l.drop (w * i)).take w))

/-- One element combined in ascending rank order, one pair at a time (12 R292). -/
def collReduce (t : DTy) (r : ROp) (w : Nat) (ranks : List (List Byte)) (i : Nat) : List Byte :=
  match ranks with
  | [] => []
  | a :: l => leBytes w (l.foldl (fun acc x => redCombine r t false acc (collElem w x i)) (collElem w a i)).toNat

/-- The elements that a package writes: all of them, those of every rank one after another, or its own share of the
reduced ones (log 22). -/
def collOut (x : FColl) (t : DTy) (ranks : List (List Byte)) : List Byte :=
  let w := DTy.memBytes t
  if x.op = 1 then ranks.flatMap (fun l => l.take (w * x.count))
  else
    let n := if x.op = 0 then x.count else x.count / max 1 ranks.length
    (List.range n).flatMap (fun i => collReduce t (collOp x.redop) w ranks (if x.op = 0 then i else x.rank * n + i))

/-- The TLBs of the collective engine. -/
def agentColl : Nat := 7000

/-- A descriptor is complete with a status. -/
def collEnd (s : State) (x : FColl) (n st : Nat) : State :=
  completeNum (s.updPkg (fun p => { p with coll := p.coll ++ [{ num := n, ctx := x.ctx, status := st }] })) x.ctx 0x3000 n

/-- A collective is aborted through its group: an abort token for each member of that ABORT group that is resident or swapped out,
in every launch of the tenant, which completes with CODE 9, and the abort of the group's peers in other packages (12 R298, 10
R257). -/
def collAbort (s : State) (ctx g : Nat) : State :=
  s.fed.launches.foldl (fun s e =>
    match (Launch.groups e.2)[g]? with
    | none => s
    | some d =>
      if e.2.ctx != ctx || e.2.complete || !d.abort then s
      else
        let s1 := s.updFed (fun f => { f with peers := f.peers ++ [(e.1, g)] })
        if (presentBlocks s1 e.1).any (fun b => GroupD.member d b.toNat) then
          tokensTo (markLaunch s1 e.2 e.1 (fun x => { x with aborted := true })) e.1 (GroupD.member d)
        else s1) s

/-- The number of a descriptor: the one that it received when it began to wait, or the next of KIND 3 (07 R182). -/
def collNum (s : State) (x : FColl) : Nat × State :=
  match s.pkg.collWait.find? (fun c => c.desc = x) with
  | some c => (c.num, s.updPkg (fun p => { p with collWait := p.collWait.filter (fun y => y != c) }))
  | none => issueNum s x.ctx 0x3000

/-- A descriptor that has its number waits. -/
def collHold (s : State) (x : FColl) (n : Nat) : State :=
  s.updPkg (fun p => { p with collWait := p.collWait ++ [{ num := n, desc := x }] })

/-- A descriptor that does not complete: its status is a free value (log 22). -/
def collLost (s : State) (x : FColl) (n : Nat) : State := let f := s.freeByte; collEnd f.2 x n f.1.toNat

/-- COLLECTIVE_DESCRIPTOR (12 R291, R292): the next number of KIND 3 and the whole collective, over at most 4,096 packages. A page
that is not present waits for Tchidal, and is a failure where `out` says that it cannot be mapped. -/
def execCollectiveDescriptor (x : FColl) (out : SegOutcome) (s : State) : Host.Outcome State Fault Refusal :=
  let n := collNum s x
  let r := engineNeed false needR
  let wr := engineNeed false needW
  .next (match collTy x.ty with
    | none => collEnd n.2 x n.1 1
    | some t =>
      let w := DTy.memBytes t
      if !collOk x then collEnd n.2 x n.1 1
      else if !(s.port x.port).up then collAbort (collLost n.2 x n.1) x.ctx x.group
      else if x.rank > x.peers.length || x.peers.length ≥ 4096 || x.peers.any (fun l => l.length != w * x.count) then s
      else if !virtIdle n.2 agentColl x.ctx x.src (w * x.count) r false then collHold n.2 x n.1
      else match readVirt n.2 agentColl x.ctx x.src (w * x.count) r with
        | (s1, .inl c) =>
          if pageWait out c then askRun (collHold n.2 x n.1) agentColl x.ctx x.src (w * x.count) r false else collLost s1 x n.1
        | (s1, .inr l) =>
          let dat := collOut x t (x.peers.take x.rank ++ [l] ++ x.peers.drop x.rank)
          if !virtIdle s1 agentColl x.ctx x.dst dat.length wr true then collHold n.2 x n.1
          else match writeVirt s1 agentColl x.ctx x.dst dat wr with
            | (s2, none) => collEnd s2 x n.1 0
            | (s2, some c) =>
              if pageWait out c then askRun (collHold n.2 x n.1) agentColl x.ctx x.dst dat.length wr true else collLost s2 x n.1)

/-- ETHERNET_PORT_DOWN (12 R298): the outstanding operations of the port's queue pairs fail, and the collectives on it are aborted
through their group. -/
def execEthernetPortDown (p : Nat) (s : State) : Host.Outcome State Fault Refusal :=
  .next (if p ≥ 2 then s
    else
      let s1 := s.updPort p (fun q => { q with up := false })
      let s2 := (s.port p).ops.foldl (fun s o => portEnd s p o false) s1
      (s.pkg.collWait.filter (fun c => c.desc.port = p)).foldl (fun s c =>
        let s3 := s.updPkg (fun k => { k with collWait := k.collWait.filter (fun y => y != c) })
        collAbort (collLost s3 c.desc c.num) c.desc.ctx c.desc.group) s2)

end Sys2Proof.Machine
end

