-- ==== Sys2Proof/Machine/Retire.lean ====
section
/-! DEFINITION. Retiring a stack while kernels run, and the consumption of the error and loss logs (08 R207, 09 R213 to
R221). -/

namespace Sys2Proof.Machine

/-- The survivor list without a stack. -/
def survWithout (t : Tier) (st : Nat) : List Nat :=
  ((List.range t.n).map (survStack t.map)).filter (· != st)

/-- The STATUS that refuses a GO: a migration runs, N is 1, or STACK is not live; the first of them, in this order (09 R213; log
67). -/
def retireRefusal (t : Tier) (st : Nat) : Option Nat :=
  if Tier.migrating t then some 5 else if t.n = 1 then some 3 else if !t.live.getLsbD st then some 4 else none

/-- GO without STACK: step 4 of 09 Table 9-5, or a refusal, which changes nothing but STATUS (09 R213). -/
def retireGo (s : State) (st : Nat) : State :=
  let t := s.pkg.tier
  match retireRefusal t st with
  | some c => s.updTier (fun t => { t with retStatus := c })
  | none =>
    let l := survWithout t st
    s.updTier (fun t => { t with
      retStack := st
      retStatus := 1
      oldmap := t.map
      nold := t.n
      map := survOf l
      n := l.length
      mphase := t.mphase + 1#32
      migw := l.length * 2 ^ 24
      moved := [] })

/-- RETIRE_GO (09 R213, R214). -/
def execRetireGo (stack : Nat) (s : State) : Host.Outcome State Fault Refusal := .next (retireGo s (stack % 8))

/-- Granules moved at once (09 Table 9-4). -/
def retWindow (t : Tier) : Nat := if t.retWin = 0 then 1 else min 64 t.retWin

/-- The survivor index of a stack in the old list. -/
def oldIndex (t : Tier) (st : Nat) : Nat := ((List.range t.nold).find? (fun j => survStack t.oldmap j = st)).getD 0

/-- The old occupant of a granule's new place (09 R216). -/
def occupant (t : Tier) (g : Nat) : Nat := g / max 1 t.n * t.nold + oldIndex t (survStack t.map (g % max 1 t.n))

/-- A granule has left its old place: it is at or above the watermark, or has moved. -/
def granGone (t : Tier) (g : Nat) : Bool := g ≥ t.migw || t.moved.contains g

/-- MIGW falls past moved granules and those whose places coincide. -/
def lowerMigw : Nat → Tier → Tier
  | 0, t => t
  | n + 1, t =>
    if t.migw = 0 then t
    else
      let g := t.migw - 1
      if t.moved.contains g || occupant t g = g then
        lowerMigw n { t with migw := g, moved := t.moved.filter (· != g) }
      else t

/-- The stack that the running migration retires: in the old list and not in the new one. -/
def retiring (t : Tier) : Nat :=
  (((List.range t.nold).map (survStack t.oldmap)).find? (fun x => !((List.range t.n).map (survStack t.map)).contains x)).getD 0

/-- Step 6 of 09 Table 9-5 once MIGW is 0. The firmware records the stack as retired (09 R212, R222). -/
def migrationDone (s : State) : State :=
  let t := s.pkg.tier
  if t.migw != 0 || !Tier.migrating t then s
  else (s.updTier (fun t => { t with
      live := t.live &&& ~~~siteBit (retiring t)
      mphase := t.mphase + 1#32
      retStatus := 2
      moved := []
      retired := t.retired ||| siteBit (retiring t) })).raise .migrationDone

/-- The old home gives up a granule's lines: RDC copies recalled, dirty bytes merged into the data, lines and entries
dropped; the new home takes the page-tracking entry and the die time (09 R217). -/
def handGranule (s : State) (g old new : Nat) : State :=
  let ls := linesOf (4096 * g) 4096
  let s1 := ls.foldl (fun s l => evictHome (recallAll s l 99) old l) s
  let pe := s1.pageEnt? old g
  let dt := (s1.home old).dt
  let s2 := s1.updHome old (fun h => { h with dir := h.dir.filter (fun e => e.1 / 64 != g), pages := mdel h.pages g })
  s2.updHome new (fun h => { h with
    dt := max h.dt dt
    pages := match pe with
      | none => h.pages
      | some e => mset h.pages g e })

/-- A granule may be moved now. -/
def granReady (s : State) (g : Nat) : Bool :=
  let t := s.pkg.tier
  Tier.migrating t && g < t.migw && g + retWindow t ≥ t.migw && !t.moved.contains g &&
  (occupant t g = g || granGone t (occupant t g) || occupant t g ≥ t.n * 2 ^ 24) &&
  s.onlineSite (granSite t g) && s.onlineSite (survStack t.map (g % max 1 t.n)) && s.idleRange (4096 * g) 4096

/-- GRANULE_MOVE (09 R216 to R219, R221): one granule moves whole. An error met in its line `off` is logged, and the
migration goes on. -/
def execGranuleMove (g off : Nat) (out : SegOutcome) (s : State) : Host.Outcome State Fault Refusal :=
  .next (if !granReady s g then migrationDone s
    else
      let t := s.pkg.tier
      let pa := 4096 * g + 64 * (off % 64)
      let s0 := match out with
        | .failed _ => stackError s pa 3
        | o => logOutcome s pa o
      let old := granSite t g
      let new := survStack t.map (g % max 1 t.n)
      let s1 := if old = new then s0 else handGranule s0 g old new
      migrationDone (s1.updTier (fun t => lowerMigw 80 { t with moved := g :: t.moved })))

/-- LLTAIL_WRITE (08 R207). -/
def execLltailWrite (node v : Nat) (s : State) : Host.Outcome State Fault Refusal :=
  .next (if node > 8 then s else s.updHome node (fun h => { h with loss := ringTail 256 h.loss v }))

/-- ELTAIL_WRITE (09 R220). -/
def execEltailWrite (stack v : Nat) (s : State) : Host.Outcome State Fault Refusal :=
  .next (if stack > 7 then s else s.updDie stack (fun d => { d with elog := ringTail 1024 d.elog v }))

end Sys2Proof.Machine
end

