-- ==== Sys2Proof/Machine/Manage.lean ====
section
/-! DEFINITION. What Tchidal and the management units do: power and clock steps (12 R296, R297), the heat sweep (06 R156),
contexts (06 R158), configuration registers (00 R6, R7), attestation and firmware update (12 R295). -/

namespace Sys2Proof.Machine

/-- The next state of an event. -/
def after (f : State → Host.Outcome State Fault Refusal) (s : State) : State :=
  match f s with
  | .next t => t
  | _ => s

/-! ### Power -/

/-- POWER_SAMPLE (12 R296, R297): `draws` are the watts drawn at each step, `settle` the cycles of the new step in which the clock
settles after a change, at most 10 µs. The step stays at MAXSTEP until T has come down (log 84). -/
def execPowerSample (draws : List Nat) (settle : Nat) (s : State) : Host.Outcome State Fault Refusal :=
  let p := s.pkg.pwr
  let m := min 5 p.maxstep
  let fit := (List.range (m + 1)).find? (fun k => match draws[k]? with
    | some d => d ≤ p.cap
    | none => false)
  let go := fun (k t : Nat) => s.updPkg (fun x => { x with pwr := { p with
    step := k
    throttle := t
    settle := if k = p.step then p.settle else s.ctl.clock + min settle (10 * ccAtStep k) } })
  .next (match fit with
    | some k => if p.throttle ≤ 1 then go k 0 else go m (p.throttle - 1)
    | none => (go m (min 15 (p.throttle + 1))).raise .power)

/-! ### Heat -/

/-- The leaves below a table at a level: the address and value of each entry with V = 1 and LEAF = 1. -/
def leavesOf (s : State) : Nat → Nat → Nat → List (Nat × Nat)
  | 0, _, _ => []
  | n + 1, base, lvl =>
    (List.range (if lvl = 1 then 64 else 512)).flatMap (fun i =>
      let a := base + 8 * i
      let e := s.snoopNum a 8
      if bits e 0 0 = 0 || pteBad lvl e then []
      else if bits e 1 1 = 1 then [(a, e)]
      else leavesOf s n (bits e 47 12 * 4096) (lvl + 1))

/-- RHEAT and WHEAT of a leaf are halved, as soon as its line is free (06 R156). -/
def coolLeaf (s : State) (a e : Nat) : State := heatUpdate s { a := a, pfn := bits e 47 12, op := .cool }

/-- HEAT_SWEEP (06 R156): every leaf of every enabled context; a PERIOD of 0 stops the sweeper. -/
def execHeatSweep (s : State) : Host.Outcome State Fault Refusal :=
  .next (if s.pkg.hsweep = 0 then s
    else (s.vm.ctx.filter (fun c => c.2.en)).foldl (fun s c =>
      (leavesOf s 5 c.2.root 1).foldl (fun s x => coolLeaf s x.1 x.2) s) s)

/-! ### Contexts (06 Table 6-11) -/

def State.updCtx (s : State) (c : Nat) (f : Ctx → Ctx) : State := { s with vm := { s.vm with ctx := mupd {} s.vm.ctx c f } }

/-- VER is written: every TLB entry of the context goes, in every agent. -/
def writeVer (s : State) (c v : Nat) : State :=
  let s1 := dropTlb (s.updCtx c (fun x => { x with ver := BitVec.ofNat 10 v })) (fun t => t.ctx = c && !t.g)
  { s1 with vm := { s1.vm with rtlb := s1.vm.rtlb.filter (fun e => e.1 % 64 != c) } }

/-- CONTEXT_VER_WRITE (06 R158): an act of Tchidal's job services, as CONTEXT_ENABLE is (01 R23). -/
def execContextVerWrite (ctx v : Nat) (s : State) : Host.Outcome State Fault Refusal :=
  .next (if s.jobs && ctx < 64 then writeVer s ctx v else s)

/-- The word with ROOT and EN is written; a residency whose source page moves by it is stale (05 R130). Enabling starts the engine
timelines of the context at 1 (07 R182). -/
def writeEn (s : State) (c : Nat) (v : W64) : State :=
  let was := (s.ctxEnt c).en
  let s1 := staleMoved (s.updCtx c (fun x => { x with root := bits v.toNat 47 9 * 512, en := v.getLsbD 0 }))
  if v.getLsbD 0 && !was then s1.updFed (fun f => { f with tls := f.tls.filter (fun e => e.1 / 65536 != c) }) else s1

/-- CONTEXT_ENABLE (06 R158, 07 R182). -/
def execContextEnable (ctx : Nat) (v : W64) (s : State) : Host.Outcome State Fault Refusal :=
  .next (if s.jobs && ctx < 64 then writeEn s ctx v else s)

/-! ### Cores and dies -/

/-- LSCFG is written: 11 to 15 are ignored, and the split waits for the core to hold no block (06 R140). -/
def writeLscfg (s : State) (core spu : Nat) : State :=
  if spu > 10 || (s.lpt core).isNone then s else applySplit (s.updCore core (fun c => { c with spuNew := some spu })) core

/-- LSCFG_WRITE (06 R140). -/
def execLscfgWrite (core : Nat) (v : W64) (s : State) : Host.Outcome State Fault Refusal := .next (writeLscfg s core (bits v.toNat 3 0))

/-- LEASE is written: TICKCC below 16 stores 16, TICKS 0 stores 1 (08 R191). -/
def writeLease (s : State) (site : Nat) (v : W64) : State :=
  if site > 7 then s
  else s.updDie site (fun d => { d with ticks := max 1 (bits v.toNat 15 0), tickcc := max 16 (bits v.toNat 31 16) })

/-- LEASE_CONFIG_WRITE (08 R191). -/
def execLeaseConfigWrite (site : Nat) (v : W64) (s : State) : Host.Outcome State Fault Refusal := .next (writeLease s site v)

/-! ### Attestation and firmware (12 R295) -/

/-- SPDM_REQUEST: the measurement blocks, signed by the responder with Ed25519. The 64 bytes of the signature are free: the key is
the device's own (log 25). -/
def execSpdmRequest (s : State) : Host.Outcome State Fault Refusal :=
  let f := s.pkg.fw
  let img := if f.running = some 1 then f.slot1 else f.slot0
  let hmap4 := s.passedSites.length * 256 + pkgLevel s
  let sig := freeBytes 64 s
  .next (sig.1.updPkg (fun p => { p with fw := { p.fw with reports := p.fw.reports ++
    [.measurements f.measure1 f.minVersion img.sig (hmap3 s) hmap4 sig.2] } }))

/-- PLDM_FIRMWARE_UPDATE: the image takes effect at the next package reset. -/
def execPldmFirmwareUpdate (i : Image) (s : State) : Host.Outcome State Fault Refusal :=
  .next (s.updPkg (fun p => { p with fw := { p.fw with update := some i } }))

/-! ### Configuration registers (00 R6, R7) -/

/-- A queue register is written; the CP then looks at its ring. -/
def writeQueue (s : State) (q : Nat) (f : Queue → Queue) : State := if q ≥ 64 then s else checkQueue (s.updQueue q f) q

/-- PRECTL (10 Table 10-4): DONE and FAIL are cleared by ones, SAVE and SLOT are set, and GO pre-empts; a write with GO that
is ignored changes nothing (10 R250). -/
def writePrectl (s : State) (core : Nat) (v : W64) : State :=
  let clr := fun (p : PreCtl) => { p with done := p.done && !v.getLsbD 61, fail := p.fail && !v.getLsbD 60 }
  let s1 := s.updCore core (fun c => { c with pre := clr c.pre })
  if v.getLsbD 63 then
    (if preemptTakes s core (bits v.toNat 6 0) then
      after (execPreemptGo core (bits v.toNat 53 12 * 4096) (bits v.toNat 6 0)) s1 else s)
  else s1.updCore core (fun c => { c with pre := { c.pre with save := v.extractLsb' 12 42, slot := v.extractLsb' 0 7 } })

/-- RSTCTL (10 R254). -/
def writeRstctl (s : State) (core : Nat) (v : W64) : State :=
  let clr := fun (p : PreCtl) => { p with done := p.done && !v.getLsbD 61, fail := p.fail && !v.getLsbD 60 }
  let s1 := s.updCore core (fun c => { c with rst := clr c.rst })
  if v.getLsbD 63 then
    (if (restoreTakes s core (bits v.toNat 53 12 * 4096)).isSome then
      after (execRestoreGo core (bits v.toNat 53 12 * 4096)) s1 else s)
  else s1.updCore core (fun c => { c with rst := { c.rst with save := v.extractLsb' 12 42 } })

/-- LLCTL or ELCTL of a ring of n entries: the tail, and OVF cleared by a one. -/
def writeRing (n : Nat) (r : LogRing) (v : W64) : LogRing :=
  let r1 := ringTail n r v.toNat
  { r1 with ovf := r1.ovf && !v.getLsbD 47 }

/-- A word of a context-table entry. -/
def writeCtxWord (s : State) (c i : Nat) (v : W64) : State :=
  let x := v.toNat
  if c ≥ 64 then s
  else if i = 0 then writeEn s c v
  else if i = 1 then staleMoved (s.updCtx c (fun e => { e with rtab := bits x 47 9 * 512, nrange := bits x 5 0 }))
  else if i = 2 then s.updCtx c (fun e => { e with pfvec := v.extractLsb' 0 54 })
  else if i = 3 then s.updCtx c (fun e => { e with pool := bits x 47 5 * 32 })
  else if i = 4 then writeVer s c (bits x 9 0)
  else s

/-- A write of a configuration register (00 R6): RW fields are set, ones clear W1C bits, GO and doorbell fields act, RO and
Reserved fields are ignored. -/
def writeReg (s : State) (r : CfgReg) (v : W64) : State :=
  let x := v.toNat
  match r with
  | .qBase q => writeQueue s q (fun k => { k with base := bits x 63 6 * 64 })
  | .qCtl q => writeQueue s q (fun k => { k with
      en := v.getLsbD 31
      ctx := bits x 13 8
      log2n := if 4 ≤ bits x 4 0 && bits x 4 0 ≤ 16 then bits x 4 0 else k.log2n })
  | .qTail q => after (execQtailDoorbell q x) s
  | .qStop q => writeQueue s q (fun k => { k with stop := bits x 7 0 })
  | .slott core j => after (execSlottWrite core j v) s
  | .lscfg core => writeLscfg s core (bits x 3 0)
  | .quota core j =>
    if j ≥ 32 || (s.lpt core).isNone then s
    else
      let lim := fun (q : SMap Quota) (c n : Nat) => mupd {} q c (fun e => { e with limit := n })
      s.updCore core (fun c => { c with quota := lim (lim c.quota (2 * j) (bits x 7 0)) (2 * j + 1) (bits x 39 32) })
  | .prectl core => if (s.lpt core).isNone then s else writePrectl s core v
  | .rstctl core => if (s.lpt core).isNone then s else writeRstctl s core v
  | .lease site => writeLease s site v
  | .l2cq site =>
    if site > 7 then s
    else s.updDie site (fun d => { d with l2cq := (List.range 4).map (fun c => (c, bits x (8 * c + 5) (8 * c))) })
  | .llctl node => if node > 8 then s else s.updHome node (fun h => { h with loss := writeRing 256 h.loss v })
  | .elctl st => if st > 7 then s else s.updDie st (fun d => { d with elog := writeRing 1024 d.elog v })
  | .lsleep l => if l ≥ 18 then s else s.updLink l (fun k => { k with lsleep := x })
  | .hsweep => s.updPkg (fun p => { p with hsweep := bits x 31 0 })
  | .retctl =>
    let s1 := s.updTier (fun t => { t with retStack := bits x 18 16, retWin := bits x 15 8, retRate := bits x 7 0 })
    if !v.getLsbD 31 then s1
    else if (retireRefusal s.pkg.tier (bits x 18 16)).isSome then retireGo s (bits x 18 16) else retireGo s1 (bits x 18 16)
  | .expst => s.updPkg (fun p => { p with exp := { p.exp with
      off0 := p.exp.off0 && !v.getLsbD 0
      off1 := p.exp.off1 && !v.getLsbD 1
      lost0 := p.exp.lost0 - (p.exp.lost0 &&& bits x 31 16)
      lost1 := p.exp.lost1 - (p.exp.lost1 &&& bits x 47 32) } })
  | .cxlto => s.updPkg (fun p => { p with exp := { p.exp with ms := bits x 15 0 } })
  | .pwrctl => s.updPkg (fun p => { p with pwr := { p.pwr with
      maxstep := bits x 35 32
      cap := max 1200 (min 2400 (bits x 11 0)) } })
  | .ctxWord c i => writeCtxWord s c i v
  | .uvec c => if c ≥ 64 then s else s.updCtx c (fun e => { e with uvec := v.extractLsb' 0 54 })
  | .svec c => if c ≥ 64 then s else s.updCtx c (fun e => { e with svec := v.extractLsb' 0 54 })
  | .winCtx m => if m ≥ 16 then s else { s with vm := { s.vm with win := mset s.vm.win m (bits x 5 0) } }
  | .portCtx p => if p ≥ 2 then s else s.updPort p (fun k => { k with ctx := bits x 5 0 })
  | .other => s

/-- REGISTER_WRITE (00 R6, R7). -/
def execRegisterWrite (r : CfgReg) (v : W64) (s : State) : Host.Outcome State Fault Refusal := .next (writeReg s r v)

end Sys2Proof.Machine
end

