-- ==== Sys2Proof/Machine/Dispatch.lean ====
section
/-! DEFINITION. The meaning of every step: one arm per constructor, each a direct call. -/

namespace Sys2Proof.Machine

def exec (i : Instr) (s : State) : Host.Outcome State Fault Refusal :=
  match i with
  | .ill x => Sys2Proof.Machine.execIll x s
  | .nop x => Sys2Proof.Machine.execNop x s
  | .bra x => Sys2Proof.Machine.execBra x s
  | .brx x => Sys2Proof.Machine.execBrx x s
  | .brc x => Sys2Proof.Machine.execBrc x s
  | .join => Sys2Proof.Machine.execJoin s
  | .call x => Sys2Proof.Machine.execCall x s
  | .ret x => Sys2Proof.Machine.execRet x s
  | .exit x => Sys2Proof.Machine.execExit x s
  | .yield x => Sys2Proof.Machine.execYield x s
  | .sleep x => Sys2Proof.Machine.execSleep x s
  | .bkpt x => Sys2Proof.Machine.execBkpt x s
  | .trap x => Sys2Proof.Machine.execTrap x s
  | .tret x => Sys2Proof.Machine.execTret x s
  | .tretSkip x => Sys2Proof.Machine.execTretSkip x s
  | .execrd x => Sys2Proof.Machine.execExecrd x s
  | .execwr x => Sys2Proof.Machine.execExecwr x s
  | .sread x => Sys2Proof.Machine.execSread x s
  | .swrite x => Sys2Proof.Machine.execSwrite x s
  | .setfmt x => Sys2Proof.Machine.execSetfmt x s
  | .wait x => Sys2Proof.Machine.execWait x s
  | .fenceAcq x => Sys2Proof.Machine.execFenceAcq x s
  | .fenceRel x => Sys2Proof.Machine.execFenceRel x s
  | .fenceAr x => Sys2Proof.Machine.execFenceAr x s
  | .fenceSc x => Sys2Proof.Machine.execFenceSc x s
  | .step x => Sys2Proof.Machine.execStep x s
  | .abortg x => Sys2Proof.Machine.execAbortg x s
  | .launch x => Sys2Proof.Machine.execLaunch x s
  | .emit x => Sys2Proof.Machine.execEmit x s
  | .vote x => Sys2Proof.Machine.execVote x s
  | .plop x => Sys2Proof.Machine.execPlop x s
  | .shfl x => Sys2Proof.Machine.execShfl x s
  | .wred x => Sys2Proof.Machine.execWred x s
  | .wscan x => Sys2Proof.Machine.execWscan x s
  | .iadd x => Sys2Proof.Machine.execIadd x s
  | .isub x => Sys2Proof.Machine.execIsub x s
  | .imul x => Sys2Proof.Machine.execImul x s
  | .imulhi x => Sys2Proof.Machine.execImulhi x s
  | .imad x => Sys2Proof.Machine.execImad x s
  | .imin x => Sys2Proof.Machine.execImin x s
  | .imax x => Sys2Proof.Machine.execImax x s
  | .iabs x => Sys2Proof.Machine.execIabs x s
  | .icmp x => Sys2Proof.Machine.execIcmp x s
  | .idot4 x => Sys2Proof.Machine.execIdot4 x s
  | .lea x => Sys2Proof.Machine.execLea x s
  | .sel x => Sys2Proof.Machine.execSel x s
  | .mov x => Sys2Proof.Machine.execMov x s
  | .movi x => Sys2Proof.Machine.execMovi x s
  | .and x => Sys2Proof.Machine.execAnd x s
  | .or x => Sys2Proof.Machine.execOr x s
  | .xor x => Sys2Proof.Machine.execXor x s
  | .not x => Sys2Proof.Machine.execNot x s
  | .shl x => Sys2Proof.Machine.execShl x s
  | .shr x => Sys2Proof.Machine.execShr x s
  | .sra x => Sys2Proof.Machine.execSra x s
  | .bfe x => Sys2Proof.Machine.execBfe x s
  | .bfi x => Sys2Proof.Machine.execBfi x s
  | .clz x => Sys2Proof.Machine.execClz x s
  | .popc x => Sys2Proof.Machine.execPopc x s
  | .brev x => Sys2Proof.Machine.execBrev x s
  | .fadd x => Sys2Proof.Machine.execFadd x s
  | .fmul x => Sys2Proof.Machine.execFmul x s
  | .ffma x => Sys2Proof.Machine.execFfma x s
  | .fmin x => Sys2Proof.Machine.execFmin x s
  | .fmax x => Sys2Proof.Machine.execFmax x s
  | .fcmp x => Sys2Proof.Machine.execFcmp x s
  | .frnd x => Sys2Proof.Machine.execFrnd x s
  | .cvt x => Sys2Proof.Machine.execCvt x s
  | .frcp x => Sys2Proof.Machine.execFrcp x s
  | .frsq x => Sys2Proof.Machine.execFrsq x s
  | .fsqrt x => Sys2Proof.Machine.execFsqrt x s
  | .fexp2 x => Sys2Proof.Machine.execFexp2 x s
  | .flog2 x => Sys2Proof.Machine.execFlog2 x s
  | .fsin x => Sys2Proof.Machine.execFsin x s
  | .fcos x => Sys2Proof.Machine.execFcos x s
  | .ftanh x => Sys2Proof.Machine.execFtanh x s
  | .bfpack x => Sys2Proof.Machine.execBfpack x s
  | .bfunpack x => Sys2Proof.Machine.execBfunpack x s
  | .ld x => Sys2Proof.Machine.execLd x s
  | .st x => Sys2Proof.Machine.execSt x s
  | .atom x => Sys2Proof.Machine.execAtom x s
  | .red x => Sys2Proof.Machine.execRed x s
  | .qld x => Sys2Proof.Machine.execQld x s
  | .qpop x => Sys2Proof.Machine.execQpop x s
  | .cpyLd x => Sys2Proof.Machine.execCpyLd x s
  | .cpySt x => Sys2Proof.Machine.execCpySt x s
  | .cpyg x => Sys2Proof.Machine.execCpyg x s
  | .cbclose x => Sys2Proof.Machine.execCbclose x s
  | .cbwait x => Sys2Proof.Machine.execCbwait x s
  | .cflush x => Sys2Proof.Machine.execCflush x s
  | .cinv x => Sys2Proof.Machine.execCinv x s
  | .clv x => Sys2Proof.Machine.execClv x s
  | .pfmap x => Sys2Proof.Machine.execPfmap x s
  | .tlbinvPage x => Sys2Proof.Machine.execTlbinvPage x s
  | .tlbinvCtx x => Sys2Proof.Machine.execTlbinvCtx x s
  | .tlbinvRange x => Sys2Proof.Machine.execTlbinvRange x s
  | .barinit x => Sys2Proof.Machine.execBarinit x s
  | .bararv x => Sys2Proof.Machine.execBararv x s
  | .barwait x => Sys2Proof.Machine.execBarwait x s
  | .barrmt x => Sys2Proof.Machine.execBarrmt x s
  | .barinv x => Sys2Proof.Machine.execBarinv x s
  | .tlsig x => Sys2Proof.Machine.execTlsig x s
  | .tlwait x => Sys2Proof.Machine.execTlwait x s
  | .tmma x => Sys2Proof.Machine.execTmma x s
  | .accz x => Sys2Proof.Machine.execAccz x s
  | .accmovAccToVec x => Sys2Proof.Machine.execAccmovAccToVec x s
  | .accmovVecToAcc x => Sys2Proof.Machine.execAccmovVecToAcc x s
  | .accmovAccToAcc x => Sys2Proof.Machine.execAccmovAccToAcc x s
  | .resalloc x => Sys2Proof.Machine.execResalloc x s
  | .resload x => Sys2Proof.Machine.execResload x s
  | .respin x => Sys2Proof.Machine.execRespin x s
  | .resunpin x => Sys2Proof.Machine.execResunpin x s
  | .resq x => Sys2Proof.Machine.execResq x s
  | .resref x => Sys2Proof.Machine.execResref x s
  | .resfree x => Sys2Proof.Machine.execResfree x s
  | .kvld x => Sys2Proof.Machine.execKvld x s
  | .kvst x => Sys2Proof.Machine.execKvst x s
  | .kvapp x => Sys2Proof.Machine.execKvapp x s
  | .kvfork x => Sys2Proof.Machine.execKvfork x s
  | .kvrel x => Sys2Proof.Machine.execKvrel x s
  | .kvdem x => Sys2Proof.Machine.execKvdem x s
  | .packageReset x => Sys2Proof.Machine.execPackageReset x s
  | .qtailDoorbell q v => Sys2Proof.Machine.execQtailDoorbell q v s
  | .queueResume q => Sys2Proof.Machine.execQueueResume q s
  | .launchCommand q => Sys2Proof.Machine.execLaunchCommand q s
  | .chainEnd q => Sys2Proof.Machine.execChainEnd q s
  | .tlSignal q => Sys2Proof.Machine.execTlSignal q s
  | .tlWaitCommand q => Sys2Proof.Machine.execTlWait q s
  | .resPreload q => Sys2Proof.Machine.execResPreload q s
  | .fenceCommand q => Sys2Proof.Machine.execFenceCommand q s
  | .barrierCommand q => Sys2Proof.Machine.execBarrierCommand q s
  | .blockPlace lid => Sys2Proof.Machine.execBlockPlace lid s
  | .nodeBlockStart lid idx out => Sys2Proof.Machine.execNodeBlockStart lid idx out s
  | .nodeTimeout lid idx out => Sys2Proof.Machine.execNodeTimeout lid idx out s
  | .warpEnd core slot => Sys2Proof.Machine.execWarpEnd core slot s
  | .slottWrite core j v => Sys2Proof.Machine.execSlottWrite core j v s
  | .warpSwap core out => Sys2Proof.Machine.execWarpSwap core out s
  | .activeSetRotate core => Sys2Proof.Machine.execActiveSetRotate core s
  | .sleepExpiry core slot => Sys2Proof.Machine.execSleepExpiry core slot s
  | .trapServiceRelease core slot v => Sys2Proof.Machine.execTrapServiceRelease core slot v s
  | .handlerTimeout core slot => Sys2Proof.Machine.execHandlerTimeout core slot s
  | .loadReturn core slot op lanes out => Sys2Proof.Machine.execLoadReturn core slot op lanes out s
  | .writeBufferDrain core buf => Sys2Proof.Machine.execWriteBufferDrain core buf s
  | .clcDirtyPush cluster line => Sys2Proof.Machine.execClcDirtyPush cluster line s
  | .ptsTick core => Sys2Proof.Machine.execPtsTick core s
  | .leaseRequest core line => Sys2Proof.Machine.execLeaseRequest core line s
  | .leaseReply id => Sys2Proof.Machine.execLeaseReply id s
  | .atomicRequest core slot op x => Sys2Proof.Machine.execAtomicRequest core slot op x s
  | .rd id => Sys2Proof.Machine.execRd id s
  | .rfo id => Sys2Proof.Machine.execRfo id s
  | .upg id => Sys2Proof.Machine.execUpg id s
  | .push site line => Sys2Proof.Machine.execPush site line s
  | .wb id => Sys2Proof.Machine.execWb id s
  | .evn id => Sys2Proof.Machine.execEvn id s
  | .rdnc x => Sys2Proof.Machine.execRdnc x s
  | .wrnc x => Sys2Proof.Machine.execWrnc x s
  | .dirtyNotice id => Sys2Proof.Machine.execDirtyNotice id s
  | .snoop id => Sys2Proof.Machine.execSnoop id s
  | .discoveryBroadcast id => Sys2Proof.Machine.execDiscoveryBroadcast id s
  | .pageSnoop site page => Sys2Proof.Machine.execPageSnoop site page s
  | .snoopAnswer id => Sys2Proof.Machine.execSnoopAnswer id s
  | .dataReply id => Sys2Proof.Machine.execDataReply id s
  | .acknowledgement id => Sys2Proof.Machine.execAcknowledgement id s
  | .heartbeat site => Sys2Proof.Machine.execHeartbeat site s
  | .deadDieVerdict site => Sys2Proof.Machine.execDeadDieVerdict site s
  | .dieReset site alive => Sys2Proof.Machine.execDieReset site alive s
  | .dieRejoin site => Sys2Proof.Machine.execDieRejoin site s
  | .linkSleep l => Sys2Proof.Machine.execLinkSleep l s
  | .linkWake l => Sys2Proof.Machine.execLinkWake l s
  | .linkWakeTimeout id => Sys2Proof.Machine.execLinkWakeTimeout id s
  | .linkFailure l => Sys2Proof.Machine.execLinkFailure l s
  | .hostMemRead pa n m => Sys2Proof.Machine.execHostMemRead pa n m s
  | .hostMemWrite x m => Sys2Proof.Machine.execHostMemWrite x m s
  | .hostSnoop line inv => Sys2Proof.Machine.execHostSnoop line inv s
  | .pageRecallTimeout page => Sys2Proof.Machine.execPageRecallTimeout page s
  | .hostCompletionTimeout core slot op => Sys2Proof.Machine.execHostCompletionTimeout core slot op s
  | .hostLinkDown => Sys2Proof.Machine.execHostLinkDown s
  | .expanderLinkDown n => Sys2Proof.Machine.execExpanderLinkDown n s
  | .expanderTimeout n => Sys2Proof.Machine.execExpanderTimeout n s
  | .expstOffClear n => Sys2Proof.Machine.execExpstOffClear n s
  | .retireGo stack => Sys2Proof.Machine.execRetireGo stack s
  | .granuleMove g off out => Sys2Proof.Machine.execGranuleMove g off out s
  | .hbmReplay id => Sys2Proof.Machine.execHbmReplay id s
  | .lltailWrite node v => Sys2Proof.Machine.execLltailWrite node v s
  | .eltailWrite stack v => Sys2Proof.Machine.execEltailWrite stack v s
  | .rdmaWrite p x => Sys2Proof.Machine.execRdmaWrite p x s
  | .rdmaRead p va n => Sys2Proof.Machine.execRdmaRead p va n s
  | .rdmaSend p x => Sys2Proof.Machine.execRdmaSend p x s
  | .ethernetPortDown p => Sys2Proof.Machine.execEthernetPortDown p s
  | .collectiveDescriptor x out => Sys2Proof.Machine.execCollectiveDescriptor x out s
  | .powerSample draws settle => Sys2Proof.Machine.execPowerSample draws settle s
  | .preemptGo core save slot => Sys2Proof.Machine.execPreemptGo core save slot s
  | .preemptAck core blk eng out => Sys2Proof.Machine.execPreemptAck core blk eng out s
  | .restoreGo core save => Sys2Proof.Machine.execRestoreGo core save s
  | .restoreStart core out => Sys2Proof.Machine.execRestoreStart core out s
  | .abortToken lid x => Sys2Proof.Machine.execAbortToken lid x s
  | .barrmtRedirect id out => Sys2Proof.Machine.execBarrmtRedirect id out s
  | .remoteArrival id => Sys2Proof.Machine.execRemoteArrival id s
  | .residencyLoadComplete core idx => Sys2Proof.Machine.execResidencyLoadComplete core idx s
  | .residencyLoadFail core x => Sys2Proof.Machine.execResidencyLoadFail core x s
  | .lastuseAge => Sys2Proof.Machine.execLastuseAge s
  | .tmmaRun core x => Sys2Proof.Machine.execTmmaRun core x s
  | .tmmaComplete core id => Sys2Proof.Machine.execTmmaComplete core id s
  | .copySegmentComplete core slot op seg out => Sys2Proof.Machine.execCopySegmentComplete core slot op seg out s
  | .qldFill core slot op out => Sys2Proof.Machine.execQldFill core slot op out s
  | .kvMoveFlip id => Sys2Proof.Machine.execKvMoveFlip id s
  | .kvMoveFail x => Sys2Proof.Machine.execKvMoveFail x s
  | .kvldGatherComplete core slot x => Sys2Proof.Machine.execKvldGatherComplete core slot x s
  | .heatSweep => Sys2Proof.Machine.execHeatSweep s
  | .contextVerWrite ctx v => Sys2Proof.Machine.execContextVerWrite ctx v s
  | .lscfgWrite core v => Sys2Proof.Machine.execLscfgWrite core v s
  | .leaseConfigWrite site v => Sys2Proof.Machine.execLeaseConfigWrite site v s
  | .spdmRequest => Sys2Proof.Machine.execSpdmRequest s
  | .pldmFirmwareUpdate img => Sys2Proof.Machine.execPldmFirmwareUpdate img s
  | .registerWrite r v => Sys2Proof.Machine.execRegisterWrite r v s
  | .residencyLoadStop core idx => Sys2Proof.Machine.execResidencyLoadStop core idx s
  | .contextEnable ctx v => Sys2Proof.Machine.execContextEnable ctx v s
  | .rdmaOperationComplete x => Sys2Proof.Machine.execRdmaOperationComplete x s

end Sys2Proof.Machine
end

