-- ==== Sys2Proof/Machine/Sched.lean ====
section
/-! DEFINITION. Who issues next (03 R68 to R72, 12 R297), what an issue opportunity does, and the waiting warps that become
ready after a step (03 R73, R74). The functions take the instruction semantics `ex` as an argument: `step` gives them `exec`. -/

namespace Sys2Proof.Machine

/-- What an instruction does. -/
abbrev Meaning := Instr → State → Host.Outcome State Fault Refusal

/-- A warp waits behind a load for a `TMMA` that its restore has put back (21 R432, R434). -/
def heldAgain (c : Core) (slot : Nat) : Bool := c.mu.any (fun t => t.slot = slot && t.held && t.again.isSome)

/-- A warp may issue in this cycle: it is ready, its swap is over, and it has not issued in this cycle (03 R70, R73). A warp
at level 0 of a block that a pre-emption has stopped issues nothing (10 R250). -/
def mayIssue (c : Core) (now slot : Nat) (used : List Nat) : Bool :=
  match mfind c.warps slot with
  | none => false
  | some w =>
    let quiet := match mfind c.blocks w.blk with
      | none => true
      | some b => w.level = 0 && (b.phase = .stopping || b.phase = .saving)
    (!w.aborting && w.exited != allLanes || w.level = 3) && !w.stopped && !w.held && w.wait.isNone && w.enter ≤ now && !used.contains slot && !quiet &&
      !heldAgain c slot

/-- The tenant of a warp slot. -/
def slotTenant (c : Core) (slot : Nat) : Option Nat :=
  (mfind c.warps slot).bind (fun w => (mfind c.blocks w.blk).map (fun (b : Block) => b.ctx))

/-- The priorities of a slot-table entry, highest first (03 Table 3-6): each says whether a warp, by handler and tenant, is a
candidate. -/
def issuePrio (e : BitVec 16) : List (Bool → Option Nat → Bool) :=
  let shared : List (Bool → Option Nat → Bool) := [fun h _ => h, fun _ _ => true]
  match slotKind e with
  | 0 => []
  | 1 => [fun h t => h && t = some (slotCtx e), fun _ t => t = some (slotCtx e)] ++ (if slotLend e then shared else [])
  | _ => shared

/-- When a warp issued last; one that never issued comes before every other (03 R71). -/
def issuedAt (c : Core) (slot : Nat) : Nat :=
  match (mfind c.warps slot).bind (fun (w : Warp) => w.issued) with
  | none => 0
  | some t => t + 1

/-- The least recently issued of some slots, the first among equals (03 R71; log 37). -/
def leastRecent (c : Core) : List Nat → Option Nat
  | [] => none
  | x :: t => match leastRecent c t with
    | none => some x
    | some y => if issuedAt c y < issuedAt c x then some y else some x

/-- A slot's warp runs a handler. -/
def runsHandler (c : Core) (slot : Nat) : Bool := ((mfind c.warps slot).map (fun (w : Warp) => decide (w.level > 0))).getD false

/-- The slots that issued in this cycle on one of the two kinds of port. -/
def usedNow (c : Core) (now : Nat) (aae : Bool) : List Nat :=
  if c.portAt != now then [] else if aae then c.aaeUse else c.portUse

/-- The ACCESS warp slots, ascending (03 R70; log 37). -/
def accessSlots (c : Core) : List Nat := (c.warps.map (·.1)).filter (· ≥ 64)

/-- The warp that takes an issue opportunity: of a port, or of the AAE (03 R70, R71, Table 3-6). -/
def pick (s : State) (core : Nat) (aae : Bool) : Option WRef :=
  let c := s.core core
  let now := s.ctl.clock
  let used := usedNow c now aae
  if issueHeld s || used.length ≥ (if aae then 1 else 2) then none
  else
    let cand := (if aae then accessSlots c else c.active).filter (fun x => mayIssue c now x used)
    let tiers := (issuePrio (c.slotAt now (now % 64))).map (fun p => cand.filter (fun x => p (runsHandler c x) (slotTenant c x)))
    ((tiers.find? (fun l => !l.isEmpty)).bind (leastRecent c)).map (fun x => { core := core, slot := x })

/-- A warp that tried to issue still waits where it was: it neither retired nor trapped nor parked. -/
def stillWaits (a b : Option Warp) : Bool :=
  match a, b with
  | some v, some w => w.pc = v.pc && w.issued = v.issued && w.level = v.level &&
      (match w.wait with
        | some (.sleep _ _) | some (.service _ _ _) | some .faults | none => false
        | some _ => true)
  | _, _ => false

/-- The port that a warp used is busy for this cycle, unless the warp only found that it must wait. -/
def notePort (s0 : State) (r : WRef) (s1 : State) : State :=
  if stillWaits (s0.warp? r) (s1.warp? r) then s1
  else
    let now := s0.ctl.clock
    s1.updCore r.core (fun c => { c with
      portUse := if r.slot < 64 then usedNow c now false ++ [r.slot] else usedNow c now false
      aaeUse := if r.slot ≥ 64 then usedNow c now true ++ [r.slot] else usedNow c now true
      portAt := now })

/-- The issuing warp. -/
def State.withCur (s : State) (r : Option WRef) : State := s.updCtl (fun c => { c with cur := r })

/-- A continuation on the next state. -/
def onNext (o : Host.Outcome State Fault Refusal) (f : State → State) : Host.Outcome State Fault Refusal :=
  match o with
  | .next s => .next (f s)
  | .fault e => .fault e
  | .refused e => .refused e

/-- A warp fetches its next instruction and runs it. -/
def runWarp (ex : Meaning) (s : State) (r : WRef) (fresh : Bool) : Host.Outcome State Fault Refusal :=
  match fetchNext s r fresh with
  | (s1, none) => .next s1
  | (s1, some i) => onNext (ex i (s1.withCur (some r))) (fun s2 => s2.withCur none)

/-- One issue opportunity: nothing where no warp is a candidate. -/
def issueAt (ex : Meaning) (s : State) (core : Nat) (aae fresh : Bool) : Host.Outcome State Fault Refusal :=
  match pick s core aae with
  | none => .next s
  | some r => onNext (runWarp ex s r fresh) (notePort s r)

/-! ### Waiting warps -/

/-- Waits that end when the instruction can go on (03 R73): every one but `SLEEP`, `YIELD`, a service, a barrier, a trap or an abort
that is to come, which their own events end. -/
def retries : Option WaitR → Bool
  | some .load | some .counter | some .queue | some .tile | some .other | some (.page _ _) | some (.ring _) | some .area => true
  | some .barrier | some (.sleep _ _) | some .yielded | some (.service _ _ _) | some .faults | none => false

/-- The instruction that a warp waits at could go on in this state. -/
def canGoOn (ex : Meaning) (s : State) (r : WRef) : Bool :=
  match runWarp ex s r false with
  | .next s1 => !stillWaits (s.warp? r) (s1.warp? r)
  | _ => true

/-- A waiting warp whose wait is over is ready again and joins the ready queue (03 R74). -/
def wakeOne (ex : Meaning) (s : State) (r : WRef) : State :=
  match s.warp? r with
  | none => s
  | some w => if retries w.wait && canGoOn ex s r then joinReady (s.setWarp r { w with wait := none }) r else s

/-- Every warp, by core and slot. -/
def State.allWarps (s : State) : List WRef :=
  s.cores.flatMap (fun c => c.2.warps.map (fun w => ({ core := c.1, slot := w.1 } : WRef)))

/-- The ready queue holds ready warps alone (03 R74): one that has been stopped or has ended leaves it. -/
def tidyReady (s : State) : State :=
  { s with cores := s.cores.map (fun c => if c.2.ready.all c.2.ableSlot then c
      else (c.1, { c.2 with ready := c.2.ready.filter c.2.ableSlot })) }

/-- After a step, the heat updates whose lines are free (06 R155) and the KV writes that no move holds (09 R233) are performed, and
every warp whose wait is over becomes ready. Those of one step join the queue in the order of their cores and slots (log 37). -/
def settle (ex : Meaning) (s : State) : State := tidyReady (s.allWarps.foldl (wakeOne ex) (serveHeld (serveHeat s)))

/-! ### Moves of the schedule (log 1) -/

/-- Time passes and the head of the schedule is taken. -/
def State.advance (s : State) (dt : Nat) (rest : List Act) : State :=
  s.updCtl (fun c => { c.after dt (ccPerUs s) with agenda := rest, cur := none })

/-- One move of the machine: before enumeration, a package reset (01 R22); then the head of the schedule. Where the schedule
is empty a cycle passes. -/
def move (ex : Meaning) (s : State) : Host.Outcome State Fault Refusal :=
  if s.ctl.booted then
    match s.ctl.agenda with
    | [] => .next (s.advance 1 [])
    | .issue dt core aae fresh :: t => issueAt ex (s.advance dt t) core aae fresh
    | .event dt i :: t => ex i (s.advance dt t)
    | .kvMeets off out :: t => .next ((s.advance 0 t).updCtl (fun c => { c with kvMet := c.kvMet ++ [(off, out)] }))
  else
    match s.ctl.agenda with
    | .event dt (.packageReset x) :: t => ex (.packageReset x) (s.advance dt t)
    | _ => ex (.packageReset plainReset) (s.withCur none)

/-! ### Placing an instruction (log 6) -/

/-- A warp with the largest register files at the start of its role's code. -/
def loadedWarp : Warp := { blk := 0, id := 0, role := 0, access := false, vregs := 256, sregs := 64, nacc := 4, pc := 0#54 }

/-- The block of the placed warp: tenant 1, no scratchpad. -/
def loadedBlock : Block :=
  { lid := 0, bid := 0#32, ctx := 1, nbv := 2, size := 0, nbar := 0, nshacc := 8, slots := [0] }

/-- The machine as enumeration leaves it, with one warp on core 0 whose fetched window holds an instruction, and an issue
opportunity for it at once. -/
def placeWord (s : State) (nbits w : Nat) : State :=
  let s0 := if s.ctl.booted then s else packageReset plainReset s
  let s1 := s0.updCore 0 (fun c => { c with
    slott := []
    slottNew := []
    portUse := []
    active := [0]
    iwin := mset c.iwin (winKey loadedWarp 1 0#54) (BitVec.ofNat 256 (w % 2 ^ nbits))
    warps := mset c.warps 0 loadedWarp
    blocks := mset c.blocks 0 loadedBlock })
  (s1.updPkg (fun p => { p with pwr := { p.pwr with settle := 0, throttle := 0 } })).updCtl (fun c =>
    { c with agenda := .issue 0 0 false false :: c.agenda })

/-- One step: a move, and the waits that it ends. -/
def stepWith (ex : Meaning) (s : State) : Host.Outcome State Fault Refusal := onNext (move ex s) (settle ex)

end Sys2Proof.Machine
end

