-- ==== Sys2Proof/Machine/Step.lean ====
section
/-! DEFINITION. One step of the machine, and the placing of an instruction where the next step fetches (log 6). -/

namespace Sys2Proof.Machine

/-- One step: a move of the schedule (log 1), and the waits that it ends. -/
def step (s : State) : Host.Outcome State Fault Refusal := stepWith exec s

/-- The state with an instruction in the fetched window of the COMPUTE warp that issues next (log 6): the first `nbits` bits
of `w` at offset 0 of the window, every bit above them 0. -/
def State.withFetchWord (s : State) (nbits w : Nat) : State := placeWord s nbits w

end Sys2Proof.Machine
end

