-- ==== Sys2Proof/Safety.lean ====
section
/-! DEFINITION. The terms in which the claims speak: when an OPI instruction's own effect runs, what it leaves as it was, what
its destination holds, and the invariants of the machine. -/

namespace Sys2Proof.Machine

/-! ### When an instruction's own effect runs -/

/-- What the meaning of an OPI instruction sees, when its own effect runs: there is an issuing warp, every decode check of 11
Table 11-9 passes, no operand is pending (03 R77), and a scalar guard is true. A false lane guard only empties `act`. -/
def ready (i : Instr) (s : State) : Option Env :=
  match s.ctl.cur with
  | none => none
  | some r => match s.warp? r with
    | none => none
    | some w => match s.block? r.core w.blk, encode i with
      | some b, some raw =>
        if issueCheck s r w b raw i = none && blockedBy (guardUse raw ++ waitUses i) (pendings s r w) = none &&
            (Cls.lanes raw.cls || guardScalar w raw.pg.val raw.pn) then
          some {
            r := r
            w := w
            b := b
            act := if Cls.lanes raw.cls then w.exec &&& w.rmask &&& guardLanes w raw.pg.val raw.pn else w.exec
            next := pcAdd w.pc raw.len.bytes
            len := raw.len.bytes }
        else none
      | _, _ => none

/-- The state after an instruction that changed its warp to `w1` and goes on at `pc`: nothing else of the machine changes. -/
def retiredAt (s : State) (e : Env) (w1 : Warp) (pc : VAddr) : State := s.setWarp e.r (retireWarp w1 pc s.ctl.clock)

/-- The same at the next instruction. -/
def retired (s : State) (e : Env) (w1 : Warp) : State := retiredAt s e w1 e.next

/-- The state after an attempt that found the warp must wait: outside a halt's skid only the wait is set, and within one the
warp stops (10 R242). -/
def waiting (s : State) (e : Env) (why : WaitR) : State := s.setWarp e.r (waitWarp e.w why)

/-! ### What a destination holds -/

/-- The vector or scalar destination holds the result `f` of every active lane (of the warp, in class 1); every other register,
lane and part of the warp is as it was. -/
structure LaneResult (e : Env) (c : Cls) (d : Reg) (is64 : Bool) (f : Nat → W64) (w1 : Warp) : Prop where
  rest : w1 = { e.w with v := w1.v, s := w1.s }
  lanes : c ≠ .scl → w1.s = e.w.s ∧ ∀ n l, l < 32 → w1.getV n l =
    if e.act.getLsbD l = true ∧ n = Reg.idx d then (f l).extractLsb' 0 32
    else if e.act.getLsbD l = true ∧ is64 = true ∧ n = Reg.idx d + 1 then (f l).extractLsb' 32 32
    else e.w.getV n l
  scalar : c = .scl → w1.v = e.w.v ∧ ∀ n, w1.getS n = if n = Reg.idx d then f 0 else e.w.getS n

/-- A scalar destination holds `v`, and nothing else of the warp changes. -/
structure ScalarResult (w : Warp) (d : Reg) (v : W64) (w1 : Warp) : Prop where
  rest : w1 = { w with s := w1.s }
  value : ∀ n, w1.getS n = if n = Reg.idx d then v else w.getS n

/-- The predicate destination holds `f` of every active lane, or the scalar predicate holds `f 0` in class 1; p7 and k7 take
no write (11 R266), and nothing else of the warp changes. -/
structure PredResult (e : Env) (c : Cls) (d : Reg) (f : Nat → Bool) (w1 : Warp) : Prop where
  rest : w1 = { e.w with p := w1.p, k := w1.k }
  lanes : c ≠ .scl → w1.k = e.w.k ∧ ∀ n l, n < 8 → l < 32 → (w1.getP n).getLsbD l =
    if e.act.getLsbD l = true ∧ n = Reg.idx d ∧ n ≠ 7 then f l else (e.w.getP n).getLsbD l
  scalar : c = .scl → w1.p = e.w.p ∧ ∀ n, n < 8 → w1.getK n = if n = Reg.idx d ∧ n ≠ 7 then f 0 else e.w.getK n

/-- Accumulator `i` holds `f n` in element n, and every other accumulator of the warp and of its block is as before. -/
def AccResult (e : Env) (i : Nat) (f : Nat → W32) (w1 : Warp) (b1 : Block) : Prop :=
  ∀ j n, n < 1024 → accGet w1 b1 j n = if j = i then f n else accGet e.w e.b j n

/-- Nothing but the warp `r` and the block `h` of its core differs: no byte of memory, no other warp, block or core, and no
other register of the package. -/
structure BlockFrame (s t : State) (r : WRef) (h : Nat) : Prop where
  rest : t = { s with cores := t.cores }
  otherCores : ∀ c, c ≠ r.core → t.core c = s.core c
  sameCore : t.core r.core = { s.core r.core with warps := (t.core r.core).warps, blocks := (t.core r.core).blocks }
  warps : ∀ q, q ≠ r → t.warp? q = s.warp? q
  blocks : ∀ l k, ¬(l = r.core ∧ k = h) → t.block? l k = s.block? l k

/-- The state `t` with the issuing warp retired at the next instruction. -/
def afterDone (t : State) (e : Env) : State := t.updWarp e.r (fun w => retireWarp w e.next t.ctl.clock)

/-- A ready instruction of one lane shape completes: it answers the state in which its warp has retired it and holds the
result `f` in its destination, and nothing else has changed. -/
def LaneOp (i : Instr) (c : Cls) (d : Reg) (is64 : Bool) (f : Env → Nat → W64) : Prop :=
  ∀ s e, ready i s = some e → ∃ w1, exec i s = .next (retired s e w1) ∧ LaneResult e c d is64 (f e) w1

/-- The same with a predicate destination. -/
def PredOp (i : Instr) (c : Cls) (d : Reg) (f : Env → Nat → Bool) : Prop :=
  ∀ s e, ready i s = some e → ∃ w1, exec i s = .next (retired s e w1) ∧ PredResult e c d (f e) w1

/-- The same with a scalar destination. -/
def ScalarOp (i : Instr) (d : Reg) (f : Env → W64) : Prop :=
  ∀ s e, ready i s = some e → ∃ w1, exec i s = .next (retired s e w1) ∧ ScalarResult e.w d (f e) w1

/-- Bit j of a source register read by an integer type. -/
def bitA (e : Env) (t : IntTy) (l : Nat) (a : Reg) (j : Nat) : Bool := (rdReg e.w (IntTy.is64 t) l a).getLsbD j

/-- Bit j of operand B. -/
def bitB (e : Env) (t : IntTy) (l : Nat) (b : Src) (j : Nat) : Bool :=
  (rdSrc e.w (IntTy.is64 t) l (immInt t) b).getLsbD j

/-- A lane instruction whose result has the bits `g` within the n bits of its type and is extended by type above them
(18 R321). -/
def BitsOp (i : Instr) (c : Cls) (d : Reg) (t : IntTy) (g : Env → Nat → Nat → Bool) : Prop :=
  ∃ f, LaneOp i c d (IntTy.is64 t) f ∧ ∀ e l j, j < 64 →
    (f e l).getLsbD j = if j < IntTy.bits t then g e l j else t.signed && g e l (IntTy.bits t - 1)

/-- Operand A of an integer instruction as an exact integer: the low n bits read by type (04 R82). -/
def intA (e : Env) (t : IntTy) (l : Nat) (a : Reg) : Int := intVal t (rdReg e.w (IntTy.is64 t) l a)

/-- Operand B, a register or the immediate read by type (11 R269). -/
def intB (e : Env) (t : IntTy) (l : Nat) (b : Src) : Int := intVal t (rdSrc e.w (IntTy.is64 t) l (immInt t) b)

/-- The value of a floating-point source element (04 R81, R84). -/
def fpB (e : Env) (t : FpTy) (k l : Nat) (b : Src) : FVal := fpSrc e.w t k (rdSrc e.w false l immRaw b)

/-- The value of element k of a floating-point source register. -/
def fpA (e : Env) (t : FpTy) (k l : Nat) (a : Reg) : FVal := fpSrc e.w t k (rdReg e.w false l a)

/-- A value rounded once to the format of its type under a mode, with the warp's FTZ (04 R83, R84, R86). -/
def fpOut (e : Env) (t : FpTy) (m : Rnd) (v : FVal) : Nat := packVal (FpTy.fmt t) m (fmtFtz e.w.fmt) v

/-! ### What a release and an acquire leave -/

/-- A release at a scope has been performed by a core: from .cl on its write buffers are empty, from .di on its cluster's CLC holds
no dirty byte, and from .dv on its die's RDC holds none (07 R176). -/
structure ReleasedAt (t : State) (core : Nat) (q : Scope) : Prop where
  buffers : 2 ≤ Scope.rank q → ∀ b, b < 4 → mget [] (t.core core).wb b = []
  clc : 3 ≤ Scope.rank q → ∀ line c, mfind (t.clc (t.clusterOf core)) line = some c → Copy.dirtyBytes c = []
  rdc : 5 ≤ Scope.rank q → ∀ line x, t.rdc? (t.dieOf core) line = some x → Copy.dirtyBytes x.copy = []

/-- An acquire at a scope has been performed by a core: at .cl its L1 holds no copy, and from .di on its logical time is DT of its
die at least, so that no copy whose lease ends before DT passes the tag check (08 R188). -/
structure AcquiredAt (t : State) (core : Nat) (q : Scope) : Prop where
  l1 : Scope.rank q = 2 → (t.core core).l1 = []
  time : 3 ≤ Scope.rank q → (t.home (t.dieOf core)).dt ≤ t.pts core

/-- An instruction completes: its warp retires it, holding `w1`, and goes on at the next instruction. -/
def Retires (s : State) (e : Env) (t : State) (w1 : Warp) : Prop := t.warp? e.r = some (retireWarp w1 e.next s.ctl.clock)

/-- A release, an acquire, or both, as a fence performs them. -/
def relKind : FenceKind := { rel := true, acq := false, sc := false }
def acqKind : FenceKind := { rel := false, acq := true, sc := false }

/-! ### Packets and the key-value engine -/

/-- The receiver takes a packet of the network now: its route is open, its header is valid, and no earlier packet to the die
about its line is outstanding (08 R204, R205; log 12). -/
def arrives (s : State) (id : Nat) (m : Msg) : Prop :=
  s.net.find? (fun x => x.id = id) = some m ∧ routeOpen s m = true ∧ incOk s m = true ∧ inOrder s m = true

/-- The state with a packet taken from the network. -/
def taken (s : State) (id : Nat) (m : Msg) : State :=
  (route s m.src m.dst).foldl (fun s i => s.updLink i (fun l => { l with lastFlit := s.ctl.time }))
    ({ s with net := s.net.filter (fun x => x.id != id) } : State)

/-- The pool that a KV instruction reaches at an address, and the state after reading it (14 R302): no request to a home is
outstanding, and no earlier KV write of the warp is held. -/
def kvPoolAt (s : State) (e : Env) (va : Nat) : Option (State × KvPool) :=
  if netQuiet s && (s.heldOf e.r).isEmpty then
    match engineXlat s (kvAgent s e) e.b.ctx va needR false with
    | (_, .inl _) => none
    | (s1, .inr x) => match engineXlat s1 (kvAgent s e) e.b.ctx (va + 191) needR false with
      | (_, .inl _) => none
      | (s2, .inr y) => some (poolGet s2 x.pa (y.pa - y.pa % 4096))
  else none

/-- A number that the KVE reads from a tenant's structure. -/
def kvWordAt (s : State) (e : Env) (va n : Nat) (need : BitVec 4) : Option (State × Nat) :=
  match engineXlat s (kvAgent s e) e.b.ctx va need false with
  | (_, .inl _) => none
  | (s1, .inr x) => some (kvGet s1 x.pa n)

/-- A sequence descriptor that the KVE reads (09 R226). -/
def kvSeqAt (s : State) (e : Env) (va : Nat) (need : BitVec 4) : Option (State × KvSeq) :=
  match kvWordAt s e va 8 need with
  | none => none
  | some a => match kvWordAt a.1 e (va + 8) 8 need with
    | none => none
    | some b => some (b.1, { va := va, bt := a.2, nbte := bits b.2 63 32, len := bits b.2 31 0 })

/-- Table entries that the KVE reads in order. -/
def kvTableAt (e : Env) (bt : Nat) (need : BitVec 4) : List Nat → State → Option (State × List Nat)
  | [], s => some (s, [])
  | i :: t, s => match kvWordAt s e (bt + 4 * i) 4 need with
    | none => none
    | some r => (kvTableAt e bt need t r.1).map (fun y => (y.1, r.2 :: y.2))

/-- The lanes of `KVLD` or `KVST` resolved: those that fault, and the others (09 R229). -/
def kvLanesAt (s : State) (e : Env) (p : KvPool) (q : KvSeq) (need : BitVec 4) (w : Nat) (c : Reg) :
    Option (State × List LaneFault × List KvHit) :=
  let ls := kvLanes e c
  let ixs := ((ls.filter (laneInside p q w)).map (fun l => l.tok / KvPool.tpb p)).eraseDups
  (kvTableAt e q.bt need ixs s).map (fun r => kvResolve r.1 p q w ls (fun ix => (mfind (ixs.zip r.2) ix).getD 0))

/-! ### Invariants -/

/-- Memory is in its canonical form. -/
abbrev State.Inv (s : State) : Prop := Memory.wf s.mem

end Sys2Proof.Machine
end

