-- ==== Sys2Proof/Certificates/Slice0/Obligations.lean ====
section
/-! DEFINITION. The statements about the machine, each a formal reading of numbered rules of the spec. -/

open Sys2Proof Sys2Proof.Machine

/-! ### Integer and logic instructions -/

/-- 18 R321, 20 R382, R383: `IADD` and `ISUB` write the exact sum or difference, taken modulo 2^n or clamped under
.sat, extended by type. 20 R382, R383, 16 R310: `IMUL`, `IMULHI`, `IMAD` and `IDOT4`. 20 R382, R383: `IMIN`, `IMAX`
and `IABS`. -/
def Obligations.IntegerArithmetic : Prop :=
  ((∀ x, LaneOp (.iadd x) x.cls x.d (IntTy.is64 x.ty) (fun e l => intOut x.ty x.sat (intA e x.ty l x.a + intB e x.ty l x.b))) ∧
   (∀ x, LaneOp (.isub x) x.cls x.d (IntTy.is64 x.ty) (fun e l => intOut x.ty x.sat (intA e x.ty l x.a - intB e x.ty l x.b)))) ∧
  ((∀ x, LaneOp (.imul x) x.cls x.d (IntTy.is64 x.ty) (fun e l => intOut x.ty x.sat (intA e x.ty l x.a * intB e x.ty l x.b))) ∧
   (∀ x, LaneOp (.imulhi x) x.cls x.d (IntTy.is64 x.ty)
     (fun e l => intOut x.ty x.sat ((intA e x.ty l x.a * intB e x.ty l x.b) / 2 ^ IntTy.bits x.ty))) ∧
   (∀ x, LaneOp (.imad x) x.cls x.d (IntTy.is64 x.ty)
     (fun e l => intOut x.ty x.sat (intA e x.ty l x.a * intB e x.ty l x.b + intA e x.ty l x.c))) ∧
   (∀ x, LaneOp (.idot4 x) .vec x.d false (fun e l =>
     let t : IntTy := if x.signed then .s32 else .z32
     let p := fun j => dotByte x.signed (rdReg e.w false l x.a) j * dotByte x.signed (rdReg e.w false l x.b) j
     intOut t x.sat (intA e t l x.c + p 0 + p 1 + p 2 + p 3)))) ∧
  ((∀ x, LaneOp (.imin x) x.cls x.d (IntTy.is64 x.ty)
     (fun e l => intOut x.ty x.sat (if intA e x.ty l x.a ≤ intB e x.ty l x.b then intA e x.ty l x.a else intB e x.ty l x.b))) ∧
   (∀ x, LaneOp (.imax x) x.cls x.d (IntTy.is64 x.ty)
     (fun e l => intOut x.ty x.sat (if intA e x.ty l x.a ≤ intB e x.ty l x.b then intB e x.ty l x.b else intA e x.ty l x.a))) ∧
   (∀ x, LaneOp (.iabs x) x.cls x.d (IntTy.is64 x.ty)
     (fun e l => intOut x.ty x.sat (if intA e x.ty l x.a < 0 then -intA e x.ty l x.a else intA e x.ty l x.a))))

/-- 20 R384: `ICMP` sets the predicate of every active lane, or of the warp, to the relation of the two sources. -/
def Obligations.IntegerCompare : Prop :=
  ∀ x, PredOp (.icmp x) x.cls x.d (fun e l =>
    let a := intA e x.ty l x.a
    let b := intB e x.ty l x.b
    match x.rel with
    | .eq => decide (a = b)
    | .ne => decide (a ≠ b)
    | .lt => decide (a < b)
    | .le => decide (a ≤ b)
    | .gt => decide (a > b)
    | .ge => decide (a ≥ b))

/-- 18 R321, 20 R382, 21 R441: each bit of `AND`, `OR`, `XOR` and `NOT` is that of the sources, extended by type. 21
R421: the shifts take the amount from bits [7:0] of b; a `SHL` or `SHR` by n or more gives 0, and `SRA` fills with
copies of bit n − 1. -/
def Obligations.LogicAndShifts : Prop :=
  ((∀ x, x.sat = false → BitsOp (.and x) x.cls x.d x.ty (fun e l j => bitA e x.ty l x.a j && bitB e x.ty l x.b j)) ∧
   (∀ x, x.sat = false → BitsOp (.or x) x.cls x.d x.ty (fun e l j => bitA e x.ty l x.a j || bitB e x.ty l x.b j)) ∧
   (∀ x, x.sat = false → BitsOp (.xor x) x.cls x.d x.ty (fun e l j => bitA e x.ty l x.a j != bitB e x.ty l x.b j)) ∧
   (∀ x, x.sat = false → BitsOp (.not x) x.cls x.d x.ty (fun e l j => !bitA e x.ty l x.a j))) ∧
  (let amt := fun (e : Env) (t : IntTy) (l : Nat) (b : Src) => (rdSrc e.w (IntTy.is64 t) l (immInt t) b).toNat % 256
   (∀ x, x.sat = false → BitsOp (.shl x) x.cls x.d x.ty (fun e l j =>
     decide (amt e x.ty l x.b ≤ j) && bitA e x.ty l x.a (j - amt e x.ty l x.b))) ∧
   (∀ x, x.sat = false → BitsOp (.shr x) x.cls x.d x.ty (fun e l j =>
     decide (j + amt e x.ty l x.b < IntTy.bits x.ty) && bitA e x.ty l x.a (j + amt e x.ty l x.b))) ∧
   (∀ x, x.sat = false → BitsOp (.sra x) x.cls x.d x.ty (fun e l j =>
     bitA e x.ty l x.a (min (j + amt e x.ty l x.b) (IntTy.bits x.ty - 1)))))

/-- 18 R337, R345, 19 R355, 20 R383: the bit-field instructions. A field is cut to the width of the type. -/
def Obligations.BitFields : Prop :=
  let pos := fun (e : Env) (t : IntTy) (l : Nat) (f : Src) => min ((rdSrc e.w (IntTy.is64 t) l immRaw f).toNat % 256) (IntTy.bits t)
  let len := fun (e : Env) (t : IntTy) (l : Nat) (f : Src) =>
    min ((rdSrc e.w (IntTy.is64 t) l immRaw f).toNat / 256 % 256) (IntTy.bits t - pos e t l f)
  (∀ x, BitsOp (.bfe x) x.cls x.d x.ty (fun e l j =>
    if j < len e x.ty l x.f then bitA e x.ty l x.a (pos e x.ty l x.f + j)
    else x.ty.signed && decide (0 < len e x.ty l x.f) && bitA e x.ty l x.a (pos e x.ty l x.f + len e x.ty l x.f - 1))) ∧
  (∀ x, BitsOp (.bfi x) x.cls x.d x.ty (fun e l j =>
    if pos e x.ty l x.f ≤ j ∧ j < pos e x.ty l x.f + len e x.ty l x.f then bitA e x.ty l x.c (j - pos e x.ty l x.f)
    else bitA e x.ty l x.a j)) ∧
  (∀ x, ∃ f, LaneOp (.clz x) x.cls x.d false f ∧ ∀ e l, ∃ k, k ≤ IntTy.bits x.ty ∧ f e l = BitVec.ofNat 64 k ∧
    (∀ j, j < k → bitA e x.ty l x.a (IntTy.bits x.ty - 1 - j) = false) ∧
    (k < IntTy.bits x.ty → bitA e x.ty l x.a (IntTy.bits x.ty - 1 - k) = true)) ∧
  (∀ x, LaneOp (.popc x) x.cls x.d false (fun e l =>
    BitVec.ofNat 64 ((List.range (IntTy.bits x.ty)).countP (fun j => bitA e x.ty l x.a j)))) ∧
  (∀ x, ∃ f, LaneOp (.brev x) x.cls x.d (IntTy.is64 x.ty) f ∧ ∀ e l j, j < 64 →
    (f e l).getLsbD j = (decide (j < IntTy.bits x.ty) && bitA e x.ty l x.a (IntTy.bits x.ty - 1 - j)))

/-- 20 R398, R399, R400, 21 R418: `LEA`, `MOV`, `MOVI` and `SEL`. -/
def Obligations.MovesAndAddresses : Prop :=
  (∀ x, LaneOp (.lea x) x.cls x.d true (fun e l => rdReg e.w true l x.a +
    BitVec.ofInt 64 (intVal (if x.signed then .s32 else .z32) (rdSrc e.w false l immRaw x.b) * 2 ^ x.sh.toNat))) ∧
  (∀ x, LaneOp (.mov x) x.cls x.d x.z64 (fun e l => rdReg e.w x.z64 l x.a)) ∧
  (∀ x, LaneOp (.movi x) x.cls x.d (match x.im with
      | .z64 _ | .s64 _ => true
      | _ => false) (fun _ _ => match x.im with
      | .f32 w | .z32 w => w.zeroExtend 64
      | .s32 w => w.signExtend 64
      | .z64 w | .s64 w => w)) ∧
  (∀ x, LaneOp (.sel x) x.cls x.d x.z64 (fun e l =>
    if (match x.p with
      | .p n => (e.w.getP n.val).getLsbD l
      | .k n => e.w.getK n.val
      | _ => false) then rdReg e.w x.z64 l x.a else rdSrc e.w x.z64 l immRaw x.b))

/-! ### Floating point -/

/-- 19 R370, R371: each element of `FADD`, `FMUL` and `FFMA` is the exact result rounded once; `FMIN` and `FMAX`
choose by 04 Table 4-3. -/
def Obligations.FloatArithmetic : Prop :=
  (∀ x, LaneOp (.fadd x) x.cls x.d false (fun e l => fpMap x.ty (fun k =>
    fpOut e x.ty (rmodeOf e.w x.rm) (fvAdd (rmodeOf e.w x.rm) (fpA e x.ty k l x.a) (fpB e x.ty k l x.b))))) ∧
  (∀ x, LaneOp (.fmul x) x.cls x.d false (fun e l => fpMap x.ty (fun k =>
    fpOut e x.ty (rmodeOf e.w x.rm) (fvMul (fpA e x.ty k l x.a) (fpB e x.ty k l x.b))))) ∧
  (∀ x, LaneOp (.ffma x) x.cls x.d false (fun e l => fpMap x.ty (fun k =>
    fpOut e x.ty (rmodeOf e.w x.rm)
      (fvAdd (rmodeOf e.w x.rm) (fvMul (fpA e x.ty k l x.a) (fpB e x.ty k l x.b)) (fpA e x.ty k l x.c))))) ∧
  (∀ x, LaneOp (.fmin x) x.cls x.d false (fun e l => fpMap x.ty (fun k =>
    fpOut e x.ty .rn (fvMinMax false (fpA e x.ty k l x.a) (fpB e x.ty k l x.b))))) ∧
  (∀ x, LaneOp (.fmax x) x.cls x.d false (fun e l => fpMap x.ty (fun k =>
    fpOut e x.ty .rn (fvMinMax true (fpA e x.ty k l x.a) (fpB e x.ty k l x.b)))))

/-- 19 R374, Table 19-7: `FCMP`. A relation whose suffix does not end in u is false when a source is NaN, and the
others are true then; `num` and `nan` ask for that alone. -/
def Obligations.FloatCompare : Prop :=
  ∀ x, PredOp (.fcmp x) x.cls x.d (fun e l =>
    let a := fpA e x.ty (if x.e then 1 else 0) l x.a
    let b := fpB e x.ty (if x.e then 1 else 0) l x.b
    let u := decide (a = .nan) || decide (b = .nan)
    let o := fvCmp false a b
    match x.rel with
    | .eq => !u && o == .eq
    | .ne => !u && !(o == .eq)
    | .lt => !u && o == .lt
    | .le => !u && !(o == .gt)
    | .gt => !u && o == .gt
    | .ge => !u && !(o == .lt)
    | .num => !u
    | .nan => u
    | .equ => u || o == .eq
    | .neu => u || !(o == .eq)
    | .ltu => u || o == .lt
    | .leu => u || !(o == .gt)
    | .gtu => u || o == .gt
    | .geu => u || !(o == .lt))

/-- 04 R83, R86: a value that a format holds is encoded as it stood, in every rounding mode: packing what was
unpacked gives the bits back, for every encoding that is no NaN, and the canonical NaN for every NaN. -/
def Obligations.RoundingKeepsRepresentable : Prop :=
  ∀ (t : FpTy) (m : Rnd) (x : Nat), m ≠ .dyn → x < 2 ^ FpFmt.width (FpTy.fmt t) →
    packVal (FpTy.fmt t) m false (unpackFp (FpTy.fmt t) false x) =
      if unpackFp (FpTy.fmt t) false x = .nan then FpFmt.nanBits (FpTy.fmt t) else x

/-- 19 R377, R378, 04 R87, Tables 4-3 and 4-8: `FRND` and the one-source functions act on each element alone; `FRCP`
and `FRSQ` round toward zero when the grid's NBV is 1. 19 R360, R361, 04 R88: `CVT`. Between two packed types both
elements are converted; a packed destination alone keeps its other element. The values of the transcendental
functions are those of the model's enclosures (log 51). -/
def Obligations.FloatFunctionsAndConversions : Prop :=
  (let fn := fun (i : Instr) (x : FFp1) (g : Env → FVal → Nat) =>
     LaneOp i x.cls x.d false (fun e l => fpMap x.ty (fun k => g e (fpA e x.ty k l x.a)))
   (∀ x : FFp1, fn (.frnd x) x (fun e v => match v with
     | .fin neg m ex => packFp (FpTy.fmt x.ty) .rn (fmtFtz e.w.fmt) neg (roundInt (rmodeOf e.w x.rm) neg m ex false) 0 false
     | v => fpOut e x.ty .rn v)) ∧
   (∀ x : FFp1, fn (.frcp x) x (fun e v =>
     rootFn (FpTy.fmt x.ty) (if e.b.nbv = 1 then .rz else .rn) (fmtFtz e.w.fmt) .rcp v)) ∧
   (∀ x : FFp1, fn (.frsq x) x (fun e v =>
     rootFn (FpTy.fmt x.ty) (if e.b.nbv = 1 then .rz else .rn) (fmtFtz e.w.fmt) .rsq v)) ∧
   (∀ x : FFp1, fn (.fsqrt x) x (fun e v => rootFn (FpTy.fmt x.ty) .rn (fmtFtz e.w.fmt) .sqrt v)) ∧
   (∀ x : FFp1, fn (.fexp2 x) x (fun e v => transFn (FpTy.fmt x.ty) (fmtFtz e.w.fmt) .exp2 v)) ∧
   (∀ x : FFp1, fn (.flog2 x) x (fun e v => transFn (FpTy.fmt x.ty) (fmtFtz e.w.fmt) .log2 v)) ∧
   (∀ x : FFp1, fn (.fsin x) x (fun e v => transFn (FpTy.fmt x.ty) (fmtFtz e.w.fmt) .sin v)) ∧
   (∀ x : FFp1, fn (.fcos x) x (fun e v => transFn (FpTy.fmt x.ty) (fmtFtz e.w.fmt) .cos v)) ∧
   (∀ x : FFp1, fn (.ftanh x) x (fun e v => transFn (FpTy.fmt x.ty) (fmtFtz e.w.fmt) .tanh v))) ∧
  (∀ x, LaneOp (.cvt x) x.cls x.d (DTy.is64 x.dt) (fun e l =>
     let v := rdReg e.w (DTy.is64 x.st) l x.a
     let one := fun k => cvtElem e.w x.dt x.st (rmodeOf e.w x.rm) x.sat k v
     if DTy.packed x.dt && DTy.packed x.st then BitVec.ofNat 64 ((one 1).toNat * 2 ^ 16 ||| (one 0).toNat)
     else if DTy.packed x.dt then
       let old := rdReg e.w false l x.d
       if x.elem then BitVec.ofNat 64 ((old.extractLsb' 0 16).toNat + (one 0).toNat * 2 ^ 16)
       else BitVec.ofNat 64 ((one 0).toNat + (old.extractLsb' 16 16).toNat * 2 ^ 16)
     else one (if DTy.packed x.st && x.elem then 1 else 0)))

/-- 18 R339, R340: `BFPACK` and `BFUNPACK` act once per warp on all 32 lanes. -/
def Obligations.BlockFloat : Prop :=
  (∀ x s e, ready (.bfpack x) s = some e → ∃ w1, exec (.bfpack x) s = .next (retired s e w1) ∧
    w1 = { e.w with v := w1.v, s := w1.s } ∧
    let w := BfpTy.w x.ty
    let p := bfpPack w x.sh.val ((List.range 32).map (fun i => unpackFp f32F false (e.w.getV (Reg.idx x.a) i).toNat))
    let run := p.1.foldr (fun el r => r * 2 ^ w + el) 0
    (∀ n l, l < 32 → w1.getV n l =
      if n = Reg.idx x.d then (if l < w then BitVec.ofNat 32 (run / 2 ^ (32 * l)) else 0#32) else e.w.getV n l) ∧
    (∀ n, w1.getS n = if n = Reg.idx x.e then BitVec.ofNat 64 (p.2.2 * 256 + p.2.1) else e.w.getS n)) ∧
  (∀ x s e, ready (.bfunpack x) s = some e → ∃ w1, exec (.bfunpack x) s = .next (retired s e w1) ∧
    w1 = { e.w with v := w1.v } ∧
    let w := BfpTy.w x.ty
    let run := ((List.range w).map (fun l => (e.w.getV (Reg.idx x.a) l).toNat)).foldr (fun el r => r * 2 ^ 32 + el) 0
    let ex := (e.w.getS (Reg.idx x.e)).toNat
    ∀ n l, l < 32 → w1.getV n l =
      if n = Reg.idx x.d then
        BitVec.ofNat 32 (packVal f32F .rn (fmtFtz e.w.fmt)
          (bfpVal w (run / 2 ^ (w * l) % 2 ^ w) (ex % 256) (ex / 256 % 256)))
      else e.w.getV n l)

/-! ### Predicates, shuffles and reductions -/

/-- 21 R437, 20 R404, Table 20-5: `VOTE` and `PLOP`. -/
def Obligations.PredicateLogic : Prop :=
  let m := fun (e : Env) (a : Reg) => e.w.exec &&& e.w.getP (Reg.idx a)
  (∀ x, x.op = .mask → ScalarOp (.vote x) x.d (fun e => (m e x.a).zeroExtend 64)) ∧
  (∀ x, x.op = .count → ScalarOp (.vote x) x.d (fun e => BitVec.ofNat 64 (popcount (m e x.a)))) ∧
  (∀ x, x.op = .lead → ∃ f, ScalarOp (.vote x) x.d f ∧ ∀ e, ∃ k, f e = BitVec.ofNat 64 k ∧ k ≤ 32 ∧
    (∀ j, j < k → (m e x.a).getLsbD j = false) ∧ (k < 32 → (m e x.a).getLsbD k = true)) ∧
  (∀ x s e, x.op = .atl → ready (.vote x) s = some e → ∃ w1, exec (.vote x) s = .next (retired s e w1) ∧
    PredResult e .scl x.d (fun _ =>
      decide (popcount (m e x.a) ≥ if x.t = 255#8 then popcount e.w.exec else x.t.toNat)) w1) ∧
  (∀ x s e, x.op = .agree → ready (.vote x) s = some e → ∃ w1, exec (.vote x) s = .next (retired s e w1) ∧
    PredResult e .scl x.d (fun _ => decide (m e x.a = 0#32) || decide (m e x.a = e.w.exec)) w1) ∧
  (∀ x, PredOp (.plop x) x.cls x.d (fun e l =>
    let a := rdPred e.w l x.a
    match x.op with
    | .bin .and b => a && rdPred e.w l b
    | .bin .or b => a || rdPred e.w l b
    | .bin .xor b => a != rdPred e.w l b
    | .bin .andn b => a && !rdPred e.w l b
    | .bin .orn b => a || !rdPred e.w l b
    | .not => !a
    | .lut b c t => t.getLsbD ((if a then 4 else 0) + (if rdPred e.w l b then 2 else 0) + if rdPred e.w l c then 1 else 0)))

/-- 21 R420: `SHFL`. A segment has 2^seg lanes; every lane of the source is read before any is written. 21 R439,
R440: `WRED` combines the active lanes in ascending order, and `WSCAN` gives each active lane the combination of the
active lanes up to it, itself counted in the inclusive form. The extension of a narrow result to a scalar register
is the model's reading (log 26). -/
def Obligations.ShufflesAndReductions : Prop :=
  (∀ x, LaneOp (.shfl x) .vec x.d false (fun e l =>
     let n := 2 ^ x.seg.val
     let k := (rdSrc e.w false l immRaw x.b).toNat % 32 % n
     rdReg e.w false (match x.mode with
       | .sel => l / n * n + k
       | .rot => l / n * n + (l % n + k) % n
       | .bfly => l ^^^ k) x.a)) ∧
  (let red := fun (e : Env) (o : ROp) (t : DTy) (a : Reg) (ls : List Nat) =>
     ls.foldl (fun r l => redCombine o t (fmtFtz e.w.fmt) r (rdReg e.w (DTy.is64 t) l a)) (redIdent o t)
   (∀ x, x.cls ≠ .acc → LaneOp (.wred x) .vec x.d (DTy.is64 x.ty) (fun e _ => red e x.op x.ty x.a (lanesOf e.act))) ∧
   (∀ x, x.cls = .acc → ScalarOp (.wred x) x.d (fun e => red e x.op x.ty x.a (lanesOf e.act))) ∧
   (∀ x, LaneOp (.wscan x) .vec x.d (DTy.is64 x.ty) (fun e l =>
     red e x.op x.ty x.a ((lanesOf e.act).filter (fun j => if x.ex then j < l else j ≤ l)))))


/-! ### Control flow and masks -/

/-- 18 R342, R346, 19 R347, 21 R417: `BRA` adds its offset to the PC modulo 2^54; `BRX`, `CALL` and `RET` go to an
address below 2^54 and `CALL` leaves the next instruction's address in its link register; an address with a bit of
[63:54] set raises cause 9 with that address, and no register is written. -/
def Obligations.Branches : Prop :=
  let go := fun (i : Instr) (t : Env → W64) (link : Env → Warp → Prop) =>
    (∀ s e, ready i s = some e → (t e).toNat < 2 ^ 54 →
      ∃ w1, exec i s = .next (retiredAt s e w1 ((t e).truncate 54)) ∧ link e w1) ∧
    (∀ s e, ready i s = some e → e.w.skid = none → 2 ^ 54 ≤ (t e).toNat →
      exec i s = .next (takeTrap s e.r { cause := 9, mask := e.w.exec, addr := t e }))
  (∀ x s e, ready (.bra x) s = some e → exec (.bra x) s = .next (retiredAt s e e.w (e.w.pc + x.off.signExtend 54))) ∧
  (∀ x, go (.brx x) (fun e => rdReg e.w false 0 x.a + (x.off.getD 0#32).signExtend 64) (fun e w1 => w1 = e.w)) ∧
  (∀ x, go (.call x) (fun e => match x.src with
    | .imm o => (e.w.pc + o.signExtend 54).zeroExtend 64
    | .reg r => rdReg e.w false 0 r) (fun e w1 => ScalarResult e.w x.d (e.next.zeroExtend 64) w1)) ∧
  (∀ x, go (.ret x) (fun e => rdReg e.w false 0 x.a) (fun e w1 => w1 = e.w))

/-- 18 R344, 20 R386: `BRC` splits the warp over its predicate, pushing the other lanes and the join; without a
split it pushes the join alone; `JOIN` pops the mask, FMT and PC. A stack without room raises cause 5, and a `JOIN`
on an empty stack, or at the depth with which its handler began, cause 6. -/
def Obligations.Divergence : Prop :=
  (∀ x n s e, x.p = .p n → ready (.brc x) s = some e →
    let c := if x.inv then ~~~(e.w.getP n.val) else e.w.getP n.val
    let taken := e.w.exec &&& c
    let other := e.w.exec &&& ~~~c
    let join : StackEnt := { pc := pcAdd (pcOff e.w.pc x.join) 8, mask := e.w.exec, fmt := e.w.fmt }
    let fall := pcAdd e.w.pc 16
    (taken ≠ 0#32 → other ≠ 0#32 → e.w.stack.length ≤ 30 →
      exec (.brc x) s = .next (retiredAt s e { e.w with
        stack := { pc := fall, mask := other, fmt := e.w.fmt } :: join :: e.w.stack
        exec := taken } (pcOff e.w.pc x.target))) ∧
    (other = 0#32 → e.w.stack.length ≤ 31 →
      exec (.brc x) s = .next (retiredAt s e { e.w with stack := join :: e.w.stack } (pcOff e.w.pc x.target))) ∧
    (taken = 0#32 → other ≠ 0#32 → e.w.stack.length ≤ 31 →
      exec (.brc x) s = .next (retiredAt s e { e.w with stack := join :: e.w.stack } fall)) ∧
    (e.w.skid = none → 32 < e.w.stack.length + (if taken ≠ 0#32 ∧ other ≠ 0#32 then 2 else 1) →
      ∃ q, exec (.brc x) s = .next (takeTrap s e.r q) ∧ q.cause = 5 ∧ q.mask = e.w.exec)) ∧
  (∀ s e top below, ready .join s = some e → e.w.stack = top :: below → (e.w.level = 0 ∨ e.w.stack.length ≠ levelDepth e.w) →
    exec .join s = .next (retiredAt s e { e.w with stack := below, fmt := top.fmt, exec := top.mask &&& ~~~e.w.exited } top.pc)) ∧
  (∀ s e, ready .join s = some e → e.w.skid = none →
    (e.w.stack = [] ∨ (0 < e.w.level ∧ e.w.stack.length = levelDepth e.w)) →
    ∃ q, exec .join s = .next (takeTrap s e.r q) ∧ q.cause = 6 ∧ q.mask = e.w.exec)

/-- 19 R368, R369, 02 R32: `EXIT` ends the active lanes, or in class 1 every lane: EXITED gains them, and EXEC and
every stack entry lose them. When the primary warp of a halt ends, the halted warps resume. -/
def Obligations.LanesExit : Prop :=
  ∀ x s e, ready (.exit x) s = some e →
    let gone := if x.cls = .scl then ~~~e.w.exited else e.act
    let w1 : Warp := { e.w with
      exited := e.w.exited ||| gone
      exec := e.w.exec &&& ~~~gone
      stack := e.w.stack.map (fun y => { y with mask := y.mask &&& ~~~gone }) }
    ((w1.exited ≠ allLanes ∨ e.b.halt ≠ some e.r.slot) → exec (.exit x) s = .next (retired s e w1)) ∧
    (w1.exited = allLanes → e.b.halt = some e.r.slot →
      exec (.exit x) s = .next (afterDone (resumeBlock (s.setWarp e.r w1) e.r.core e.w.blk) e))

/-- 19 R366, 20 R401, 21 R419, R423, R424, 04 R102: `NOP` only goes on; the mask, FMT and special-register
instructions. A reserved AFMT or BFMT raises cause 3. 02 R29, R33, 03 R78, 10 R241: what `SREAD` gives for EXEC,
FMT, the lane, the warp, the block and the tenant, for the four counters, and for the trap registers, which are
those of the level-1 set at level 0 or 1 and of the level-2 set above; TADDR gives a lane its own address in the
vector form. -/
def Obligations.SpecialRegisters : Prop :=
  (∀ x s e, ready (.nop x) s = some e → exec (.nop x) s = .next (retired s e e.w)) ∧
  (∀ x, ScalarOp (.execrd x) x.d (fun e => e.w.exec.zeroExtend 64)) ∧
  (∀ x s e, ready (.execwr x) s = some e →
    exec (.execwr x) s = .next (retired s e { e.w with exec := (srcS e.w x.src).truncate 32 &&& ~~~e.w.exited })) ∧
  (∀ x s e f, ready (.setfmt x) s = some e → fmtOf (srcS e.w x.src) = some f →
    exec (.setfmt x) s = .next (retired s e { e.w with fmt := f })) ∧
  (∀ x s e, ready (.setfmt x) s = some e → e.w.skid = none → fmtOf (srcS e.w x.src) = none →
    ∃ q, exec (.setfmt x) s = .next (takeTrap s e.r q) ∧ q.cause = 3 ∧ q.mask = e.w.exec) ∧
  (∀ x s e, ready (.sread x) s = some e → ∃ w1, exec (.sread x) s = .next (retired s e w1) ∧
    LaneResult e x.cls x.d x.z64 (fun l => spRead s e (x.cls != .scl) l x.n) w1) ∧
  (let num := fun (n : Nat) => BitVec.ofNat 64 n
   let t := fun (e : Env) => if e.w.level ≤ 1 then e.w.t1 else e.w.t2
   let gives := fun (n : SpReg) (f : State → Env → Bool → Nat → W64) => ∀ x s e, x.n = n → ready (.sread x) s = some e →
     ∃ w1, exec (.sread x) s = .next (retired s e w1) ∧ LaneResult e x.cls x.d x.z64 (f s e (x.cls == .scl)) w1
   gives .exec (fun _ e _ _ => num e.w.exec.toNat) ∧ gives .fmt (fun _ e _ _ => num e.w.fmt.toNat) ∧
   gives .laneid (fun _ _ _ l => num l) ∧ gives .warpid (fun _ e _ _ => num e.w.id) ∧
   gives .blockid (fun _ e _ _ => num e.b.bid.toNat) ∧ gives .tenant (fun _ e _ _ => num e.b.ctx) ∧
   gives .ldcnt (fun _ e _ _ => num (e.w.loads.length + (e.w.atoms.filter (fun a => a.dest.isSome)).length)) ∧
   gives .stcnt (fun s e _ _ => num ((s.wbOps e.r).length + e.w.atoms.length + (s.heldOf e.r).length +
     (s.fed.arrivals.filter (s.sent e.r e.w)).length)) ∧
   gives .cpcnt (fun _ e _ _ => num (e.w.copies.filter (fun c => !CopyOp.over c)).length) ∧
   gives .tlcnt (fun s e _ _ => num ((s.core e.r.core).mu.filter (fun m => m.slot = e.r.slot)).length) ∧
   gives .tcause (fun _ e _ _ => num ((t e).icount.toNat * 2 ^ 16 + (t e).hlvl.toNat * 2 ^ 6 + (t e).cause.toNat)) ∧
   gives .tpc (fun _ e _ _ => num (t e).pc.toNat) ∧
   gives .tskid (fun _ e _ _ => num ((t e).prim.toNat * 2 ^ 8 + (t e).skid.toNat)) ∧
   gives .taddr (fun _ e one l => if one then (t e).addr else (mfind (t e).lanes l).getD (t e).addr) ∧
   gives .tdmask (fun _ e _ _ => num ((t e).rmask.toNat * 2 ^ 32 + (t e).mask.toNat)) ∧
   gives .tdop0 (fun _ e _ _ => (t e).dop0) ∧ gives .tdop1 (fun _ e _ _ => (t e).dop1) ∧
   gives .tdop2 (fun _ e _ _ => (t e).dop2) ∧ gives .tdop3 (fun _ e _ _ => (t e).dop3)) ∧
  (∀ x s e, x.n = .exec → ready (.swrite x) s = some e →
    exec (.swrite x) s = .next (retired s e { e.w with exec := (srcS e.w x.src).truncate 32 &&& ~~~e.w.exited })) ∧
  (∀ x s e f, x.n = .fmt → ready (.swrite x) s = some e → fmtOf (srcS e.w x.src) = some f →
    exec (.swrite x) s = .next (retired s e { e.w with fmt := f })) ∧
  (∀ x s e, x.n ≠ .exec → x.n ≠ .fmt → ready (.swrite x) s = some e → exec (.swrite x) s = .next (retired s e e.w))

/-- 21 R422: `YIELD`, and `SLEEP` of 0 cc, retire and take a COMPUTE warp out of the active set, within a halt's
skid too (log 78); `SLEEP` of n cc makes it not ready until the clock is n cc on, and has issued (03 R71). Within a
halt's skid a `SLEEP` that would wait stops the warp (10 R242). 21 R438: `WAIT` goes on once at most n operations of
its class are outstanding, and otherwise the warp waits at it. ICOUNT counts an instruction of a halt's skid (log
48). -/
def Obligations.GivingUpIssueAndWaits : Prop :=
  (let out := fun (s : State) (e : Env) =>
     let w1 := retireWarp e.w e.next s.ctl.clock
     if e.w.access then w1 else { w1 with wait := some .yielded }
   (∀ x s e, ready (.yield x) s = some e → exec (.yield x) s = .next (s.setWarp e.r (out s e))) ∧
   (∀ x s e, ready (.sleep x) s = some e → (srcS e.w x.src).toNat % 2 ^ 32 = 0 →
     exec (.sleep x) s = .next (s.setWarp e.r (out s e))) ∧
   (∀ x s e, ready (.sleep x) s = some e → (srcS e.w x.src).toNat % 2 ^ 32 ≠ 0 →
     let n := (srcS e.w x.src).toNat % 2 ^ 32
     (e.w.skid = none → ∃ t, exec (.sleep x) s = .next t ∧
       t.warp? e.r = some { e.w with issued := some s.ctl.clock, wait := some (.sleep (s.ctl.clock + n) e.next) }) ∧
     (e.w.skid ≠ none → exec (.sleep x) s = .next (waiting s e (.sleep (s.ctl.clock + n) e.next))))) ∧
  (∀ x s e, ready (.wait x) s = some e →
     let n := match x.c with
       | .ld => State.ldcnt e.w
       | .st => s.stcnt e.r e.w
       | .cp => State.cpcnt e.w
       | .tl => s.tlcnt e.r
     (n ≤ x.n.toNat → exec (.wait x) s = .next (retired s e e.w)) ∧
     (x.n.toNat < n → exec (.wait x) s = .next (waiting s e .counter)))

/-! ### Traps and handlers -/

/-- 20 R385, 18 R341, 21 R435: `ILL` traps at decode with cause 1 whatever its fields hold, `BKPT` with cause 25;
`TRAP` parks its warp for Tchidal, which is told its n. That the decode reason of ILL counts before its other fields
is 11 Table 11-9 as read in log 46. That `TRAP` records its registers in the level-1 set at level 0 and leaves both
sets as they are in a handler is the model's reading (log 65). -/
def Obligations.TrapInstructions : Prop :=
  (∀ x s r w b raw, WellFormed (.ill x) = true → s.ctl.cur = some r → s.warp? r = some w → s.block? r.core w.blk = some b →
    encode (.ill x) = some raw → w.skid = none →
    ∃ q, exec (.ill x) s = .next (takeTrap s r q) ∧ q.cause = 1 ∧ q.mask = decodeMask w raw ∧ q.addr = 0#64 ∧
      q.dop0 = raw.toBits.extractLsb' 0 64 ∧ q.dop1 = raw.toBits.extractLsb' 64 64) ∧
  (∀ x s e, ready (.bkpt x) s = some e → e.w.skid = none →
    exec (.bkpt x) s = .next (takeTrap s e.r { cause := 25, mask := e.w.exec })) ∧
  (∀ x s e, ready (.trap x) s = some e → e.w.skid = none →
    ∃ t1, exec (.trap x) s = .next ((s.setWarp e.r { e.w with
        issued := some s.ctl.clock
        wait := some (.service 26 x.n.toNat e.next)
        t1 := t1 }).raise (.service e.r x.n.toNat)) ∧
      (e.w.level ≠ 0 → t1 = e.w.t1) ∧ (e.w.level = 0 → t1.cause = 26#6 ∧ t1.pc = e.w.pc ∧ t1.icount = e.w.icount ∧
        t1.mask = e.w.exec ∧ t1.rmask = allLanes ∧ t1.dop0 = x.n.zeroExtend 64))

/-- 10 R238, R241, R245, Tables 10-1 and 10-2: what a trap taken at level 0 saves and where it goes. The set and the
frame of the level are written, EXEC becomes TDMASK, FMT 0x400, and the PC the vector: UVEC at level 1 for a U-class
cause of a context that has one, PFVEC at level 2 for a page fault under W delivery, SVEC at level 2 otherwise. 10
R247: a trap at level 1 but cause 26 enters level 2, at PFVEC for such a page fault and at SVEC otherwise, and the
level-1 set and frame are kept (a cause 23 there: log 65). 10 R247: a trap at level 2 or 3 but cause 26 is a double
fault: no handler is entered, every warp of the block stops, the level-2 set records cause 35 with the cause of the
trap in TDOP0, and Tchidal is told. -/
def Obligations.TrapEntryAndDoubleFaults : Prop :=
  (∀ s r w b q, s.warp? r = some w → s.block? r.core w.blk = some b → w.skid = none → w.level = 0 → trapClass q ≠ .t →
     let c := s.ctxEnt b.ctx
     let user : Bool := [2, 20, 21, 22, 24, 25].contains q.cause && c.uvec != 0#54
     let page : Bool := (q.cause = 15 || q.cause = 16) && !q.asH
     ∃ w1, (takeTrap s r q).warp? r = some w1 ∧
       w1.level = (if user then 1 else 2) ∧ w1.pc = (if user then c.uvec else if page then c.pfvec else c.svec) ∧
       w1.exec = q.mask ∧ w1.fmt = 0x000400#24 ∧ w1.rmask = allLanes ∧ w1.wait = none ∧
       (let t := if user then w1.t1 else w1.t2
        t.cause = BitVec.ofNat 6 q.cause ∧ t.hlvl = 0#2 ∧ t.icount = w.icount ∧ t.pc = w.pc ∧ t.mask = q.mask ∧
        t.rmask = q.rmask ∧ t.addr = q.addr ∧ t.dop0 = q.dop0 ∧ t.dop1 = q.dop1 ∧ t.dop2 = q.dop2 ∧ t.dop3 = q.dop3 ∧
        t.skid = 0#3) ∧
       (if user then w1.f1 else w1.f2) = { pc := w.pc, exec := w.exec, fmt := w.fmt, depth := w.stack.length } ∧
       (if user then w1.t2 = w.t2 ∧ w1.f2 = w.f2 else w1.t1 = w.t1 ∧ w1.f1 = w.f1) ∧ w1.f3 = w.f3 ∧
       w1.v = w.v ∧ w1.s = w.s ∧ w1.p = w.p ∧ w1.k = w.k ∧ w1.acc = w.acc ∧ w1.q = w.q ∧ w1.stack = w.stack ∧
       w1.exited = w.exited ∧ w1.icount = w.icount ∧ w1.stepno = w.stepno) ∧
  (∀ s r w b q, s.warp? r = some w → s.block? r.core w.blk = some b → w.skid = none → w.level = 1 → q.cause ≠ 26 →
     let c := s.ctxEnt b.ctx
     let page : Bool := (q.cause = 15 || q.cause = 16) && !q.asH
     ∃ w1, (takeTrap s r q).warp? r = some w1 ∧ w1.level = 2 ∧ w1.pc = (if page then c.pfvec else c.svec) ∧
       w1.exec = q.mask ∧ w1.fmt = 0x000400#24 ∧ w1.rmask = allLanes ∧ w1.wait = none ∧
       w1.t2.cause = BitVec.ofNat 6 q.cause ∧ w1.t2.hlvl = 1#2 ∧ w1.t2.icount = w.icount ∧ w1.t2.pc = w.pc ∧
       w1.t2.mask = q.mask ∧ w1.t2.rmask = q.rmask ∧ w1.t2.addr = q.addr ∧ w1.t2.dop0 = q.dop0 ∧ w1.t2.dop1 = q.dop1 ∧
       w1.t2.dop2 = q.dop2 ∧ w1.t2.dop3 = q.dop3 ∧
       w1.f2 = { pc := w.pc, exec := w.exec, fmt := w.fmt, depth := w.stack.length } ∧
       w1.t1 = w.t1 ∧ w1.f1 = w.f1 ∧ w1.f3 = w.f3 ∧ w1.v = w.v ∧ w1.s = w.s ∧ w1.p = w.p ∧ w1.k = w.k ∧ w1.acc = w.acc ∧
       w1.q = w.q ∧ w1.stack = w.stack ∧ w1.exited = w.exited ∧ w1.icount = w.icount ∧ w1.stepno = w.stepno) ∧
  (∀ s r w b q, s.warp? r = some w → s.block? r.core w.blk = some b → w.skid = none → 2 ≤ w.level → q.cause ≠ 26 →
     r.slot ∈ b.slots →
     (∃ w1, (takeTrap s r q).warp? r = some w1 ∧ w1.pc = w.pc ∧ w1.level = w.level ∧ w1.stopped = true ∧
       w1.t2.cause = 35#6 ∧ w1.t2.dop0 = BitVec.ofNat 64 q.cause ∧ w1.t2.dop1 = q.addr ∧
       w1.t2.addr = (if w.level = 2 then w.t2.pc.zeroExtend 64 else 0#64)) ∧
     (∀ x v, x ∈ b.slots → s.warp? { core := r.core, slot := x } = some v →
       ∃ v1, (takeTrap s r q).warp? { core := r.core, slot := x } = some v1 ∧ v1.stopped = true) ∧
     Irq.doubleFault r ∈ (takeTrap s r q).ctl.irqs)

/-- 10 R242: an H-class trap that finds its block not halted halts it: the primary warp is the trapping one, every
other warp of the block that waits, or has run `ABORTG` (18 R315), stops at once, and one that does not may still
issue (a warp that ran `YIELD` may leave the active set for the handler first, and then waits no more: 03 R74). -/
def Obligations.BlockHalts : Prop :=
  ∀ s r w b q, s.warp? r = some w → s.block? r.core w.blk = some b → w.skid = none → w.level = 0 → trapClass q = .h →
    b.halt = none → b.slots.Nodup →
    (∃ b1, (takeTrap s r q).block? r.core w.blk = some b1 ∧
      b1 = { b with halt := some r.slot, haltBy := some (s.ctl.clock, { w with rmask := q.rmask }) }) ∧
    (∀ w1, (takeTrap s r q).warp? r = some w1 → (if w1.level = 1 then w1.t1 else w1.t2).prim = true) ∧
    (∀ x v, x ∈ b.slots → x ≠ r.slot → s.warp? { core := r.core, slot := x } = some v → v.skid = none → v.level = 0 →
      ∃ v1, (takeTrap s r q).warp? { core := r.core, slot := x } = some v1 ∧ v1.skid = some 0 ∧
        (v.wait ≠ some .yielded → v1.stopped = (v.wait.isSome || v.aborting)) ∧ v1.t1.pc = v.pc ∧ v1.t1.prim = false ∧ v1.pc = v.pc ∧
        v1.v = v.v ∧ v1.s = v.s)

/-- 10 R246, 21 R436: `TRET` at level 1 or 2 restores EXEC, without lanes that have exited, FMT, the stack depth,
the PC and the level that the entry saved, and the interrupted instruction executes again for the lanes of its
TRMASK. `TRET.skip` goes on at TDOP2 for causes 1 to 7, at the frame PC, counting nothing, for causes 21 and 22 with
TDOP1 ≠ 0, the fault of a reissued `TMMA` (21 R434), and otherwise at the instruction after TPC, and at level 3 it
is a double fault. A primary warp that returns to level 0 ends the halt, and a warp at level 3 with cause 34 ends.
What ICOUNT counts is log 48, and level 3 is log 49. -/
def Obligations.TrapReturn : Prop :=
  let frame := fun (w : Warp) => if w.level = 1 then w.f1 else w.f2
  let set := fun (w : Warp) => if w.level = 1 then w.t1 else w.t2
  let plain := fun (e : Env) => e.w.skid = none ∧ (e.w.level = 1 ∨ e.w.level = 2) ∧
    ((set e.w).hlvl = 0#2 → e.b.phase ≠ .aborting ∧ e.b.halt ≠ some e.r.slot)
  let back := fun (s : State) (e : Env) (pc : VAddr) (rm : Mask) (count : Bool) => s.setWarp e.r { e.w with
    exec := (frame e.w).exec &&& ~~~e.w.exited
    fmt := (frame e.w).fmt
    stack := e.w.stack.drop (e.w.stack.length - (frame e.w).depth)
    pc := pc
    level := (set e.w).hlvl.toNat
    rmask := rm
    issued := some s.ctl.clock
    wait := none
    icount := if count && (set e.w).hlvl = 0#2 then e.w.icount + 1#48 else e.w.icount }
  (∀ x s e, ready (.tret x) s = some e → plain e →
    exec (.tret x) s = .next (back s e (frame e.w).pc (set e.w).rmask false)) ∧
  (∀ x s e, ready (.tretSkip x) s = some e → plain e →
    let c := (set e.w).cause.toNat
    (1 ≤ c ∧ c ≤ 7 → exec (.tretSkip x) s = .next (back s e ((set e.w).dop2.truncate 54) allLanes true)) ∧
    (¬(1 ≤ c ∧ c ≤ 7) → ¬((c = 21 ∨ c = 22) ∧ (set e.w).dop1 ≠ 0#64) → exec (.tretSkip x) s =
      .next (back s e (pcAdd (frame e.w).pc (lenAt s e.r.core e.b.ctx e.w (frame e.w).pc)) allLanes true)) ∧
    ((c = 21 ∨ c = 22) → (set e.w).dop1 ≠ 0#64 →
      exec (.tretSkip x) s = .next (back s e (frame e.w).pc allLanes false))) ∧
  (∀ x s e, ready (.tret x) s = some e → e.w.skid = none → (e.w.level = 1 ∨ e.w.level = 2) → (set e.w).hlvl = 0#2 →
    e.b.phase = .run → e.b.halt = some e.r.slot → e.b.slots.Nodup →
    ∃ t, exec (.tret x) s = .next t ∧ t.block? e.r.core e.w.blk = some { e.b with halt := none, haltBy := none } ∧
      ∀ y v, y ∈ e.b.slots → y ≠ e.r.slot → s.warp? { core := e.r.core, slot := y } = some v →
        t.warp? { core := e.r.core, slot := y } = some { v with skid := none, stopped := false, inHandler := false }) ∧
  (∀ x s e, ready (.tretSkip x) s = some e → e.w.skid = none → e.w.level = 3 →
    exec (.tretSkip x) s = .next (doubleFault s e.r e.w { cause := 1, mask := e.w.exec })) ∧
  (∀ x s e, ready (.tret x) s = some e → e.w.level = 3 → e.w.t2.cause = 34#6 → exec (.tret x) s = .next (retired s e { e.w with
    exited := e.w.exited ||| ~~~e.w.exited
    exec := e.w.exec &&& e.w.exited
    stack := e.w.stack.map (fun y => { y with mask := y.mask &&& e.w.exited }) }))

/-! ### Ordering, steps and aborts -/

/-- 19 R375, R376, 02 R54: a fence completes once nothing that it orders is outstanding, and waits while something
is. A release then leaves the core's write buffers empty from .cl on, no dirty byte in its cluster's CLC from .di on
and none in its die's RDC from .dv on; an acquire leaves no copy in the core's L1 at .cl, and the core's logical
time at DT at least from .di on. The registers of the warp stay. A fence at .wp without `.sc` waits for nothing. A
.gp fence of a block outside the group raises cause 14. -/
def Obligations.Fences : Prop :=
  let fence := fun (i : FFence → Instr) (k : FenceKind) => ∀ x s e, ready (i x) s = some e →
    ((x.sc = .gp → groupOk s e.b x.g.toNat = true) →
      let q := effScope s e.b x.sc
      (fenceWait s e.r e.w e.b.ctx k q = none → ∃ t, exec (i x) s = .next t ∧ Retires s e t e.w ∧
        (k.rel = true → ReleasedAt t e.r.core q) ∧ (k.acq = true → AcquiredAt t e.r.core q)) ∧
      (∀ why, e.w.skid = none → fenceWait s e.r e.w e.b.ctx k q = some why → exec (i x) s = .next (waiting s e why)) ∧
      (k.sc = false → x.sc = .wp → exec (i x) s = .next (retired (fenceDo s e.r.core k .wp) e e.w))) ∧
    (x.sc = .gp → groupOk s e.b x.g.toNat = false → e.w.skid = none →
      exec (i x) s = .next (takeTrap s e.r { cause := 14, mask := e.w.exec, addr := BitVec.ofNat 64 x.g.toNat }))
  fence .fenceAcq acqKind ∧ fence .fenceRel relKind ∧ fence .fenceAr { relKind with acq := true } ∧
  fence .fenceSc { relKind with acq := true, sc := true }

/-- 21 R427, 10 R256, R257, 18 R315, R316: `STEP` completes once what its release at .dv orders is done and fewer
than 64 stores are outstanding (03 R78), as that release, and records n in STEPNO and for every ABORT group of the
block; nothing else of the warp changes. `ABORTG` completes on the same condition but that of the stores, as that
release, lets its warp issue nothing more below level 3, and ends its grid as a fatal fault: the launch takes no
further block, Tchidal is told, and an abort token goes to every block of the launch, resident or swapped out, that
is the warp's own or shares an ABORT group with it; at level 3 the own block, which ends at the `TRET`s of its
level-3 warps, gets none (18 R316). -/
def Obligations.StepsAndAborts : Prop :=
  (∀ x s e, ready (.step x) s = some e → s.stcnt e.r e.w < 64 → fenceWait s e.r e.w e.b.ctx relKind .dv = none →
    let n : W32 := (srcS e.w x.src).truncate 32
    ∃ t, exec (.step x) s = .next t ∧ Retires s e t { e.w with stepno := n } ∧ ReleasedAt t e.r.core .dv ∧
      (∀ g, g ∈ abortGroups (release s e.r.core .dv) e.b →
        mfind t.fed.steps (stepKey e.b.lid g e.b.bid.toNat) = some n)) ∧
  (∀ x s e, ready (.abortg x) s = some e → fenceWait s e.r e.w e.b.ctx relKind .dv = none →
    ∃ t w1, exec (.abortg x) s = .next t ∧ t.warp? e.r = some w1 ∧
      w1 = { retireWarp e.w e.next s.ctl.clock with aborting := w1.aborting, held := w1.held } ∧ (e.w.level ≠ 3 → w1.aborting = true) ∧
      ReleasedAt t e.r.core .dv ∧
      ∀ l, s.launch? e.b.lid = some l → (release s e.r.core .dv).launch? e.b.lid = some l →
        (∃ l1, t.launch? e.b.lid = some l1 ∧ l1.aborted = true) ∧ Irq.fatal e.b.lid e.b.bid ∈ t.ctl.irqs ∧
        ∀ b, b ∈ presentBlocks s e.b.lid → l.abortsWith e.b.bid.toNat b.toNat = true → (e.w.level = 3 → b ≠ e.b.bid) →
          { lid := e.b.lid, bid := b } ∈ t.fed.tokens) ∧
  (∀ i, (∃ x, i = .step x) ∨ (∃ x, i = .abortg x) → ∀ s e why, ready i s = some e → e.w.skid = none →
    ((∃ x, i = .step x) → s.stcnt e.r e.w < 64) → fenceWait s e.r e.w e.b.ctx relKind .dv = some why → exec i s = .next (waiting s e why))

/-! ### Barriers -/

/-- 18 R330, 02 Table 2-3: `BARINIT` sets up an object that expects v arrivals; v outside 1 to 65,535 raises cause
3, and an object on which warps are parked cause 12. 18 R331: `BARINV` of an object that is not valid does nothing;
of another it makes it not valid, with ARRIVED 0 and EXPECT and PHASE as they were, and wakes the warps parked on
it, each marked so that the `BARWAIT` at which it stands gives false whatever becomes of the object. 02 R40, Table
2-3: an object written is the object read, and the scratchpad bytes outside its 16 stay, for every object of a block
whose barriers lie in its scratchpad. 18 R329: an arrival below the expected count only counts; the one that reaches
it completes the phase: the count starts again, the phase rises by 1 modulo 256, and the parked warps wake. An
arrival at an object that is not valid counts nothing. -/
def Obligations.BarrierObjects : Prop :=
  ((∀ x s e, ready (.barinit x) s = some e →
     let v := (srcS e.w x.src).toNat
     let o := getBar e.b x.n.toNat
     (0 < v → v < 65536 → o.parked = 0#32 → exec (.barinit x) s =
       .next (afterDone (setBar s e.r.core e.w.blk x.n.toNat { expect := v, valid := true }) e)) ∧
     (e.w.skid = none → (v = 0 ∨ 65536 ≤ v) →
       ∃ q, exec (.barinit x) s = .next (takeTrap s e.r q) ∧ q.cause = 3 ∧ q.mask = e.w.exec) ∧
     (e.w.skid = none → 0 < v → v < 65536 → o.parked ≠ 0#32 → exec (.barinit x) s = .next (takeTrap s e.r
       { cause := 12, mask := e.w.exec, addr := BitVec.ofNat 64 (barOff e.b x.n.toNat) }))) ∧
   (∀ x s e, ready (.barinv x) s = some e →
     let o := getBar e.b x.n.toNat
     (o.valid = false → exec (.barinv x) s = .next (retired s e e.w)) ∧
     (o.valid = true → exec (.barinv x) s = .next (afterDone (endParked
       (setBar s e.r.core e.w.blk x.n.toNat { o with valid := false, arrived := 0, parked := 0#32 }) e.r.core e.w.blk o.parked) e)))) ∧
  (∀ s core h b m i sl v, s.block? core h = some b → m.getLsbD i = true → b.slots[i]? = some sl →
     s.warp? { core := core, slot := sl } = some v → ∃ v1, (endParked s core h m).warp? { core := core, slot := sl } = some v1 ∧
       v1.barGone = some v.pc ∧ v1.pc = v.pc ∧ (v.wait = some .barrier → v1.wait = none)) ∧
  (∀ s core h b n x, s.block? core h = some b → n < b.nbar → 16 * b.nbar ≤ b.size →
     x.expect < 65536 → x.arrived < 65536 → x.phase < 256 →
     ∃ b1, (setBar s core h n x).block? core h = some b1 ∧ getBar b1 n = x ∧
       ∀ a, (a < barOff b n ∨ barOff b n + 16 ≤ a) → mget 0#8 b1.scr a = mget 0#8 b.scr a) ∧
  (∀ s core h b n, s.block? core h = some b →
     let o := getBar b n
     (o.valid = false → barArrive s core h n = (s, o.phase, false)) ∧
     (o.valid = true → o.arrived + 1 < o.expect →
       barArrive s core h n = (setBar s core h n { o with arrived := o.arrived + 1 }, o.phase, true)) ∧
     (o.valid = true → o.expect ≤ o.arrived + 1 → barArrive s core h n =
       (wakeParked (setBar s core h n { o with arrived := o.arrived + 1 - o.expect, phase := (o.phase + 1) % 256, parked := 0#32 })
         core h o.parked, o.phase, true)))

/-- 18 R329, R332, R334, 07 R177: `BARARV` releases at .bk, arrives, and gives the phase with bit 8 set where the
arrival did not count; `BARWAIT` gives true once its phase is complete, as an acquire at .bk, false on an object
that is not valid or where a `BARINV` woke the warp at it (18 R331), and parks the warp otherwise; `BARRMT` releases
at the group's scope and sends an arrival to a block of the group, and waits where STCNT is at its limit of 64 (03
R78). -/
def Obligations.BarrierInstructions : Prop :=
  let k : FenceKind := relKind
  (∀ x s e, ready (.bararv x) s = some e → fenceWait s e.r e.w e.b.ctx k .bk = none → (x.tile = true → s.tlcnt e.r = 0) →
    let a := barArrive (release s e.r.core .bk) e.r.core e.w.blk x.n.toNat
    exec (.bararv x) s = .next (afterDone (match x.d with
      | none => a.1
      | some d => a.1.updWarp e.r (fun w =>
        wrReg w false 0 d (BitVec.ofNat 64 (a.2.1 + (if a.2.2 then 0 else 256))))) e)) ∧
  (∀ x n s e, x.d = .k n → ready (.barwait x) s = some e →
    let o := getBar e.b x.n.toNat
    let me : W32 := 1#32 <<< e.w.id
    let out := fun (v : Bool) => Warp.putK { e.w with barGone := none } n.val v
    (o.parked &&& me = 0#32 → o.valid = false ∨ e.w.barGone = some e.w.pc →
      exec (.barwait x) s = .next (retired s e (out false))) ∧
    (o.parked &&& me = 0#32 → o.valid = true → e.w.barGone ≠ some e.w.pc → phaseDone o (srcS e.w x.src).toNat = true →
      fenceWait s e.r e.w e.b.ctx acqKind .bk = none →
      exec (.barwait x) s = .next (retired s e (out true))) ∧
    (e.w.skid = none → o.valid = true → e.w.barGone ≠ some e.w.pc → phaseDone o (srcS e.w x.src).toNat = false → exec (.barwait x) s =
      .next ((setBar s e.r.core e.w.blk x.n.toNat { o with parked := o.parked ||| me }).setWarp e.r
        { e.w with wait := some .barrier }))) ∧
  (∀ x s e, ready (.barrmt x) s = some e →
    let t := (rdReg e.w false 0 x.a).toNat % 2 ^ 32
    let q := effScope s e.b .gp
    (groupOk s e.b x.g.toNat = true → targetOk s e.b x.g.toNat t = true → e.w.skid = none → 64 ≤ s.stcnt e.r e.w →
      exec (.barrmt x) s = .next (waiting s e .counter)) ∧
    (groupOk s e.b x.g.toNat = true → targetOk s e.b x.g.toNat t = true → s.stcnt e.r e.w < 64 →
      fenceWait s e.r e.w e.b.ctx k q = none →
      ∃ y, exec (.barrmt x) s = .next y ∧ Retires s e y e.w ∧ ReleasedAt y e.r.core q ∧
        ∃ a, y.fed.arrivals = (release s e.r.core q).fed.arrivals ++ [a] ∧ a.lid = e.b.lid ∧ a.bid.toNat = t ∧
          a.n = x.n.toNat ∧ a.sb = e.b.bid ∧ a.sw = e.w.id ∧ a.kd = Reg.idx x.d ∧ a.held = false) ∧
    (e.w.skid = none → ¬(groupOk s e.b x.g.toNat = true ∧ targetOk s e.b x.g.toNat t = true) →
      exec (.barrmt x) s = .next (takeTrap s e.r { cause := 14, mask := e.w.exec, addr := BitVec.ofNat 64 x.g.toNat })))

/-! ### Timelines and accumulators -/

/-- 03 R60, 07 R183, 21 R429, R430: `TLSIG`, below the limit of STCNT (03 R78), releases at .dv and raises the
queue's timeline to its value, never lowering it; `TLWAIT` goes on, as an acquire at .dv, once the counter has
reached n, and waits otherwise. A TLID that the warp may not name raises cause 3. -/
def Obligations.Timelines : Prop :=
  (∀ x s e, ready (.tlsig x) s = some e →
    let t := (rdReg e.w false 0 x.a).toNat % 65536
    let v := rdReg e.w false 0 x.b
    (queueOk s e.b.ctx t = true → s.stcnt e.r e.w < 64 →
      fenceWait s e.r e.w e.b.ctx relKind .dv = none →
      ∃ y, exec (.tlsig x) s = .next y ∧ Retires s e y e.w ∧ ReleasedAt y e.r.core .dv ∧
        (y.queue (t % 4096)).tl =
          (if ((release s e.r.core .dv).queue (t % 4096)).tl.toNat < v.toNat then v
           else ((release s e.r.core .dv).queue (t % 4096)).tl)) ∧
    (e.w.skid = none → queueOk s e.b.ctx t = false →
      ∃ q, exec (.tlsig x) s = .next (takeTrap s e.r q) ∧ q.cause = 3 ∧ q.mask = e.w.exec)) ∧
  (∀ x s e, ready (.tlwait x) s = some e →
    let t := (rdReg e.w false 0 x.a).toNat % 65536
    let n := (srcS e.w x.src).toNat
    (tlOk s e.b.ctx t n = true → n ≤ s.tlCounter e.b.ctx t → fenceWait s e.r e.w e.b.ctx acqKind .dv = none →
      ∃ y, exec (.tlwait x) s = .next y ∧ Retires s e y e.w ∧ AcquiredAt y e.r.core .dv) ∧
    (tlOk s e.b.ctx t n = true → s.tlCounter e.b.ctx t < n → e.w.level ≠ 3 →
      exec (.tlwait x) s = .next (waiting s e .counter)) ∧
    (e.w.skid = none → tlOk s e.b.ctx t n = false →
      ∃ q, exec (.tlwait x) s = .next (takeTrap s e.r q) ∧ q.cause = 3 ∧ q.mask = e.w.exec))

/-- 18 R318: `ACCZ` clears an accumulator, `ACCMOV` moves 32 registers of every lane to or from one, element 32 L +
j beside register j of lane L, or one accumulator to another. Nothing but that destination changes. -/
def Obligations.Accumulators : Prop :=
  let acc := fun (i : Instr) (d : Reg) (f : Env → Nat → W32) => ∀ s e, ready i s = some e → ∃ t w1 b1, exec i s = .next t ∧
    t.warp? e.r = some (retireWarp w1 e.next s.ctl.clock) ∧ t.block? e.r.core e.w.blk = some b1 ∧
    w1 = { e.w with acc := w1.acc } ∧ b1 = { e.b with bacc := b1.bacc } ∧ AccResult e (Reg.accIdx d) (f e) w1 b1 ∧
    BlockFrame s t e.r e.w.blk
  (∀ x, acc (.accz x) x.d (fun _ _ => 0#32)) ∧
  (∀ x, acc (.accmovVecToAcc x) x.d (fun e n => e.w.getV (Reg.idx x.a + n % 32) (n / 32))) ∧
  (∀ x, acc (.accmovAccToAcc x) x.d (fun e n => accGet e.w e.b (Reg.accIdx x.a) n)) ∧
  (∀ x s e, ready (.accmovAccToVec x) s = some e → ∃ w1, exec (.accmovAccToVec x) s = .next (retired s e w1) ∧
    w1 = { e.w with v := w1.v } ∧ ∀ n l, l < 32 → w1.getV n l =
      if Reg.idx x.d ≤ n ∧ n < Reg.idx x.d + 32 then accGet e.w e.b (Reg.accIdx x.a) (32 * l + (n - Reg.idx x.d))
      else e.w.getV n l)


/-! ### Memory instructions -/

/-- 06 R133 to R135, 20 R396, R397: `LD`. A scratchpad load whose lanes pass their checks writes each active lane's
bytes to its destination at once; a global load records the lanes that its data will bind, and retires; a lane that
fails raises the cause of the lowest one. 20 R397, 06 R136: the bytes of a lane fill its destination from the low
byte up: an element below 32 bits is extended by type to 32 bits, and to 64 in a scalar register; a wider one fills
registers in order. No other register or lane changes. A load of which some lanes fault at issue holds their faults
and stands until the others are over (10 R443). That a load waits while an atomic of its warp is outstanding on its
line is the model's reading (log 52). -/
def Obligations.LoadsAndTheirBytes : Prop :=
  (∀ x s e, ready (.ld x) s = some e →
     let w := accW x.ty x.wid
     let q := checkLanes s e x.sp needR false w (laneAddr e.w x.sp x.a x.off) (accLanes e x.cls)
     let dest : Dest := if x.cls = .scl then .sreg (Reg.idx x.d) (DTy.sext x.ty) else .vreg (Reg.idx x.d) (DTy.sext x.ty)
     (x.sp = .s → q.2.1 = [] → exec (.ld x) s = .next (retired s e
       (q.2.2.foldl (fun v a => bindLane v dest a.lane (getBytes e.b.scr a.va w)) e.w))) ∧
     (x.sp = .g → State.ldcnt e.w < 64 → q.2.1 = [] → q.2.2 ≠ [] → (∀ a ∈ q.2.2, a.pa / 64 ∉ atomLines e.w) →
       ∃ t op, exec (.ld x) s = .next t ∧
         t.warp? e.r = some (retireWarp { e.w with loads := e.w.loads ++ [op] } e.next s.ctl.clock) ∧
         op.lanes = q.2.2 ∧ op.dest = dest ∧ op.gather = [] ∧ t.fed = s.fed ∧ ∀ l h, t.block? l h = s.block? l h) ∧
     (x.sp = .g → e.w.skid = none → State.ldcnt e.w < 64 → q.2.1 ≠ [] → q.2.2 ≠ [] → (∀ a ∈ q.2.2, a.pa / 64 ∉ atomLines e.w) →
       ∃ t op, exec (.ld x) s = .next t ∧
         t.warp? e.r = some { e.w with loads := e.w.loads ++ [op], wait := some .faults } ∧
         op.lanes = q.2.2 ∧ op.dest = dest ∧ op.fails = q.2.1 ∧ op.pt.pc = e.w.pc) ∧
     (x.sp = .s → e.w.skid = none → ∀ f rest, q.2.1 = f :: rest →
       ∃ t tr, exec (.ld x) s = .next (takeTrap t e.r tr) ∧ tr.cause = f.cause ∧ tr.addr = BitVec.ofNat 64 f.addr ∧
         tr.mask = maskOf ((q.2.1.filter (fun y => y.cause = f.cause)).map (·.lane)))) ∧
  ((∀ w r sx lane l, lane < 32 → l.length = 1 ∨ l.length = 2 → ∀ n k, k < 32 →
     (bindLane w (.vreg r sx) lane l).getV n k =
       if n = r ∧ k = lane then BitVec.ofInt 32 (if sx then sextNat (8 * l.length) (leNat l) else (leNat l : Int))
       else w.getV n k) ∧
   (∀ w r sx lane (l : List Byte) m, lane < 32 → l.length = 4 * m → 0 < m → ∀ n k, k < 32 →
     (bindLane w (.vreg r sx) lane l).getV n k =
       if r ≤ n ∧ n < r + m ∧ k = lane then BitVec.ofNat 32 (leNat ((l.drop (4 * (n - r))).take 4)) else w.getV n k) ∧
   (∀ w r sx lane (l : List Byte) n, 0 < l.length → l.length ≤ 8 →
     (bindLane w (.sreg r sx) lane l).getS n =
       if n = r then BitVec.ofInt 64 (if sx then sextNat (8 * l.length) (leNat l) else (leNat l : Int)) else w.getS n))

/-- 06 R136, 07 R168, 21 R425, R426: `ST`. A scratchpad store whose lanes pass their checks writes their bytes, the
highest lane winning, and no other byte of the scratchpad or of memory; a global store puts its bytes in the write
buffers, where the core's own loads find them, newest first. That a store waits while a load or an atomic of its
warp is not bound is the model's reading (log 52). -/
def Obligations.Stores : Prop :=
  ∀ x s e, ready (.st x) s = some e →
    let w := accW x.ty x.wid
    let q := checkLanes s e x.sp needW true w (laneAddr e.w x.sp x.a x.off) (accLanes e x.cls)
    let m := mergeLanes (fun l => storeBytes e.w x.cls x.d l w) q.2.2
    (x.sp = .s → e.w.loads = [] → e.w.atoms = [] → q.2.1 = [] → ∃ t b1, exec (.st x) s = .next t ∧ BlockFrame s t e.r e.w.blk ∧
      t.warp? e.r = some (retireWarp e.w e.next s.ctl.clock) ∧ t.block? e.r.core e.w.blk = some b1 ∧
      b1 = { e.b with scr := b1.scr } ∧ ∀ a, mget 0#8 b1.scr a = (mfind m a).getD (mget 0#8 e.b.scr a)) ∧
    (x.sp = .g → s.stcnt e.r e.w < 64 → e.w.loads = [] → e.w.atoms = [] → q.2.1 = [] →
      ∃ t, exec (.st x) s = .next t ∧ t.warp? e.r = some (retireWarp e.w e.next s.ctl.clock) ∧
        (∀ pa, wbByte (t.core e.r.core) pa = match mfind m pa with
          | some b => some b
          | none => wbByte (q.1.core e.r.core) pa) ∧
        (∀ pa, t.homeByte (pa / 64) (pa % 64) = q.1.homeByte (pa / 64) (pa % 64))) ∧
    (e.w.skid = none → (x.sp = .g → s.stcnt e.r e.w < 64) → (e.w.loads ≠ [] ∨ e.w.atoms ≠ []) →
      exec (.st x) s = .next (waiting s e .load))

/-- 07 R179, 18 R324, 21 R410: `ATOM` and `RED` on global memory record one request for each address that their
lanes name, each with its lanes in ascending order, and retire; on the scratchpad they are performed at once. A .gp
scope outside the group raises cause 14. 18 Table 18-3: the new value of an atomic. The extension of the old value
in a scalar register is log 17, and the wait for older loads log 52. -/
def Obligations.Atomics : Prop :=
  (let issues := fun (i : Instr) (c : Cls) (ty : DTy) (sc : Scope) (sp : Space) (op : AOp) (d : Option Reg) (a b : Reg)
       (cc : Option Reg) (off : Option W32) (g : Byte) => ∀ s e, ready i s = some e →
     let w := DTy.bytes ty
     let q := checkLanes s e sp needW true w (laneAddr e.w sp a off) (accLanes e c)
     let val := fun (l : Nat) => ((rdReg e.w (DTy.is64 ty) l b).toNat % 2 ^ (8 * w), match cc with
       | some r => (rdReg e.w (DTy.is64 ty) l r).toNat % 2 ^ (8 * w)
       | none => 0)
     let ok := sc = .gp → groupOk s e.b g.toNat = true
     (sp = .g → ok → s.stcnt e.r e.w < 64 → (d.isSome = true → State.ldcnt e.w < 64) → e.w.loads = [] → q.2.1 = [] → q.2.2 ≠ [] →
       ∃ t o, exec i s = .next t ∧ t.warp? e.r = some (retireWarp { e.w with atoms := e.w.atoms ++ [o] } e.next s.ctl.clock) ∧
         o.op = op ∧ o.ty = ty ∧ o.scope = effScope s e.b sc ∧ o.dest.isSome = d.isSome ∧
         o.reqs.map (fun y => (y.pa, y.lanes)) = (atomGroups q.2.2 val).map (fun y => (y.1.pa, y.2))) ∧
     (sp = .s → ok → e.w.loads = [] → e.w.atoms = [] → q.2.1 = [] → ∃ t w1, exec i s = .next t ∧
       t.warp? e.r = some (retireWarp w1 e.next s.ctl.clock) ∧
       t.fed = s.fed ∧ t.mem = s.mem ∧ t.homes = s.homes ∧ (d = none → w1 = e.w) ∧
       (∀ y, q.2.2 = [y] →
         let old := leNat (getBytes e.b.scr y.pa w)
         (∀ r, d = some r → w1 = bindLane e.w
           (if c = .scl then .sreg (Reg.idx r) (DTy.sext ty) else .vreg (Reg.idx r) (DTy.sext ty)) y.lane (leBytes w old)) ∧
         t.block? e.r.core e.w.blk = some { e.b with scr := putBytes e.b.scr (bytesAt y.pa
           (leBytes w (aopVal op ty (fmtFtz e.w.fmt) old (val y.lane).1 (val y.lane).2))) })) ∧
     (sc = .gp → groupOk s e.b g.toNat = false → e.w.skid = none →
       exec i s = .next (takeTrap s e.r { cause := 14, mask := e.w.exec, addr := g.zeroExtend 64 }))
   (∀ x, issues (.atom x) x.cls x.ty x.sc x.sp x.op (some x.d) x.a x.b x.c x.off x.g) ∧
   (∀ x, issues (.red x) x.cls x.ty x.sc x.sp x.op none x.a x.b none x.off x.g)) ∧
  (∀ (t : IntTy) ftz (o b c : Nat), 32 ≤ IntTy.bits t → o < 2 ^ IntTy.bits t → b < 2 ^ IntTy.bits t → c < 2 ^ IntTy.bits t →
     let n := 2 ^ IntTy.bits t
     let f := fun op => aopVal op (.int t) ftz o b c
     let x := intVal t (BitVec.ofNat 64 o)
     let y := intVal t (BitVec.ofNat 64 b)
     f .add = (o + b) % n ∧ f .sub = (o + n - b) % n ∧ f .min = (if x ≤ y then o else b) ∧ f .max = (if x ≤ y then b else o) ∧
     f .and = o &&& b ∧ f .or = o ||| b ∧ f .xor = o ^^^ b ∧ f .exch = b ∧ f .cas = (if o = b then c else o))

/-- 20 R405 to R407, 02 R50: `QLD` reserves the tail of its target's queue: a lane of global memory is left to be
filled from its address, and a lane of the scratchpad within its window is read at once; `QPOP` takes a filled head,
writing it to the active lanes; on an empty queue it waits while an ACCESS warp of the block lives, and raises cause
13 otherwise. The element size of a 16-bit QLD is log 11, and a target that has ended log 39. -/
def Obligations.OperandQueues : Prop :=
  (∀ x s e slot v, ready (.qld x) s = some e →
    warpOfId s e.r.core e.b ((rdReg e.w false 0 x.b).toNat % 32) = some (slot, v) →
    (mget [] v.q (Reg.idx x.q)).length < 8 → State.ldcnt e.w < 64 →
    let n : Nat := match x.ty with
      | .fp .f32 => 4
      | .fp _ => 2
      | _ => DTy.bytes x.ty
    let at' := fun (l : Nat) => wrapInt (if x.sp = .g then 64 else 32)
      (((rdReg e.w false 0 x.a).toNat : Int) + offVal x.off + (l : Int) * sextNat 8 x.c.toNat * (n : Int))
    ∃ t op v1 data, exec (.qld x) s = .next t ∧ Retires s e t { e.w with loads := e.w.loads ++ [op] } ∧
      op.dest = .queue slot (Reg.idx x.q) (DTy.sext x.ty) ∧
      t.warp? { core := e.r.core, slot := slot } = some v1 ∧ v1 = { v with q := v1.q } ∧
      mget [] v1.q (Reg.idx x.q) = mget [] v.q (Reg.idx x.q) ++ [{ id := op.id, filled := false, data := data }] ∧
      (x.sp = .g → data = [] ∧ op.lanes.map (fun a => (a.lane, a.va, a.w)) = (List.range 32).map (fun l => (l, at' l, n))) ∧
      (x.sp = .s → ∀ l, l < 32 → (checkS e.b false l (at' l) n).isRight = true → (∀ a ∈ op.lanes, a.lane ≠ l) ∧
        (l, BitVec.ofNat 32 (let y := leNat (getBytes e.b.scr (at' l) n)
          if DTy.sext x.ty then wrapInt 32 (sextNat (8 * n) y) else y)) ∈ data)) ∧
  (∀ x s e h rest, ready (.qpop x) s = some e → mget [] e.w.q (Reg.idx x.a) = h :: rest → h.filled = true →
    ∃ w1, exec (.qpop x) s = .next (retired s e w1) ∧ w1 = { e.w with v := w1.v, q := w1.q } ∧
      mget [] w1.q (Reg.idx x.a) = rest ∧ ∀ n l, l < 32 → w1.getV n l =
        if e.act.getLsbD l = true ∧ n = Reg.idx x.d then mget 0#32 h.data l else e.w.getV n l) ∧
  (∀ x s e h rest, ready (.qpop x) s = some e → mget [] e.w.q (Reg.idx x.a) = h :: rest → h.filled = false →
    exec (.qpop x) s = .next (waiting s e .queue)) ∧
  (∀ x s e, ready (.qpop x) s = some e → mget [] e.w.q (Reg.idx x.a) = [] → e.w.skid = none →
    exec (.qpop x) s = .next (if accessAlive s e.r.core e.b then waiting s e .queue
      else takeTrap s e.r { cause := 13, mask := e.w.exec, addr := BitVec.ofNat 64 (Reg.idx x.a) }))

/-! ### Copies, cache maintenance and translation -/

/-- 19 R356 to R358, Table 19-3, 06 R146: `CPY` and `CPYG` check their operands and then enter the open batch of the
warp with a segment for every 4 KiB piece; a copy of 0 bytes does nothing. 06 R148: the segments of a copy cover it
once, in order, and none crosses a 4 KiB boundary of its source or of its destination. A copy of 0 bytes waits for
no place in CPCNT. The TADDR of a copy that fails its checks is log 33. -/
def Obligations.CopiesAndSegments : Prop :=
  (let copy := fun (i : FCpy → Instr) (sS dS : Bool) => ∀ x s e, ready (i x) s = some e →
     let op := fun (r : Reg) (sc : Bool) => if sc then (rdReg e.w false 0 r).toNat % 2 ^ 32 else (rdReg e.w false 0 r).toNat
     let len := (srcS e.w x.len).toNat
     (copyCheck e (op x.a dS) (op x.b sS) len sS dS = none → State.cpcnt e.w < 16 → 0 < len →
       ∃ t c, exec (i x) s = .next t ∧
         t.warp? e.r = some (retireWarp { e.w with copies := e.w.copies ++ [c] } e.next s.ctl.clock) ∧
         c.batch = e.w.batch ∧ c.segs = copySegs (op x.b sS) (op x.a dS) len sS dS ∧ c.sup = decide (2 ≤ e.w.level) ∧
         t.mem = s.mem ∧ t.homes = s.homes ∧ t.fed = s.fed) ∧
     (copyCheck e (op x.a dS) (op x.b sS) len sS dS = none → len = 0 →
       ∃ t, exec (i x) s = .next t ∧ t.warp? e.r = some (retireWarp e.w e.next s.ctl.clock)) ∧
     (∀ q, e.w.skid = none → copyCheck e (op x.a dS) (op x.b sS) len sS dS = some q →
       ∃ y, exec (i x) s = .next (takeTrap s e.r y) ∧ y.cause = q.cause ∧ y.mask = q.mask ∧ y.addr = q.addr)
   copy .cpyLd false true ∧ copy .cpySt true false ∧ copy .cpyg false false) ∧
  (∀ src dst len sS dS,
     (((copySegs src dst len sS dS).map (·.len)).foldl (· + ·) 0 = len) ∧
     (∀ g ∈ copySegs src dst len sS dS, 0 < g.len ∧ src ≤ g.src ∧ g.src + g.len ≤ src + len ∧ g.dst + src = g.src + dst ∧
       g.src / 4096 = (g.src + g.len - 1) / 4096 ∧ g.dst / 4096 = (g.dst + g.len - 1) / 4096) ∧
     (copySegs src dst len sS dS).Pairwise (fun a b => a.src + a.len ≤ b.src))

/-- 19 R349 to R351, 06 R146, R147, R149: `CBCLOSE` gives the number of the batch it closes and opens the next, and
waits while 8 closed batches have a segment outstanding; `CBWAIT` completes, as an acquire at .dv, once every
segment of the batches it covers is done, no failure is left to report and no load of the warp is unbound, waits
while a segment is outstanding, and reports a failure as cause 20; a batch not closed raises cause 3. -/
def Obligations.CopyBatches : Prop :=
  (∀ x s e, ready (.cbclose x) s = some e →
    ((openBatches e.w).length < 8 → ∃ w1, exec (.cbclose x) s = .next (retired s e w1) ∧
      w1 = { e.w with s := w1.s, batch := e.w.batch + 1#32 } ∧
      ∀ n, w1.getS n = if n = Reg.idx x.d then e.w.batch.zeroExtend 64 else e.w.getS n) ∧
    (8 ≤ (openBatches e.w).length → exec (.cbclose x) s = .next (waiting s e .counter))) ∧
  (∀ x s e, ready (.cbwait x) s = some e → e.w.level ≠ 3 →
    let n : W32 := (srcS e.w x.src).truncate 32
    let l := covered e.w n
    (2 ^ 31 ≤ serial n e.w.batch → (∀ c ∈ l, CopyOp.over c = true) → firstFail e.w l = none →
      fenceWait s e.r e.w e.b.ctx acqKind .dv = none → ∃ t, exec (.cbwait x) s = .next t ∧
      Retires s e t { e.w with copies := e.w.copies.filter (fun c => !(l.map (·.id)).contains c.id) } ∧
      AcquiredAt t e.r.core .dv) ∧
    (2 ^ 31 ≤ serial n e.w.batch → (∃ c ∈ l, CopyOp.over c = false) → exec (.cbwait x) s = .next (waiting s e .counter)) ∧
    (e.w.skid = none → 2 ^ 31 ≤ serial n e.w.batch → (∀ c ∈ l, CopyOp.over c = true) → ∀ c g, firstFail e.w l = some (c, g) →
      ∃ t q, exec (.cbwait x) s = .next (takeTrap t e.r q) ∧ q.cause = 20 ∧ q.dop0 = c.batch.zeroExtend 64 ∧
        q.dop1 = BitVec.ofNat 64 g.src ∧ q.dop2 = BitVec.ofNat 64 g.dst) ∧
    (e.w.skid = none → serial n e.w.batch < 2 ^ 31 →
      ∃ q, exec (.cbwait x) s = .next (takeTrap s e.r q) ∧ q.cause = 3 ∧ q.mask = e.w.exec))

/-- 19 R352 to R354, Table 19-1: `CFLUSH` completes once STCNT is below its limit of 64 (R78), no line that its
lanes name has an atomic of the warp outstanding, their stores find room in the CLC (06 R141), and beyond .cl none
is stuck on its way: no store to a named line is buffered then, from .di on the CLC holds no dirty byte of it, and
from .dv on the RDC none. `CINV` completes on the same condition at every scope, and no copy of a named line is left
in the L1, in the CLC and, from .di on for a line of another home, in the RDC. `CLV` marks every copy of a named
line eviction-first. The registers stay. At .sy a lane whose line the device cannot reach faults (R381), whatever a
cache holds of it. -/
def Obligations.CacheMaintenance : Prop :=
  let checked := fun (s : State) (e : Env) (c : Cls) (a : Reg) (off : Option W32) =>
    checkLanes s e .g needR false 1 (laneAddr e.w .g a off) (accLanes e c)
  let reached := fun (s : State) (e : Env) (x : FCm) => reachLanes x.sc (checked s e x.cls x.a x.off)
  let drains := fun (s : State) (e : Env) (x : FCm) =>
    let ls := namedLines (reached s e x).2.2
    ∀ l ∈ ls, lineBuffered (ls.foldl (fun z l => drainLine z e.r.core l) (reached s e x).1) e.r.core l = false
  let flushed := fun (t : State) (core l : Nat) (sc : Scope) =>
    (∀ pa, pa / 64 = l → wbByte (t.core core) pa = none) ∧
    (3 ≤ Scope.rank sc → ∀ c, mfind (t.clc (t.clusterOf core)) l = some c → Copy.dirtyBytes c = []) ∧
    (5 ≤ Scope.rank sc → ∀ x, t.rdc? (t.dieOf core) l = some x → Copy.dirtyBytes x.copy = [])
  (∀ x s e, ready (.cflush x) s = some e → (reached s e x).2.1 = [] → s.stcnt e.r e.w < 64 → drains s e x →
    let ls := namedLines (reached s e x).2.2
    (∀ l ∈ ls, l ∉ atomLines e.w ∧ (2 < Scope.rank x.sc → lineStuck s e.r.core l x.sc = false)) →
      ∃ t, exec (.cflush x) s = .next t ∧ Retires s e t e.w ∧ ∀ l ∈ ls, flushed t e.r.core l x.sc) ∧
  (∀ x s e, ready (.cinv x) s = some e → (reached s e x).2.1 = [] → s.stcnt e.r e.w < 64 → drains s e x →
    let ls := namedLines (reached s e x).2.2
    (∀ l ∈ ls, l ∉ atomLines e.w ∧ lineStuck s e.r.core l x.sc = false) →
      ∃ t, exec (.cinv x) s = .next t ∧ Retires s e t e.w ∧ ∀ l ∈ ls, flushed t e.r.core l x.sc ∧
        mfind (t.core e.r.core).l1 l = none ∧ mfind (t.clc (t.clusterOf e.r.core)) l = none ∧
        (4 ≤ Scope.rank x.sc → t.homeOf l ≠ t.dieOf e.r.core → t.rdc? (t.dieOf e.r.core) l = none)) ∧
  (∀ s e x, (x.sc ≠ .sy → reached s e x = checked s e x.cls x.a x.off) ∧
    (x.sc = .sy → ∀ a, a ∈ (reached s e x).2.2 ↔ a ∈ (checked s e x.cls x.a x.off).2.2 ∧
      (checked s e x.cls x.a x.off).1.mapCause a.pa false = none)) ∧
  (∀ x s e, ready (.clv x) s = some e → ∃ t, exec (.clv x) s = .next t ∧ Retires s e t e.w ∧
    ∀ l ∈ namedLines (checked s e x.cls x.a x.off).2.2,
      (∀ k c, mfind (t.core k).l1 l = some c ∨ mfind (t.clc k) l = some c → c.ef = true) ∧
      (∀ d x, t.rdc? d l = some x → x.copy.ef = true) ∧ (∀ h, t.homeLine? (t.homeOf l) l = some h → h.ef = true))

/-- 06 R158, R163, 21 R428: `TLBINV` completes, below the limit of STCNT (03 R78), once its release at .dv and the
accesses through what it drops are done, those of other contexts through a G entry too: the entries of its form are
gone from the page TLBs of every agent, the .page form taking G entries too and the .ctx form leaving them, and
every other entry stays; the .range form loads every range TLB of the context anew from its range table. Which TLBs
there are is log 10, and the wait for accesses in flight log 34. -/
def Obligations.TlbInvalidation : Prop :=
  let drop := fun (i : Instr) (p : Env → TlbEnt → Bool) => ∀ s e, ready i s = some e → s.stcnt e.r e.w < 64 →
    fenceWait s e.r e.w e.b.ctx relKind .dv = none →
    pendingThrough s (throughTlb (s.vm.tlb.filter (p e))) = false →
    ∃ t, exec i s = .next t ∧ Retires s e t e.w ∧ ReleasedAt t e.r.core .dv ∧ t.vm.ctx = s.vm.ctx ∧
      (∀ y ∈ t.vm.tlb, p e y = false) ∧ ∀ y ∈ (release s e.r.core .dv).vm.tlb, p e y = false → y ∈ t.vm.tlb
  (∀ x, drop (.tlbinvPage x) (fun e t => (t.ctx = e.b.ctx || t.g) && t.vpage = (rdReg e.w false 0 x.a).toNat / 2 ^ t.log2)) ∧
  (∀ x, drop (.tlbinvCtx x) (fun e t => t.ctx = e.b.ctx && !t.g)) ∧
  (∀ x s e, ready (.tlbinvRange x) s = some e → s.stcnt e.r e.w < 64 → fenceWait s e.r e.w e.b.ctx relKind .dv = none →
    pendingThrough s (fun ctx va pa => ctx = e.b.ctx && ((s.vm.rtlb.filter (fun y => y.1 % 64 = e.b.ctx)).flatMap (fun y => y.2)).any
      (fun r => r.v && (match va with
        | some v => r.vbase ≤ v / 4096 && v / 4096 ≤ r.vlimit
        | none => r.pbase ≤ pa / 4096 && pa / 4096 ≤ r.pbase + (r.vlimit - r.vbase)))) = false →
    ∃ t, exec (.tlbinvRange x) s = .next t ∧ Retires s e t e.w ∧ ReleasedAt t e.r.core .dv ∧
      t.vm.tlb = (release s e.r.core .dv).vm.tlb ∧
      (∀ y ∈ t.vm.rtlb, y.1 % 64 = e.b.ctx → y.2 = rangeTable t e.b.ctx) ∧
      ∀ y ∈ (release s e.r.core .dv).vm.rtlb, y.1 % 64 ≠ e.b.ctx → y ∈ t.vm.rtlb)

/-- 06 R160 to R162, 20 R402, R403: `PFMAP`, below the limit of STCNT (03 R78), serves each page that its lanes name
and writes the code of its page to every lane that names an address in the 54-bit space. A page that is mapped gives
1; one whose upper table is absent, or whose leaf is not first-touch, 3; one for which the pool is empty 2: none of
these writes memory where no RDC and no message holds written bytes. A first-touch leaf with a pool that is not
empty gives 0: the page of the entry at HEAD is filled with zeros, the leaf names it with V = 1 and FT = 0 and its
permissions and CLASS as they were, HEAD goes up by 1, and no other byte of memory changes. The entry that PFMAP
takes and its wait for a line in service are the model's reading (log 34). -/
def Obligations.FirstTouch : Prop :=
  (∀ x s e, ready (.pfmap x) s = some e →
    let addr := laneAddr e.w .g x.a x.off
    let pages := (((accLanes e x.cls).map addr).map (· / 4096)).eraseDups
    let r := pages.foldl (fun (r : State × List (Nat × ((Nat × Nat) ⊕ Nat))) p =>
      ((pfOne r.1 e.b.ctx (4096 * p)).1, r.2 ++ [(p, (pfOne r.1 e.b.ctx (4096 * p)).2)])) (s, [])
    s.stcnt e.r e.w < 64 → (∀ l ∈ accLanes e x.cls, addr l < 2 ^ 54) → pfBusy s e.b.ctx pages = false → (∀ y ∈ r.2, ∃ c, y.2 = .inr c) →
      ∃ t w1, exec (.pfmap x) s = .next t ∧ Retires s e t w1 ∧
        LaneResult e x.cls x.d false (fun l => match r.2.find? (fun y => y.1 = addr l / 4096) with
          | some (_, .inr c) => BitVec.ofNat 64 c
          | _ => 3#64) w1) ∧
  (let clean := fun (z : State) => z.net = [] ∧ ∀ d ∈ z.dies, ∀ x ∈ d.2.rdc, Copy.dirtyBytes x.2.copy = []
   ∀ s ctx va,
    let c := s.ctxEnt ctx
    let y := (walkLines s va 5 c.root 1).foldl readLine s
    (pfWalk y va 5 c.root 1 = .mapped → pfOne s ctx va = (y, .inr 1)) ∧
    (pfWalk y va 5 c.root 1 = .upper → pfOne s ctx va = (y, .inr 3)) ∧
    (∀ a x, pfWalk y va 5 c.root 1 = .leaf a x → pteFt x = false ∨ bits x 7 7 = 1 → pfOne s ctx va = (y, .inr 3)) ∧
    (∀ a x, pfWalk y va 5 c.root 1 = .leaf a x → pteFt x = true → bits x 7 7 = 0 → y.mapCause c.pool false = none →
      let z := poolRead y c.pool
      let h := z.snoopNum (c.pool + 16) 8
      (clean s → z.mem = s.mem) ∧
      (h = z.snoopNum (c.pool + 24) 8 → pfOne s ctx va = (z, .inr 2)) ∧
      (h ≠ z.snoopNum (c.pool + 24) 8 → poolFault z c.pool = none →
        let p := (poolEnt z c.pool 0).2
        ∃ t, pfOne s ctx va = (t, .inr 0) ∧ (clean z → (∀ n, (z.home n).lines = []) → (∀ l, z.expOff l = false) →
          ∀ pa, t.homeByte (pa / 64) (pa % 64) =
            if a ≤ pa ∧ pa < a + 8 then (leBytes 8 (pteNew x p)).getD (pa - a) 0#8
            else if c.pool + 16 ≤ pa ∧ pa < c.pool + 24 then (leBytes 8 (h + 1)).getD (pa - (c.pool + 16)) 0#8
            else if p ≤ pa ∧ pa < p + 4096 then 0#8
            else z.homeByte (pa / 64) (pa % 64)))) ∧ (clean s → y.mem = s.mem)) ∧
  (∀ x p, x < 2 ^ 64 → bits (pteNew x p) 0 0 = 1 ∧ pteFt (pteNew x p) = false ∧ bits (pteNew x p) 47 12 = p / 4096 % 2 ^ 36 ∧
    bits (pteNew x p) 7 1 = bits x 7 1 ∧ bits (pteNew x p) 53 48 = bits x 53 48)

/-- 06 R151, R154, R159, R158: a disabled context faults with cause 15; a range entry wins over a page-TLB entry, a
page-TLB entry over the walk, and each gives its base and the offset; an access without the permission it needs
faults with cause 16, and a walk that ends at no leaf with the cause that it met. -/
def Obligations.Translation : Prop :=
  ∀ s agent ctx va need wr,
    let y := (walkLines (loadRange s agent ctx).1 va 5 (s.ctxEnt ctx).root 1).foldl readLine (loadRange s agent ctx).1
    ((s.ctxEnt ctx).en = false → translate s agent ctx va need wr = (s, .inl (15, 0))) ∧
    ((s.ctxEnt ctx).en = true → (loadRange s agent ctx).2 = none →
      ∃ c, (translate s agent ctx va need wr).2 = .inl (c, 0) ∧ rangeFault s ctx = some c) ∧
    (∀ l, (s.ctxEnt ctx).en = true → (loadRange s agent ctx).2 = some l →
      (∀ r, rangeHit l va = some r → (translate s agent ctx va need wr).2 = if r.perm &&& need = need then
        .inr { pa := r.pbase * 4096 + va - r.vbase * 4096, cls := r.cls, rs := r.rschk } else .inl (16, 0)) ∧
      (∀ t, rangeHit l va = none → tlbHit s agent ctx va = some t →
        (translate s agent ctx va need wr).2 = if t.perm &&& need = need then
          .inr { pa := t.pbase + va % 2 ^ t.log2, cls := t.cls, rs := t.rs } else .inl (16, 0)) ∧
      (∀ c n, rangeHit l va = none → tlbHit s agent ctx va = none → walkFrom y va 5 (s.ctxEnt ctx).root 1 = .fault c n →
        (translate s agent ctx va need wr).2 = .inl (c, n)) ∧
      (∀ a x n, rangeHit l va = none → tlbHit s agent ctx va = none → walkFrom y va 5 (s.ctxEnt ctx).root 1 = .leaf a x n →
        (translate s agent ctx va need wr).2 = if BitVec.ofNat 4 (bits x 5 2) &&& need = need then
          .inr { pa := bits x 47 12 * 4096 + va % 2 ^ leafLog2 n, cls := bits x 53 52, rs := bits x 51 51 = 1 } else .inl (16, 0)))

/-! ### Launches, commands and the schedule -/

/-- 20 R394, R395, 19 R363 to R365, 02 R58: `LAUNCH` releases at .dv and submits the launch, its predicate saying
whether a place was free; `EMIT` releases at .dv and writes one record to the next slot of the ring of the node, or
gives false where the ring is full; it waits at the limit of STCNT (03 R78). A misaligned or distant address, a node
that does not exist and a record outside the scratchpad fault. The bytes of a record within one line are those of
the scratchpad. That TAIL and HEAD count from 0 for each launch is the model's choice (log 57). -/
def Obligations.LaunchAndEmit : Prop :=
  (∀ x s e, ready (.launch x) s = some e →
    let a := (rdReg e.w false 0 x.a).toNat
    let b := (rdReg e.w false 0 x.b).toNat
    let ok := decide ((s.fed.subs.filter (fun y => y.ctx = e.b.ctx)).length < 64)
    let faults := fun (c y : Nat) => exec (.launch x) s =
      .next (takeTrap s e.r { cause := c, mask := e.w.exec, addr := BitVec.ofNat 64 y })
    (a % 64 = 0 → b % 8 = 0 → a < 2 ^ 54 → b < 2 ^ 54 → fenceWait s e.r e.w e.b.ctx relKind .dv = none →
      ∃ t, exec (.launch x) s = .next t ∧ Retires s e t (putK e.w x.d ok) ∧ ReleasedAt t e.r.core .dv ∧
        (ok = false → t.fed.subs = s.fed.subs) ∧ (ok = true → ∃ y, t.fed.subs = s.fed.subs ++ [y] ∧ y.header = a ∧ y.status = b ∧
          y.ctx = e.b.ctx ∧ y.lid = e.b.lid ∧ y.bid = e.b.bid ∧ y.warp = e.w.id)) ∧
    (e.w.skid = none → a % 64 ≠ 0 → faults 8 a) ∧
    (e.w.skid = none → a % 64 = 0 → b ≠ 0 → b % 8 ≠ 0 → faults 8 b) ∧
    (e.w.skid = none → a % 64 = 0 → b % 8 = 0 → 2 ^ 54 ≤ a → faults 9 a) ∧
    (e.w.skid = none → a % 64 = 0 → b % 8 = 0 → a < 2 ^ 54 → 2 ^ 54 ≤ b → faults 9 b)) ∧
  (∀ x s e, ready (.emit x) s = some e → e.w.skid = none →
    (s.launch? e.b.lid).bind (fun l => l.hdr.nodes[x.n.toNat]?) = none →
    ∃ q, exec (.emit x) s = .next (takeTrap s e.r q) ∧ q.cause = 3 ∧ q.mask = e.w.exec) ∧
  (∀ x s e l d, ready (.emit x) s = some e → s.launch? e.b.lid = some l → l.hdr.nodes[x.n.toNat]? = some d →
    let n := x.n.toNat
    let o := (rdReg e.w false 0 x.a).toNat % 2 ^ 32
    let y := release s e.r.core .dv
    let at' := ringSlot l n d
    let full := mget 0 l.tails n - mget 0 l.heads n = d.cap
    let faults := fun (c : Nat) => exec (.emit x) s =
      .next (takeTrap s e.r { cause := c, mask := e.w.exec, addr := BitVec.ofNat 64 o })
    (o % 16 = 0 → o + d.recsz ≤ e.b.size → s.stcnt e.r e.w < 64 → fenceWait s e.r e.w e.b.ctx relKind .dv = none → full →
      exec (.emit x) s = .next (afterDone (y.updWarp e.r (fun w => putK w x.d false)) e) ∧ ReleasedAt y e.r.core .dv) ∧
    (o % 16 = 0 → o + d.recsz ≤ e.b.size → s.stcnt e.r e.w < 64 → fenceWait s e.r e.w e.b.ctx relKind .dv = none → ¬full →
      virtIdle y agentCp e.b.ctx at' d.recsz needW true = true → ∀ z,
      writeVirt y agentCp e.b.ctx at' (getBytes e.b.scr o d.recsz) needW = (z, none) →
      let t := afterDone ((countSlot z e.b.lid e.b.ctx l n d true).updWarp e.r (fun w => putK w x.d true)) e
      exec (.emit x) s = .next t ∧ Retires s e t (putK e.w x.d true) ∧
      (∃ l1, t.launch? e.b.lid = some l1 ∧ mget 0 l1.tails n = mget 0 l.tails n + 1 ∧
        mget [] l1.pending n = mget [] l.pending n ++ [(s.ctl.time, true)]) ∧
      (∀ r p, engineXlat y agentCp e.b.ctx at' needW true = (r, .inr p) → at' % 4096 + d.recsz ≤ 4096 →
        p.pa % 64 + d.recsz ≤ 64 → ∀ i, i < d.recsz →
        z.homeByte ((p.pa + i) / 64) ((p.pa + i) % 64) = (getBytes e.b.scr o d.recsz).getD i 0#8)) ∧
    (o % 16 = 0 → o + d.recsz ≤ e.b.size → 64 ≤ s.stcnt e.r e.w → exec (.emit x) s = .next (waiting s e .counter)) ∧
    (e.w.skid = none → o % 16 ≠ 0 → faults 8) ∧
    (e.w.skid = none → o % 16 = 0 → e.b.size < o + d.recsz → faults 10))

/-- 03 R60 to R63, Tables 3-1 to 3-3, 06 R145: a doorbell writes QTAIL, and one that passes QHEAD by more than a
ring stops a running queue with STOP 3 and interrupts; a resume writes STOP; a queue stops where it must; each
command has its effect at QHEAD, once every earlier one is complete where it waits for them, and QHEAD advances by
one. The argument of LAUNCH_COMMAND is log 30; that an over-full queue is judged when QTAIL is written is log 28. -/
def Obligations.CommandQueues : Prop :=
  let cmd := fun (s : State) (q : Nat) (s1 : State) (l : List Byte) (c : Nat) =>
    q < 64 ∧ findCmd s q = (s1, .cmd l) ∧ fieldAt l 0 1 = c
  (∀ q v s, q < 64 → ∃ t, exec (.qtailDoorbell q v) s = .next t ∧ (t.queue q).tail = BitVec.ofNat 64 v ∧
    (t.queue q).head = (s.queue q).head ∧ ((s.queue q).stop ≠ 0 → (t.queue q).stop = (s.queue q).stop) ∧
    ((s.queue q).stop = 0 → 2 ^ (s.queue q).log2n < (BitVec.ofNat 64 v - (s.queue q).head).toNat →
      (t.queue q).stop = 3 ∧ Irq.queueStop q ∈ t.ctl.irqs)) ∧
  (∀ q s, q < 64 → ∃ t, exec (.queueResume q) s = .next t ∧ (t.queue q).tail = (s.queue q).tail ∧
    (t.queue q).head = (s.queue q).head ∧ ((s.queue q).tail = (s.queue q).head → (t.queue q).stop = 0)) ∧
  (∀ q s s1 c, q < 64 → findCmd s q = (s1, .stop c) → ∀ i ∈ [Instr.launchCommand q, .chainEnd q, .tlSignal q, .tlWaitCommand q,
    .resPreload q, .fenceCommand q, .barrierCommand q], exec i s = .next (stopQueue s1 q c)) ∧
  (∀ y q, ((nextCmd y q).queue q).head = (y.queue q).head + 1#64 ∧ ((nextCmd y q).queue q).tail = (y.queue q).tail ∧
    ((nextCmd y q).queue q).tl = (y.queue q).tl) ∧
  (∀ s q s1 l, cmd s q s1 l 1 →
    let a := fieldAt l 8 8
    let r := acceptLaunch s1 (s1.queue q).ctx (if a ≥ 2 ^ 54 then 1 else a) (fieldAt l 0x10 8) (.queue q)
    (∀ lid, r.2 = some lid → ∃ y, exec (.launchCommand q) s = .next (nextCmd y q) ∧
      (y.queue q).cmds = (r.1.queue q).cmds ++ [{ num := (r.1.queue q).head.toNat, lid := some lid }] ∧
      ∃ n, y.launch? lid = some n ∧ n.issuer = .queue q ∧ n.ctx = (s1.queue q).ctx ∧ n.status = fieldAt l 0x10 8 ∧
        n.running = 0 ∧ n.next = 0 ∧ n.aborted = false) ∧
    (r.2 = none → exec (.launchCommand q) s = .next (nextCmd r.1 q))) ∧
  (∀ s k x, s.fed.subs[k]? = some x →
    (s.fed.subs.take k).any (fun y => y.lid = x.lid && y.bid = x.bid && y.warp = x.warp) = false →
    let r := acceptLaunch (s.updFed (fun f => { f with subs := f.subs.eraseIdx k })) x.ctx x.header x.status
      (.warp x.lid x.bid x.warp)
    ∃ t, exec (.launchCommand (64 + k)) s = .next t ∧ t.fed.subs = s.fed.subs.eraseIdx k ∧
      ∀ lid, r.2 = some lid → ∃ n, t.launch? lid = some n ∧ n.issuer = .warp x.lid x.bid x.warp ∧ n.ctx = x.ctx ∧
        n.status = x.status ∧ n.running = 0 ∧ n.next = 0 ∧ n.aborted = false) ∧
  (∀ s ctx a st who, (a % 64 ≠ 0 → checkLaunch s ctx a = (s, .inl (8, 0))) ∧
    ∀ s1 c d, checkLaunch s ctx a = (s1, .inl (c, d)) →
      acceptLaunch s ctx a st who = (writeStatus s1 ctx st (c + 256 * d) s1.fed.nextLid, none)) ∧
  (∀ s q s1 l, cmd s q s1 l 2 → queueIdle s1 q = true → ∃ y, exec (.chainEnd q) s = .next (nextCmd y q) ∧ y.mem = s1.mem ∧
    ∀ site ln z, site ≠ Config.fed → mfind (y.home site).lines ln = some z → z.chain = bits (fieldAt l 0 8) 13 8 → z.chain ≠ 0 →
      z.ef = true) ∧
  (∀ s q s1 l, cmd s q s1 l 3 → queueIdle s1 q = true → ∃ y, exec (.tlSignal q) s = .next (nextCmd y q) ∧
    let v := BitVec.ofNat 64 (fieldAt l 8 8)
    (y.queue q).tl = if (s1.queue q).tl.toNat < v.toNat then v else (s1.queue q).tl) ∧
  (∀ s q s1 l, cmd s q s1 l 4 →
    let reached := tlNamed s1 (s1.queue q).ctx (fieldAt l 2 2) && decide (fieldAt l 8 8 ≤ s1.tlCounter (s1.queue q).ctx (fieldAt l 2 2))
    exec (.tlWaitCommand q) s = .next (if reached then nextCmd s1 q else s1)) ∧
  (∀ s q s1 l, cmd s q s1 l 6 → queueIdle s1 q = true →
    (bits (fieldAt l 0 8) 10 8 ≠ 6 → exec (.fenceCommand q) s = .next (nextCmd s1 q)) ∧
    (bits (fieldAt l 0 8) 10 8 = 6 → ∃ y, exec (.fenceCommand q) s = .next (nextCmd y q) ∧
      ∀ ln z, y.homeLine? (y.homeOf ln) ln = some z → z.data = [])) ∧
  (∀ s q s1 l, cmd s q s1 l 7 → queueIdle s1 q = true → exec (.barrierCommand q) s = .next (nextCmd s1 q)) ∧
  (∀ s q s1 l c i, (c, i) ∈ [(2, Instr.chainEnd q), (3, .tlSignal q), (6, .fenceCommand q), (7, .barrierCommand q)] →
    cmd s q s1 l c → queueIdle s1 q = false → exec i s = .next s1)

/-- 02 R32, R43, R56 to R58, 03 R64 to R67, R62: a block of a launch is placed on the first core that fits, from the
cursor in wrapping order or among the holders of its residency name, and its warps start with their registers; a
successor block takes the oldest records of its node, once enough are pending, the producers have ended or the
node's time has passed. The block's scratchpad is the records over zeros (log 4), a slot that cannot be read stands
there as log 53 says, and HEAD counts from 0 for each launch (log 57). A node none of whose cores is left starts no
block more: it alone is aborted, and the launch that fills its ring is marked as failed and goes on (log 56). A warp
whose lanes have exited ends once its work is complete, and the last one ends the block, as a release at .dv. -/
def Obligations.BlocksAndNodes : Prop :=
  let placed := fun (s t : State) (lid : Nat) (l : Launch) (bid core nrec : Nat) => ∃ b, t.block? core s.fed.nextBlk = some b ∧
    b.lid = lid ∧ b.bid = BitVec.ofNat 32 bid ∧ b.ctx = l.ctx ∧ b.nbv = l.nbvEff ∧ b.size = l.hdr.scr ∧ b.nbar = l.hdr.nbar ∧
    b.nshacc = l.hdr.nshacc ∧ ∀ i r sl, (warpRoles l.hdr)[i]? = some r → b.slots[i]? = some sl →
      ∃ w, t.warp? { core := core, slot := sl } = some w ∧ w.blk = s.fed.nextBlk ∧ w.id = i ∧ w.role = r.1 ∧
        w.access = r.2.access ∧ w.pc = BitVec.ofNat 54 r.2.entry ∧ w.exec = allLanes ∧ w.level = 0 ∧ w.getS 0 = l.hdr.karg ∧
        w.getS 1 = BitVec.ofNat 64 (bid % 2 ^ 32) ∧ w.getS 2 = BitVec.ofNat 64 nrec
  let starts := fun (s : State) (lid idx : Nat) (l : Launch) (n : NodeD) (out : SegOutcome) (i : Instr) =>
    ∀ cid x c s1 bytes,
    let recs := (mget [] l.pending idx).take (max 1 n.thresh)
    let el := eligible s x.ctx x.hdr
    let hs := if x.hdr.affinity then holders s x.ctx el (affName x.hdr x.next) else []
    childOf s lid idx = some (cid, x) → recs ≠ [] → x.aborted = false → el ≠ [] →
    (if hs.isEmpty then firstFit s el x.cursor (hdrNeed x.hdr) else hs.find? (fun c => coreFits (s.core c) (hdrNeed x.hdr))) = some c →
    readRecs s l.ctx n (mget 0 l.heads idx) recs out = (s1, some bytes) →
    ∃ t l1 b, exec i s = .next t ∧ t.launch? lid = some l1 ∧ mget [] l1.pending idx = (mget [] l.pending idx).drop recs.length ∧
      mget 0 l1.heads idx = mget 0 l.heads idx + recs.length ∧ t.block? c s.fed.nextBlk = some b ∧ b.lid = cid ∧
      b.scr = putBytes [] (bytesAt 0 bytes)
  (∀ s lid l, s.launch? lid = some l → (∀ p k, l.issuer ≠ .node p k) → dealBlocked s lid l = false →
    l.complete = false → l.aborted = false → l.next < l.hdr.nblock →
    let el := eligible s l.ctx l.hdr
    let b := nextBlock l.early.length l.next l.early
    let hs := if l.hdr.affinity then holders s l.ctx el (affName l.hdr b) else []
    b < l.hdr.nblock → colocSet l.hdr b = none → el ≠ [] →
    (∀ c, hs = [] → firstFit s el l.cursor (hdrNeed l.hdr) = some c → ∃ t l1, exec (.blockPlace lid) s = .next t ∧
      placed s t lid l b c 0 ∧ t.launch? lid = some l1 ∧ l1.next = b + 1 ∧ l1.cursor = c + 1 ∧ l1.running = l.running + 1) ∧
    (∀ c, hs ≠ [] → hs.find? (fun c => coreFits (s.core c) (hdrNeed l.hdr)) = some c →
      ∃ t l1, exec (.blockPlace lid) s = .next t ∧ placed s t lid l b c 0 ∧ t.launch? lid = some l1 ∧ l1.next = b + 1 ∧
        l1.cursor = l.cursor ∧ l1.running = l.running + 1)) ∧
  (∀ s lid idx out l n, s.launch? lid = some l → l.hdr.nodes[idx]? = some n →
    max 1 n.thresh ≤ (mget [] l.pending idx).length ∨ drained s lid l = true → starts s lid idx l n out (.nodeBlockStart lid idx out)) ∧
  (∀ s lid idx out l n p rest, s.launch? lid = some l → l.hdr.nodes[idx]? = some n → mget [] l.pending idx = p :: rest →
    n.timeout ≠ 0 → p.1 + n.timeout * usTicks ≤ s.ctl.time → starts s lid idx l n out (.nodeTimeout lid idx out)) ∧
  (∀ s lid idx out l n cid x, s.launch? lid = some l → l.hdr.nodes[idx]? = some n → childOf s lid idx = some (cid, x) → cid ≠ lid →
    (x.aborted = true → exec (.nodeBlockStart lid idx out) s = .next s ∧ exec (.nodeTimeout lid idx out) s = .next s) ∧
    (x.aborted = false → eligible s x.ctx x.hdr = [] → max 1 n.thresh ≤ (mget [] l.pending idx).length →
      ∃ t l1 x1, exec (.nodeBlockStart lid idx out) s = .next t ∧ t.launch? lid = some l1 ∧ t.launch? cid = some x1 ∧
        x1.aborted = true ∧ l1.lost = true ∧ l1.aborted = l.aborted ∧ l1.next = l.next ∧ l1.pending = l.pending)) ∧
  (∀ s core slot w b, s.warp? { core := core, slot := slot } = some w → s.block? core w.blk = some b → w.exited = allLanes →
    (w.level = 3 → w.t2.cause = 34#6 ∨ w.t2.mask ≠ 0#32 ∨ (w.stopped = true ∧ b.phase = .aborting)) →
    State.ldcnt w = 0 → s.stcnt { core := core, slot := slot } w = 0 → State.cpcnt w = 0 →
    s.tlcnt { core := core, slot := slot } = 0 →
    let last := b.slots.all (fun x => x = 255 || x = slot)
    (last = false → ∃ t b1, exec (.warpEnd core slot) s = .next t ∧ t.warp? { core := core, slot := slot } = none ∧
      t.block? core w.blk = some b1 ∧ b1.slots = b.slots.map (fun x => if x = slot then 255 else x)) ∧
    let s1 := dropWarp s { core := core, slot := slot }
    let s2 := if b.halt = some slot then resumeBlock s1 core w.blk else s1
    (last = true → releaseReady s2 core .dv = true → ∃ t, exec (.warpEnd core slot) s = .next t ∧
      t.warp? { core := core, slot := slot } = none ∧ t.block? core w.blk = none ∧ ReleasedAt t core .dv ∧
      ∀ l, s.launch? b.lid = some l → ∃ l1, t.launch? b.lid = some l1 ∧ l1.running = l.running - 1 ∧ l1.ended = l.ended + 1))

/-- 03 R68, R73 to R76, 06 R140, 10 R238, R249, 19 R365, 21 R422, R435: the slot table changes at the next cycle
that is 0 mod 64, and the scratchpad split once the core holds no block; a waiting warp of the active set leaves its
place to the first ready one, which issues 2 cc later, and every other warp keeps its own; the rotation takes the
place of the level-0 warp that entered earliest, which joins the tail where it could go on or ran `YIELD` (log 55);
a sleep ends once its time has passed; Tchidal releases a parked warp, or ends its block; a warp that waits for a
page tries again, or fails where Tchidal cannot map the page (log 36); a warp that stays in a handler leaves it
65,536 cycles after the stop. That a waiting warp is tried again after every move is the model's choice (log 37). -/
def Obligations.WarpSchedule : Prop :=
  let able := fun (w : Warp) => !w.stopped && !w.held && (!w.aborting && w.exited != allLanes || w.level = 3)
  let enters := fun (s t : State) (core : Nat) (q : List Nat) => ∀ h w, q.head? = some h →
    s.warp? { core := core, slot := h } = some w →
    ∃ w1, t.warp? { core := core, slot := h } = some w1 ∧ w1.enter = s.ctl.clock + 2
  (∀ s core j v, j < 16 → (s.lpt core).isSome = true → ∃ t, exec (.slottWrite core j v) s = .next t ∧
    (t.core core).slottAt = (s.ctl.clock / 64 + 1) * 64 ∧
    (∀ i n, i < 4 → (t.core core).slottAt ≤ n →
      (t.core core).slotAt n (4 * j + i) =
        let x := v.extractLsb' (16 * i) 16 &&& 0x80FF#16
        if (4 * j + i) % 8 = 0 then x ||| 0xC0#16 else x) ∧
    ((s.core core).slottNew = [] ∨ s.ctl.clock < (s.core core).slottAt →
      ∀ i, (t.core core).slotAt s.ctl.clock i = (s.core core).slotAt s.ctl.clock i)) ∧
  (∀ s core v, bits v.toNat 3 0 ≤ 10 → (s.lpt core).isSome = true → ∃ t, exec (.lscfgWrite core v) s = .next t ∧
    if (s.core core).blocks = [] then (t.core core).spu = bits v.toNat 3 0 ∧ (t.core core).spuNew = none ∧ (t.core core).l1 = []
    else (t.core core).spu = (s.core core).spu ∧ (t.core core).spuNew = some (bits v.toNat 3 0)) ∧
  (∀ s core v, 10 < bits v.toNat 3 0 → exec (.lscfgWrite core v) s = .next s) ∧
  (∀ s core out, out ≠ vacant → out ∈ (s.core core).active → vacates (s.core core) out = true →
    let q := (s.core core).ready ++ (if (s.warp? { core := core, slot := out }).any (fun w => w.wait == some .yielded && able w)
      then [out] else [])
    let a := (s.core core).active.map (fun x => if x = out then vacant else x)
    ∃ t, exec (.warpSwap core out) s = .next t ∧ (t.core core).ready = q.drop 1 ∧
      (t.core core).active = (match q with
        | [] => a
        | h :: _ => a.replace vacant h) ∧ enters s t core q) ∧
  (∀ s core out, out = vacant ∨ out ∉ (s.core core).active → (s.core core).hasPlace = true →
    ∃ t, exec (.warpSwap core out) s = .next t ∧ (t.core core).ready = (s.core core).ready.drop 1 ∧
      (t.core core).active = (match (s.core core).ready with
        | [] => (s.core core).active
        | h :: _ => if (s.core core).active.contains vacant then (s.core core).active.replace vacant h
          else (s.core core).active ++ [h]) ∧ enters s t core (s.core core).ready) ∧
  (∀ s core h rest, (s.core core).ready = h :: rest →
    let may := fun (x : Nat) (w : Warp) => x ∈ (s.core core).active ∧ mfind (s.core core).warps x = some w ∧ w.level = 0
    (∃ x w, may x w) → ∃ out w t, may out w ∧ (∀ x v, may x v → w.enter ≤ v.enter) ∧
      exec (.activeSetRotate core) s = .next t ∧
      (t.core core).active = ((s.core core).active.map (fun x => if x = out then vacant else x)).replace vacant h ∧
      (t.core core).ready = rest ++ (if (w.wait = none ∨ w.wait = some .yielded) ∧ able w = true then [out] else []) ∧
      (w.wait = some .yielded → ∃ w1, t.warp? { core := core, slot := out } = some w1 ∧ w1.wait = none) ∧
      enters s t core (s.core core).ready) ∧
  (∀ s core slot w u p, s.warp? { core := core, slot := slot } = some w → w.wait = some (.sleep u p) → u ≤ s.ctl.clock →
    ∃ t, exec (.sleepExpiry core slot) s = .next t ∧
      t.warp? { core := core, slot := slot } = some (retireWarp w p (w.issued.getD 0))) ∧
  (∀ s core slot w c n p, s.warp? { core := core, slot := slot } = some w → w.wait = some (.service c n p) →
    let r : WRef := { core := core, slot := slot }
    let ends := fun (v : Service) => ∀ b, s.block? core w.blk = some b → exec (.trapServiceRelease core slot v) s =
      .next (fatalFault (s.setWarp r { w with stopped := true, aborting := true, wait := none }) b.lid b.bid)
    (c = 26 → n ≠ 1 → ∃ t, exec (.trapServiceRelease core slot .release) s = .next t ∧
      t.warp? r = some (retireWarp w p (w.issued.getD 0))) ∧
    (c ≠ 26 → ∃ t, exec (.trapServiceRelease core slot .release) s = .next t ∧ t.warp? r = some { w with wait := none }) ∧
    ends .fatal ∧ (c = 26 → n = 1 → ends .release)) ∧
  (∀ s core slot w a m n, s.warp? { core := core, slot := slot } = some w → w.wait = some (.page a m) ∨ w.wait = some (.ring n) ∨
    w.wait = some .area → ∃ t, exec (.trapServiceRelease core slot .release) s = .next t ∧
      t.warp? { core := core, slot := slot } = some { w with wait := none }) ∧
  (∀ s core slot w a m, s.warp? { core := core, slot := slot } = some w → w.wait = some (.page a m) →
    exec (.trapServiceRelease core slot .fatal) s =
      .next (takeTrap s { core := core, slot := slot } { cause := 19, mask := m, addr := BitVec.ofNat 64 a })) ∧
  (∀ s core slot w b l n d, s.warp? { core := core, slot := slot } = some w → s.block? core w.blk = some b →
    w.wait = some (.ring n) → s.launch? b.lid = some l → l.hdr.nodes[n]? = some d →
    ∃ y, exec (.trapServiceRelease core slot .fatal) s =
      .next (takeTrap y { core := core, slot := slot } { cause := 19, mask := w.exec, addr := BitVec.ofNat 64 (ringSlot l n d) }) ∧
      ∃ l1, y.launch? b.lid = some l1 ∧ mget 0 l1.tails n = mget 0 l.tails n + 1 ∧
        mget [] l1.pending n = mget [] l.pending n ++ [(s.ctl.time, false)]) ∧
  (∀ s core slot w, s.warp? { core := core, slot := slot } = some w → w.wait = some .area →
    exec (.trapServiceRelease core slot .fatal) s = .next (failArea s core w.blk)) ∧
  (∀ s core slot w b, s.warp? { core := core, slot := slot } = some w → s.block? core w.blk = some b → w.level = 1 ∨ w.level = 2 →
    w.held = false → w.handlerSince + 65536 ≤ s.ctl.clock →
    (b.phase = .stopping → exec (.handlerTimeout core slot) s =
      .next (s.setWarp { core := core, slot := slot } { w with held := true, wait := none })) ∧
    (b.phase = .aborting → ∃ t w1, exec (.handlerTimeout core slot) s = .next t ∧
      t.warp? { core := core, slot := slot } = some w1 ∧ w1.level = 3 ∧ w1.t2.cause = 34#6 ∧
      w1.pc = (s.ctxEnt b.ctx).svec ∧ w1.exec = ~~~w.exited))

/-! ### Residencies and the matrix unit -/

/-- 05 R117, R118, R123, R124, 13 R299, 21 R411, R412, R415, R416, Table 21-3: `RESALLOC` gives a handle and a
status; an allocation that succeeds holds its quads, whose cells read 0, and raises USED; `RESPIN`, `RESUNPIN` and
`RESFREE` act on the entry of a valid handle and raise cause 21 on any other; `RESQ` describes the entry of a name.
-/
def Obligations.ResidencyHandles : Prop :=
  let valid := fun (s : State) (e : Env) (a : Reg) (i : Nat) (en : RtEnt) =>
    (rdReg e.w false 0 a).toNat < 65536 ∧ rtValid (s.core e.r.core) e.b.ctx (rdReg e.w false 0 a).toNat = some (i, en)
  (∀ x s e, ready (.resalloc x) s = some e →
    let r := resAlloc s e.r.core e.b.ctx (rdReg e.w false 0 x.a) (srcS e.w x.src).toNat
    exec (.resalloc x) s =
      .next (afterDone (r.1.updWarp e.r (fun w => wrReg w false 0 x.d (BitVec.ofNat 64 (r.2.1 + r.2.2 * 2 ^ 32)))) e)) ∧
  (∀ s core ctx name q,
    let qu := quotaOf s core ctx
    (name = 0#64 → resAlloc s core ctx name q = (s, 0, 5)) ∧
    (∀ i en, name ≠ 0#64 → rtByName (s.core core) ctx name = some (i, en) → resAlloc s core ctx name q = (s, rtHandle i en, 1)) ∧
    (rtByName (s.core core) ctx name = none → q = 0 ∨ quadsOf s core < q → resAlloc s core ctx name q = (s, 0, 5)) ∧
    (name ≠ 0#64 → rtByName (s.core core) ctx name = none → 0 < q → q ≤ quadsOf s core → qu.limit < qu.used + 4 * q →
      resAlloc s core ctx name q = (s, 0, 2)) ∧
    (∀ t h, ctx < 64 → resAlloc s core ctx name q = (t, h, 0) → ∃ en, rtValid (t.core core) ctx h = some (h % 64, en) ∧
      en.name = name ∧ en.state = 2#3 ∧ en.nquad.toNat = q ∧ (quadList en.qmask).length = q ∧
      (mget {} (t.core core).quota ctx).used = (mget {} (s.core core).quota ctx).used + 4 * q ∧
      ∀ a, en.qmask.getLsbD (a / 32768) = true → mget 0#8 (t.core core).cells a = 0#8)) ∧
  (∀ x s e i en, ready (.resunpin x) s = some e → valid s e x.a i en → exec (.resunpin x) s =
    .next (afterDone (s.setRt e.r.core i { en with pin := false, state := if en.state = 3#3 then 2#3 else en.state }) e)) ∧
  (∀ x s e i en, ready (.respin x) s = some e → valid s e x.a i en →
    let y := s.setRt e.r.core i { en with pin := true, state := if en.state = 2#3 then 3#3 else en.state }
    (en.state ≠ 4#3 → exec (.respin x) s = .next (afterDone y e)) ∧
    (en.state = 4#3 → sourceBusy s e.b.ctx en.src.toNat en.length.toNat = false →
      fenceWait y e.r e.w e.b.ctx { rel := true, acq := false, sc := false } .dv = none →
      let z := release y e.r.core .dv
      exec (.respin x) s = .next (afterDone (if ((z.core e.r.core).rtEnt i).state = 4#3 then
        (startRefill z e.r.core i { idx := i, ctx := e.b.ctx, num := none, sup := decide (e.w.level ≥ 2) }).getD z else z) e))) ∧
  (∀ x s e i en, ready (.resfree x) s = some e → valid s e x.a i en → ∃ t, exec (.resfree x) s = .next t ∧
    t.warp? e.r = some (retireWarp e.w e.next s.ctl.clock) ∧
    rtValid (t.core e.r.core) e.b.ctx (rdReg e.w false 0 x.a).toNat = none) ∧
  (∀ x s e, ready (.resq x) s = some e → ∃ w1, exec (.resq x) s = .next (retired s e w1) ∧
    ScalarResult e.w x.d (match rtByName (s.core e.r.core) e.b.ctx (rdReg e.w false 0 x.a) with
      | none => BitVec.ofNat 64 (8 * 2 ^ 32)
      | some (i, en) =>
        BitVec.ofNat 64 (en.nquad.toNat * 2 ^ 20 + en.pin.toNat * 2 ^ 19 + en.state.toNat * 2 ^ 16 + rtHandle i en)) w1) ∧
  (∀ (a : Reg) i s e, (∃ x : FA, x.a = a ∧ (i = .respin x ∨ i = .resunpin x ∨ i = .resfree x)) ∨
      (∃ x : FDA, x.a = a ∧ i = .resref x) ∨ (∃ x : FResload, x.a = a ∧ i = .resload x) →
    ready i s = some e → e.w.skid = none → (rdReg e.w false 0 a).toNat < 65536 →
    rtValid (s.core e.r.core) e.b.ctx (rdReg e.w false 0 a).toNat = none → exec i s = .next (takeTrap s e.r
      { cause := 21, mask := e.w.exec, addr := BitVec.ofNat 64 (rdReg e.w false 0 a).toNat }))

/-- 05 R120 to R122, R127, R128, Table 5-8, 13 R300, R301, 21 R413, R414: `RESLOAD` and `RESREF` release at .dv,
begin a load and give the next number of the die's timeline, or a status with bit 63 set, as the entry stands after
the release; a load ends done, failed or stopped, and its entry says which. An error that a controller met at an
offset of the source is logged (09 R221), and fails the load where it is uncorrectable. A length that does not fit
is BADARG in every state (log 35). Every entry of the table ages (R127). -/
def Obligations.ResidencyLoads : Prop :=
  let valid := fun (s : State) (e : Env) (a : Reg) (i : Nat) (en : RtEnt) =>
    (rdReg e.w false 0 a).toNat < 65536 ∧ rtValid (s.core e.r.core) e.b.ctx (rdReg e.w false 0 a).toNat = some (i, en)
  let tl := fun (s : State) (e : Env) => 4096 + s.siteOf e.r.core
  let gets := fun (s t : State) (e : Env) (d : Reg) => Retires s e t
    { wrReg e.w false 0 d (BitVec.ofNat 64 (issueNum s e.b.ctx (tl s e)).1) with
      tlops := e.w.tlops ++ [(tl s e, (issueNum s e.b.ctx (tl s e)).1)] }
  let answers := fun (i : Instr) (s : State) (e : Env) (d : Reg) (st : Nat) => ∃ t, exec i s = .next t ∧
    Retires s e t (wrReg e.w false 0 d (BitVec.ofNat 64 (2 ^ 63 + st)))
  (∀ x s e i en, ready (.resload x) s = some e → valid s e x.a i en →
    let core := e.r.core
    let src := (rdReg e.w false 0 x.b).toNat
    let len := (rdReg e.w false 0 x.c).toNat
    let f := match x.ty with
      | .bfp8 => 0
      | .bfp6 => 1
      | .bfp4 => 2
    let faults := fun (c : Nat) => exec (.resload x) s =
      .next (takeTrap s e.r { cause := c, mask := e.w.exec, addr := BitVec.ofNat 64 src })
    (e.w.skid = none → src % 64 ≠ 0 → faults 8) ∧ (e.w.skid = none → src % 64 = 0 → 2 ^ 54 ≤ src → faults 9) ∧
    (src % 64 = 0 → src < 2 ^ 54 →
    (len ≠ en.nquad.toNat * imageLen f → answers (.resload x) s e x.d 5) ∧
    (len = en.nquad.toNat * imageLen f → en.state = 1#3 → answers (.resload x) s e x.d 6) ∧
    (en.state ≠ 1#3 → len = en.nquad.toNat * imageLen f → (∀ l ∈ (s.core core).resl, l.idx ≠ i) →
      sourceBusy s e.b.ctx src len = false → fenceWait s e.r e.w e.b.ctx relKind .dv = none →
      (entryQuads (release s core .dv) core (((release s core .dv).core core).rtEnt i) = none → answers (.resload x) s e x.d 3) ∧
      (entryQuads (release s core .dv) core (((release s core .dv).core core).rtEnt i) ≠ none →
        ∃ t l, exec (.resload x) s = .next t ∧ gets s t e x.d ∧ l ∈ (t.core core).resl ∧ l.idx = i ∧
          l.num = some (issueNum s e.b.ctx (tl s e)).1 ∧ ((t.core core).rtEnt i).src = BitVec.ofNat 54 src ∧
          ((t.core core).rtEnt i).length = BitVec.ofNat 32 len ∧ ((t.core core).rtEnt i).lfmt = BitVec.ofNat 2 f ∧
          ((t.core core).rtEnt i).srcv = true)))) ∧
  (∀ x s e i en, ready (.resref x) s = some e → valid s e x.a i en →
    let core := e.r.core
    let z := release s core .dv
    let y := (issueNum z e.b.ctx (tl s e)).2
    let quads := entryQuads y core ((y.core core).rtEnt i)
    let number := (issueNum s e.b.ctx (tl s e)).1
    let now := ((z.core core).rtEnt i).state
    (en.state = 5#3 → en.srcv = false → answers (.resref x) s e x.d 7) ∧
    (¬(en.state = 5#3 ∧ en.srcv = false) → fenceWait s e.r e.w e.b.ctx relKind .dv = none →
    (now = 2#3 ∨ now = 3#3 →
      ∃ t, exec (.resref x) s = .next t ∧ gets s t e x.d ∧ (t.core core).rtEnt i = (z.core core).rtEnt i ∧
        (number ≤ (t.timeline e.b.ctx (tl s e)).counter ∨ number ∈ (t.timeline e.b.ctx (tl s e)).done)) ∧
    (now = 1#3 → ∃ t, exec (.resref x) s = .next t ∧ gets s t e x.d ∧
      ∀ l ∈ (t.core core).resl, l.idx = i → number ∈ l.also) ∧
    (now = 4#3 ∨ (now = 5#3 ∧ ∀ l ∈ (z.core core).resl, l.idx ≠ i) →
      sourceBusy z e.b.ctx en.src.toNat en.length.toNat = false →
      (quads = none → answers (.resref x) s e x.d 3) ∧
      (quads ≠ none → ∃ t l, exec (.resref x) s = .next t ∧ gets s t e x.d ∧ l ∈ (t.core core).resl ∧ l.idx = i ∧
        l.num = some number)))) ∧
  (∀ s core idx l, runningLoad s core idx = some l → l.stopping = false →
    let e := (s.core core).rtEnt idx
    let ctx := e.tenant.toNat
    let ag := agentRes (s.siteOf core)
    (∀ off out, e.srcv = false ∨ e.length.toNat ≤ off →
      exec (.residencyLoadFail core (idx, off, out)) s = .next (endLoad s core l false)) ∧
    (∀ off out s1 x, e.srcv = true → off < e.length.toNat →
      engineXlat s ag ctx (e.src.toNat + off) (engineNeed l.sup needR) false = (s1, .inr x) →
      exec (.residencyLoadFail core (idx, off, out)) s = .next (endLoad (logOutcome s1 x.pa out) core l false)) ∧
    (e.state = 1#3 → (∀ t ∈ (s.core core).mu, t.run.isSome = true → t.handle.toNat % 64 ≠ idx) →
      (∀ off out, e.srcv = false →
        exec (.residencyLoadComplete core (idx, off, out)) s = .next (endLoad (clearQuads s core e.qmask) core l true)) ∧
      (∀ off out, e.srcv = true → sourceBusy s ctx e.src.toNat e.length.toNat = false →
        virtIdle s ag ctx e.src.toNat e.length.toNat (engineNeed l.sup needR) false = true →
        let y := loadLog s core e l.sup off out
        let ey := (y.core core).rtEnt idx
        (∀ u, out = .failed u → exec (.residencyLoadComplete core (idx, off, out)) s = .next (endLoad y core l false)) ∧
        (∀ s2 img, (∀ u, out ≠ .failed u) →
          readVirt ((srcPages ey).foldl (fun s va => markSource s core idx ey.tenant.toNat va l.sup) y) (agentRes (y.siteOf core))
            ey.tenant.toNat ey.src.toNat ey.length.toNat (engineNeed l.sup needR) = (s2, .inr img) →
          exec (.residencyLoadComplete core (idx, off, out)) s = .next (endLoad (fillTiles s2 core ey img) core l true))))) ∧
  (∀ s core idx l, (s.core core).resl.find? (fun r => r.idx = idx) = some l → l.stopping = true →
    exec (.residencyLoadStop core idx) s = .next (endLoad s core l false)) ∧
  (∀ s core l, (∀ r ∈ ((endLoad s core l false).core core).resl, r.idx ≠ l.idx) ∧
    (((s.core core).rtEnt l.idx).state = 1#3 → (((endLoad s core l false).core core).rtEnt l.idx).state = 5#3 ∧
      (l.status = none → (((endLoad s core l true).core core).rtEnt l.idx).state =
        if ((s.core core).rtEnt l.idx).pin then 3#3 else 2#3))) ∧
  (∀ s, s.ctl.clock / 1024 % 2 ^ 30 = 0 → ∃ t, exec .lastuseAge s = .next t ∧ ∀ core c i, mfind s.cores core = some c → i < 64 →
    (t.core core).rtEnt i = if 2 ^ 31 < (rtNow s + 2 ^ 32 - (c.rtEnt i).lastuse.toNat) % 2 ^ 32 then
      { c.rtEnt i with lastuse := BitVec.ofNat 32 (rtNow s + 2 ^ 31) } else c.rtEnt i)

/-- 03 Table 3-2, 05 R122, R123, R126: RES_PRELOAD begins the load that its name, source and length give, or writes
the status of the refusal: BADARG for a name 0, EXISTS for a name that is live, then QUOTA for a tenant without
quads, then the status of its `RESALLOC`; one whose SOURCE is refused leaves no entry behind. Which of several
shapes of one length it takes is the model's free choice (log 14): it is stated for a length of one shape. The
status of a CORE without an LPT entry, of a LENGTH of no image and of a bad SOURCE is the model's choice (log 58).
-/
def Obligations.ResidencyPreload : Prop :=
  ∀ s q s1 l, q < 64 → findCmd s q = (s1, .cmd l) → fieldAt l 0 1 = 5 →
    let ctx := (s1.queue q).ctx
    let core := bits (fieldAt l 0 8) 25 16
    let name := BitVec.ofNat 64 (fieldAt l 8 8)
    let src := fieldAt l 0x10 8
    let len := fieldAt l 0x18 8
    let st := fieldAt l 0x20 8
    let num := (s1.queue q).head.toNat
    let refused := fun (z : State) (c : Nat) => exec (.resPreload q) s = .next (nextCmd (writeStatus z ctx st c num) q)
    (s1.lpt core = none ∨ name = 0#64 → refused s1 5) ∧
    (∀ y, s1.lpt core ≠ none → name ≠ 0#64 → rtByName (s1.core core) ctx name = some y → refused s1 1) ∧
    (s1.lpt core ≠ none → name ≠ 0#64 → rtByName (s1.core core) ctx name = none →
      (preShapes len = [] → refused s1 (if (quotaOf s1 core ctx).limit = 0 then 2 else 5)) ∧
      (∀ f n z h c, preShapes len = [(f, n)] → resAlloc s1 core ctx name n = (z, h, c) →
        (c ≠ 0 → refused z c) ∧
        (c = 0 → src % 64 ≠ 0 ∨ 2 ^ 54 ≤ src → refused s1 5) ∧
        (c = 0 → src % 64 = 0 → src < 2 ^ 54 → sourceBusy s1 ctx src len = true → exec (.resPreload q) s = .next s1) ∧
        (c = 0 → src % 64 = 0 → src < 2 ^ 54 → sourceBusy s1 ctx src len = false →
          ∃ y r, exec (.resPreload q) s = .next (nextCmd y q) ∧ r ∈ (y.core core).resl ∧ r.idx = h % 64 ∧ r.queue = some q ∧
            r.status = (if st = 0 then none else some (st, num)) ∧
            ((y.core core).rtEnt (h % 64)).src = BitVec.ofNat 54 src ∧ ((y.core core).rtEnt (h % 64)).lfmt = BitVec.ofNat 2 f ∧
            ((y.core core).rtEnt (h % 64)).pin = decide (bits (fieldAt l 0 8) 8 8 = 1) ∧
            ∃ k, (y.queue q).cmds = (s1.queue q).cmds ++ [k] ∧ k.num = num ∧ k.pre = some (core, h % 64))))

/-- 21 R431, R432, 05 R108, R111, R113, R116, 04 R95 to R98: a `TMMA` that passes its checks on a resident entry is
accepted with what it captured, and counts in TLCNT; one on a loading entry is accepted too and holds its warp, and
on an entry without quads it begins the refill, or faults where there are none, or where its release has made the
entry stale; the matrix unit starts the oldest one and runs the K-blocks of each element in order, the elements in
any order and each as far ahead of the others as it may be (R116), adding the block sum to ACC26 and writing the
elements that it promotes, and nothing else of the warp's accumulators, and then completes it. That the K-blocks are
the steps in which a store may meet the unit is the model's reading (log 32): what a K-block computes is stated
where no byte that it reads has changed since the acceptance, and a byte that one element has read stays as it was
read (R111). -/
def Obligations.MatrixMultiply : Prop :=
  (∀ x s e, ready (.tmma x) s = some e →
    let core := e.r.core
    let sel := if x.ssv then x.ssel else fmtSsel e.w.fmt
    let base := (rdReg e.w false 0 x.a).toNat % 2 ^ 32
    let h := (rdReg e.w false 0 x.b).toNat
    let captured := fun (m : Tmma) (held : Bool) => m.slot = e.r.slot ∧ m.blk = e.w.blk ∧ m.acc = Reg.accIdx x.d ∧
      m.base = base ∧ m.handle = BitVec.ofNat 16 h ∧ m.tile = x.t.val ∧ m.plane1 = x.plane1 ∧ fmtSsel m.fmt = sel ∧
      m.fmt.extractLsb' 0 16 = e.w.fmt.extractLsb' 0 16 ∧ m.scales = scaleBytes e.w (Reg.idx x.c) ∧ m.nbv = e.b.nbv ∧
      m.image = getBytes e.b.scr base (tileLen m.fmt) ∧ m.known = [] ∧ m.held = held ∧ m.run = none ∧ m.ran = false
    let holds := fun (z : State) => ∃ t m, exec (.tmma x) s = .next t ∧
      t.warp? e.r = some { e.w with heldAt := some (.waits e.next), wait := some .tile } ∧
      (t.core core).mu = (z.core core).mu ++ [m] ∧ captured m true
    (e.w.heldAt = none → ∀ i en, tmmaCheck e x sel base h = none →
      tmmaRes (s.core core) e.b.ctx h x.t.val e.w.exec = .inr (i, en) → s.tlcnt e.r < 4 → (s.core core).mu.length < 8 →
      (en.state ≠ 4#3 → en.state ≠ 1#3 →
        ∃ t m, exec (.tmma x) s = .next t ∧ Retires s e t e.w ∧ (t.core core).mu = (s.core core).mu ++ [m] ∧ captured m false ∧
          t.tlcnt e.r = s.tlcnt e.r + 1) ∧
      (e.w.skid = none → en.state = 1#3 → holds s) ∧
      (e.w.skid = none → en.state = 4#3 → sourceBusy s e.b.ctx en.src.toNat en.length.toNat = false →
        fenceWait s e.r e.w e.b.ctx relKind .dv = none →
        let z := release s core .dv
        let now := tmmaRes (z.core core) e.b.ctx h x.t.val e.w.exec
        let y := startRefill z core i { idx := i, ctx := e.b.ctx, num := none, sup := decide (e.w.level ≥ 2) }
        (∀ q, now = .inl q → exec (.tmma x) s = .next (takeTrap z e.r q)) ∧
        (∀ k, now = .inr k → y = none → exec (.tmma x) s = .next (takeTrap z e.r
          { cause := 23, mask := e.w.exec, addr := BitVec.ofNat 64 h })) ∧
        (∀ k z, now = .inr k → y = some z → holds z))) ∧
    (e.w.heldAt = none → ∀ q, e.w.skid = none → tmmaCheck e x sel base h = some q →
      ∃ y, exec (.tmma x) s = .next (takeTrap s e.r y) ∧ y.cause = q.cause ∧ y.mask = q.mask ∧ y.addr = q.addr) ∧
    (e.w.heldAt = none → ∀ q, e.w.skid = none → tmmaCheck e x sel base h = none →
      tmmaRes (s.core core) e.b.ctx h x.t.val e.w.exec = .inl q → exec (.tmma x) s = .next (takeTrap s e.r q)) ∧
    (∀ n, e.w.heldAt = some (.goes n) → exec (.tmma x) s = .next (retired s e { e.w with heldAt := none })) ∧
    (∀ c k n, e.w.skid = none → e.w.heldAt = some (.withdrawn c k n) → 7 < c → exec (.tmma x) s =
      .next (takeTrap (s.setWarp e.r { e.w with heldAt := none }) e.r
        { cause := c, mask := e.w.exec, addr := BitVec.ofNat 64 k, dop0 := n }))) ∧
  (∀ s core m rest quad, (s.core core).mu = m :: rest → m.ran = false → m.run = none → m.held = false → m.lateLoad = false →
    m.dead = false → issueHeld s = false → (quadList ((s.core core).rtEnt (m.handle.toNat % 64)).qmask)[m.tile]? = some quad →
    ∃ t l, exec (.tmmaRun core (m.id, none)) s = .next t ∧
      (t.core core).mu = { m with run := some { quad := quad, k := 0, acc := List.replicate 1024 0 } } :: l ∧
      ((t.core core).rtEnt (m.handle.toNat % 64)).touched = true ∧
      ((t.core core).rtEnt (m.handle.toNat % 64)).lastuse = BitVec.ofNat 32 (rtNow s)) ∧
  (∀ s core m r rest w b, (s.core core).mu = m :: rest → m.ran = false → m.run = some r → arrayHeld s = false →
    s.warp? { core := core, slot := m.slot } = some w → s.block? core m.blk = some b →
    let aw := afmtW (fmtAfmt m.fmt)
    let row := fun (i k : Nat) => getBytes b.scr (m.base + runAt aw i k) (4 * aw)
    let kept := fun (i k : Nat) => (m.image.drop (runAt aw i k)).take (4 * aw) = row i k
    let step1 := fun (k n : Nat) => accStep m.nbv (promPeriod m.nbv m.fmt) (fmtFtz m.fmt) k (accGet w b m.acc n) (r.acc.getD n 0)
      (blockSum ((tileA (row (n / 64) k) aw (fmtSsel m.fmt) m.scales (n / 64) k).zip
        (tileB (s.core core) r.quad (fmtBfmt m.fmt) m.plane1 k (n % 64))))
    let steps := fun (el : Option Nat) (k : Nat) (does : Nat → Prop) (after : List Nat → Tmma) =>
      let elem := step1 k
      ∃ t w1 b1 l acc, exec (.tmmaRun core (m.id, el)) s = .next t ∧ t.warp? { core := core, slot := m.slot } = some w1 ∧
        t.block? core m.blk = some b1 ∧ w1 = { w with acc := w1.acc } ∧ b1 = { b with bacc := b1.bacc } ∧
        (∀ j n, n < 1024 → (j = m.acc → does n → accGet w1 b1 j n = (elem n).2.1) ∧
          (¬(j = m.acc ∧ does n) → accGet w1 b1 j n = accGet w b j n)) ∧
        acc.length = 1024 ∧ (∀ n, n < 1024 → (does n → acc[n]? = some (elem n).2.2) ∧ (¬does n → acc[n]? = some (r.acc.getD n 0))) ∧
        (t.core core).mu = after acc :: l
    ((∀ i, i < 16 → kept i r.k) → steps none r.k (fun n => n ∉ r.part) (fun acc => { m with
      run := some { r with k := r.k + 1, acc := acc, part := r.part.eraseDups.foldl List.erase r.part }
      ran := decide (r.k = 15) })) ∧
    ∀ j, j < 1024 → let k := r.k + r.part.count j
      k < 16 → kept (j / 64) k → steps (some j) k (fun n => n = j) (fun acc => { m with
        known := (16 * (j / 64) + k) :: m.known
        run := some { r with acc := acc, part := j :: r.part } })) ∧
  (∀ s core m rest, (s.core core).mu = m :: rest → m.ran = true → ∃ t, exec (.tmmaComplete core m.id) s = .next t ∧
    (t.core core).mu = rest)

/-! ### The key-value engine -/

/-- 09 R226 to R234, 14 R302 to R306, 20 R387 to R393: the KV instructions check their addresses, read the pool, the
sequence and its table, and act on the block directory; a lane that names no token or no live block takes cause 24
with its status, and the sequence instructions give a status to sD, tested before what they write is asked for; a
write of a block that is copying is held; a directory entry, a ring or storage that cannot be reached raises that
cause, and so does what a controller meets on a write (06 R142, 09 R221); `KVDEM` starts its move, or ends it at
once with the code of its refusal. Which words are judged, and when, is log 20, the checks before any effect log 40,
the moment at which the engine acts log 38, and what a controller meets comes from the schedule (log 75). -/
def Obligations.KeyValueInstructions : Prop :=
  let st := fun (t : State) (e : Env) (d : Reg) (v : Nat) =>
    Host.Outcome.next (afterDone (t.updWarp e.r (fun w => wrReg w false 0 d (BitVec.ofNat 64 v))) e)
  let reach := fun (s : State) (e : Env) (a b : Nat) (need : BitVec 4) (s2 : State) (p : KvPool) (q : KvSeq) =>
    kvCheck [(a, 64), (b, 16)] = none ∧ ∃ s1, kvPoolAt s e a = some (s1, p) ∧ kvSeqAt s1 e b need = some (s2, q)
  let holds := fun (i : Instr) (s z : State) (e : Env) (x : FKv) (app : Bool) => ∃ t k, exec i s = .next t ∧ Retires s e t e.w ∧
    t.kvHeld = z.kvHeld ++ [k] ∧ k.form = x ∧ k.app = app ∧ k.core = e.r.core ∧ k.slot = e.r.slot ∧ k.v = e.w.v ∧ k.s = e.w.s ∧
    k.act = e.act
  (∀ i s e l c y, ready i s = some e → e.w.skid = none →
    (∃ x : FKv, l = [(kvReg e x.a, 64), (kvReg e x.b, 16)] ∧ (i = .kvld x ∧ State.ldcnt e.w < 64 ∨
      (i = .kvst x ∨ i = .kvapp x) ∧ s.stcnt e.r e.w < 64 ∧ unbound e.w = false)) ∨
    (∃ x : FKvrel, l = [(kvReg e x.a, 64), (kvReg e x.b, 16)] ∧ i = .kvrel x ∧ s.stcnt e.r e.w < 64) ∨
    (∃ x : FKv4, i = .kvfork x ∧ l = [(kvReg e x.a, 64), (kvReg e x.b, 16), (kvReg e x.c, 16)] ∧ s.stcnt e.r e.w < 64 ∨
      i = .kvdem x ∧ l = [(kvReg e x.a, 64), (kvReg e x.c, 8)]) → kvCheck l = some (c, y) →
    ∃ q, exec i s = .next (takeTrap s e.r q) ∧ q.cause = c ∧ q.addr = BitVec.ofNat 64 y ∧
      ((∃ x, i = .kvld x ∨ i = .kvst x) → q.mask = e.act) ∧
      ((∃ x, i = .kvapp x) ∨ (∃ x, i = .kvrel x) ∨ (∃ x, i = .kvfork x ∨ i = .kvdem x) → q.mask = e.w.exec)) ∧
  (∀ x s e s2 p q s3 bad hits, ready (.kvld x) s = some e → State.ldcnt e.w < 64 →
    reach s e (kvReg e x.a) (kvReg e x.b) (kvR e) s2 p q →
    kvLanesAt s2 e p q (kvR e) (accW x.ty x.wid) x.c = some (s3, bad, hits) →
    (bad = [] → hits ≠ [] → ∃ t op, exec (.kvld x) s = .next t ∧
      Retires s e t { e.w with loads := e.w.loads ++ [op] } ∧
      op.dest = .vreg (Reg.idx x.d) (DTy.sext x.ty) ∧ op.lanes.map (·.lane) = hits.map (·.lane) ∧
      op.gather.map (·.1) = ((hits.map (·.blk)).eraseDups).map (entAt p) ∧
      ∃ g, t.gathers = s.gathers ++ g ∧ g.map (·.blk) = (hits.map (·.blk)).eraseDups) ∧
    (e.w.skid = none → bad ≠ [] → hits ≠ [] → ∃ t op, exec (.kvld x) s = .next t ∧
      t.warp? e.r = some { e.w with loads := e.w.loads ++ [op], wait := some .faults } ∧
      op.lanes.map (·.lane) = hits.map (·.lane) ∧ op.fails = byLane bad) ∧
    (∀ f rest, e.w.skid = none → hits = [] → bad = f :: rest → ∃ z q, exec (.kvld x) s = .next (takeTrap z e.r q) ∧
      q.cause = f.cause ∧ (f.cause = 24 → q.dop0 = BitVec.ofNat 64 f.lvl))) ∧
  (∀ x s e s2 p q s3 bad hits, ready (.kvst x) s = some e → s.stcnt e.r e.w < 64 → unbound e.w = false →
    reach s e (kvReg e x.a) (kvReg e x.b) (kvR e) s2 p q →
    kvLanesAt s2 e p q (kvR e) (accW x.ty x.wid) x.c = some (s3, bad, hits) →
    let blks := (hits.map (·.blk)).eraseDups
    let es := blks.map (fun b => (b, (entGet s3 p b).2))
    let ixs := ((hits.filter (fun h => ((es.filter (fun b => b.2.ref > 1)).map (·.1)).contains h.blk)).map (·.ix)).eraseDups
    let held := es.any (fun b => b.2.ref = 1 && b.2.moving)
    (∀ s4 v, bad = [] → held = false → kvTableAt e q.bt (kvW e) ixs s3 = some (s4, v) →
      let c := kvCows e p q hits blks s4
      let r := hits.foldl (kvstLane x e p (kvReg e x.b) c.2) (c.1, [])
      (r.2 = [] → exec (.kvst x) s = .next (afterDone r.1 e)) ∧
      (r.2 ≠ [] → e.w.skid = none → ∃ y, exec (.kvst x) s = .next (takeTrap r.1 e.r y) ∧
        y.mask = maskOf (((byLane r.2).filter (fun f => f.cause = y.cause)).map (·.lane)))) ∧
    (held = true → holds (.kvst x) s s3 e x false) ∧
    (∀ f rest, e.w.skid = none → hits = [] → bad = f :: rest → ∃ z q, exec (.kvst x) s = .next (takeTrap z e.r q) ∧
      q.cause = f.cause ∧ (f.cause = 24 → q.dop0 = BitVec.ofNat 64 f.lvl))) ∧
  (∀ x e p va subst y fs h b,
    let l := storeBytes e.w .vec x.d h.lane (accW x.ty x.wid)
    mfind subst h.blk = some (.inr b) →
      (∀ z, y.ctl.kvMet = [] → kvWrite y p b h.off l = .inr z → kvstLane x e p va subst (y, fs) h = (z, fs)) ∧
      (∀ k, y.ctl.kvMet = [] → kvWrite y p b h.off l = .inl k →
        kvstLane x e p va subst (y, fs) h = (y, fs ++ [{ lane := h.lane, cause := k, lvl := 0, addr := va }])) ∧
      (∀ off k t, y.ctl.kvMet = (off, .failed k) :: t → l ≠ [] →
        ∃ z, kvstLane x e p va subst (y, fs) h = (z, fs ++ [{ lane := h.lane, cause := 19, lvl := 0, addr := va }]))) ∧
  (∀ x s e s2 p q, ready (.kvapp x) s = some e → s.stcnt e.r e.w < 64 → unbound e.w = false →
    reach s e (kvReg e x.a) (kvReg e x.b) (kvR e) s2 p q →
    let ix := q.len / KvPool.tpb p
    let off := q.len % KvPool.tpb p * KvPool.recLen p
    let w := accW x.ty x.wid
    let ends := fun (z : State) => exec (.kvapp x) s = st (kvSetLen z e q (q.len + 1)) e x.d 0
    (q.nbte ≤ ix → exec (.kvapp x) s = st s2 e x.d 4) ∧
    let faults := fun (c : Nat) => ∃ z y, exec (.kvapp x) s = .next (takeTrap z e.r y) ∧ y.cause = c ∧ y.mask = e.w.exec
    let appends := fun (y : State) (tbl : List Nat) (mk : State → State × (KvErr ⊕ Nat)) =>
      (∀ z n, mk y = (z, .inl (24, n)) → exec (.kvapp x) s = st y e x.d n) ∧
      (∀ z c n, e.w.skid = none → c ≠ 24 → mk y = (z, .inl (c, n)) → faults c) ∧
      (∀ z b1 y1 vs y2 u z2 b y3, mk y = (z, .inr b1) → y.ctl.kvMet = [] → kvTableAt e q.bt (kvW e) tbl y = some (y1, vs) →
        kvWordAt y1 e (q.va + 8) 4 (kvW e) = some (y2, u) → mk y2 = (z2, .inr b) → kvToken z2 e p b off w x.c = .inr y3 → ends y3)
    (∀ s3 v, ix < q.nbte → kvTableAt e q.bt (kvR e) [ix] s2 = some (s3, [v]) →
      let b := bteBlk v
      let en := entGet s3 p b
      (q.len % KvPool.tpb p = 0 → appends s3 [ix] (fun s => match newBlk s p with
        | (s1, .inr n) => (kvSetBte s1 e q ix n, .inr n)
        | r => r)) ∧
      (q.len % KvPool.tpb p ≠ 0 → bteValid v = false ∨ p.nblk ≤ b → exec (.kvapp x) s = st s3 e x.d 4) ∧
      (q.len % KvPool.tpb p ≠ 0 → bteValid v = true → b < p.nblk →
        (∀ c, e.w.skid = none → entCause s3 p b = some c → faults c) ∧
        (entCause s3 p b = none →
          (KvEnt.gone en.2 = true → exec (.kvapp x) s = st s3 e x.d 5) ∧
          (KvEnt.gone en.2 = false → en.2.ref = 1 → en.2.moving = false → appends en.1 [] (fun s => (s, .inr b))) ∧
          (KvEnt.gone en.2 = false → en.2.ref = 1 → en.2.moving = true → holds (.kvapp x) s s3 e x true) ∧
          (KvEnt.gone en.2 = false → 1 < en.2.ref →
            appends en.1 [ix] (fun s => cowBlk s p b (fun s n => kvSetBte s e q ix n))))))) ∧
  (∀ x s e s1 p s2 qd s3 qs, ready (.kvfork x) s = some e → s.stcnt e.r e.w < 64 →
    let dst := kvReg e x.b
    let src := kvReg e x.c
    let k := x.im.toNat
    kvCheck [(kvReg e x.a, 64), (dst, 16), (src, 16)] = none → kvPoolAt s e (kvReg e x.a) = some (s1, p) →
    kvSeqAt s1 e dst (kvR e) = some (s2, qd) → kvSeqAt s2 e src (kvR e) = some (s3, qs) →
    (dst = src ∨ qd.len ≠ 0 ∨ qd.nbte < k ∨ qs.nbte < k → exec (.kvfork x) s = st s3 e x.d 4) ∧
    (∀ s4 vs, dst ≠ src → qd.len = 0 → k ≤ qd.nbte → k ≤ qs.nbte → kvTableAt e qs.bt (kvR e) (List.range k) s3 = some (s4, vs) →
      ((∃ v ∈ vs, bteValid v = false ∨ p.nblk ≤ bteBlk v) → exec (.kvfork x) s = st s4 e x.d 4) ∧
      ((∀ v ∈ vs, bteValid v = true ∧ bteBlk v < p.nblk) →
        (∀ z c, e.w.skid = none → addRefs p (vs.map bteBlk) s4 = (z, .inl c) → ∃ t y, exec (.kvfork x) s = .next (takeTrap t e.r y) ∧
          y.cause = c ∧ y.mask = e.w.exec ∧ y.addr = BitVec.ofNat 64 dst) ∧
        (∀ z n, addRefs p (vs.map bteBlk) s4 = (z, .inr n) → n ≠ 0 → exec (.kvfork x) s = st s4 e x.d n) ∧
        (∀ z s5 us s6 u s7, addRefs p (vs.map bteBlk) s4 = (z, .inr 0) → kvTableAt e qd.bt (kvW e) (List.range k) s4 = some (s5, us) →
          kvWordAt s5 e (dst + 8) 4 (kvW e) = some (s6, u) → addRefs p (vs.map bteBlk) s6 = (s7, .inr 0) →
          exec (.kvfork x) s = st (kvSetLen ((List.range k).foldl (fun s i => kvStore s e (qd.bt + 4 * i) 4 (vs.getD i 0)) s7) e qd
            (min qs.len (k * KvPool.tpb p))) e x.d 0)))) ∧
  (∀ x s e s2 p q, ready (.kvrel x) s = some e → s.stcnt e.r e.w < 64 →
    reach s e (kvReg e x.a) (kvReg e x.b) (kvR e) s2 p q →
    let j := x.j.toNat
    let ixs := (List.range (q.nbte - j)).map (fun i => j + i)
    (q.nbte < j → exec (.kvrel x) s = st s2 e x.d 4) ∧
    (∀ s3 vs, j ≤ q.nbte → kvTableAt e q.bt (kvR e) ixs s2 = some (s3, vs) →
      let live := (ixs.zip vs).filter (fun y => bteValid y.2)
      ((∃ y ∈ live, p.nblk ≤ bteBlk y.2) → exec (.kvrel x) s = st s3 e x.d 4) ∧
      ((∀ y ∈ live, bteBlk y.2 < p.nblk ∧ entCause s3 p (bteBlk y.2) = none) →
        ((∃ y ∈ live, KvEnt.gone (entGet s3 p (bteBlk y.2)).2 = true) → exec (.kvrel x) s = st s3 e x.d 5) ∧
        (∀ s4 us s5 u, (∀ y ∈ live, KvEnt.gone (entGet s3 p (bteBlk y.2)).2 = false) →
          (∀ c ∈ relCauses s3 p (live.map (fun y => bteBlk y.2)), c = none) →
          kvTableAt e q.bt (kvW e) (live.map (·.1)) s3 = some (s4, us) → kvWordAt s4 e (kvReg e x.b + 8) 4 (kvW e) = some (s5, u) →
          exec (.kvrel x) s = st (kvSetLen (live.foldl (fun s y => kvStore (decRef s p (bteBlk y.2)) e (q.bt + 4 * y.1) 4 0) s5) e q
            (min q.len (j * KvPool.tpb p))) e x.d 0)))) ∧
  (∀ x s e s1 p, ready (.kvdem x) s = some e → kvCheck [(kvReg e x.a, 64), (kvReg e x.c, 8)] = none →
    kvPoolAt s e (kvReg e x.a) = some (s1, p) → demCause s1 p (kvReg e x.b) x.im.toNat = none →
    let tl := 0x2000 + s.siteOf e.r.core
    let n := issueNum s1.freshId.2 e.b.ctx tl
    let z := giveNum n.2 e x.d tl n.1
    let blk := kvReg e x.b
    let tier := x.im.toNat
    let mine := fun (m : KvMove) => m.num = n.1 ∧ m.blk = blk ∧ m.status = kvReg e x.c ∧ m.ctx = e.b.ctx ∧ m.pool = p.p0 ∧ m.word = none
    (∃ t w1, exec (.kvdem x) s = .next t ∧ Retires s e t w1 ∧
      ScalarResult { e.w with tlops := w1.tlops } x.d (BitVec.ofNat 64 (issueNum s e.b.ctx tl).1) w1 ∧
      w1.tlops = e.w.tlops ++ [(tl, (issueNum s e.b.ctx tl).1)]) ∧
    (∀ c, demRefusal z p blk tier = some c → ∃ m, mine m ∧ exec (.kvdem x) s = .next (afterDone (endMove z m c) e)) ∧
    (∀ z2 a, demRefusal z p blk tier = none → ringTake z p tier = (z2, some a) →
      let en := entGet z2 p blk
      let y := entPut en.1 p blk { en.2 with moving := true, oaddr := a, otier := tier }
      ∃ m, mine m ∧ exec (.kvdem x) s = .next (afterDone { y with moves := y.moves ++ [m] } e)))

/-- 09 R229, R233, 14 R306, R307, 06 R155, R156: a gather binds its lanes from the storage that it resolved, or
raises the fault of a lane whose storage cannot be read, or on which a controller met an uncorrectable error (09
R221); what it met on a move is logged at the address where it lies, of the source or of the destination (09 R223);
a move flips its entry once the copy is made, or leaves it as it was and says so; its number completes once its
status word is written, or lost; a held write whose page Tchidal cannot map takes cause 19 (20 R387); the heat sweep
halves the heat of every leaf, once its line is free, and changes no other bit of it. The fields of an entry whose
move is abandoned are log 20. -/
def Obligations.KeyValueMoves : Prop :=
  (∀ s core slot op lanes w o a, s.warp? { core := core, slot := slot } = some w →
    w.loads.find? (fun o => o.id = op && !o.gather.isEmpty) = some o → netQuiet s = true → o.lanes = [a] → o.fails = [] →
    let met := runCause s a.pa a.w
    (met = none → ∃ t, exec (.kvldGatherComplete core slot (op, lanes, .done)) s = .next t ∧
      t.warp? { core := core, slot := slot } = some
        { (bindLane w o.dest a.lane (readPhys s a.pa a.w).2) with loads := w.loads.filter (fun y => y.id != op) }) ∧
    (∀ c, met = some c → ∃ z q, exec (.kvldGatherComplete core slot (op, lanes, .done)) s =
      .next (lateTrap z { core := core, slot := slot } o.pt q) ∧ q.cause = c ∧ q.addr = BitVec.ofNat 64 a.va ∧
      q.mask = maskOf [a.lane]) ∧
    (∀ c, met = none → lanes.getLsbD a.lane = true → ∃ z q, exec (.kvldGatherComplete core slot (op, lanes, .failed c)) s =
      .next (lateTrap z { core := core, slot := slot } o.pt q) ∧ q.cause = c ∧ q.mask = maskOf [a.lane])) ∧
  (∀ s id m, runningMove s id = some m → m.word = none →
    ∀ off out,
    let y := moveLog s m off out
    let p := poolGet y m.pool m.pool2
    let e := entGet p.1 p.2 m.blk
    let src := storeAt e.2.tier e.2.addr
    let dst := storeAt e.2.otier e.2.oaddr
    let dropped := Host.Outcome.next (endMove (entPut (ringGive e.1 p.2 e.2.otier e.2.oaddr) p.2 m.blk
      { e.2 with moving := false, otier := 0 }) m 8)
    exec (.kvMoveFail (id, off, out)) s = dropped ∧
    (∀ u, out = .failed u → exec (.kvMoveFlip (id, off, out)) s = dropped) ∧
    ((∀ u, out ≠ .failed u) → runCause e.1 src (KvPool.bytes p.2) = none → runCause e.1 dst (KvPool.bytes p.2) = none →
      entCause y p.2 m.blk = none → ∃ z e1, exec (.kvMoveFlip (id, off, out)) s = .next (endMove (entPut z p.2 m.blk e1) m 0) ∧
        e1.addr = e.2.oaddr ∧ e1.tier = e.2.otier ∧ e1.oaddr = e.2.addr ∧ e1.ver = (e.2.ver + 1) % 256 ∧ e1.moving = false ∧
        e1.ref = e.2.ref ∧ e1.otier = (if e1.grace = 0 then 0 else e.2.tier))) ∧
  (∀ s m off out,
    let p := poolGet s m.pool m.pool2
    let e := entGet p.1 p.2 m.blk
    let n := KvPool.bytes p.2
    (off < n → moveLog s m off out = logOutcome e.1 (storeAt e.2.tier e.2.addr + off) out) ∧
    (n ≤ off → off < 2 * n → moveLog s m off out = logOutcome e.1 (storeAt e.2.otier e.2.oaddr + (off - n)) out) ∧
    (2 * n ≤ off → moveLog s m off out = s)) ∧
  (∀ s id m st off out, runningMove s id = some m → m.word = some st → exec (.kvMoveFlip (id, off, out)) s = .next (endMove s m st) ∧
    exec (.kvMoveFail (id, off, out)) s = .next ((doneMove s m).raise (.statusLost m.num))) ∧
  (∀ s m st z,
    let word := writeVirt s (agentKve m.site) m.ctx m.status (leBytes 8 st) (engineNeed m.sup needW)
    (word = (z, none) → endMove s m st = doneMove z m) ∧
    (∀ c, word = (z, some c) → c ≠ 15 → endMove s m st = (doneMove z m).raise (.statusLost m.num)) ∧
    (word = (z, some 15) → { m with word := some st } ∈ (endMove s m st).moves ∧ (endMove s m st).fed = z.fed)) ∧
  (∀ s m, (∀ x ∈ (doneMove s m).moves, x.id ≠ m.id) ∧
    let l := (doneMove s m).timeline m.ctx (0x2000 + m.site)
    (m.num ≤ l.counter ∨ m.num ∈ l.done)) ∧
  (∀ s core slot id k va m, let r : WRef := { core := core, slot := slot }
    (s.heldOf r).find? (fun k => k.id = id) = some k → k.page = some (va, m) →
    exec (.trapServiceRelease core slot (.unmapped id)) s = .next (lateTrap (s.dropHeld id) r k.pt
      { cause := 19, mask := m, addr := BitVec.ofNat 64 va })) ∧
  (∀ s, s.pkg.hsweep = 0 → exec .heatSweep s = .next s) ∧
  (∀ s c, s.pkg.hsweep ≠ 0 → (s.vm.ctx.filter (fun c => c.2.en)) = [c] →
    exec .heatSweep s = .next ((leavesOf s 5 c.2.root 1).foldl (fun s x => coolLeaf s x.1 x.2) s)) ∧
  (∀ s a e,
    let cur := s.snoopNum a 8
    let new := heatOp .cool cur
    (s.lineBusy (a / 64) = false → bits cur 0 0 = 1 → bits cur 47 12 = bits e 47 12 → new ≠ cur →
      coolLeaf s a e = writePhys s (a + 6) (leBytes 2 (bits new 63 48)) 0 0 false) ∧
    (s.lineBusy (a / 64) = true → (coolLeaf s a e).vm.heat = s.vm.heat ++ [{ a := a, pfn := bits e 47 12, op := .cool }])) ∧
  (∀ e,
    let rest := fun (x : Nat) => bits x 53 0 = bits e 53 0 ∧ bits x 63 58 = bits e 63 58
    (bits (heatOp .cool e) 55 54 = bits e 55 54 / 2 ∧ bits (heatOp .cool e) 57 56 = bits e 57 56 / 2 ∧ rest (heatOp .cool e)) ∧
    (bits (heatOp .read e) 55 54 = min 3 (bits e 55 54 + 1) ∧ bits (heatOp .read e) 57 56 = bits e 57 56 ∧ rest (heatOp .read e)) ∧
    (bits (heatOp .write e) 55 54 = bits e 55 54 ∧ bits (heatOp .write e) 57 56 = min 3 (bits e 57 56 + 1) ∧
      rest (heatOp .write e)))

/-! ### Memory events -/

/-- 03 R78, 06 R141, 07 R168, R170, R178, R179, 08 R188 to R191, Table 8-1, 10 R242, R443: a load's lanes bind, or
raise the trap of the load; the oldest entry of a write buffer reaches the CLC once the set of its line has room,
and a line's dirty bytes go on toward their home; logical time and leases rise by the rules of Table 8-1; one atomic
request is performed at its point. An instruction whose lanes fail late raises one trap, when the last of them is
over (R443). That a late access failure traps at its own instruction is log 15, and the two leases of a copy log 9.
A reply older than the copy of its CLC fills nothing, and a copy with written bytes keeps its later times (log 72).
-/
def Obligations.MemoryEvents : Prop :=
  (∀ s core slot op lanes w o, s.warp? { core := core, slot := slot } = some w → w.loads.find? (fun o => o.id = op) = some o →
    (∀ t q sx, o.dest ≠ .queue t q sx) → o.gather = [] →
    let r : WRef := { core := core, slot := slot }
    let p := loadSplit s r w o lanes
    let fault := fun (c : Nat) (a : LaneAcc) => LaneFault.mk a.lane c 0 a.va
    (p.2 = [] → o.fails = [] → exec (.loadReturn core slot op lanes .done) s =
      .next ((p.1.foldl (fun t a => bindFrom s t r o.dest o.cache a) s).updWarp r (fun v => dropLanes v op (p.1.map (·.lane)) []))) ∧
    (∀ a l, p.2 = [] → o.fails = [] → p.1 = [a] → s.loadBytes core a.pa a.w = some l →
      ∃ t, exec (.loadReturn core slot op lanes .done) s = .next t ∧
        t.warp? r = some (dropLanes (bindLane w o.dest a.lane l) op [a.lane] [])) ∧
    (∀ c, c ≠ 19 → (∃ y ∈ o.lanes, lanes.getLsbD y.lane = false) →
      let l := o.lanes.filter (fun y => lanes.getLsbD y.lane)
      exec (.loadReturn core slot op lanes (.failed c)) s =
        .next (s.updWarp r (fun v => dropLanes v op (l.map (·.lane)) (byLane (o.fails ++ l.map (fault c)))))) ∧
    (∀ c f rest, c ≠ 19 → (∀ y ∈ o.lanes, lanes.getLsbD y.lane = true) → byLane (o.fails ++ o.lanes.map (fault c)) = f :: rest →
      ∃ z q,
      exec (.loadReturn core slot op lanes (.failed c)) s = .next (lateTrap z r o.pt q) ∧ q.cause = f.cause ∧
      q.addr = BitVec.ofNat 64 f.addr ∧ q.mask = maskOf (((f :: rest).filter (fun y => y.cause = f.cause)).map (·.lane)) ∧
      q.rmask = maskOf ((f :: rest).map (·.lane))) ∧
    (∀ a b, o.lanes = [a] → lanes.getLsbD a.lane = true → o.fails = [] → w.level = 0 → o.pt.lvl = 0 → w.skid = none →
      s.block? core w.blk = some b → ∃ t w1, exec (.loadReturn core slot op lanes (.failed 19)) s = .next t ∧ t.warp? r = some w1 ∧
        w1.level = 2 ∧ w1.t2.cause = 19#6 ∧ w1.t2.pc = o.pt.pc ∧ w1.t2.icount = o.pt.icount ∧ w1.t2.rmask = maskOf [a.lane] ∧
        w1.exec = maskOf [a.lane])) ∧
  (∀ s core buf e rest, mget [] (s.core core).wb (buf % 4) = e :: rest →
    (∃ y ∈ e.bytes, s.clcFull (s.clusterOf core) (y.1 / 64) = true) → exec (.writeBufferDrain core buf) s = .next s) ∧
  (∀ s core buf e rest x xs, mget [] (s.core core).wb (buf % 4) = e :: rest → e.bytes = x :: xs →
    (∀ y ∈ e.bytes, s.clcFull (s.clusterOf core) (y.1 / 64) = false) →
    ∃ t c, exec (.writeBufferDrain core buf) s = .next t ∧ mget [] (t.core core).wb (buf % 4) = rest ∧
      mfind (t.clc (s.clusterOf core)) (x.1 / 64) = some c ∧ (t.core core).pts = c.wts ∧ c.rts = c.wts ∧
      ∀ off, mfind c.data off = match e.bytes.reverse.find? (fun b => b.1 % 64 = off) with
        | some b => some b.2
        | none => (mfind (s.clc (s.clusterOf core)) (x.1 / 64)).bind (fun y => mfind y.data off)) ∧
  (∀ s k line c, s.lineBusy line = false → s.reaches (k / 34) (s.homeOf line) = true → mfind (s.clc k) line = some c →
    Copy.dirtyBytes c ≠ [] →
    ∃ t, exec (.clcDirtyPush k line) s = .next t ∧ mfind (t.clc k) line = some { Copy.clean c with gwts := none } ∧
      ∀ core y, s.clusterOf core = k → mfind (t.core core).l1 line = some y → Copy.dirtyBytes y = []) ∧
  (∀ s core, (s.core core).ptsAt + (s.die (s.dieOf core)).tickcc ≤ s.ctl.clock → ∃ t, exec (.ptsTick core) s = .next t ∧
    (t.core core).pts = (s.core core).pts + 1 ∧ (t.core core).ptsAt = (s.core core).ptsAt + (s.die (s.dieOf core)).tickcc ∧
    ∀ l, l ≠ core → t.core l = s.core l) ∧
  (∀ s site v, site ≤ 7 → ∃ t, exec (.leaseConfigWrite site v) s = .next t ∧ (t.die site).ticks = max 1 (bits v.toNat 15 0) ∧
    (t.die site).tickcc = max 16 (bits v.toNat 31 16)) ∧
  (∀ s core line, s.mapCause (64 * line) false = none →
    let d := s.dieOf core
    (∀ x, s.homeOf line ≠ d → s.rdc? d line = some x → ∃ t m y, exec (.leaseRequest core line) s = .next t ∧ t.net = s.net ++ [m] ∧
      (m.kind = .lease true ∨ m.kind = .lease false ∧ m.bytes = x.copy.data) ∧ m.line = line ∧ m.core = core ∧
      m.pts = (x.copy.wts, max x.copy.rts (s.pts core + (s.die d).ticks)) ∧ m.bound = s.leaseBound d ∧ m.clock = s.ctl.clock ∧
      t.rdc? d line = some y ∧ y.copy.rts = m.pts.2 ∧ y.st = x.st ∧ y.copy.data = x.copy.data) ∧
    (s.homeOf line ≠ d → s.rdc? d line = none → line ∉ (s.die d).waits → evictionInFlight s d line = false →
      s.reaches d (s.homeOf line) = true →
      ∃ t m, exec (.leaseRequest core line) s = .next t ∧ t.net = s.net ++ [m] ∧ m.kind = .req .rd ∧ m.src = d ∧
        m.dst = s.homeOf line ∧ m.line = line ∧ line ∈ (t.die d).waits) ∧
    (s.homeOf line = d → s.lineBusy line = false → ∃ t m, exec (.leaseRequest core line) s = .next t ∧ m ∈ t.net ∧
      (m.kind = .lease true ∨ m.kind = .lease false) ∧ m.line = line ∧ m.core = core ∧ s.pts core + (s.die d).ticks ≤ m.pts.2 ∧
      m.bound = s.leaseBound d ∧ m.clock = s.ctl.clock)) ∧
  (∀ s id m, arrives s id m → (m.kind = .lease true ∨ m.kind = .lease false) →
    s.clcFull (s.clusterOf m.core) m.line = false →
    let k := s.clusterOf m.core
    let old : Copy := (mfind (s.clc k) m.line).getD {}
    let up := fun (a b : Nat) => if old.dirty = 0#64 then b else max a b
    (leaseLate old m = true → ∃ t, exec (.leaseReply id) s = .next t ∧ (t.core m.core).pts = max (s.core m.core).pts m.pts.1 ∧
      t.clc k = s.clc k ∧ (t.core m.core).l1 = (s.core m.core).l1) ∧
    (leaseLate old m = false →
    ∃ t c, exec (.leaseReply id) s = .next t ∧ (t.core m.core).pts = max (s.core m.core).pts m.pts.1 ∧
      mfind (t.clc k) m.line = some c ∧ c.wts = up old.wts m.pts.1 ∧ c.rts = up old.rts m.pts.2 ∧ c.grts = m.pts.2 ∧
      c.gwts = some m.pts.1 ∧ c.fill = m.clock ∧ c.bound = m.bound ∧
      c.dirty = old.dirty ∧
      (∀ off, mfind c.data off = if old.dirty.getLsbD off then mfind old.data off else
        match m.bytes.reverse.find? (fun b => b.1 = off) with
        | some b => some b.2
        | none => mfind old.data off) ∧
      mfind (t.core m.core).l1 m.line =
        (if (waitTags (taken s id m) m.core m.line).cache = .cg then none else some c) ∧
      ((mfind (s.clc k) m.line).isSome = true ∨ (s.clcSet k m.line).length < 16 →
        t.net = s.net.filter (fun x => x.id != id)))) ∧
  (∀ s core slot op req out w a b q, s.warp? { core := core, slot := slot } = some w → w.atoms.head? = some a → a.id = op →
    s.block? core w.blk = some b → a.reqs.find? (fun q => q.id = req) = some q →
    let r : WRef := { core := core, slot := slot }
    (∀ c, reqCause s a q out = some c →
      exec (.atomicRequest core slot op (req, out)) s = .next (failReq (logOutcome s q.pa out) r a q c)) ∧
    (∀ c, (∃ y ∈ a.reqs, y.id ≠ req) → failReq s r a q c = s.updWarp r (fun v => dropReq v op req
      (byLane (a.fails ++ q.lanes.map (fun y => LaneFault.mk y.1 c 0 q.va))))) ∧
    (∀ c, (∀ y ∈ a.reqs, y.id = req) → ∀ tr,
      laneTrap (byLane (a.fails ++ q.lanes.map (fun y => LaneFault.mk y.1 c 0 q.va))) false = some tr →
      ∃ z, failReq s r a q c = lateTrap z r a.pt tr) ∧
    (∀ s1 v, (a.fails = [] ∨ ∃ y ∈ a.reqs, y.id ≠ req) → reqCause s a q out = none →
      atomOld s r a.scope q.pa (DTy.bytes a.ty) = (s1, some v) →
      let z := aopLanes a.op a.ty a.ftz v q.lanes
      ∃ t w1, exec (.atomicRequest core slot op (req, out)) s = .next t ∧ t.warp? r = some w1 ∧
        w1 = { z.1.foldl (fun v y => bindOld v a.dest a.ty y.1 y.2) w with atoms := w1.atoms } ∧
        (∀ o ∈ w1.atoms, o.id = op → ∀ y ∈ o.reqs, y.id ≠ req) ∧
        (5 ≤ Scope.rank a.scope → q.pa % 64 + DTy.bytes a.ty ≤ 64 → ∀ i, i < DTy.bytes a.ty →
          t.homeByte (q.pa / 64) (q.pa % 64 + i) = (leBytes (DTy.bytes a.ty) z.2).getD i 0#8)) ∧
    (∀ s1, reqCause s a q out = none → atomOld s r a.scope q.pa (DTy.bytes a.ty) = (s1, none) →
      ∃ t, exec (.atomicRequest core slot op (req, out)) s = .next t ∧ t.warp? r = some w))

/-- 02 R50, 06 R148, R149, 20 R406: a queue load fills its entry once every lane has bound; a page that a lane needs
is asked of Tchidal, and any other fault halts the block. A copy segment moves its bytes and is done, or fails with
its cause; what a controller met is logged at its source or at its destination (09 R221, R223). A failed segment's
bytes are free (logs 5 and 33). -/
def Obligations.EngineEvents : Prop :=
  (∀ s core slot op out w o b t q sx v, s.warp? { core := core, slot := slot } = some w →
    w.loads.find? (fun o => o.id = op) = some o → s.block? core w.blk = some b → o.dest = .queue t q sx →
    s.warp? { core := core, slot := t } = some v → t ≠ slot →
    let z := qldLanes s { core := core, slot := slot } w b o sx
    z.2.faults = [] → z.2.whole = true → (∀ c, out ≠ .failed c) → ∃ y v1, exec (.qldFill core slot op out) s = .next y ∧
      y.warp? { core := core, slot := slot } = some { w with loads := w.loads.filter (fun l => l.id != op) } ∧
      y.warp? { core := core, slot := t } = some v1 ∧ v1 = { v with q := v1.q } ∧
      mget [] v1.q q = (mget [] v.q q).map (fun l => if l.id = op then
        { l with filled := true, data := z.2.vals.foldl (fun m e => mset m e.1 e.2) l.data } else l)) ∧
  (∀ s core slot op out w o b t q sx, s.warp? { core := core, slot := slot } = some w →
    w.loads.find? (fun o => o.id = op) = some o → s.block? core w.blk = some b → o.dest = .queue t q sx →
    let z := qldLanes s { core := core, slot := slot } w b o sx
    let page := fun (f : LaneFault) => f.cause = 15 || f.cause = 16
    z.2.faults ≠ [] → (∀ c, out ≠ .failed c) →
    (z.2.faults.all page = true → exec (.qldFill core slot op out) s =
      .next (z.2.faults.foldl (fun s f => askPage s b.ctx f.addr) s)) ∧
    (z.2.faults.all page = false → ∃ y tr, exec (.qldFill core slot op out) s = .next (lateTrap y { core := core, slot := slot } o.pt tr) ∧
      laneTrap (z.2.faults.filter (fun f => !page f)) true = some tr)) ∧
  (∀ s ag b c g dst out s1 x,
    let w := g.srcS || dst && !g.dstS
    engineXlat s ag b.ctx (if w then g.dst else g.src) (engineNeed c.sup (if w then needW else needR)) w = (s1, .inr x) →
    segLog s ag b c g dst out = logOutcome s x.pa out) ∧
  (∀ s core slot op seg d w c b g, s.warp? { core := core, slot := slot } = some w → w.copies.find? (fun c => c.id = op) = some c →
    s.block? core w.blk = some b → c.segs.find? (fun g => g.id = seg) = some g → g.done = false → g.fail = none → g.parked = false →
    let r : WRef := { core := core, slot := slot }
    (∀ s1, segMove s core w.blk b c g = some (s1, none) → ∃ t, exec (.copySegmentComplete core slot op seg (d, .done)) s = .next t ∧
      t.warp? r = some (updSeg w op seg (fun g => { g with done := true }))) ∧
    (∀ s1 n, segMove s core w.blk b c g = some (s1, some n) → ∃ t, exec (.copySegmentComplete core slot op seg (d, .done)) s = .next t ∧
      t.warp? r = some (updSeg w op seg (fun g => { g with fail := some n }))) ∧
    (segMove s core w.blk b c g = none → exec (.copySegmentComplete core slot op seg (d, .done)) s = .next (segAsk s core b c g)) ∧
    (∀ n, ∃ t, exec (.copySegmentComplete core slot op seg (d, .failed n)) s = .next t ∧
      t.warp? r = some (updSeg w op seg (fun g => { g with fail := some n })))) ∧
  (∀ s core h b c g s1 x, s.block? core h = some b → g.srcS = false → g.dstS = true →
    virtIdle s (agentCopy (s.siteOf core)) b.ctx g.src g.len (engineNeed c.sup needR) false = true →
    engineXlat s (agentCopy (s.siteOf core)) b.ctx g.src (engineNeed c.sup needR) false = (s1, .inr x) →
    ∃ t, segMove s core h b c g = some (t, none) ∧
      t.block? core h = some { b with scr := putBytes b.scr (bytesAt g.dst (readPhys s1 x.pa g.len).2) })

/-! ### Coherence and the package -/

/-- 08 R193 to R196, R199, R200, R202, R218, Tables 8-5 and 8-6: a request is served at its home while no other
about its line is; a read makes its die a sharer and is answered with the line, ownership makes it the owner; a
snooped RDC downgrades or drops its copy and sends its dirty bytes; the last answer lets the request go on; data and
acknowledgements end the RDC's wait, and data for an offline expander (09 R236) or for a set without room fill
nothing. That PUSH, RDNC and WRNC are served whole is the model's reading (log 7), as are the order of packets about
one line (log 12), a management core's window (log 63), a directory set without a free way (logs 60 and 74) and the
residencies that a WRNC write makes stale by moving their source page (log 61, `staleMoved`). -/
def Obligations.Coherence : Prop :=
  let reqs : List (ReqKind × (Nat → Instr)) := [(.rd, .rd), (.rfo, .rfo), (.upg, .upg), (.wb, .wb), (.evn, .evn),
    (.dirtyNotice, .dirtyNotice)]
  let first := fun (s : State) (id : Nat) (m : Msg) => (s.home m.dst).held.any (fun h => h.req.line = m.line) = false ∧
    s.dirStuck m.line = false ∧ s.net.any (fun x => x.id < id && x.src = m.src && x.dst = m.dst && x.line = m.line && (match x.kind with
      | .req _ => true
      | _ => false)) = false
  (∀ y ∈ reqs, ∀ s id m, arrives s id m → m.kind = .req y.1 → first s id m →
    exec (y.2 id) s = .next (serveReq (taken s id m) y.1 m)) ∧
  (∀ s m, DirEnt.ownerOf (s.dirEnt m.dst m.line) = none → m.src < 8 → ∃ a, a ∈ (perform s .rd m false).net ∧ a.kind = .data false ∧
    a.dst = m.src ∧ a.line = m.line ∧ ((perform s .rd m false).dirEnt m.dst m.line).state = 1#2 ∧
    ((perform s .rd m false).dirEnt m.dst m.line).sharers = (s.dirEnt m.dst m.line).sharers ||| siteBit m.src) ∧
  (∀ s m k, k = .rfo ∨ k = .upg → m.src < 8 → DirEnt.ownerOf ((perform s k m false).dirEnt m.dst m.line) = some m.src ∧
    ∃ a, a ∈ (perform s k m false).net ∧ a.dst = m.src ∧ a.line = m.line ∧ (a.kind = .data true ∨ a.kind = .ack)) ∧
  (∀ s m, (mfind (s.home m.dst).dir m.line).isSome = true → DirEnt.ownerOf (s.dirEnt m.dst m.line) = some m.src → m.src < 8 →
    (perform s .evn m false).dirEnt m.dst m.line = {} ∧ (perform s .dirtyNotice m false).dirEnt m.dst m.line = dirM m.src) ∧
  (∀ s site line, s.lineBusy line = false → s.reaches site (s.homeOf line) = true →
    ∃ t, exec (.push site line) s = .next t ∧ t = pushRdc s site line ∧
    ∀ x, s.rdc? site line = some x → Copy.dirtyBytes x.copy ≠ [] → ∃ y, t.rdc? site line = some y ∧ y.copy.dirty = 0#64) ∧
  (∀ s line, s.lineBusy line = false → s.mapCause (64 * line) false = none →
    exec (.rdnc (none, line)) s = .next (serveRead (cross s Config.fed (s.homeOf line)) line).1) ∧
  (∀ s m line s1 x, m < 16 → engineXlat s (agentWin m) (mget 0 s.vm.win m) (64 * line) 0#4 false = (s1, .inr x) →
    s1.idleRange x.pa 64 = true →
    exec (.rdnc (some m, line)) s = .next (readPhys (cross s1 Config.fed (s1.homeOf (x.pa / 64))) x.pa 64).1) ∧
  (∀ s x, s.idleRange x.addr x.bytes.length = true →
    (linesOf x.addr x.bytes.length).any (fun l => (s.mapCause (64 * l) false).isSome) = false →
    exec (.wrnc (none, x)) s = .next (staleMoved (writePhys (cross s Config.fed (s.homeOf (x.addr / 64))) x.addr x.bytes 0 0 false))) ∧
  (∀ s m x s1 y, m < 16 → 0 < x.bytes.length → x.addr % 4096 + x.bytes.length ≤ 4096 →
    engineXlat s (agentWin m) (mget 0 s.vm.win m) x.addr 0#4 true = (s1, .inr y) → s1.idleRange y.pa x.bytes.length = true →
    exec (.wrnc (some m, x)) s = .next (staleMoved (writePhys (cross s1 Config.fed (s1.homeOf (y.pa / 64))) y.pa x.bytes y.cls 0 false))) ∧
  (∀ s m x line, 16 ≤ m → exec (.rdnc (some m, line)) s = .next s ∧ exec (.wrnc (some m, x)) s = .next s) ∧
  (∀ s id m inv, arrives s id m → m.kind = .snoop inv →
    (s.rdc? m.dst m.line = none → exec (.snoop id) s = .next (answer (taken s id m) m false false [])) ∧
    (∀ x, s.rdc? m.dst m.line = some x → ∃ t a, exec (.snoop id) s = .next t ∧ a ∈ t.net ∧
      (∃ f, a.kind = .answer true (decide (2 ≤ x.st)) f) ∧ a.src = m.dst ∧ a.dst = m.src ∧ a.line = m.line ∧
      a.bytes = Copy.dirtyBytes x.copy ∧
      t.rdc? m.dst m.line = if inv then none else some { x with st := 1, copy := Copy.clean x.copy })) ∧
  (∀ s id m, arrives s id m → m.kind = .discovery → exec (.discoveryBroadcast id) s =
    .next (match s.rdc? m.dst m.line with
      | none => answer (taken s id m) m false false []
      | some x => answer (taken s id m) m true (decide (2 ≤ x.st)) [])) ∧
  (∀ s id m h a b c k, arrives s id m → m.kind = .answer a b c →
    (s.home m.dst).held.find? (fun h => h.req.line = m.line && h.waits.contains m.src) = some h → h.req.kind = .req k →
    let h1 : Held := { h with waits := h.waits.filter (· != m.src), answers := h.answers ++ [m] }
    (h1.waits = [] → exec (.snoopAnswer id) s = .next (heldDone (taken s id m) m.dst h1 k)) ∧
    (h1.waits ≠ [] → ∃ t, exec (.snoopAnswer id) s = .next t ∧ (t.home m.dst).held =
      (s.home m.dst).held.map (fun y => if y.req.id = h.req.id then h1 else y))) ∧
  (∀ s id m, arrives s id m →
    (∀ excl, m.kind = .data excl → s.expOff m.line = true → ∃ t, exec (.dataReply id) s = .next t ∧ m.line ∉ (t.die m.dst).waits ∧
      t.rdc? m.dst m.line = s.rdc? m.dst m.line) ∧
    (∀ excl, m.kind = .data excl → s.expOff m.line = false → rdcFull s m.dst m.line = true → exec (.dataReply id) s = .next s) ∧
    (∀ excl, m.kind = .data excl → s.expOff m.line = false → rdcFull s m.dst m.line = false →
      ∃ t y, exec (.dataReply id) s = .next t ∧ t.rdc? m.dst m.line = some y ∧
      y.st = (if excl then 2 else 1) ∧ y.copy.data = m.bytes ∧ y.copy.dirty = 0#64 ∧ m.line ∉ (t.die m.dst).waits) ∧
    (m.kind = .accessError → ∃ t, exec (.dataReply id) s = .next t ∧ m.line ∉ (t.die m.dst).waits ∧
      t.rdc? m.dst m.line = s.rdc? m.dst m.line) ∧
    (m.kind = .ack → ∃ t, exec (.acknowledgement id) s = .next t ∧ m.line ∉ (t.die m.dst).waits ∧
      t.rdc? m.dst m.line = (s.rdc? m.dst m.line).map (fun x => if x.st = 1 then { x with st := 2 } else x)) ∧
    (∀ k, m.kind = .replay k → ∃ t a, exec (.hbmReplay id) s = .next t ∧ t.net = s.net.filter (fun x => x.id != id) ++ [a] ∧
      a.kind = .req k ∧ a.src = m.dst ∧ a.dst = s.homeOf m.line ∧ a.line = m.line ∧ a.bytes = m.bytes)) ∧
  (∀ s site page e, s.pageEnt? (s.homeOf (64 * page)) page = some e → e.pshr.getLsbD site = true →
    s.reaches (s.homeOf (64 * page)) site = true → ((s.die site).rdc.filter (fun x => x.1 / 64 = page)).any (fun x => s.lineBusy x.1) = false →
    ∃ t e1, exec (.pageSnoop site page) s = .next t ∧ t.pageEnt? (s.homeOf (64 * page)) page = some e1 ∧
      e1.pshr.getLsbD site = false ∧ ∀ x ∈ (t.die site).rdc, x.1 / 64 ≠ page) ∧
  (∀ s line inv, regionOf (64 * line) = .host → s.lineBusy line = false → exec (.hostSnoop line inv) s = .next (flushHome
    ((sitesOf (mget 0#8 (s.home (s.homeOf line)).hostShr (line / 64))).foldl (fun s d => hostSnoopDie s line d inv) s) line))

/-- 01 R22, 08 R203 to R206, Table 8-9: a package reset enumerates the dies that pass and keeps the bytes of memory;
a die that is reset leaves service with nothing in its RDC or on its cores, and comes back under the next
incarnation; links sleep when idle and wake for a packet, a snoop that waits 50 µs for a link is sent once more, and
a failed link loses none but packets that cross it. What survives a package reset is log 41, what a die reset leaves
log 23, and which packets a failed link loses log 64. -/
def Obligations.DiesAndLinks : Prop :=
  (∀ s x, ∃ t, exec (.packageReset x) s = .next t ∧ t.mem = s.mem ∧ t.ctl.booted = true ∧ t.ctl.clock = 0 ∧ t.cores = [] ∧
    t.net = [] ∧ t.pkg.fuses = s.pkg.fuses ∧ t.pkg.online = t.pkg.passed ∧
    (∀ d, d < 8 → t.pkg.fw.failed = false → t.pkg.passed.getLsbD d =
      (x.selfTest.getLsbD d && (reach (fun i => (t.link i).width != 0) 9 [8]).contains d)) ∧
    ∀ i, i < 18 → (t.link i).width = if x.down.getLsbD i then 0 else if x.half.getLsbD i then 1 else 2) ∧
  (∀ s site, site < 8 → s.onlineSite site = true → (s.die site).beat + 100 * usTicks ≤ s.ctl.time →
    (reach (fun i => (s.link i).width != 0) 9 [8]).contains site = true →
    ∃ t, exec (.heartbeat site) s = .next t ∧ (t.die site).beat = s.ctl.time) ∧
  (∀ s site i, site < 8 → s.onlineSite site = true → i = .dieReset site true ∨ i = .dieReset site false ∨
      (i = .deadDieVerdict site ∧ (s.die site).beat + 2000 * usTicks ≤ s.ctl.time) →
    ∃ t, exec i s = .next t ∧ t.onlineSite site = false ∧ (t.die site).rdc = [] ∧
      ∀ r, s.siteOf r.core = site → t.warp? r = none ∧ ∀ h, t.block? r.core h = none) ∧
  (∀ s site, s.pkg.passed.getLsbD site = true → s.onlineSite site = false → ∃ t, exec (.dieRejoin site) s = .next t ∧
    t.onlineSite site = true ∧ t.inc site = (if (s.inc site + 1) % 256 = 0 then 1 else (s.inc site + 1) % 256) ∧
    (t.die site).beat = s.ctl.time) ∧
  (∀ s l, (s.link l).width ≠ 0 → (s.link l).asleep = false → (s.link l).lsleep ≠ 0 →
    (s.link l).lastFlit + (s.link l).lsleep * usTicks ≤ s.ctl.time →
    ∃ t, exec (.linkSleep l) s = .next t ∧ t.link l = { s.link l with asleep := true } ∧ ∀ k, k ≠ l → t.link k = s.link k) ∧
  (∀ s l, (s.link l).asleep = true → s.net.any (fun m => (route s m.src m.dst).contains l) = true →
    ∃ t, exec (.linkWake l) s = .next t ∧ t.link l = { s.link l with asleep := false, lastFlit := s.ctl.time }) ∧
  (∀ s id m, s.net.find? (fun m => m.id = id) = some m → m.kind = .discovery ∨ m.kind = .snoop true ∨ m.kind = .snoop false →
    routeOpen s m = false →
    (s.ctl.time < m.time + 50 * usTicks → exec (.linkWakeTimeout id) s = .next s) ∧
    (m.time + 50 * usTicks ≤ s.ctl.time → m.retried = false → ∃ t, exec (.linkWakeTimeout id) s = .next t ∧
      (t.home m.src).wakes = (s.home m.src).wakes ++ [m.line] ∧
      ∀ y ∈ t.net, y.id = id → y.retried = true ∧ y.time = s.ctl.time) ∧
    (m.time + 50 * usTicks ≤ s.ctl.time → m.retried = true → ∃ t, exec (.linkWakeTimeout id) s = .next t ∧
      t.ctl.irqs = s.ctl.irqs ++ [.linkWake m.line])) ∧
  (∀ s l, (s.link l).width ≠ 0 → ∃ t, exec (.linkFailure l) s = .next t ∧ (t.link l).width = 0 ∧ t.pkg.rerouted = true ∧
    (∀ m ∈ t.net, m ∈ s.net) ∧ ∀ m ∈ s.net, (route s m.src m.dst).contains l = false → m ∈ t.net)

/-- 08 R198 to R200, 09 R235, R236, 12 R287, R288, R290 to R292, R298: the host and the ports reach memory through
the homes; a page that the host does not give back within CXLTO.MS goes to line mode; a host link or an expander
that goes down ends the accesses to it, the loads of residencies among them; an operation of a port and a collective
take their numbers at submission and leave their outcome. Collectives in one event and the status of one that is
lost are the model's choice (log 22), as are host writes by events (log 42) and the moment at which a recall begins
(log 66). -/
def Obligations.OutsideAgents : Prop :=
  (∀ s pa n m, (pagesOf pa n).all (fun p => extPage s (p.1 / 4096)) = true →
    exec (.hostMemRead pa n m) s = .next ((pagesOf pa n).foldl (fun s p => (extRead s p.1 p.2 m).1) s)) ∧
  (∀ s x m, extPage s (x.addr / 4096) = true → 0 < x.bytes.length → x.addr % 64 + x.bytes.length ≤ 64 →
    ∃ t, exec (.hostMemWrite x m) s = .next t ∧
      ∀ i, i < x.bytes.length → memByte t.mem (x.addr + i) = x.bytes.getD i 0#8) ∧
  (∀ s page e, let n := s.homeOf (64 * page)
    s.pageEnt? n page = some e → 2 ≤ e.state →
    (e.recallAt = none → ∃ t, exec (.pageRecallTimeout page) s = .next t ∧ t.pageEnt? n page = some { e with recallAt := some s.ctl.time }) ∧
    ∀ t0, e.recallAt = some t0 →
      (t0 + max 1 s.pkg.exp.ms * 1000 * usTicks ≤ s.ctl.time → ∃ t, exec (.pageRecallTimeout page) s = .next t ∧ t.pageEnt? n page = none) ∧
      (s.ctl.time < t0 + max 1 s.pkg.exp.ms * 1000 * usTicks → exec (.pageRecallTimeout page) s = .next s)) ∧
  (∀ s core slot op w b,
    let host := fun (pa : Nat) => regionOf pa == .host
    let y := failLoads s host (fun l => s.overdue l.time)
    y.warp? { core := core, slot := slot } = some w → y.block? core w.blk = some b →
    let late := overdueAccess y { core := core, slot := slot } (some op) host
    (late = false → exec (.hostCompletionTimeout core slot op) s = .next y) ∧
    (late = true → ∃ t w1, exec (.hostCompletionTimeout core slot op) s = .next t ∧ t.warp? { core := core, slot := slot } = some w1 ∧
      ∀ o ∈ w1.loads, o.id = op → o.gather = [] → (∀ a q x, o.dest ≠ .queue a q x) → ∀ y ∈ o.lanes, regionOf y.pa ≠ .host)) ∧
  (∀ s host late, (∀ x ∈ s.cores, ∀ l ∈ x.2.resl, late l = true → loadHits s x.1 host l = false) → failLoads s host late = s) ∧
  (∀ s core c l host late, s.cores = [(core, c)] → c.resl = [l] → late l = true → loadHits s core host l = true →
    failLoads s host late = endLoad s core l false) ∧
  (∀ s, ∃ t, exec .hostLinkDown s = .next t ∧ (∃ l, t.ctl.irqs = l ++ [.hostDown]) ∧
    ∀ n page e, t.pageEnt? n page = some e → e.state < 2) ∧
  (∀ s n, n < 2 → expOverdue s n = false → exec (.expanderTimeout n) s = .next s) ∧
  (∀ s n i, n < 2 → i = .expanderLinkDown n ∨ (i = .expanderTimeout n ∧ expOverdue s n = true) → ∃ t, exec i s = .next t ∧
    (if n = 0 then t.pkg.exp.off0 else t.pkg.exp.off1) = true ∧
    ∀ d line, d < 8 → inExp n (64 * line) = true → t.rdc? d line = none) ∧
  (∀ s n, n < 2 → ∃ t, exec (.expstOffClear n) s = .next t ∧ (if n = 0 then t.pkg.exp.off0 else t.pkg.exp.off1) = false ∧
    t.mem = s.mem ∧ t.cores = s.cores) ∧
  (∀ s p qp x imm out s1 l, portTakes s p qp = true → portRun s p x.addr x.bytes.length needW true = (s1, .inr l) →
    l.all (fun y => s1.idleRange (y.pa / 4096 * 4096) 4096) = true →
    let z := l.foldl (fun s y => extWrite s y.pa ((x.bytes.drop (y.va - x.addr)).take y.len) y.cls .none) s1
    exec (.rdmaWrite (p, qp) (x, imm, out)) s = .next (match imm with
      | none => z
      | some v => z.updPort p (fun k => { k with recv := k.recv ++ [.imm qp v] }))) ∧
  (∀ s p qp va n out s1 l, portTakes s p qp = true → portRun s p va n needR false = (s1, .inr l) →
    l.all (fun y => s1.idleRange (y.pa / 4096 * 4096) 4096) = true → exec (.rdmaRead (p, qp) va (n, out)) s =
      .next (l.foldl (fun s y => (extRead s y.pa y.len .none).1) s1)) ∧
  (∀ s p qp x imm out s1 c, portTakes s p qp = true → portRun s p x.addr x.bytes.length needW true = (s1, .inl c) →
    exec (.rdmaWrite (p, qp) (x, imm, out)) s = .next (if pageWait out c then
      askRun s (agentPort p) (s.port p).ctx x.addr x.bytes.length (engineNeed false needW) true else s)) ∧
  (∀ s p qp x, portTakes s p qp = true → ∃ t, exec (.rdmaSend (p, qp) x) s = .next t ∧
    (t.port p).recv = (s.port p).recv ++ [.send qp x]) ∧
  (∀ s p, p < 2 → ∃ t, exec (.ethernetPortDown p) s = .next t ∧ (t.port p).up = false ∧ (t.port p).ops = [] ∧
    (t.port p).errs = (s.port p).errs ++ (s.port p).ops ∧ ∀ c ∈ t.pkg.collWait, c.desc.port ≠ p) ∧
  (∀ s p, p < 2 → let c := (s.port p).ctx
    (∀ qp, qp < 16384 → let n := (s.timeline c (0x4000 + p)).issued + 1
      let op : PortOp := { num := n, ctx := c, qp := qp }
      ∃ t, exec (.rdmaOperationComplete (p, .submit qp)) s = .next t ∧ (t.timeline c (0x4000 + p)).issued = n ∧
        ((s.port p).up = true → (t.port p).ops = (s.port p).ops ++ [op]) ∧
        ((s.port p).up = false → op ∉ (t.port p).ops ∧ (t.port p).errs = (s.port p).errs ++ [op] ∧
          (n ≤ (t.timeline c (0x4000 + p)).counter ∨ n ∈ (t.timeline c (0x4000 + p)).done))) ∧
    (∀ num ok op, (s.port p).ops.find? (fun o => o.num = num) = some op →
      ∃ t, exec (.rdmaOperationComplete (p, .complete num ok)) s = .next t ∧ op ∉ (t.port p).ops ∧
        (t.port p).errs = (if ok then (s.port p).errs else (s.port p).errs ++ [op]) ∧
        (op.num ≤ (t.timeline op.ctx (0x4000 + p)).counter ∨ op.num ∈ (t.timeline op.ctx (0x4000 + p)).done))) ∧
  (∀ s x ot, let n := (collNum s x).1
    let y := (collNum s x).2
    (s.pkg.collWait.find? (fun c => c.desc = x) = none → n = (s.timeline x.ctx 0x3000).issued + 1) ∧
    (∀ c, s.pkg.collWait.find? (fun c => c.desc = x) = some c → n = c.num) ∧
    (collOk x = false → ∃ t, exec (.collectiveDescriptor x ot) s = .next t ∧
      t.pkg.coll = s.pkg.coll ++ [{ num := n, ctx := x.ctx, status := 1 }]) ∧
    (collOk x = true → (s.port x.port).up = false → ∃ t st, exec (.collectiveDescriptor x ot) s = .next t ∧
      t.pkg.coll = s.pkg.coll ++ [{ num := n, ctx := x.ctx, status := st }]) ∧
    (∀ ty, collTy x.ty = some ty → collOk x = true → (s.port x.port).up = true → x.rank ≤ x.peers.length → x.peers.length < 4096 →
      let len := DTy.memBytes ty * x.count
      (∀ p ∈ x.peers, p.length = len) →
      (virtIdle y agentColl x.ctx x.src len (engineNeed false needR) false = false →
        exec (.collectiveDescriptor x ot) s = .next (collHold y x n)) ∧
      ∀ s1 l s2, let out := collOut x ty (x.peers.take x.rank ++ [l] ++ x.peers.drop x.rank)
        virtIdle y agentColl x.ctx x.src len (engineNeed false needR) false = true →
        readVirt y agentColl x.ctx x.src len (engineNeed false needR) = (s1, .inr l) →
        virtIdle s1 agentColl x.ctx x.dst out.length (engineNeed false needW) true = true →
        writeVirt s1 agentColl x.ctx x.dst out (engineNeed false needW) = (s2, none) →
        ∃ t, exec (.collectiveDescriptor x ot) s = .next t ∧ t.mem = s2.mem ∧
          t.pkg.coll = s.pkg.coll ++ [{ num := n, ctx := x.ctx, status := 0 }]))

/-- 00 R6, R7, 06 R158, 07 R182, 08 R207, 09 R213 to R221, 12 R294 to R297: retirement, its refusals and the moves
of granules; the tails of the logs; contexts, power steps, attestation, firmware, and the rules of the configuration
registers. That a granule moves whole is the model's reading (log 43), as are the order of a retirement's refusals
and what a refused GO leaves (log 67); the bytes of an SPDM signature are free (log 25). -/
def Obligations.Management : Prop :=
  (∀ s n, let st := n % 8
    let t := s.pkg.tier
    (Tier.migrating t = true → ∃ u, exec (.retireGo n) s = .next u ∧ u.pkg.tier = { t with retStatus := 5 }) ∧
    (Tier.migrating t = false → t.n = 1 → ∃ u, exec (.retireGo n) s = .next u ∧
      u.pkg.tier = { t with retStatus := 3 }) ∧
    (Tier.migrating t = false → t.n ≠ 1 → t.live.getLsbD st = false → ∃ u, exec (.retireGo n) s = .next u ∧
      u.pkg.tier = { t with retStatus := 4 }) ∧
    (Tier.migrating t = false → t.n ≠ 1 → t.live.getLsbD st = true → ∃ u, exec (.retireGo n) s = .next u ∧
      u.pkg.tier.retStatus = 1 ∧ u.pkg.tier.oldmap = t.map ∧ u.pkg.tier.nold = t.n ∧ u.pkg.tier.n = (survWithout t st).length ∧
      u.pkg.tier.mphase = t.mphase + 1#32 ∧ u.pkg.tier.migw = (survWithout t st).length * 2 ^ 24)) ∧
  (∀ s g off out, granReady s g = true → ∃ t, exec (.granuleMove g off out) s = .next t ∧
    granSite t.pkg.tier g = survStack s.pkg.tier.map (g % max 1 s.pkg.tier.n)) ∧
  (∀ s g off out, granReady s g = false → exec (.granuleMove g off out) s = .next (migrationDone s)) ∧
  (∀ s n v, n ≤ 8 → ∃ t, exec (.lltailWrite n v) s = .next t ∧ (t.home n).loss =
    if 256 < ((s.home n).loss.head + 512 - v % 512) % 512 then (s.home n).loss else { (s.home n).loss with tail := v % 512 }) ∧
  (∀ s n v, n ≤ 7 → ∃ t, exec (.eltailWrite n v) s = .next t ∧ (t.die n).elog =
    if 1024 < ((s.die n).elog.head + 2048 - v % 2048) % 2048 then (s.die n).elog else { (s.die n).elog with tail := v % 2048 }) ∧
  (∀ s c v, c < 64 → s.jobs = true → ∃ t, exec (.contextVerWrite c v) s = .next t ∧ (t.ctxEnt c).ver = BitVec.ofNat 10 v ∧
    (∀ y ∈ t.vm.tlb, y.ctx = c → y.g = true) ∧ ∀ y ∈ t.vm.rtlb, y.1 % 64 ≠ c) ∧
  (∀ s c v, c < 64 → s.jobs = true → ∃ t, exec (.contextEnable c v) s = .next t ∧ (t.ctxEnt c).en = v.getLsbD 0 ∧
    (t.ctxEnt c).root = bits v.toNat 47 9 * 512 ∧
    (v.getLsbD 0 = true → (s.ctxEnt c).en = false → ∀ y ∈ t.fed.tls, y.1 / 65536 ≠ c)) ∧
  (∀ s draws settle, let p := s.pkg.pwr
    let m := min 5 p.maxstep
    (∀ k d, k ≤ m → draws[k]? = some d → d ≤ p.cap → (∀ j x, j < k → draws[j]? = some x → p.cap < x) →
      (∀ j, j < k → draws[j]?.isSome = true) → ∃ t, exec (.powerSample draws settle) s = .next t ∧
        t.pkg.pwr.step = (if p.throttle ≤ 1 then k else m) ∧
        (t.pkg.pwr.step ≠ p.step → t.pkg.pwr.settle = s.ctl.clock + min settle (10 * ccAtStep t.pkg.pwr.step)) ∧
        t.pkg.pwr.throttle = if p.throttle ≤ 1 then 0 else p.throttle - 1) ∧
    ((∀ k d, k ≤ m → draws[k]? = some d → p.cap < d) → ∃ t, exec (.powerSample draws settle) s = .next t ∧
      t.pkg.pwr.step = m ∧ t.pkg.pwr.throttle = min 15 (p.throttle + 1) ∧ t.ctl.irqs = s.ctl.irqs ++ [.power])) ∧
  (∀ s, s.jobs = false → ∀ c v, exec (.contextVerWrite c v) s = .next s ∧ ∀ w, exec (.contextEnable c w) s = .next s) ∧
  (∀ s, let f := s.pkg.fw
    ∃ t sig, exec .spdmRequest s = .next t ∧ sig.length = 64 ∧ t.pkg.fw.reports = f.reports ++ [.measurements f.measure1 f.minVersion
      (if f.running = some 1 then f.slot1 else f.slot0).sig (hmap3 s) (s.passedSites.length * 256 + pkgLevel s) sig]) ∧
  (∀ s i, ∃ t, exec (.pldmFirmwareUpdate i) s = .next t ∧ t.pkg.fw.update = some i ∧ t.pkg.fw.running = s.pkg.fw.running) ∧
  (∀ s r v, ∃ t, exec (.registerWrite r v) s = .next t ∧
    (r = .pwrctl → t.pkg.pwr.cap = max 1200 (min 2400 (bits v.toNat 11 0)) ∧ t.pkg.pwr.maxstep = bits v.toNat 35 32) ∧
    (r = .hsweep → t.pkg.hsweep = bits v.toNat 31 0) ∧
    (r = .other → t = s) ∧
    (r = .expst → t.pkg.exp.off0 = (s.pkg.exp.off0 && !v.getLsbD 0) ∧ t.pkg.exp.off1 = (s.pkg.exp.off1 && !v.getLsbD 1)) ∧
    (∀ c, c < 64 → r = .uvec c → t.ctxEnt c = { s.ctxEnt c with uvec := v.extractLsb' 0 54 }) ∧
    (∀ c, c < 64 → r = .svec c → t.ctxEnt c = { s.ctxEnt c with svec := v.extractLsb' 0 54 }) ∧
    (∀ q, q < 64 → r = .qCtl q → (t.queue q).en = v.getLsbD 31 ∧ (t.queue q).ctx = bits v.toNat 13 8) ∧
    (∀ m, m < 16 → r = .winCtx m → mget 0 t.vm.win m = bits v.toNat 5 0) ∧
    (∀ p, p < 2 → r = .portCtx p → (t.port p).ctx = bits v.toNat 5 0) ∧
    (r = .retctl → v.getLsbD 31 = true → ∀ c, retireRefusal s.pkg.tier (bits v.toNat 18 16) = some c →
      t.pkg.tier = { s.pkg.tier with retStatus := c }) ∧
    (∀ core, r = .prectl core → v.getLsbD 63 = true → preemptTakes s core (bits v.toNat 6 0) = false → t = s) ∧
    (∀ core, r = .rstctl core → v.getLsbD 63 = true → restoreTakes s core (bits v.toNat 53 12 * 4096) = none → t = s) ∧
    (∀ n, n ≤ 7 → r = .l2cq n → ∀ c, c < 4 → mfind (t.die n).l2cq c = some (bits v.toNat (8 * c + 5) (8 * c))))

/-- 10 R249 to R257, Tables 10-5, 10-6, 10-8, 10-11, 18 Table 18-4: a pre-emption stops the warps of a block at
level 0, where one that has yielded or waits for the rest of its faults (R443) stays so; each engine acknowledges at
its stopping point, and with all of them still there the save begins; a restore takes a saved block back to a core;
an abort token ends a block, and one from a peer package reaches every member of its group; a remote arrival is
judged at its target, one of a block to itself even while it stops, or against the target's save area, and its
outcome reaches the sending warp, or waits with its saved block. What a saved block keeps outside its save area is
log 21, level 3 is log 49, tokens on a moving block are log 50, and an arrival whose save area cannot be reached is
log 29. -/
def Obligations.Preemption : Prop :=
  (∀ s core save slot w b, s.warp? { core := core, slot := slot } = some w → s.block? core w.blk = some b → slot < 80 →
    (s.core core).pre.busy = false → b.phase = .run → b.abort = false → ∃ t b1, exec (.preemptGo core save slot) s = .next t ∧
      t.block? core w.blk = some b1 ∧ b1.phase = .stopping ∧ b1.acks = [] ∧ b1.save = save % 2 ^ 54 / 4096 * 4096 ∧
      (t.core core).pre.busy = true ∧ ∀ x ∈ b.slots, ∀ v, s.warp? { core := core, slot := x } = some v → v.level = 0 →
        t.warp? { core := core, slot := x } = some { v with stopped := true, wait := stayWait v.wait }) ∧
  (∀ s core h eng out b, s.block? core h = some b → b.phase = .stopping → ackReady s core h b eng = true →
    let b1 : Block := if b.acks.contains eng then b else { b with acks := eng :: b.acks }
    let all := [Engine.warps, .matrix, .copy, .kve, .aae, .collective, .residency].all (fun e => b1.acks.contains e)
    (all = false → ∃ t, exec (.preemptAck core h eng out) s = .next t ∧ t.block? core h = some b1) ∧
    (all = true → eng ≠ .copy → netQuiet s = true →
      ((∀ e, ackReady (s.setBlock core h b1) core h b1 e = true) → copiesStopped (s.setBlock core h b1) core b1 = true →
        exec (.preemptAck core h eng out) s = .next (saveBlock (s.setBlock core h b1) core h b1 out)) ∧
      ((∃ e, ackReady (s.setBlock core h b1) core h b1 e = false) ∨ copiesStopped (s.setBlock core h b1) core b1 = false →
        exec (.preemptAck core h eng out) s = .next (s.setBlock core h b1)))) ∧
  (∀ s core save x, restoreTakes s core save = some x → ∃ t, exec (.restoreGo core save) s = .next t ∧
    (t.core core).rst.busy = true ∧ t.fed.saved = s.fed.saved.map (fun y => if y = x then { y with restoring := some core } else y)) ∧
  (∀ s core out x l s1 img s2 ms, s.fed.saved.find? (fun x => x.restoring = some core) = some x → s.launch? x.lid = some l →
    (s.core core).rst.busy = true → (s.core core).rst.blk = none → (s.core core).spuNew = none →
    within (coreUsed (s.core core)) (hdrNeed l.hdr) (s.core core).spu = true → netQuiet s = true →
    areaRead s core x.ctx (x.save + 0x100 + 4096 * l.hdr.nshacc) l.hdr.scr = (s1, .inr img) →
    readMasks core x.ctx x.save (x.keep.map (·.1)) s1 = (s2, .inr ms) → ∃ t b, exec (.restoreStart core out) s = .next t ∧
      t.block? core s.fed.nextBlk = some b ∧ b.lid = x.lid ∧ b.bid = x.bid ∧ b.phase = .restoring ∧ b.save = x.save ∧
      (t.core core).rst.blk = some s.fed.nextBlk ∧ t.fed.saved = s.fed.saved.filter (fun y => y != x) ∧
      ∀ q, mfind (t.core core).quota x.ctx = some q → q.pre = false) ∧
  (∀ s lid bid core h b, s.fed.tokens.contains { lid := lid, bid := bid } = true → findBlock s lid bid.toNat = some (core, h, b) →
    s.block? core h = some b →
    let stuck := (liveWarps s core b).any (fun x => x.2.level = 3 && x.2.stopped)
    let rest := s.fed.tokens.erase { lid := lid, bid := bid }
    (stuck = true → exec (.abortToken lid (bid, none)) s = .next (endStuck (s.updFed (fun f => { f with tokens := rest })) core h b)) ∧
    (stuck = false → b.phase = .run → ∃ t b1, exec (.abortToken lid (bid, none)) s = .next t ∧ t.block? core h = some b1 ∧
      b1.phase = .aborting ∧ b1.abort = true ∧ t.fed.tokens = rest) ∧
    (stuck = false → b.phase ≠ .run → ∃ t, exec (.abortToken lid (bid, none)) s = .next t ∧
      t.block? core h = some { b with abort := true })) ∧
  (∀ s lid bid g l x, s.launch? lid = some l → l.groups[g]? = some x → l.complete = false → x.abort = true → x.valid = true →
    exec (.abortToken lid (bid, some g)) s =
      .next (tokensTo (markLaunch s l lid (fun y => { y with aborted := true })) lid x.member)) ∧
  (∀ s core slot w b, s.warp? { core := core, slot := slot } = some w → s.block? core w.blk = some b → b.slots = [slot] →
    w.exited ≠ allLanes → w.level = 0 → ∃ w1, (abortBlock s core w.blk).warp? { core := core, slot := slot } = some w1 ∧
      w1.level = 3 ∧ w1.t2.cause = 34#6 ∧ w1.pc = (s.ctxEnt b.ctx).svec ∧ w1.f3.pc = w.pc) ∧
  (∀ s id a, s.fed.arrivals.find? (fun a => a.id = id) = some a →
    (∀ core h b, findBlock s a.lid a.bid.toNat = some (core, h, b) → (b.phase ≠ .stopping ∧ b.phase ≠ .saving) ∨ a.bid = a.sb →
      (a.n < b.nbar → exec (.remoteArrival id) s =
        .next (endArrival (barArrive s core h a.n).1 a (barArrive s core h a.n).2.2)) ∧
      (b.nbar ≤ a.n → exec (.remoteArrival id) s = .next (endArrival s a false))) ∧
    ((∃ core h b, findBlock s a.lid a.bid.toNat = some (core, h, b) ∧ (b.phase = .stopping ∨ b.phase = .saving) ∧ a.bid ≠ a.sb) ∨
      (findBlock s a.lid a.bid.toNat = none ∧ s.fed.saved.any (fun x => x.lid = a.lid && x.bid = a.bid) = true) →
      ∃ t, exec (.remoteArrival id) s = .next t ∧ ∀ y ∈ t.fed.arrivals, y.id = id → y.held = true) ∧
    (findBlock s a.lid a.bid.toNat = none → s.fed.saved.any (fun x => x.lid = a.lid && x.bid = a.bid) = false →
      exec (.remoteArrival id) s = .next (endArrival s a false)) ∧
    (∀ v out s1 hdr s2 x s3, s.fed.saved.find? (fun x => x.lid = a.lid && x.bid = a.bid) = some v → a.held = true →
      v.restoring = none → readVirtN s agentCp v.ctx v.save 8 needR = (s1, .inr hdr) → a.n < bits hdr 23 16 →
      readVirtN s1 agentCp v.ctx (savedBarAt v.save hdr a.n) 8 needR = (s2, .inr x) → bits x 40 40 = 1 →
      writeVirt s2 agentCp v.ctx (savedBarAt v.save hdr a.n) (leBytes 8 (x + 0x10000)) needW = (s3, none) →
      exec (.barrmtRedirect id out) s = .next (endArrival s3 a true))) ∧
  (∀ s a v,
    let saved := s.fed.saved.map (fun x => if x.lid = a.lid && x.bid = a.sb then { x with keep := keepKd a v x.keep } else x)
    (∀ y ∈ (endArrival s a v).fed.arrivals, y.id ≠ a.id) ∧ (endArrival s a v).fed.saved = saved ∧
    ∀ core h b sl w, findBlock s a.lid a.sb.toNat = some (core, h, b) → b.slots[a.sw]? = some sl →
      s.warp? { core := core, slot := sl } = some w →
      (endArrival s a v).warp? { core := core, slot := sl } = some (w.putK a.kd v))

/-! ### The decoder, the step and the invariant -/

/-- 11 Tables 11-1, 11-3 to 11-8: words written out from the spec's encodings decode to the instructions they stand
for, among them the three worked encodings of Table 11-8, and a word with an unused bit set, a reserved class,
length or opcode to none. The order of the reasons for a rejection is log 46. -/
def Obligations.DecodedWords : Prop :=
  let u : Hd := { pg := 7, pn := false, wide := false }
  decodeTableWord 64 0x0400000404061D00 =
    some (.fadd { hd := u, cls := .vec, ty := .f32, rm := .dyn, d := .v 6, a := .v 4, b := .reg (.v 4) }) ∧
  decodeTableWord 96 0x80000000000A0000020224C9 = some (.xor
    { hd := { pg := 1, pn := true, wide := false }, cls := .vec, ty := .z32, sat := false, d := .v 2, a := .v 2, b := .imm 0x80000000#32 }) ∧
  decodeTableWord 128 0x00000080000000400000000041005C12 =
    some (.brc { hd := u, inv := false, p := .p 1, target := 0x40#32, join := 0x80#32 }) ∧
  decodeTableWord 96 0x000000010016000001031C81 =
    some (.iadd { hd := u, cls := .vec, ty := .s32, sat := true, d := .v 3, a := .v 1, b := .imm 1#32 }) ∧
  decodeTableWord 64 0x0000000000001C04 = some (.nop { len := .l64, pg := 7 }) ∧
  decodeTableWord 64 0x0000000000000000 = some (.ill { len := .l64, bits := 0#128 }) ∧
  decodeTableWord 64 0x0800000404061D00 = none ∧ decodeTableWord 64 0x000000000000DC04 = none ∧
  decodeTableWord 64 0x0000000000001C07 = none ∧ decodeTableWord 64 0x0000000000001C78 = none

/-- 11 R265, R268, R274: the decoder accepts a word only as an instruction that an encoding holds, and every bit of
the word, up to its length, is that of the instruction's encoding: no bit that a form does not use is let through.
-/
def Obligations.DecodingIsExact : Prop :=
  ∀ w i, decode w = .ok i → WellFormed i = true ∧
    ∃ r, encode i = some r ∧ ∀ j, j < 8 * r.len.bytes → r.toBits.getLsbD j = w.getLsbD j

/-- 11 R264, R268: decoding the encoding of a well-formed instruction gives it back, with every operand. -/
def Obligations.RoundTrip : Prop :=
  ∀ i r, WellFormed i = true → encode i = some r → decode r.toBits = .ok i

/-- 11 R261, R273, 03 R70: the warp that takes an issue opportunity runs the instruction that its window holds at
its PC: a step is `exec` of it, with the port noted and the waits that it ends. A window not yet fetched is read
from memory, through the translation of its address; an event of the schedule is run as it stands. The schedule that
names the move, and what it says the KVE's next copy or store meets, are the model's own (logs 1, 75). -/
def Obligations.StepRunsDecoded : Prop :=
  (∀ s dt core aae fresh rest r s1 i, s.ctl.booted = true → s.ctl.agenda = .issue dt core aae fresh :: rest →
    pick (s.advance dt rest) core aae = some r → fetchNext (s.advance dt rest) r fresh = (s1, some i) →
    step s = onNext (onNext (onNext (exec i (s1.withCur (some r))) (fun t => t.withCur none))
      (notePort (s.advance dt rest) r)) (settle exec)) ∧
  (∀ s r w b x i, s.warp? r = some w → s.block? r.core w.blk = some b → w.late = [] → w.pc.toNat % 4 = 0 →
    mfind (s.core r.core).iwin (winKey w b.ctx w.pc) = some x → w.pc.toNat % 32 + lenOf (winBits x w.pc) ≤ 32 →
    decode (winBits x w.pc) = .ok i → fetchNext s r false = (s, some i)) ∧
  (∀ s core ctx w pc fresh s1 y, (fresh = true ∨ mfind (s.core core).iwin (winKey w ctx pc) = none) →
    translate s core ctx (pc.toNat / 32 * 32) (fetchNeed w) false = (s1, .inr y) → s1.mapCause y.pa false = none →
    let x := BitVec.ofNat 256 ((readLine s1 (y.pa / 64)).snoopNum y.pa 32)
    ∃ t, fetchWindow s core ctx w pc fresh = (t, .inr x) ∧ mfind (t.core core).iwin (winKey w ctx pc) = some x) ∧
  (∀ s dt i rest, s.ctl.booted = true → s.ctl.agenda = .event dt i :: rest →
    step s = onNext (exec i (s.advance dt rest)) (settle exec)) ∧
  (∀ s off out rest, s.ctl.booted = true → s.ctl.agenda = .kvMeets off out :: rest →
    step s = .next (settle exec ((s.advance 0 rest).updCtl (fun c => { c with kvMet := c.kvMet ++ [(off, out)] })))) ∧
  (∀ s, s.ctl.booted = true → s.ctl.agenda = [] → step s = .next (settle exec (s.advance 1 [])))

/-- Memory lists nothing at reset, which is in the canonical form. The form and what an unlisted byte reads are the
model's choice (log 3). -/
def Obligations.ResetInvariant : Prop := State.Inv State.reset ∧ State.reset.mem = []

/-- Every step keeps memory in its canonical form. The form is the model's own (log 3). -/
def Obligations.StepKeepsInvariant : Prop := ∀ s t, State.Inv s → step s = .next t → State.Inv t
end

