-- ==== Sys2Proof/Laws/Map.lean ====
section
/-! SUPPORT. The laws of sorted sparse maps: read after write, what a write leaves alone, and the canonical form that every
write keeps. -/

namespace Sys2Proof.Machine

variable {α : Type}

theorem mfind_mdel_same (m : SMap α) (k : Nat) : mfind (mdel m k) k = none := by
  induction m with
  | nil => rfl
  | cons e t ih =>
    simp only [mdel, List.filter_cons] at ih ⊢
    split
    · rename_i h
      simp only [bne_iff_ne, ne_eq] at h
      simp [mfind, h, ih]
    · exact ih

theorem mfind_mdel_other (m : SMap α) {k j : Nat} (h : j ≠ k) : mfind (mdel m k) j = mfind m j := by
  induction m with
  | nil => rfl
  | cons e t ih =>
    obtain ⟨a, v⟩ := e
    simp only [mdel, List.filter_cons] at ih ⊢
    by_cases ha : a = k
    · subst ha
      simp [mfind, ih, Ne.symm h]
    · simp [mfind, ih, ha]

theorem mfind_minsert_same (m : SMap α) (k : Nat) (v : α) (h : mfind m k = none) : mfind (minsert m k v) k = some v := by
  induction m with
  | nil => simp [minsert, mfind]
  | cons e t ih =>
    obtain ⟨a, x⟩ := e
    simp only [mfind] at h
    by_cases ha : a = k
    · simp [ha] at h
    · simp only [ha, if_false] at h
      simp only [minsert]
      split <;> simp [mfind, ha, ih h]

theorem mfind_minsert_other (m : SMap α) {k j : Nat} (v : α) (h : j ≠ k) : mfind (minsert m k v) j = mfind m j := by
  induction m with
  | nil => simp [minsert, mfind, Ne.symm h]
  | cons e t ih =>
    obtain ⟨a, x⟩ := e
    simp only [minsert]
    split <;> simp [mfind, ih, Ne.symm h]

@[simp] theorem mfind_mset_same (m : SMap α) (k : Nat) (v : α) : mfind (mset m k v) k = some v :=
  mfind_minsert_same _ _ _ (mfind_mdel_same m k)

theorem mfind_mset_other (m : SMap α) {k j : Nat} (v : α) (h : j ≠ k) : mfind (mset m k v) j = mfind m j := by
  rw [mset, mfind_minsert_other _ _ h, mfind_mdel_other _ h]

/-- Reading a map after one write. -/
theorem mfind_mset (m : SMap α) (k j : Nat) (v : α) : mfind (mset m k v) j = if j = k then some v else mfind m j := by
  split
  · next h => rw [h, mfind_mset_same]
  · next h => exact mfind_mset_other m v h

@[simp] theorem mget_mset_same (d : α) (m : SMap α) (k : Nat) (v : α) : mget d (mset m k v) k = v := by simp [mget]

theorem mget_mset_other (d : α) (m : SMap α) {k j : Nat} (v : α) (h : j ≠ k) : mget d (mset m k v) j = mget d m j := by
  simp [mget, mfind_mset_other m v h]

theorem mget_mset (d : α) (m : SMap α) (k j : Nat) (v : α) : mget d (mset m k v) j = if j = k then v else mget d m j := by
  split
  · next h => rw [h, mget_mset_same]
  · next h => exact mget_mset_other d m v h

/-- Reading a map with a default after one write. -/
theorem mget_mput [DecidableEq α] (d : α) (m : SMap α) (k j : Nat) (v : α) :
    mget d (mput d m k v) j = if j = k then v else mget d m j := by
  unfold mput
  by_cases hv : v = d
  · subst hv
    by_cases h : j = k
    · simp [h, mget, mfind_mdel_same]
    · simp [h, mget, mfind_mdel_other m h]
  · simp [hv, mget_mset]

theorem mget_mupd (d : α) (m : SMap α) (k j : Nat) (f : α → α) :
    mget d (mupd d m k f) j = if j = k then f (mget d m k) else mget d m j := mget_mset d m k j _

/-! ### The canonical form -/

theorem msorted_iff (m : SMap α) : msorted m = true ↔ m.Pairwise (fun a b => a.1 < b.1) := by
  induction m with
  | nil => simp [msorted]
  | cons a t ih =>
    cases t with
    | nil => simp [msorted]
    | cons b u =>
      simp only [msorted, Bool.and_eq_true, decide_eq_true_eq, ih]
      constructor
      · rintro ⟨h, hp⟩
        refine List.Pairwise.cons (fun c hc => ?_) hp
        rcases List.mem_cons.1 hc with rfl | hc
        · exact h
        · exact Nat.lt_trans h (List.rel_of_pairwise_cons hp hc)
      · intro h
        exact ⟨List.rel_of_pairwise_cons h (List.mem_cons_self ..), h.of_cons⟩

theorem mem_minsert (m : SMap α) (k : Nat) (v : α) (e : Nat × α) : e ∈ minsert m k v ↔ e = (k, v) ∨ e ∈ m := by
  induction m with
  | nil => simp [minsert]
  | cons a t ih =>
    obtain ⟨j, x⟩ := a
    simp only [minsert]
    split
    · simp
    · simp only [List.mem_cons, ih]
      constructor
      · rintro (h | h | h) <;> simp [h]
      · rintro (h | h | h) <;> simp [h]

theorem msorted_mdel (m : SMap α) (k : Nat) (h : msorted m = true) : msorted (mdel m k) = true := by
  rw [msorted_iff] at h ⊢
  exact h.filter _

theorem msorted_minsert (m : SMap α) (k : Nat) (v : α) (h : msorted m = true) (hk : ∀ e ∈ m, e.1 ≠ k) :
    msorted (minsert m k v) = true := by
  rw [msorted_iff] at h ⊢
  induction m with
  | nil => simp [minsert]
  | cons a t ih =>
    obtain ⟨j, x⟩ := a
    simp only [minsert]
    have hj : j ≠ k := hk (j, x) (List.mem_cons_self ..)
    split
    · next hlt =>
      refine List.Pairwise.cons (fun c hc => ?_) h
      rcases List.mem_cons.1 hc with rfl | hc
      · exact hlt
      · exact Nat.lt_trans hlt (List.rel_of_pairwise_cons h hc)
    · next hlt =>
      refine List.Pairwise.cons (fun c hc => ?_) (ih h.of_cons (fun e he => hk e (List.mem_cons_of_mem _ he)))
      rcases (mem_minsert t k v c).1 hc with rfl | hc
      · simp only; omega
      · exact List.rel_of_pairwise_cons h hc

/-- A write keeps a map sorted. -/
theorem msorted_mset (m : SMap α) (k : Nat) (v : α) (h : msorted m = true) : msorted (mset m k v) = true := by
  refine msorted_minsert _ _ _ (msorted_mdel m k h) (fun e he => ?_)
  simpa using (List.mem_filter.1 he).2

/-- A write of a map with a default keeps its canonical form. -/
theorem mcanon_mput [DecidableEq α] (d : α) (m : SMap α) (k : Nat) (v : α) (h : mcanon d m = true) :
    mcanon d (mput d m k v) = true := by
  simp only [mcanon, Bool.and_eq_true, List.all_eq_true] at h ⊢
  unfold mput
  split
  · exact ⟨msorted_mdel m k h.1, fun e he => h.2 e (List.mem_filter.1 he).1⟩
  · next hv =>
    refine ⟨msorted_mset m k v h.1, fun e he => ?_⟩
    rcases (mem_minsert _ k v e).1 he with rfl | he
    · simpa using hv
    · exact h.2 e (List.mem_filter.1 he).1

/-- Every later key of a sorted map is larger. -/
theorem msorted_head_lt (a : Nat × α) (t : SMap α) (h : msorted (a :: t) = true) : ∀ e ∈ t, a.1 < e.1 := by
  rw [msorted_iff] at h
  exact fun e he => List.rel_of_pairwise_cons h he

/-! ### Memory -/

/-- One byte written: that byte reads back and every other reads as before. -/
theorem memByte_memPut (m : List Host.Cell) (a b : Nat) (x : Byte) : memByte (memPut m a x) b = if b = a then x else memByte m b :=
  mget_mput 0#8 m a b x

theorem memPut_wf (m : List Host.Cell) (a : Nat) (x : Byte) (h : Memory.wf m) : Memory.wf (memPut m a x) :=
  mcanon_mput 0#8 m a x h

/-- The bytes of a line written keep the canonical form. -/
theorem memPutLine_wf (m : List Host.Cell) (line : Nat) (d : SMap Byte) (h : Memory.wf m) : Memory.wf (memPutLine m line d) := by
  unfold memPutLine
  induction d generalizing m with
  | nil => exact h
  | cons e t ih => exact ih _ (memPut_wf m _ _ h)

end Sys2Proof.Machine
end

