-- ==== Sys2Proof/Laws/State.lean ====
section
/-! SUPPORT. Each update of the state, field by field: what it writes, and what it leaves as it was. -/

namespace Sys2Proof.Machine

variable (s : State)

/-! ### `setCore` -/

@[simp] theorem State.setCore_ctl (l : Nat) (c : Core) : (s.setCore l c).ctl = s.ctl := rfl
@[simp] theorem State.setCore_mem (l : Nat) (c : Core) : (s.setCore l c).mem = s.mem := rfl
@[simp] theorem State.setCore_pkg (l : Nat) (c : Core) : (s.setCore l c).pkg = s.pkg := rfl
@[simp] theorem State.setCore_vm (l : Nat) (c : Core) : (s.setCore l c).vm = s.vm := rfl
@[simp] theorem State.setCore_fed (l : Nat) (c : Core) : (s.setCore l c).fed = s.fed := rfl
@[simp] theorem State.setCore_cores (l : Nat) (c : Core) : (s.setCore l c).cores = mset s.cores l c := rfl
@[simp] theorem State.setCore_clcs (l : Nat) (c : Core) : (s.setCore l c).clcs = s.clcs := rfl
@[simp] theorem State.setCore_homes (l : Nat) (c : Core) : (s.setCore l c).homes = s.homes := rfl
@[simp] theorem State.setCore_dies (l : Nat) (c : Core) : (s.setCore l c).dies = s.dies := rfl
@[simp] theorem State.setCore_net (l : Nat) (c : Core) : (s.setCore l c).net = s.net := rfl
@[simp] theorem State.setCore_moves (l : Nat) (c : Core) : (s.setCore l c).moves = s.moves := rfl
@[simp] theorem State.setCore_gathers (l : Nat) (c : Core) : (s.setCore l c).gathers = s.gathers := rfl
@[simp] theorem State.setCore_kvHeld (l : Nat) (c : Core) : (s.setCore l c).kvHeld = s.kvHeld := rfl

/-! ### `updCore` -/

@[simp] theorem State.updCore_ctl (l : Nat) (f : Core → Core) : (s.updCore l f).ctl = s.ctl := rfl
@[simp] theorem State.updCore_mem (l : Nat) (f : Core → Core) : (s.updCore l f).mem = s.mem := rfl
@[simp] theorem State.updCore_pkg (l : Nat) (f : Core → Core) : (s.updCore l f).pkg = s.pkg := rfl
@[simp] theorem State.updCore_vm (l : Nat) (f : Core → Core) : (s.updCore l f).vm = s.vm := rfl
@[simp] theorem State.updCore_fed (l : Nat) (f : Core → Core) : (s.updCore l f).fed = s.fed := rfl
@[simp] theorem State.updCore_cores (l : Nat) (f : Core → Core) : (s.updCore l f).cores = mset s.cores l (f (s.core l)) := rfl
@[simp] theorem State.updCore_clcs (l : Nat) (f : Core → Core) : (s.updCore l f).clcs = s.clcs := rfl
@[simp] theorem State.updCore_homes (l : Nat) (f : Core → Core) : (s.updCore l f).homes = s.homes := rfl
@[simp] theorem State.updCore_dies (l : Nat) (f : Core → Core) : (s.updCore l f).dies = s.dies := rfl
@[simp] theorem State.updCore_net (l : Nat) (f : Core → Core) : (s.updCore l f).net = s.net := rfl
@[simp] theorem State.updCore_moves (l : Nat) (f : Core → Core) : (s.updCore l f).moves = s.moves := rfl
@[simp] theorem State.updCore_gathers (l : Nat) (f : Core → Core) : (s.updCore l f).gathers = s.gathers := rfl
@[simp] theorem State.updCore_kvHeld (l : Nat) (f : Core → Core) : (s.updCore l f).kvHeld = s.kvHeld := rfl

/-! ### `setWarp` -/

@[simp] theorem State.setWarp_ctl (r : WRef) (w : Warp) : (s.setWarp r w).ctl = s.ctl := rfl
@[simp] theorem State.setWarp_mem (r : WRef) (w : Warp) : (s.setWarp r w).mem = s.mem := rfl
@[simp] theorem State.setWarp_pkg (r : WRef) (w : Warp) : (s.setWarp r w).pkg = s.pkg := rfl
@[simp] theorem State.setWarp_vm (r : WRef) (w : Warp) : (s.setWarp r w).vm = s.vm := rfl
@[simp] theorem State.setWarp_fed (r : WRef) (w : Warp) : (s.setWarp r w).fed = s.fed := rfl
@[simp] theorem State.setWarp_cores (r : WRef) (w : Warp) : (s.setWarp r w).cores = mset s.cores r.core { s.core r.core with warps := mset (s.core r.core).warps r.slot w } := rfl
@[simp] theorem State.setWarp_clcs (r : WRef) (w : Warp) : (s.setWarp r w).clcs = s.clcs := rfl
@[simp] theorem State.setWarp_homes (r : WRef) (w : Warp) : (s.setWarp r w).homes = s.homes := rfl
@[simp] theorem State.setWarp_dies (r : WRef) (w : Warp) : (s.setWarp r w).dies = s.dies := rfl
@[simp] theorem State.setWarp_net (r : WRef) (w : Warp) : (s.setWarp r w).net = s.net := rfl
@[simp] theorem State.setWarp_moves (r : WRef) (w : Warp) : (s.setWarp r w).moves = s.moves := rfl
@[simp] theorem State.setWarp_gathers (r : WRef) (w : Warp) : (s.setWarp r w).gathers = s.gathers := rfl
@[simp] theorem State.setWarp_kvHeld (r : WRef) (w : Warp) : (s.setWarp r w).kvHeld = s.kvHeld := rfl

/-! ### `setBlock` -/

@[simp] theorem State.setBlock_ctl (l h : Nat) (b : Block) : (s.setBlock l h b).ctl = s.ctl := rfl
@[simp] theorem State.setBlock_mem (l h : Nat) (b : Block) : (s.setBlock l h b).mem = s.mem := rfl
@[simp] theorem State.setBlock_pkg (l h : Nat) (b : Block) : (s.setBlock l h b).pkg = s.pkg := rfl
@[simp] theorem State.setBlock_vm (l h : Nat) (b : Block) : (s.setBlock l h b).vm = s.vm := rfl
@[simp] theorem State.setBlock_fed (l h : Nat) (b : Block) : (s.setBlock l h b).fed = s.fed := rfl
@[simp] theorem State.setBlock_cores (l h : Nat) (b : Block) : (s.setBlock l h b).cores = mset s.cores l { s.core l with blocks := mset (s.core l).blocks h b } := rfl
@[simp] theorem State.setBlock_clcs (l h : Nat) (b : Block) : (s.setBlock l h b).clcs = s.clcs := rfl
@[simp] theorem State.setBlock_homes (l h : Nat) (b : Block) : (s.setBlock l h b).homes = s.homes := rfl
@[simp] theorem State.setBlock_dies (l h : Nat) (b : Block) : (s.setBlock l h b).dies = s.dies := rfl
@[simp] theorem State.setBlock_net (l h : Nat) (b : Block) : (s.setBlock l h b).net = s.net := rfl
@[simp] theorem State.setBlock_moves (l h : Nat) (b : Block) : (s.setBlock l h b).moves = s.moves := rfl
@[simp] theorem State.setBlock_gathers (l h : Nat) (b : Block) : (s.setBlock l h b).gathers = s.gathers := rfl
@[simp] theorem State.setBlock_kvHeld (l h : Nat) (b : Block) : (s.setBlock l h b).kvHeld = s.kvHeld := rfl

/-! ### `updHome` -/

@[simp] theorem State.updHome_ctl (n : Nat) (f : Home → Home) : (s.updHome n f).ctl = s.ctl := rfl
@[simp] theorem State.updHome_mem (n : Nat) (f : Home → Home) : (s.updHome n f).mem = s.mem := rfl
@[simp] theorem State.updHome_pkg (n : Nat) (f : Home → Home) : (s.updHome n f).pkg = s.pkg := rfl
@[simp] theorem State.updHome_vm (n : Nat) (f : Home → Home) : (s.updHome n f).vm = s.vm := rfl
@[simp] theorem State.updHome_fed (n : Nat) (f : Home → Home) : (s.updHome n f).fed = s.fed := rfl
@[simp] theorem State.updHome_cores (n : Nat) (f : Home → Home) : (s.updHome n f).cores = s.cores := rfl
@[simp] theorem State.updHome_clcs (n : Nat) (f : Home → Home) : (s.updHome n f).clcs = s.clcs := rfl
@[simp] theorem State.updHome_homes (n : Nat) (f : Home → Home) : (s.updHome n f).homes = mset s.homes n (f (s.home n)) := rfl
@[simp] theorem State.updHome_dies (n : Nat) (f : Home → Home) : (s.updHome n f).dies = s.dies := rfl
@[simp] theorem State.updHome_net (n : Nat) (f : Home → Home) : (s.updHome n f).net = s.net := rfl
@[simp] theorem State.updHome_moves (n : Nat) (f : Home → Home) : (s.updHome n f).moves = s.moves := rfl
@[simp] theorem State.updHome_gathers (n : Nat) (f : Home → Home) : (s.updHome n f).gathers = s.gathers := rfl
@[simp] theorem State.updHome_kvHeld (n : Nat) (f : Home → Home) : (s.updHome n f).kvHeld = s.kvHeld := rfl

/-! ### `updDie` -/

@[simp] theorem State.updDie_ctl (n : Nat) (f : Die → Die) : (s.updDie n f).ctl = s.ctl := rfl
@[simp] theorem State.updDie_mem (n : Nat) (f : Die → Die) : (s.updDie n f).mem = s.mem := rfl
@[simp] theorem State.updDie_pkg (n : Nat) (f : Die → Die) : (s.updDie n f).pkg = s.pkg := rfl
@[simp] theorem State.updDie_vm (n : Nat) (f : Die → Die) : (s.updDie n f).vm = s.vm := rfl
@[simp] theorem State.updDie_fed (n : Nat) (f : Die → Die) : (s.updDie n f).fed = s.fed := rfl
@[simp] theorem State.updDie_cores (n : Nat) (f : Die → Die) : (s.updDie n f).cores = s.cores := rfl
@[simp] theorem State.updDie_clcs (n : Nat) (f : Die → Die) : (s.updDie n f).clcs = s.clcs := rfl
@[simp] theorem State.updDie_homes (n : Nat) (f : Die → Die) : (s.updDie n f).homes = s.homes := rfl
@[simp] theorem State.updDie_dies (n : Nat) (f : Die → Die) : (s.updDie n f).dies = mset s.dies n (f (s.die n)) := rfl
@[simp] theorem State.updDie_net (n : Nat) (f : Die → Die) : (s.updDie n f).net = s.net := rfl
@[simp] theorem State.updDie_moves (n : Nat) (f : Die → Die) : (s.updDie n f).moves = s.moves := rfl
@[simp] theorem State.updDie_gathers (n : Nat) (f : Die → Die) : (s.updDie n f).gathers = s.gathers := rfl
@[simp] theorem State.updDie_kvHeld (n : Nat) (f : Die → Die) : (s.updDie n f).kvHeld = s.kvHeld := rfl

/-! ### `updFed` -/

@[simp] theorem State.updFed_ctl (f : Fed → Fed) : (s.updFed f).ctl = s.ctl := rfl
@[simp] theorem State.updFed_mem (f : Fed → Fed) : (s.updFed f).mem = s.mem := rfl
@[simp] theorem State.updFed_pkg (f : Fed → Fed) : (s.updFed f).pkg = s.pkg := rfl
@[simp] theorem State.updFed_vm (f : Fed → Fed) : (s.updFed f).vm = s.vm := rfl
@[simp] theorem State.updFed_fed (f : Fed → Fed) : (s.updFed f).fed = f s.fed := rfl
@[simp] theorem State.updFed_cores (f : Fed → Fed) : (s.updFed f).cores = s.cores := rfl
@[simp] theorem State.updFed_clcs (f : Fed → Fed) : (s.updFed f).clcs = s.clcs := rfl
@[simp] theorem State.updFed_homes (f : Fed → Fed) : (s.updFed f).homes = s.homes := rfl
@[simp] theorem State.updFed_dies (f : Fed → Fed) : (s.updFed f).dies = s.dies := rfl
@[simp] theorem State.updFed_net (f : Fed → Fed) : (s.updFed f).net = s.net := rfl
@[simp] theorem State.updFed_moves (f : Fed → Fed) : (s.updFed f).moves = s.moves := rfl
@[simp] theorem State.updFed_gathers (f : Fed → Fed) : (s.updFed f).gathers = s.gathers := rfl
@[simp] theorem State.updFed_kvHeld (f : Fed → Fed) : (s.updFed f).kvHeld = s.kvHeld := rfl

/-! ### `updPkg` -/

@[simp] theorem State.updPkg_ctl (f : Pkg → Pkg) : (s.updPkg f).ctl = s.ctl := rfl
@[simp] theorem State.updPkg_mem (f : Pkg → Pkg) : (s.updPkg f).mem = s.mem := rfl
@[simp] theorem State.updPkg_pkg (f : Pkg → Pkg) : (s.updPkg f).pkg = f s.pkg := rfl
@[simp] theorem State.updPkg_vm (f : Pkg → Pkg) : (s.updPkg f).vm = s.vm := rfl
@[simp] theorem State.updPkg_fed (f : Pkg → Pkg) : (s.updPkg f).fed = s.fed := rfl
@[simp] theorem State.updPkg_cores (f : Pkg → Pkg) : (s.updPkg f).cores = s.cores := rfl
@[simp] theorem State.updPkg_clcs (f : Pkg → Pkg) : (s.updPkg f).clcs = s.clcs := rfl
@[simp] theorem State.updPkg_homes (f : Pkg → Pkg) : (s.updPkg f).homes = s.homes := rfl
@[simp] theorem State.updPkg_dies (f : Pkg → Pkg) : (s.updPkg f).dies = s.dies := rfl
@[simp] theorem State.updPkg_net (f : Pkg → Pkg) : (s.updPkg f).net = s.net := rfl
@[simp] theorem State.updPkg_moves (f : Pkg → Pkg) : (s.updPkg f).moves = s.moves := rfl
@[simp] theorem State.updPkg_gathers (f : Pkg → Pkg) : (s.updPkg f).gathers = s.gathers := rfl
@[simp] theorem State.updPkg_kvHeld (f : Pkg → Pkg) : (s.updPkg f).kvHeld = s.kvHeld := rfl

/-! ### `updCtl` -/

@[simp] theorem State.updCtl_ctl (f : Ctl → Ctl) : (s.updCtl f).ctl = f s.ctl := rfl
@[simp] theorem State.updCtl_mem (f : Ctl → Ctl) : (s.updCtl f).mem = s.mem := rfl
@[simp] theorem State.updCtl_pkg (f : Ctl → Ctl) : (s.updCtl f).pkg = s.pkg := rfl
@[simp] theorem State.updCtl_vm (f : Ctl → Ctl) : (s.updCtl f).vm = s.vm := rfl
@[simp] theorem State.updCtl_fed (f : Ctl → Ctl) : (s.updCtl f).fed = s.fed := rfl
@[simp] theorem State.updCtl_cores (f : Ctl → Ctl) : (s.updCtl f).cores = s.cores := rfl
@[simp] theorem State.updCtl_clcs (f : Ctl → Ctl) : (s.updCtl f).clcs = s.clcs := rfl
@[simp] theorem State.updCtl_homes (f : Ctl → Ctl) : (s.updCtl f).homes = s.homes := rfl
@[simp] theorem State.updCtl_dies (f : Ctl → Ctl) : (s.updCtl f).dies = s.dies := rfl
@[simp] theorem State.updCtl_net (f : Ctl → Ctl) : (s.updCtl f).net = s.net := rfl
@[simp] theorem State.updCtl_moves (f : Ctl → Ctl) : (s.updCtl f).moves = s.moves := rfl
@[simp] theorem State.updCtl_gathers (f : Ctl → Ctl) : (s.updCtl f).gathers = s.gathers := rfl
@[simp] theorem State.updCtl_kvHeld (f : Ctl → Ctl) : (s.updCtl f).kvHeld = s.kvHeld := rfl

/-! ### `updTier` -/

@[simp] theorem State.updTier_ctl (f : Tier → Tier) : (s.updTier f).ctl = s.ctl := rfl
@[simp] theorem State.updTier_mem (f : Tier → Tier) : (s.updTier f).mem = s.mem := rfl
@[simp] theorem State.updTier_pkg (f : Tier → Tier) : (s.updTier f).pkg = { s.pkg with tier := f s.pkg.tier } := rfl
@[simp] theorem State.updTier_vm (f : Tier → Tier) : (s.updTier f).vm = s.vm := rfl
@[simp] theorem State.updTier_fed (f : Tier → Tier) : (s.updTier f).fed = s.fed := rfl
@[simp] theorem State.updTier_cores (f : Tier → Tier) : (s.updTier f).cores = s.cores := rfl
@[simp] theorem State.updTier_clcs (f : Tier → Tier) : (s.updTier f).clcs = s.clcs := rfl
@[simp] theorem State.updTier_homes (f : Tier → Tier) : (s.updTier f).homes = s.homes := rfl
@[simp] theorem State.updTier_dies (f : Tier → Tier) : (s.updTier f).dies = s.dies := rfl
@[simp] theorem State.updTier_net (f : Tier → Tier) : (s.updTier f).net = s.net := rfl
@[simp] theorem State.updTier_moves (f : Tier → Tier) : (s.updTier f).moves = s.moves := rfl
@[simp] theorem State.updTier_gathers (f : Tier → Tier) : (s.updTier f).gathers = s.gathers := rfl
@[simp] theorem State.updTier_kvHeld (f : Tier → Tier) : (s.updTier f).kvHeld = s.kvHeld := rfl

/-! ### `setLaunch` -/

@[simp] theorem State.setLaunch_ctl (l : Nat) (x : Launch) : (s.setLaunch l x).ctl = s.ctl := rfl
@[simp] theorem State.setLaunch_mem (l : Nat) (x : Launch) : (s.setLaunch l x).mem = s.mem := rfl
@[simp] theorem State.setLaunch_pkg (l : Nat) (x : Launch) : (s.setLaunch l x).pkg = s.pkg := rfl
@[simp] theorem State.setLaunch_vm (l : Nat) (x : Launch) : (s.setLaunch l x).vm = s.vm := rfl
@[simp] theorem State.setLaunch_fed (l : Nat) (x : Launch) : (s.setLaunch l x).fed = { s.fed with launches := mset s.fed.launches l x } := rfl
@[simp] theorem State.setLaunch_cores (l : Nat) (x : Launch) : (s.setLaunch l x).cores = s.cores := rfl
@[simp] theorem State.setLaunch_clcs (l : Nat) (x : Launch) : (s.setLaunch l x).clcs = s.clcs := rfl
@[simp] theorem State.setLaunch_homes (l : Nat) (x : Launch) : (s.setLaunch l x).homes = s.homes := rfl
@[simp] theorem State.setLaunch_dies (l : Nat) (x : Launch) : (s.setLaunch l x).dies = s.dies := rfl
@[simp] theorem State.setLaunch_net (l : Nat) (x : Launch) : (s.setLaunch l x).net = s.net := rfl
@[simp] theorem State.setLaunch_moves (l : Nat) (x : Launch) : (s.setLaunch l x).moves = s.moves := rfl
@[simp] theorem State.setLaunch_gathers (l : Nat) (x : Launch) : (s.setLaunch l x).gathers = s.gathers := rfl
@[simp] theorem State.setLaunch_kvHeld (l : Nat) (x : Launch) : (s.setLaunch l x).kvHeld = s.kvHeld := rfl

/-! ### `updQueue` -/

@[simp] theorem State.updQueue_ctl (q : Nat) (g : Queue → Queue) : (s.updQueue q g).ctl = s.ctl := rfl
@[simp] theorem State.updQueue_mem (q : Nat) (g : Queue → Queue) : (s.updQueue q g).mem = s.mem := rfl
@[simp] theorem State.updQueue_pkg (q : Nat) (g : Queue → Queue) : (s.updQueue q g).pkg = s.pkg := rfl
@[simp] theorem State.updQueue_vm (q : Nat) (g : Queue → Queue) : (s.updQueue q g).vm = s.vm := rfl
@[simp] theorem State.updQueue_fed (q : Nat) (g : Queue → Queue) : (s.updQueue q g).fed = { s.fed with queues := mset s.fed.queues q (g (s.queue q)) } := rfl
@[simp] theorem State.updQueue_cores (q : Nat) (g : Queue → Queue) : (s.updQueue q g).cores = s.cores := rfl
@[simp] theorem State.updQueue_clcs (q : Nat) (g : Queue → Queue) : (s.updQueue q g).clcs = s.clcs := rfl
@[simp] theorem State.updQueue_homes (q : Nat) (g : Queue → Queue) : (s.updQueue q g).homes = s.homes := rfl
@[simp] theorem State.updQueue_dies (q : Nat) (g : Queue → Queue) : (s.updQueue q g).dies = s.dies := rfl
@[simp] theorem State.updQueue_net (q : Nat) (g : Queue → Queue) : (s.updQueue q g).net = s.net := rfl
@[simp] theorem State.updQueue_moves (q : Nat) (g : Queue → Queue) : (s.updQueue q g).moves = s.moves := rfl
@[simp] theorem State.updQueue_gathers (q : Nat) (g : Queue → Queue) : (s.updQueue q g).gathers = s.gathers := rfl
@[simp] theorem State.updQueue_kvHeld (q : Nat) (g : Queue → Queue) : (s.updQueue q g).kvHeld = s.kvHeld := rfl

/-! ### `raise` -/

@[simp] theorem State.raise_ctl (i : Irq) : (s.raise i).ctl = { s.ctl with irqs := s.ctl.irqs ++ [i] } := rfl
@[simp] theorem State.raise_mem (i : Irq) : (s.raise i).mem = s.mem := rfl
@[simp] theorem State.raise_pkg (i : Irq) : (s.raise i).pkg = s.pkg := rfl
@[simp] theorem State.raise_vm (i : Irq) : (s.raise i).vm = s.vm := rfl
@[simp] theorem State.raise_fed (i : Irq) : (s.raise i).fed = s.fed := rfl
@[simp] theorem State.raise_cores (i : Irq) : (s.raise i).cores = s.cores := rfl
@[simp] theorem State.raise_clcs (i : Irq) : (s.raise i).clcs = s.clcs := rfl
@[simp] theorem State.raise_homes (i : Irq) : (s.raise i).homes = s.homes := rfl
@[simp] theorem State.raise_dies (i : Irq) : (s.raise i).dies = s.dies := rfl
@[simp] theorem State.raise_net (i : Irq) : (s.raise i).net = s.net := rfl
@[simp] theorem State.raise_moves (i : Irq) : (s.raise i).moves = s.moves := rfl
@[simp] theorem State.raise_gathers (i : Irq) : (s.raise i).gathers = s.gathers := rfl
@[simp] theorem State.raise_kvHeld (i : Irq) : (s.raise i).kvHeld = s.kvHeld := rfl

/-! ### `setHomeLine` -/

@[simp] theorem State.setHomeLine_ctl (n line : Nat) (l : HomeLine) : (s.setHomeLine n line l).ctl = s.ctl := rfl
@[simp] theorem State.setHomeLine_mem (n line : Nat) (l : HomeLine) : (s.setHomeLine n line l).mem = s.mem := rfl
@[simp] theorem State.setHomeLine_pkg (n line : Nat) (l : HomeLine) : (s.setHomeLine n line l).pkg = s.pkg := rfl
@[simp] theorem State.setHomeLine_vm (n line : Nat) (l : HomeLine) : (s.setHomeLine n line l).vm = s.vm := rfl
@[simp] theorem State.setHomeLine_fed (n line : Nat) (l : HomeLine) : (s.setHomeLine n line l).fed = s.fed := rfl
@[simp] theorem State.setHomeLine_cores (n line : Nat) (l : HomeLine) : (s.setHomeLine n line l).cores = s.cores := rfl
@[simp] theorem State.setHomeLine_clcs (n line : Nat) (l : HomeLine) : (s.setHomeLine n line l).clcs = s.clcs := rfl
@[simp] theorem State.setHomeLine_homes (n line : Nat) (l : HomeLine) : (s.setHomeLine n line l).homes = mset s.homes n { s.home n with lines := mset (s.home n).lines line l } := rfl
@[simp] theorem State.setHomeLine_dies (n line : Nat) (l : HomeLine) : (s.setHomeLine n line l).dies = s.dies := rfl
@[simp] theorem State.setHomeLine_net (n line : Nat) (l : HomeLine) : (s.setHomeLine n line l).net = s.net := rfl
@[simp] theorem State.setHomeLine_moves (n line : Nat) (l : HomeLine) : (s.setHomeLine n line l).moves = s.moves := rfl
@[simp] theorem State.setHomeLine_gathers (n line : Nat) (l : HomeLine) : (s.setHomeLine n line l).gathers = s.gathers := rfl
@[simp] theorem State.setHomeLine_kvHeld (n line : Nat) (l : HomeLine) : (s.setHomeLine n line l).kvHeld = s.kvHeld := rfl

/-! ### `putDir` -/

@[simp] theorem State.putDir_ctl (n line : Nat) (e : DirEnt) : (s.putDir n line e).ctl = s.ctl := rfl
@[simp] theorem State.putDir_mem (n line : Nat) (e : DirEnt) : (s.putDir n line e).mem = s.mem := rfl
@[simp] theorem State.putDir_pkg (n line : Nat) (e : DirEnt) : (s.putDir n line e).pkg = s.pkg := rfl
@[simp] theorem State.putDir_vm (n line : Nat) (e : DirEnt) : (s.putDir n line e).vm = s.vm := rfl
@[simp] theorem State.putDir_fed (n line : Nat) (e : DirEnt) : (s.putDir n line e).fed = s.fed := rfl
@[simp] theorem State.putDir_cores (n line : Nat) (e : DirEnt) : (s.putDir n line e).cores = s.cores := rfl
@[simp] theorem State.putDir_clcs (n line : Nat) (e : DirEnt) : (s.putDir n line e).clcs = s.clcs := rfl
@[simp] theorem State.putDir_homes (n line : Nat) (e : DirEnt) : (s.putDir n line e).homes = mset s.homes n { s.home n with dir := mput {} (s.home n).dir line e } := rfl
@[simp] theorem State.putDir_dies (n line : Nat) (e : DirEnt) : (s.putDir n line e).dies = s.dies := rfl
@[simp] theorem State.putDir_net (n line : Nat) (e : DirEnt) : (s.putDir n line e).net = s.net := rfl
@[simp] theorem State.putDir_moves (n line : Nat) (e : DirEnt) : (s.putDir n line e).moves = s.moves := rfl
@[simp] theorem State.putDir_gathers (n line : Nat) (e : DirEnt) : (s.putDir n line e).gathers = s.gathers := rfl
@[simp] theorem State.putDir_kvHeld (n line : Nat) (e : DirEnt) : (s.putDir n line e).kvHeld = s.kvHeld := rfl

/-! ### `setRdc` -/

@[simp] theorem State.setRdc_ctl (d line : Nat) (x : RdcLine) : (s.setRdc d line x).ctl = s.ctl := rfl
@[simp] theorem State.setRdc_mem (d line : Nat) (x : RdcLine) : (s.setRdc d line x).mem = s.mem := rfl
@[simp] theorem State.setRdc_pkg (d line : Nat) (x : RdcLine) : (s.setRdc d line x).pkg = s.pkg := rfl
@[simp] theorem State.setRdc_vm (d line : Nat) (x : RdcLine) : (s.setRdc d line x).vm = s.vm := rfl
@[simp] theorem State.setRdc_fed (d line : Nat) (x : RdcLine) : (s.setRdc d line x).fed = s.fed := rfl
@[simp] theorem State.setRdc_cores (d line : Nat) (x : RdcLine) : (s.setRdc d line x).cores = s.cores := rfl
@[simp] theorem State.setRdc_clcs (d line : Nat) (x : RdcLine) : (s.setRdc d line x).clcs = s.clcs := rfl
@[simp] theorem State.setRdc_homes (d line : Nat) (x : RdcLine) : (s.setRdc d line x).homes = s.homes := rfl
@[simp] theorem State.setRdc_dies (d line : Nat) (x : RdcLine) : (s.setRdc d line x).dies = mset s.dies d { s.die d with rdc := mset (s.die d).rdc line x } := rfl
@[simp] theorem State.setRdc_net (d line : Nat) (x : RdcLine) : (s.setRdc d line x).net = s.net := rfl
@[simp] theorem State.setRdc_moves (d line : Nat) (x : RdcLine) : (s.setRdc d line x).moves = s.moves := rfl
@[simp] theorem State.setRdc_gathers (d line : Nat) (x : RdcLine) : (s.setRdc d line x).gathers = s.gathers := rfl
@[simp] theorem State.setRdc_kvHeld (d line : Nat) (x : RdcLine) : (s.setRdc d line x).kvHeld = s.kvHeld := rfl

/-! ### `setClc` -/

@[simp] theorem State.setClc_ctl (k line : Nat) (c : Copy) : (s.setClc k line c).ctl = s.ctl := rfl
@[simp] theorem State.setClc_mem (k line : Nat) (c : Copy) : (s.setClc k line c).mem = s.mem := rfl
@[simp] theorem State.setClc_pkg (k line : Nat) (c : Copy) : (s.setClc k line c).pkg = s.pkg := rfl
@[simp] theorem State.setClc_vm (k line : Nat) (c : Copy) : (s.setClc k line c).vm = s.vm := rfl
@[simp] theorem State.setClc_fed (k line : Nat) (c : Copy) : (s.setClc k line c).fed = s.fed := rfl
@[simp] theorem State.setClc_cores (k line : Nat) (c : Copy) : (s.setClc k line c).cores = s.cores := rfl
@[simp] theorem State.setClc_clcs (k line : Nat) (c : Copy) : (s.setClc k line c).clcs = mset s.clcs k (mset (s.clc k) line c) := rfl
@[simp] theorem State.setClc_homes (k line : Nat) (c : Copy) : (s.setClc k line c).homes = s.homes := rfl
@[simp] theorem State.setClc_dies (k line : Nat) (c : Copy) : (s.setClc k line c).dies = s.dies := rfl
@[simp] theorem State.setClc_net (k line : Nat) (c : Copy) : (s.setClc k line c).net = s.net := rfl
@[simp] theorem State.setClc_moves (k line : Nat) (c : Copy) : (s.setClc k line c).moves = s.moves := rfl
@[simp] theorem State.setClc_gathers (k line : Nat) (c : Copy) : (s.setClc k line c).gathers = s.gathers := rfl
@[simp] theorem State.setClc_kvHeld (k line : Nat) (c : Copy) : (s.setClc k line c).kvHeld = s.kvHeld := rfl

/-! ### `delClc` -/

@[simp] theorem State.delClc_ctl (k line : Nat) : (s.delClc k line).ctl = s.ctl := rfl
@[simp] theorem State.delClc_mem (k line : Nat) : (s.delClc k line).mem = s.mem := rfl
@[simp] theorem State.delClc_pkg (k line : Nat) : (s.delClc k line).pkg = s.pkg := rfl
@[simp] theorem State.delClc_vm (k line : Nat) : (s.delClc k line).vm = s.vm := rfl
@[simp] theorem State.delClc_fed (k line : Nat) : (s.delClc k line).fed = s.fed := rfl
@[simp] theorem State.delClc_cores (k line : Nat) : (s.delClc k line).cores = s.cores := rfl
@[simp] theorem State.delClc_clcs (k line : Nat) : (s.delClc k line).clcs = mset s.clcs k (mdel (s.clc k) line) := rfl
@[simp] theorem State.delClc_homes (k line : Nat) : (s.delClc k line).homes = s.homes := rfl
@[simp] theorem State.delClc_dies (k line : Nat) : (s.delClc k line).dies = s.dies := rfl
@[simp] theorem State.delClc_net (k line : Nat) : (s.delClc k line).net = s.net := rfl
@[simp] theorem State.delClc_moves (k line : Nat) : (s.delClc k line).moves = s.moves := rfl
@[simp] theorem State.delClc_gathers (k line : Nat) : (s.delClc k line).gathers = s.gathers := rfl
@[simp] theorem State.delClc_kvHeld (k line : Nat) : (s.delClc k line).kvHeld = s.kvHeld := rfl

/-! ### `setL1` -/

@[simp] theorem State.setL1_ctl (core line : Nat) (c : Copy) : (s.setL1 core line c).ctl = s.ctl := rfl
@[simp] theorem State.setL1_mem (core line : Nat) (c : Copy) : (s.setL1 core line c).mem = s.mem := rfl
@[simp] theorem State.setL1_pkg (core line : Nat) (c : Copy) : (s.setL1 core line c).pkg = s.pkg := rfl
@[simp] theorem State.setL1_vm (core line : Nat) (c : Copy) : (s.setL1 core line c).vm = s.vm := rfl
@[simp] theorem State.setL1_fed (core line : Nat) (c : Copy) : (s.setL1 core line c).fed = s.fed := rfl
@[simp] theorem State.setL1_cores (core line : Nat) (c : Copy) : (s.setL1 core line c).cores = mset s.cores core { s.core core with l1 := mset (s.core core).l1 line c } := rfl
@[simp] theorem State.setL1_clcs (core line : Nat) (c : Copy) : (s.setL1 core line c).clcs = s.clcs := rfl
@[simp] theorem State.setL1_homes (core line : Nat) (c : Copy) : (s.setL1 core line c).homes = s.homes := rfl
@[simp] theorem State.setL1_dies (core line : Nat) (c : Copy) : (s.setL1 core line c).dies = s.dies := rfl
@[simp] theorem State.setL1_net (core line : Nat) (c : Copy) : (s.setL1 core line c).net = s.net := rfl
@[simp] theorem State.setL1_moves (core line : Nat) (c : Copy) : (s.setL1 core line c).moves = s.moves := rfl
@[simp] theorem State.setL1_gathers (core line : Nat) (c : Copy) : (s.setL1 core line c).gathers = s.gathers := rfl
@[simp] theorem State.setL1_kvHeld (core line : Nat) (c : Copy) : (s.setL1 core line c).kvHeld = s.kvHeld := rfl

/-! ### `delL1` -/

@[simp] theorem State.delL1_ctl (core line : Nat) : (s.delL1 core line).ctl = s.ctl := rfl
@[simp] theorem State.delL1_mem (core line : Nat) : (s.delL1 core line).mem = s.mem := rfl
@[simp] theorem State.delL1_pkg (core line : Nat) : (s.delL1 core line).pkg = s.pkg := rfl
@[simp] theorem State.delL1_vm (core line : Nat) : (s.delL1 core line).vm = s.vm := rfl
@[simp] theorem State.delL1_fed (core line : Nat) : (s.delL1 core line).fed = s.fed := rfl
@[simp] theorem State.delL1_cores (core line : Nat) : (s.delL1 core line).cores = mset s.cores core { s.core core with l1 := mdel (s.core core).l1 line } := rfl
@[simp] theorem State.delL1_clcs (core line : Nat) : (s.delL1 core line).clcs = s.clcs := rfl
@[simp] theorem State.delL1_homes (core line : Nat) : (s.delL1 core line).homes = s.homes := rfl
@[simp] theorem State.delL1_dies (core line : Nat) : (s.delL1 core line).dies = s.dies := rfl
@[simp] theorem State.delL1_net (core line : Nat) : (s.delL1 core line).net = s.net := rfl
@[simp] theorem State.delL1_moves (core line : Nat) : (s.delL1 core line).moves = s.moves := rfl
@[simp] theorem State.delL1_gathers (core line : Nat) : (s.delL1 core line).gathers = s.gathers := rfl
@[simp] theorem State.delL1_kvHeld (core line : Nat) : (s.delL1 core line).kvHeld = s.kvHeld := rfl

/-! ### `raisePts` -/

@[simp] theorem State.raisePts_ctl (core t : Nat) : (s.raisePts core t).ctl = s.ctl := rfl
@[simp] theorem State.raisePts_mem (core t : Nat) : (s.raisePts core t).mem = s.mem := rfl
@[simp] theorem State.raisePts_pkg (core t : Nat) : (s.raisePts core t).pkg = s.pkg := rfl
@[simp] theorem State.raisePts_vm (core t : Nat) : (s.raisePts core t).vm = s.vm := rfl
@[simp] theorem State.raisePts_fed (core t : Nat) : (s.raisePts core t).fed = s.fed := rfl
@[simp] theorem State.raisePts_cores (core t : Nat) : (s.raisePts core t).cores = mset s.cores core { s.core core with pts := max (s.core core).pts t } := rfl
@[simp] theorem State.raisePts_clcs (core t : Nat) : (s.raisePts core t).clcs = s.clcs := rfl
@[simp] theorem State.raisePts_homes (core t : Nat) : (s.raisePts core t).homes = s.homes := rfl
@[simp] theorem State.raisePts_dies (core t : Nat) : (s.raisePts core t).dies = s.dies := rfl
@[simp] theorem State.raisePts_net (core t : Nat) : (s.raisePts core t).net = s.net := rfl
@[simp] theorem State.raisePts_moves (core t : Nat) : (s.raisePts core t).moves = s.moves := rfl
@[simp] theorem State.raisePts_gathers (core t : Nat) : (s.raisePts core t).gathers = s.gathers := rfl
@[simp] theorem State.raisePts_kvHeld (core t : Nat) : (s.raisePts core t).kvHeld = s.kvHeld := rfl

/-! ### `setRt` -/

@[simp] theorem State.setRt_ctl (core i : Nat) (e : RtEnt) : (s.setRt core i e).ctl = s.ctl := rfl
@[simp] theorem State.setRt_mem (core i : Nat) (e : RtEnt) : (s.setRt core i e).mem = s.mem := rfl
@[simp] theorem State.setRt_pkg (core i : Nat) (e : RtEnt) : (s.setRt core i e).pkg = s.pkg := rfl
@[simp] theorem State.setRt_vm (core i : Nat) (e : RtEnt) : (s.setRt core i e).vm = s.vm := rfl
@[simp] theorem State.setRt_fed (core i : Nat) (e : RtEnt) : (s.setRt core i e).fed = s.fed := rfl
@[simp] theorem State.setRt_cores (core i : Nat) (e : RtEnt) : (s.setRt core i e).cores = mset s.cores core { s.core core with rt := mset (s.core core).rt i e } := rfl
@[simp] theorem State.setRt_clcs (core i : Nat) (e : RtEnt) : (s.setRt core i e).clcs = s.clcs := rfl
@[simp] theorem State.setRt_homes (core i : Nat) (e : RtEnt) : (s.setRt core i e).homes = s.homes := rfl
@[simp] theorem State.setRt_dies (core i : Nat) (e : RtEnt) : (s.setRt core i e).dies = s.dies := rfl
@[simp] theorem State.setRt_net (core i : Nat) (e : RtEnt) : (s.setRt core i e).net = s.net := rfl
@[simp] theorem State.setRt_moves (core i : Nat) (e : RtEnt) : (s.setRt core i e).moves = s.moves := rfl
@[simp] theorem State.setRt_gathers (core i : Nat) (e : RtEnt) : (s.setRt core i e).gathers = s.gathers := rfl
@[simp] theorem State.setRt_kvHeld (core i : Nat) (e : RtEnt) : (s.setRt core i e).kvHeld = s.kvHeld := rfl

/-! ### `updLink` -/

@[simp] theorem State.updLink_ctl (i : Nat) (f : Link → Link) : (s.updLink i f).ctl = s.ctl := rfl
@[simp] theorem State.updLink_mem (i : Nat) (f : Link → Link) : (s.updLink i f).mem = s.mem := rfl
@[simp] theorem State.updLink_pkg (i : Nat) (f : Link → Link) : (s.updLink i f).pkg = { s.pkg with links := mset s.pkg.links i (f (mget { width := 0 } s.pkg.links i)) } := rfl
@[simp] theorem State.updLink_vm (i : Nat) (f : Link → Link) : (s.updLink i f).vm = s.vm := rfl
@[simp] theorem State.updLink_fed (i : Nat) (f : Link → Link) : (s.updLink i f).fed = s.fed := rfl
@[simp] theorem State.updLink_cores (i : Nat) (f : Link → Link) : (s.updLink i f).cores = s.cores := rfl
@[simp] theorem State.updLink_clcs (i : Nat) (f : Link → Link) : (s.updLink i f).clcs = s.clcs := rfl
@[simp] theorem State.updLink_homes (i : Nat) (f : Link → Link) : (s.updLink i f).homes = s.homes := rfl
@[simp] theorem State.updLink_dies (i : Nat) (f : Link → Link) : (s.updLink i f).dies = s.dies := rfl
@[simp] theorem State.updLink_net (i : Nat) (f : Link → Link) : (s.updLink i f).net = s.net := rfl
@[simp] theorem State.updLink_moves (i : Nat) (f : Link → Link) : (s.updLink i f).moves = s.moves := rfl
@[simp] theorem State.updLink_gathers (i : Nat) (f : Link → Link) : (s.updLink i f).gathers = s.gathers := rfl
@[simp] theorem State.updLink_kvHeld (i : Nat) (f : Link → Link) : (s.updLink i f).kvHeld = s.kvHeld := rfl

/-! ### `updPort` -/

@[simp] theorem State.updPort_ctl (p : Nat) (f : Port → Port) : (s.updPort p f).ctl = s.ctl := rfl
@[simp] theorem State.updPort_mem (p : Nat) (f : Port → Port) : (s.updPort p f).mem = s.mem := rfl
@[simp] theorem State.updPort_pkg (p : Nat) (f : Port → Port) : (s.updPort p f).pkg = { s.pkg with ports := mset s.pkg.ports p (f (mget {} s.pkg.ports p)) } := rfl
@[simp] theorem State.updPort_vm (p : Nat) (f : Port → Port) : (s.updPort p f).vm = s.vm := rfl
@[simp] theorem State.updPort_fed (p : Nat) (f : Port → Port) : (s.updPort p f).fed = s.fed := rfl
@[simp] theorem State.updPort_cores (p : Nat) (f : Port → Port) : (s.updPort p f).cores = s.cores := rfl
@[simp] theorem State.updPort_clcs (p : Nat) (f : Port → Port) : (s.updPort p f).clcs = s.clcs := rfl
@[simp] theorem State.updPort_homes (p : Nat) (f : Port → Port) : (s.updPort p f).homes = s.homes := rfl
@[simp] theorem State.updPort_dies (p : Nat) (f : Port → Port) : (s.updPort p f).dies = s.dies := rfl
@[simp] theorem State.updPort_net (p : Nat) (f : Port → Port) : (s.updPort p f).net = s.net := rfl
@[simp] theorem State.updPort_moves (p : Nat) (f : Port → Port) : (s.updPort p f).moves = s.moves := rfl
@[simp] theorem State.updPort_gathers (p : Nat) (f : Port → Port) : (s.updPort p f).gathers = s.gathers := rfl
@[simp] theorem State.updPort_kvHeld (p : Nat) (f : Port → Port) : (s.updPort p f).kvHeld = s.kvHeld := rfl

/-! ### `updCtx` -/

@[simp] theorem State.updCtx_ctl (c : Nat) (f : Ctx → Ctx) : (s.updCtx c f).ctl = s.ctl := rfl
@[simp] theorem State.updCtx_mem (c : Nat) (f : Ctx → Ctx) : (s.updCtx c f).mem = s.mem := rfl
@[simp] theorem State.updCtx_pkg (c : Nat) (f : Ctx → Ctx) : (s.updCtx c f).pkg = s.pkg := rfl
@[simp] theorem State.updCtx_vm (c : Nat) (f : Ctx → Ctx) : (s.updCtx c f).vm = { s.vm with ctx := mset s.vm.ctx c (f (s.ctxEnt c)) } := rfl
@[simp] theorem State.updCtx_fed (c : Nat) (f : Ctx → Ctx) : (s.updCtx c f).fed = s.fed := rfl
@[simp] theorem State.updCtx_cores (c : Nat) (f : Ctx → Ctx) : (s.updCtx c f).cores = s.cores := rfl
@[simp] theorem State.updCtx_clcs (c : Nat) (f : Ctx → Ctx) : (s.updCtx c f).clcs = s.clcs := rfl
@[simp] theorem State.updCtx_homes (c : Nat) (f : Ctx → Ctx) : (s.updCtx c f).homes = s.homes := rfl
@[simp] theorem State.updCtx_dies (c : Nat) (f : Ctx → Ctx) : (s.updCtx c f).dies = s.dies := rfl
@[simp] theorem State.updCtx_net (c : Nat) (f : Ctx → Ctx) : (s.updCtx c f).net = s.net := rfl
@[simp] theorem State.updCtx_moves (c : Nat) (f : Ctx → Ctx) : (s.updCtx c f).moves = s.moves := rfl
@[simp] theorem State.updCtx_gathers (c : Nat) (f : Ctx → Ctx) : (s.updCtx c f).gathers = s.gathers := rfl
@[simp] theorem State.updCtx_kvHeld (c : Nat) (f : Ctx → Ctx) : (s.updCtx c f).kvHeld = s.kvHeld := rfl

/-! ### `withCur` -/

@[simp] theorem State.withCur_ctl (r : Option WRef) : (s.withCur r).ctl = { s.ctl with cur := r } := rfl
@[simp] theorem State.withCur_mem (r : Option WRef) : (s.withCur r).mem = s.mem := rfl
@[simp] theorem State.withCur_pkg (r : Option WRef) : (s.withCur r).pkg = s.pkg := rfl
@[simp] theorem State.withCur_vm (r : Option WRef) : (s.withCur r).vm = s.vm := rfl
@[simp] theorem State.withCur_fed (r : Option WRef) : (s.withCur r).fed = s.fed := rfl
@[simp] theorem State.withCur_cores (r : Option WRef) : (s.withCur r).cores = s.cores := rfl
@[simp] theorem State.withCur_clcs (r : Option WRef) : (s.withCur r).clcs = s.clcs := rfl
@[simp] theorem State.withCur_homes (r : Option WRef) : (s.withCur r).homes = s.homes := rfl
@[simp] theorem State.withCur_dies (r : Option WRef) : (s.withCur r).dies = s.dies := rfl
@[simp] theorem State.withCur_net (r : Option WRef) : (s.withCur r).net = s.net := rfl
@[simp] theorem State.withCur_moves (r : Option WRef) : (s.withCur r).moves = s.moves := rfl
@[simp] theorem State.withCur_gathers (r : Option WRef) : (s.withCur r).gathers = s.gathers := rfl
@[simp] theorem State.withCur_kvHeld (r : Option WRef) : (s.withCur r).kvHeld = s.kvHeld := rfl

/-! ### `advance` -/

@[simp] theorem State.advance_ctl (dt : Nat) (t : List Act) : (s.advance dt t).ctl = { s.ctl.after dt (ccPerUs s) with agenda := t, cur := none } := rfl
@[simp] theorem State.advance_mem (dt : Nat) (t : List Act) : (s.advance dt t).mem = s.mem := rfl
@[simp] theorem State.advance_pkg (dt : Nat) (t : List Act) : (s.advance dt t).pkg = s.pkg := rfl
@[simp] theorem State.advance_vm (dt : Nat) (t : List Act) : (s.advance dt t).vm = s.vm := rfl
@[simp] theorem State.advance_fed (dt : Nat) (t : List Act) : (s.advance dt t).fed = s.fed := rfl
@[simp] theorem State.advance_cores (dt : Nat) (t : List Act) : (s.advance dt t).cores = s.cores := rfl
@[simp] theorem State.advance_clcs (dt : Nat) (t : List Act) : (s.advance dt t).clcs = s.clcs := rfl
@[simp] theorem State.advance_homes (dt : Nat) (t : List Act) : (s.advance dt t).homes = s.homes := rfl
@[simp] theorem State.advance_dies (dt : Nat) (t : List Act) : (s.advance dt t).dies = s.dies := rfl
@[simp] theorem State.advance_net (dt : Nat) (t : List Act) : (s.advance dt t).net = s.net := rfl
@[simp] theorem State.advance_moves (dt : Nat) (t : List Act) : (s.advance dt t).moves = s.moves := rfl
@[simp] theorem State.advance_gathers (dt : Nat) (t : List Act) : (s.advance dt t).gathers = s.gathers := rfl
@[simp] theorem State.advance_kvHeld (dt : Nat) (t : List Act) : (s.advance dt t).kvHeld = s.kvHeld := rfl

/-! ### `dropHeld` and `heldPage` -/

@[simp] theorem State.dropHeld_ctl (id : Nat) : (s.dropHeld id).ctl = s.ctl := rfl
@[simp] theorem State.dropHeld_mem (id : Nat) : (s.dropHeld id).mem = s.mem := rfl
@[simp] theorem State.dropHeld_pkg (id : Nat) : (s.dropHeld id).pkg = s.pkg := rfl
@[simp] theorem State.dropHeld_vm (id : Nat) : (s.dropHeld id).vm = s.vm := rfl
@[simp] theorem State.dropHeld_fed (id : Nat) : (s.dropHeld id).fed = s.fed := rfl
@[simp] theorem State.dropHeld_cores (id : Nat) : (s.dropHeld id).cores = s.cores := rfl
@[simp] theorem State.dropHeld_clcs (id : Nat) : (s.dropHeld id).clcs = s.clcs := rfl
@[simp] theorem State.dropHeld_homes (id : Nat) : (s.dropHeld id).homes = s.homes := rfl
@[simp] theorem State.dropHeld_dies (id : Nat) : (s.dropHeld id).dies = s.dies := rfl
@[simp] theorem State.dropHeld_net (id : Nat) : (s.dropHeld id).net = s.net := rfl
@[simp] theorem State.dropHeld_moves (id : Nat) : (s.dropHeld id).moves = s.moves := rfl
@[simp] theorem State.dropHeld_gathers (id : Nat) : (s.dropHeld id).gathers = s.gathers := rfl
@[simp] theorem State.dropHeld_kvHeld (id : Nat) : (s.dropHeld id).kvHeld = s.kvHeld.filter (fun y => y.id != id) := rfl

@[simp] theorem State.heldPage_ctl (id : Nat) (p : Option (Nat × Mask)) : (s.heldPage id p).ctl = s.ctl := rfl
@[simp] theorem State.heldPage_mem (id : Nat) (p : Option (Nat × Mask)) : (s.heldPage id p).mem = s.mem := rfl
@[simp] theorem State.heldPage_pkg (id : Nat) (p : Option (Nat × Mask)) : (s.heldPage id p).pkg = s.pkg := rfl
@[simp] theorem State.heldPage_vm (id : Nat) (p : Option (Nat × Mask)) : (s.heldPage id p).vm = s.vm := rfl
@[simp] theorem State.heldPage_fed (id : Nat) (p : Option (Nat × Mask)) : (s.heldPage id p).fed = s.fed := rfl
@[simp] theorem State.heldPage_cores (id : Nat) (p : Option (Nat × Mask)) : (s.heldPage id p).cores = s.cores := rfl
@[simp] theorem State.heldPage_clcs (id : Nat) (p : Option (Nat × Mask)) : (s.heldPage id p).clcs = s.clcs := rfl
@[simp] theorem State.heldPage_homes (id : Nat) (p : Option (Nat × Mask)) : (s.heldPage id p).homes = s.homes := rfl
@[simp] theorem State.heldPage_dies (id : Nat) (p : Option (Nat × Mask)) : (s.heldPage id p).dies = s.dies := rfl
@[simp] theorem State.heldPage_net (id : Nat) (p : Option (Nat × Mask)) : (s.heldPage id p).net = s.net := rfl
@[simp] theorem State.heldPage_moves (id : Nat) (p : Option (Nat × Mask)) : (s.heldPage id p).moves = s.moves := rfl
@[simp] theorem State.heldPage_gathers (id : Nat) (p : Option (Nat × Mask)) : (s.heldPage id p).gathers = s.gathers := rfl
@[simp] theorem State.heldPage_kvHeld (id : Nat) (p : Option (Nat × Mask)) :
    (s.heldPage id p).kvHeld = s.kvHeld.map (fun y => if y.id = id then { y with page := p } else y) := rfl

end Sys2Proof.Machine
end

