-- ==== Sys2Proof/Laws/Regs.lean ====
section
/-! SUPPORT. The registers of a warp: a read after a write, and what a write of one register leaves alone. -/

namespace Sys2Proof.Machine

variable (w : Warp)

/-! ### `putV` -/

@[simp] theorem Warp.putV_blk (r l : Nat) (x : W32) : (w.putV r l x).blk = w.blk := rfl
@[simp] theorem Warp.putV_id (r l : Nat) (x : W32) : (w.putV r l x).id = w.id := rfl
@[simp] theorem Warp.putV_role (r l : Nat) (x : W32) : (w.putV r l x).role = w.role := rfl
@[simp] theorem Warp.putV_access (r l : Nat) (x : W32) : (w.putV r l x).access = w.access := rfl
@[simp] theorem Warp.putV_vregs (r l : Nat) (x : W32) : (w.putV r l x).vregs = w.vregs := rfl
@[simp] theorem Warp.putV_sregs (r l : Nat) (x : W32) : (w.putV r l x).sregs = w.sregs := rfl
@[simp] theorem Warp.putV_nacc (r l : Nat) (x : W32) : (w.putV r l x).nacc = w.nacc := rfl
@[simp] theorem Warp.putV_pc (r l : Nat) (x : W32) : (w.putV r l x).pc = w.pc := rfl
@[simp] theorem Warp.putV_exec (r l : Nat) (x : W32) : (w.putV r l x).exec = w.exec := rfl
@[simp] theorem Warp.putV_exited (r l : Nat) (x : W32) : (w.putV r l x).exited = w.exited := rfl
@[simp] theorem Warp.putV_fmt (r l : Nat) (x : W32) : (w.putV r l x).fmt = w.fmt := rfl
@[simp] theorem Warp.putV_stack (r l : Nat) (x : W32) : (w.putV r l x).stack = w.stack := rfl
@[simp] theorem Warp.putV_s (r l : Nat) (x : W32) : (w.putV r l x).s = w.s := rfl
@[simp] theorem Warp.putV_p (r l : Nat) (x : W32) : (w.putV r l x).p = w.p := rfl
@[simp] theorem Warp.putV_k (r l : Nat) (x : W32) : (w.putV r l x).k = w.k := rfl
@[simp] theorem Warp.putV_acc (r l : Nat) (x : W32) : (w.putV r l x).acc = w.acc := rfl
@[simp] theorem Warp.putV_q (r l : Nat) (x : W32) : (w.putV r l x).q = w.q := rfl
@[simp] theorem Warp.putV_level (r l : Nat) (x : W32) : (w.putV r l x).level = w.level := rfl
@[simp] theorem Warp.putV_t1 (r l : Nat) (x : W32) : (w.putV r l x).t1 = w.t1 := rfl
@[simp] theorem Warp.putV_t2 (r l : Nat) (x : W32) : (w.putV r l x).t2 = w.t2 := rfl
@[simp] theorem Warp.putV_f1 (r l : Nat) (x : W32) : (w.putV r l x).f1 = w.f1 := rfl
@[simp] theorem Warp.putV_f2 (r l : Nat) (x : W32) : (w.putV r l x).f2 = w.f2 := rfl
@[simp] theorem Warp.putV_f3 (r l : Nat) (x : W32) : (w.putV r l x).f3 = w.f3 := rfl
@[simp] theorem Warp.putV_icount (r l : Nat) (x : W32) : (w.putV r l x).icount = w.icount := rfl
@[simp] theorem Warp.putV_stepno (r l : Nat) (x : W32) : (w.putV r l x).stepno = w.stepno := rfl
@[simp] theorem Warp.putV_rmask (r l : Nat) (x : W32) : (w.putV r l x).rmask = w.rmask := rfl
@[simp] theorem Warp.putV_loads (r l : Nat) (x : W32) : (w.putV r l x).loads = w.loads := rfl
@[simp] theorem Warp.putV_atoms (r l : Nat) (x : W32) : (w.putV r l x).atoms = w.atoms := rfl
@[simp] theorem Warp.putV_copies (r l : Nat) (x : W32) : (w.putV r l x).copies = w.copies := rfl
@[simp] theorem Warp.putV_batch (r l : Nat) (x : W32) : (w.putV r l x).batch = w.batch := rfl
@[simp] theorem Warp.putV_tlops (r l : Nat) (x : W32) : (w.putV r l x).tlops = w.tlops := rfl
@[simp] theorem Warp.putV_wait (r l : Nat) (x : W32) : (w.putV r l x).wait = w.wait := rfl
@[simp] theorem Warp.putV_skid (r l : Nat) (x : W32) : (w.putV r l x).skid = w.skid := rfl
@[simp] theorem Warp.putV_stopped (r l : Nat) (x : W32) : (w.putV r l x).stopped = w.stopped := rfl
@[simp] theorem Warp.putV_inHandler (r l : Nat) (x : W32) : (w.putV r l x).inHandler = w.inHandler := rfl
@[simp] theorem Warp.putV_handlerSince (r l : Nat) (x : W32) : (w.putV r l x).handlerSince = w.handlerSince := rfl
@[simp] theorem Warp.putV_issued (r l : Nat) (x : W32) : (w.putV r l x).issued = w.issued := rfl
@[simp] theorem Warp.putV_enter (r l : Nat) (x : W32) : (w.putV r l x).enter = w.enter := rfl
@[simp] theorem Warp.putV_late (r l : Nat) (x : W32) : (w.putV r l x).late = w.late := rfl
@[simp] theorem Warp.putV_held (r l : Nat) (x : W32) : (w.putV r l x).held = w.held := rfl

/-! ### `putS` -/

@[simp] theorem Warp.putS_blk (r : Nat) (x : W64) : (w.putS r x).blk = w.blk := rfl
@[simp] theorem Warp.putS_id (r : Nat) (x : W64) : (w.putS r x).id = w.id := rfl
@[simp] theorem Warp.putS_role (r : Nat) (x : W64) : (w.putS r x).role = w.role := rfl
@[simp] theorem Warp.putS_access (r : Nat) (x : W64) : (w.putS r x).access = w.access := rfl
@[simp] theorem Warp.putS_vregs (r : Nat) (x : W64) : (w.putS r x).vregs = w.vregs := rfl
@[simp] theorem Warp.putS_sregs (r : Nat) (x : W64) : (w.putS r x).sregs = w.sregs := rfl
@[simp] theorem Warp.putS_nacc (r : Nat) (x : W64) : (w.putS r x).nacc = w.nacc := rfl
@[simp] theorem Warp.putS_pc (r : Nat) (x : W64) : (w.putS r x).pc = w.pc := rfl
@[simp] theorem Warp.putS_exec (r : Nat) (x : W64) : (w.putS r x).exec = w.exec := rfl
@[simp] theorem Warp.putS_exited (r : Nat) (x : W64) : (w.putS r x).exited = w.exited := rfl
@[simp] theorem Warp.putS_fmt (r : Nat) (x : W64) : (w.putS r x).fmt = w.fmt := rfl
@[simp] theorem Warp.putS_stack (r : Nat) (x : W64) : (w.putS r x).stack = w.stack := rfl
@[simp] theorem Warp.putS_v (r : Nat) (x : W64) : (w.putS r x).v = w.v := rfl
@[simp] theorem Warp.putS_p (r : Nat) (x : W64) : (w.putS r x).p = w.p := rfl
@[simp] theorem Warp.putS_k (r : Nat) (x : W64) : (w.putS r x).k = w.k := rfl
@[simp] theorem Warp.putS_acc (r : Nat) (x : W64) : (w.putS r x).acc = w.acc := rfl
@[simp] theorem Warp.putS_q (r : Nat) (x : W64) : (w.putS r x).q = w.q := rfl
@[simp] theorem Warp.putS_level (r : Nat) (x : W64) : (w.putS r x).level = w.level := rfl
@[simp] theorem Warp.putS_t1 (r : Nat) (x : W64) : (w.putS r x).t1 = w.t1 := rfl
@[simp] theorem Warp.putS_t2 (r : Nat) (x : W64) : (w.putS r x).t2 = w.t2 := rfl
@[simp] theorem Warp.putS_f1 (r : Nat) (x : W64) : (w.putS r x).f1 = w.f1 := rfl
@[simp] theorem Warp.putS_f2 (r : Nat) (x : W64) : (w.putS r x).f2 = w.f2 := rfl
@[simp] theorem Warp.putS_f3 (r : Nat) (x : W64) : (w.putS r x).f3 = w.f3 := rfl
@[simp] theorem Warp.putS_icount (r : Nat) (x : W64) : (w.putS r x).icount = w.icount := rfl
@[simp] theorem Warp.putS_stepno (r : Nat) (x : W64) : (w.putS r x).stepno = w.stepno := rfl
@[simp] theorem Warp.putS_rmask (r : Nat) (x : W64) : (w.putS r x).rmask = w.rmask := rfl
@[simp] theorem Warp.putS_loads (r : Nat) (x : W64) : (w.putS r x).loads = w.loads := rfl
@[simp] theorem Warp.putS_atoms (r : Nat) (x : W64) : (w.putS r x).atoms = w.atoms := rfl
@[simp] theorem Warp.putS_copies (r : Nat) (x : W64) : (w.putS r x).copies = w.copies := rfl
@[simp] theorem Warp.putS_batch (r : Nat) (x : W64) : (w.putS r x).batch = w.batch := rfl
@[simp] theorem Warp.putS_tlops (r : Nat) (x : W64) : (w.putS r x).tlops = w.tlops := rfl
@[simp] theorem Warp.putS_wait (r : Nat) (x : W64) : (w.putS r x).wait = w.wait := rfl
@[simp] theorem Warp.putS_skid (r : Nat) (x : W64) : (w.putS r x).skid = w.skid := rfl
@[simp] theorem Warp.putS_stopped (r : Nat) (x : W64) : (w.putS r x).stopped = w.stopped := rfl
@[simp] theorem Warp.putS_inHandler (r : Nat) (x : W64) : (w.putS r x).inHandler = w.inHandler := rfl
@[simp] theorem Warp.putS_handlerSince (r : Nat) (x : W64) : (w.putS r x).handlerSince = w.handlerSince := rfl
@[simp] theorem Warp.putS_issued (r : Nat) (x : W64) : (w.putS r x).issued = w.issued := rfl
@[simp] theorem Warp.putS_enter (r : Nat) (x : W64) : (w.putS r x).enter = w.enter := rfl
@[simp] theorem Warp.putS_late (r : Nat) (x : W64) : (w.putS r x).late = w.late := rfl
@[simp] theorem Warp.putS_held (r : Nat) (x : W64) : (w.putS r x).held = w.held := rfl

/-! ### `putP` -/

@[simp] theorem Warp.putP_blk (r : Nat) (x : Mask) : (w.putP r x).blk = w.blk := by unfold Warp.putP; split <;> rfl
@[simp] theorem Warp.putP_id (r : Nat) (x : Mask) : (w.putP r x).id = w.id := by unfold Warp.putP; split <;> rfl
@[simp] theorem Warp.putP_role (r : Nat) (x : Mask) : (w.putP r x).role = w.role := by unfold Warp.putP; split <;> rfl
@[simp] theorem Warp.putP_access (r : Nat) (x : Mask) : (w.putP r x).access = w.access := by unfold Warp.putP; split <;> rfl
@[simp] theorem Warp.putP_vregs (r : Nat) (x : Mask) : (w.putP r x).vregs = w.vregs := by unfold Warp.putP; split <;> rfl
@[simp] theorem Warp.putP_sregs (r : Nat) (x : Mask) : (w.putP r x).sregs = w.sregs := by unfold Warp.putP; split <;> rfl
@[simp] theorem Warp.putP_nacc (r : Nat) (x : Mask) : (w.putP r x).nacc = w.nacc := by unfold Warp.putP; split <;> rfl
@[simp] theorem Warp.putP_pc (r : Nat) (x : Mask) : (w.putP r x).pc = w.pc := by unfold Warp.putP; split <;> rfl
@[simp] theorem Warp.putP_exec (r : Nat) (x : Mask) : (w.putP r x).exec = w.exec := by unfold Warp.putP; split <;> rfl
@[simp] theorem Warp.putP_exited (r : Nat) (x : Mask) : (w.putP r x).exited = w.exited := by unfold Warp.putP; split <;> rfl
@[simp] theorem Warp.putP_fmt (r : Nat) (x : Mask) : (w.putP r x).fmt = w.fmt := by unfold Warp.putP; split <;> rfl
@[simp] theorem Warp.putP_stack (r : Nat) (x : Mask) : (w.putP r x).stack = w.stack := by unfold Warp.putP; split <;> rfl
@[simp] theorem Warp.putP_v (r : Nat) (x : Mask) : (w.putP r x).v = w.v := by unfold Warp.putP; split <;> rfl
@[simp] theorem Warp.putP_s (r : Nat) (x : Mask) : (w.putP r x).s = w.s := by unfold Warp.putP; split <;> rfl
@[simp] theorem Warp.putP_k (r : Nat) (x : Mask) : (w.putP r x).k = w.k := by unfold Warp.putP; split <;> rfl
@[simp] theorem Warp.putP_acc (r : Nat) (x : Mask) : (w.putP r x).acc = w.acc := by unfold Warp.putP; split <;> rfl
@[simp] theorem Warp.putP_q (r : Nat) (x : Mask) : (w.putP r x).q = w.q := by unfold Warp.putP; split <;> rfl
@[simp] theorem Warp.putP_level (r : Nat) (x : Mask) : (w.putP r x).level = w.level := by unfold Warp.putP; split <;> rfl
@[simp] theorem Warp.putP_t1 (r : Nat) (x : Mask) : (w.putP r x).t1 = w.t1 := by unfold Warp.putP; split <;> rfl
@[simp] theorem Warp.putP_t2 (r : Nat) (x : Mask) : (w.putP r x).t2 = w.t2 := by unfold Warp.putP; split <;> rfl
@[simp] theorem Warp.putP_f1 (r : Nat) (x : Mask) : (w.putP r x).f1 = w.f1 := by unfold Warp.putP; split <;> rfl
@[simp] theorem Warp.putP_f2 (r : Nat) (x : Mask) : (w.putP r x).f2 = w.f2 := by unfold Warp.putP; split <;> rfl
@[simp] theorem Warp.putP_f3 (r : Nat) (x : Mask) : (w.putP r x).f3 = w.f3 := by unfold Warp.putP; split <;> rfl
@[simp] theorem Warp.putP_icount (r : Nat) (x : Mask) : (w.putP r x).icount = w.icount := by unfold Warp.putP; split <;> rfl
@[simp] theorem Warp.putP_stepno (r : Nat) (x : Mask) : (w.putP r x).stepno = w.stepno := by unfold Warp.putP; split <;> rfl
@[simp] theorem Warp.putP_rmask (r : Nat) (x : Mask) : (w.putP r x).rmask = w.rmask := by unfold Warp.putP; split <;> rfl
@[simp] theorem Warp.putP_loads (r : Nat) (x : Mask) : (w.putP r x).loads = w.loads := by unfold Warp.putP; split <;> rfl
@[simp] theorem Warp.putP_atoms (r : Nat) (x : Mask) : (w.putP r x).atoms = w.atoms := by unfold Warp.putP; split <;> rfl
@[simp] theorem Warp.putP_copies (r : Nat) (x : Mask) : (w.putP r x).copies = w.copies := by unfold Warp.putP; split <;> rfl
@[simp] theorem Warp.putP_batch (r : Nat) (x : Mask) : (w.putP r x).batch = w.batch := by unfold Warp.putP; split <;> rfl
@[simp] theorem Warp.putP_tlops (r : Nat) (x : Mask) : (w.putP r x).tlops = w.tlops := by unfold Warp.putP; split <;> rfl
@[simp] theorem Warp.putP_wait (r : Nat) (x : Mask) : (w.putP r x).wait = w.wait := by unfold Warp.putP; split <;> rfl
@[simp] theorem Warp.putP_skid (r : Nat) (x : Mask) : (w.putP r x).skid = w.skid := by unfold Warp.putP; split <;> rfl
@[simp] theorem Warp.putP_stopped (r : Nat) (x : Mask) : (w.putP r x).stopped = w.stopped := by unfold Warp.putP; split <;> rfl
@[simp] theorem Warp.putP_inHandler (r : Nat) (x : Mask) : (w.putP r x).inHandler = w.inHandler := by unfold Warp.putP; split <;> rfl
@[simp] theorem Warp.putP_handlerSince (r : Nat) (x : Mask) : (w.putP r x).handlerSince = w.handlerSince := by unfold Warp.putP; split <;> rfl
@[simp] theorem Warp.putP_issued (r : Nat) (x : Mask) : (w.putP r x).issued = w.issued := by unfold Warp.putP; split <;> rfl
@[simp] theorem Warp.putP_enter (r : Nat) (x : Mask) : (w.putP r x).enter = w.enter := by unfold Warp.putP; split <;> rfl
@[simp] theorem Warp.putP_late (r : Nat) (x : Mask) : (w.putP r x).late = w.late := by unfold Warp.putP; split <;> rfl
@[simp] theorem Warp.putP_held (r : Nat) (x : Mask) : (w.putP r x).held = w.held := by unfold Warp.putP; split <;> rfl

/-! ### `putK` -/

@[simp] theorem Warp.putK_blk (r : Nat) (x : Bool) : (w.putK r x).blk = w.blk := by unfold Warp.putK; split <;> rfl
@[simp] theorem Warp.putK_id (r : Nat) (x : Bool) : (w.putK r x).id = w.id := by unfold Warp.putK; split <;> rfl
@[simp] theorem Warp.putK_role (r : Nat) (x : Bool) : (w.putK r x).role = w.role := by unfold Warp.putK; split <;> rfl
@[simp] theorem Warp.putK_access (r : Nat) (x : Bool) : (w.putK r x).access = w.access := by unfold Warp.putK; split <;> rfl
@[simp] theorem Warp.putK_vregs (r : Nat) (x : Bool) : (w.putK r x).vregs = w.vregs := by unfold Warp.putK; split <;> rfl
@[simp] theorem Warp.putK_sregs (r : Nat) (x : Bool) : (w.putK r x).sregs = w.sregs := by unfold Warp.putK; split <;> rfl
@[simp] theorem Warp.putK_nacc (r : Nat) (x : Bool) : (w.putK r x).nacc = w.nacc := by unfold Warp.putK; split <;> rfl
@[simp] theorem Warp.putK_pc (r : Nat) (x : Bool) : (w.putK r x).pc = w.pc := by unfold Warp.putK; split <;> rfl
@[simp] theorem Warp.putK_exec (r : Nat) (x : Bool) : (w.putK r x).exec = w.exec := by unfold Warp.putK; split <;> rfl
@[simp] theorem Warp.putK_exited (r : Nat) (x : Bool) : (w.putK r x).exited = w.exited := by unfold Warp.putK; split <;> rfl
@[simp] theorem Warp.putK_fmt (r : Nat) (x : Bool) : (w.putK r x).fmt = w.fmt := by unfold Warp.putK; split <;> rfl
@[simp] theorem Warp.putK_stack (r : Nat) (x : Bool) : (w.putK r x).stack = w.stack := by unfold Warp.putK; split <;> rfl
@[simp] theorem Warp.putK_v (r : Nat) (x : Bool) : (w.putK r x).v = w.v := by unfold Warp.putK; split <;> rfl
@[simp] theorem Warp.putK_s (r : Nat) (x : Bool) : (w.putK r x).s = w.s := by unfold Warp.putK; split <;> rfl
@[simp] theorem Warp.putK_p (r : Nat) (x : Bool) : (w.putK r x).p = w.p := by unfold Warp.putK; split <;> rfl
@[simp] theorem Warp.putK_acc (r : Nat) (x : Bool) : (w.putK r x).acc = w.acc := by unfold Warp.putK; split <;> rfl
@[simp] theorem Warp.putK_q (r : Nat) (x : Bool) : (w.putK r x).q = w.q := by unfold Warp.putK; split <;> rfl
@[simp] theorem Warp.putK_level (r : Nat) (x : Bool) : (w.putK r x).level = w.level := by unfold Warp.putK; split <;> rfl
@[simp] theorem Warp.putK_t1 (r : Nat) (x : Bool) : (w.putK r x).t1 = w.t1 := by unfold Warp.putK; split <;> rfl
@[simp] theorem Warp.putK_t2 (r : Nat) (x : Bool) : (w.putK r x).t2 = w.t2 := by unfold Warp.putK; split <;> rfl
@[simp] theorem Warp.putK_f1 (r : Nat) (x : Bool) : (w.putK r x).f1 = w.f1 := by unfold Warp.putK; split <;> rfl
@[simp] theorem Warp.putK_f2 (r : Nat) (x : Bool) : (w.putK r x).f2 = w.f2 := by unfold Warp.putK; split <;> rfl
@[simp] theorem Warp.putK_f3 (r : Nat) (x : Bool) : (w.putK r x).f3 = w.f3 := by unfold Warp.putK; split <;> rfl
@[simp] theorem Warp.putK_icount (r : Nat) (x : Bool) : (w.putK r x).icount = w.icount := by unfold Warp.putK; split <;> rfl
@[simp] theorem Warp.putK_stepno (r : Nat) (x : Bool) : (w.putK r x).stepno = w.stepno := by unfold Warp.putK; split <;> rfl
@[simp] theorem Warp.putK_rmask (r : Nat) (x : Bool) : (w.putK r x).rmask = w.rmask := by unfold Warp.putK; split <;> rfl
@[simp] theorem Warp.putK_loads (r : Nat) (x : Bool) : (w.putK r x).loads = w.loads := by unfold Warp.putK; split <;> rfl
@[simp] theorem Warp.putK_atoms (r : Nat) (x : Bool) : (w.putK r x).atoms = w.atoms := by unfold Warp.putK; split <;> rfl
@[simp] theorem Warp.putK_copies (r : Nat) (x : Bool) : (w.putK r x).copies = w.copies := by unfold Warp.putK; split <;> rfl
@[simp] theorem Warp.putK_batch (r : Nat) (x : Bool) : (w.putK r x).batch = w.batch := by unfold Warp.putK; split <;> rfl
@[simp] theorem Warp.putK_tlops (r : Nat) (x : Bool) : (w.putK r x).tlops = w.tlops := by unfold Warp.putK; split <;> rfl
@[simp] theorem Warp.putK_wait (r : Nat) (x : Bool) : (w.putK r x).wait = w.wait := by unfold Warp.putK; split <;> rfl
@[simp] theorem Warp.putK_skid (r : Nat) (x : Bool) : (w.putK r x).skid = w.skid := by unfold Warp.putK; split <;> rfl
@[simp] theorem Warp.putK_stopped (r : Nat) (x : Bool) : (w.putK r x).stopped = w.stopped := by unfold Warp.putK; split <;> rfl
@[simp] theorem Warp.putK_inHandler (r : Nat) (x : Bool) : (w.putK r x).inHandler = w.inHandler := by unfold Warp.putK; split <;> rfl
@[simp] theorem Warp.putK_handlerSince (r : Nat) (x : Bool) : (w.putK r x).handlerSince = w.handlerSince := by unfold Warp.putK; split <;> rfl
@[simp] theorem Warp.putK_issued (r : Nat) (x : Bool) : (w.putK r x).issued = w.issued := by unfold Warp.putK; split <;> rfl
@[simp] theorem Warp.putK_enter (r : Nat) (x : Bool) : (w.putK r x).enter = w.enter := by unfold Warp.putK; split <;> rfl
@[simp] theorem Warp.putK_late (r : Nat) (x : Bool) : (w.putK r x).late = w.late := by unfold Warp.putK; split <;> rfl
@[simp] theorem Warp.putK_held (r : Nat) (x : Bool) : (w.putK r x).held = w.held := by unfold Warp.putK; split <;> rfl

/-! ### `setExec` -/

@[simp] theorem Warp.setExec_blk (m : Mask) : (w.setExec m).blk = w.blk := rfl
@[simp] theorem Warp.setExec_id (m : Mask) : (w.setExec m).id = w.id := rfl
@[simp] theorem Warp.setExec_role (m : Mask) : (w.setExec m).role = w.role := rfl
@[simp] theorem Warp.setExec_access (m : Mask) : (w.setExec m).access = w.access := rfl
@[simp] theorem Warp.setExec_vregs (m : Mask) : (w.setExec m).vregs = w.vregs := rfl
@[simp] theorem Warp.setExec_sregs (m : Mask) : (w.setExec m).sregs = w.sregs := rfl
@[simp] theorem Warp.setExec_nacc (m : Mask) : (w.setExec m).nacc = w.nacc := rfl
@[simp] theorem Warp.setExec_pc (m : Mask) : (w.setExec m).pc = w.pc := rfl
@[simp] theorem Warp.setExec_exited (m : Mask) : (w.setExec m).exited = w.exited := rfl
@[simp] theorem Warp.setExec_fmt (m : Mask) : (w.setExec m).fmt = w.fmt := rfl
@[simp] theorem Warp.setExec_stack (m : Mask) : (w.setExec m).stack = w.stack := rfl
@[simp] theorem Warp.setExec_v (m : Mask) : (w.setExec m).v = w.v := rfl
@[simp] theorem Warp.setExec_s (m : Mask) : (w.setExec m).s = w.s := rfl
@[simp] theorem Warp.setExec_p (m : Mask) : (w.setExec m).p = w.p := rfl
@[simp] theorem Warp.setExec_k (m : Mask) : (w.setExec m).k = w.k := rfl
@[simp] theorem Warp.setExec_acc (m : Mask) : (w.setExec m).acc = w.acc := rfl
@[simp] theorem Warp.setExec_q (m : Mask) : (w.setExec m).q = w.q := rfl
@[simp] theorem Warp.setExec_level (m : Mask) : (w.setExec m).level = w.level := rfl
@[simp] theorem Warp.setExec_t1 (m : Mask) : (w.setExec m).t1 = w.t1 := rfl
@[simp] theorem Warp.setExec_t2 (m : Mask) : (w.setExec m).t2 = w.t2 := rfl
@[simp] theorem Warp.setExec_f1 (m : Mask) : (w.setExec m).f1 = w.f1 := rfl
@[simp] theorem Warp.setExec_f2 (m : Mask) : (w.setExec m).f2 = w.f2 := rfl
@[simp] theorem Warp.setExec_f3 (m : Mask) : (w.setExec m).f3 = w.f3 := rfl
@[simp] theorem Warp.setExec_icount (m : Mask) : (w.setExec m).icount = w.icount := rfl
@[simp] theorem Warp.setExec_stepno (m : Mask) : (w.setExec m).stepno = w.stepno := rfl
@[simp] theorem Warp.setExec_rmask (m : Mask) : (w.setExec m).rmask = w.rmask := rfl
@[simp] theorem Warp.setExec_loads (m : Mask) : (w.setExec m).loads = w.loads := rfl
@[simp] theorem Warp.setExec_atoms (m : Mask) : (w.setExec m).atoms = w.atoms := rfl
@[simp] theorem Warp.setExec_copies (m : Mask) : (w.setExec m).copies = w.copies := rfl
@[simp] theorem Warp.setExec_batch (m : Mask) : (w.setExec m).batch = w.batch := rfl
@[simp] theorem Warp.setExec_tlops (m : Mask) : (w.setExec m).tlops = w.tlops := rfl
@[simp] theorem Warp.setExec_wait (m : Mask) : (w.setExec m).wait = w.wait := rfl
@[simp] theorem Warp.setExec_skid (m : Mask) : (w.setExec m).skid = w.skid := rfl
@[simp] theorem Warp.setExec_stopped (m : Mask) : (w.setExec m).stopped = w.stopped := rfl
@[simp] theorem Warp.setExec_inHandler (m : Mask) : (w.setExec m).inHandler = w.inHandler := rfl
@[simp] theorem Warp.setExec_handlerSince (m : Mask) : (w.setExec m).handlerSince = w.handlerSince := rfl
@[simp] theorem Warp.setExec_issued (m : Mask) : (w.setExec m).issued = w.issued := rfl
@[simp] theorem Warp.setExec_enter (m : Mask) : (w.setExec m).enter = w.enter := rfl
@[simp] theorem Warp.setExec_late (m : Mask) : (w.setExec m).late = w.late := rfl
@[simp] theorem Warp.setExec_held (m : Mask) : (w.setExec m).held = w.held := rfl

@[simp] theorem Warp.setExec_exec (m : Mask) : (w.setExec m).exec = m &&& ~~~w.exited := rfl

/-! ### Reads after writes -/

/-- A v register reads back what was written to it; every other register and lane reads as before. -/
theorem Warp.getV_putV (r l r' l' : Nat) (x : W32) (h : l < 32) (h' : l' < 32) :
    (w.putV r l x).getV r' l' = if r' = r ∧ l' = l then x else w.getV r' l' := by
  simp only [Warp.getV, Warp.putV, mget_mput]
  by_cases hc : r' = r ∧ l' = l
  · simp [hc]
  · have : ¬ (32 * r' + l' = 32 * r + l) := by omega
    simp [hc, this]

theorem Warp.getS_putS (r r' : Nat) (x : W64) : (w.putS r x).getS r' = if r' = r then x else w.getS r' := by
  simp only [Warp.getS, Warp.putS, mget_mput]

@[simp] theorem Warp.getV_putS (r r' l : Nat) (x : W64) : (w.putS r x).getV r' l = w.getV r' l := rfl
@[simp] theorem Warp.getS_putV (r r' l : Nat) (x : W32) : (w.putV r l x).getS r' = w.getS r' := rfl
@[simp] theorem Warp.getP_putV (r r' l : Nat) (x : W32) : (w.putV r l x).getP r' = w.getP r' := rfl
@[simp] theorem Warp.getP_putS (r r' : Nat) (x : W64) : (w.putS r x).getP r' = w.getP r' := rfl
@[simp] theorem Warp.getK_putV (r r' l : Nat) (x : W32) : (w.putV r l x).getK r' = w.getK r' := rfl
@[simp] theorem Warp.getK_putS (r r' : Nat) (x : W64) : (w.putS r x).getK r' = w.getK r' := rfl

/-- A lane predicate reads back; p7 always reads true and takes no write (11 R266). -/
theorem Warp.getP_putP (r r' : Nat) (x : Mask) : (w.putP r x).getP r' = if r' = r ∧ r ≠ 7 then x else w.getP r' := by
  unfold Warp.getP Warp.putP
  by_cases h : r = 7
  · simp [h]
  · by_cases h' : r' = 7
    · have : ¬ (7 = r) := fun e => h e.symm
      simp [h', this]
    · simp only [h, h', if_false, mget_mput, ne_eq, not_false_eq_true, and_true]

/-- A scalar predicate reads back; k7 always reads true and takes no write (11 R266). -/
theorem Warp.getK_putK (r r' : Nat) (x : Bool) (h : r < 8) (h' : r' < 8) :
    (w.putK r x).getK r' = if r' = r ∧ r' ≠ 7 then x else w.getK r' := by
  unfold Warp.getK Warp.putK
  by_cases h7 : r = 7
  · subst h7
    by_cases h8 : r' = 7 <;> simp [h8]
  · by_cases h8 : r' = 7
    · simp [h8]
    · have e7 : (7 : Nat) - 1 = 6 := rfl
      simp only [h7, h8, if_false, decide_false, Bool.false_or, ne_eq, not_false_eq_true, and_true]
      cases x
      · simp only [Bool.false_eq_true, if_false, BitVec.getLsbD_and, BitVec.getLsbD_not, BitVec.getLsbD_shiftLeft, h', decide_true,
          Bool.true_and]
        by_cases hr : r' = r
        · subst hr; simp
        · rcases Nat.lt_or_gt_of_ne hr with hlt | hgt
          · simp [hr, hlt]
          · have : ¬ (r' < r) := by omega
            have h0 : r' - r ≠ 0 := by omega
            simp [hr, this, BitVec.getLsbD_one, h0]
      · simp only [if_true, BitVec.getLsbD_or, BitVec.getLsbD_shiftLeft, h', decide_true, Bool.true_and]
        by_cases hr : r' = r
        · subst hr; simp
        · rcases Nat.lt_or_gt_of_ne hr with hlt | hgt
          · simp [hr, hlt]
          · have : ¬ (r' < r) := by omega
            have h0 : r' - r ≠ 0 := by omega
            simp [hr, this, BitVec.getLsbD_one, h0]

/-- The mask of a list of lanes has exactly their bits. -/
theorem maskOf_bit (ls : List Nat) (l : Nat) (hl : l < 32) : (maskOf ls).getLsbD l = true ↔ l ∈ ls := by
  have key : ∀ (ls : List Nat) (m : Mask), (ls.foldl (fun m i => m ||| (1#32 <<< i)) m).getLsbD l = true ↔
      m.getLsbD l = true ∨ l ∈ ls := by
    intro ls
    induction ls with
    | nil => simp
    | cons a t ih =>
      intro m
      simp only [List.foldl_cons, ih, BitVec.getLsbD_or, BitVec.getLsbD_shiftLeft, hl, decide_true, Bool.true_and,
        Bool.or_eq_true, List.mem_cons]
      have : (!decide (l < a) && (1#32).getLsbD (l - a)) = true ↔ l = a := by
        simp only [BitVec.getLsbD_one, Bool.and_eq_true, Bool.not_eq_true', decide_eq_false_iff_not, decide_eq_true_eq]
        omega
      rw [this, or_assoc]
  simpa [maskOf] using key ls 0#32

/-- A pair at an even register reads back (04 R82). -/
theorem Warp.getVV_putVV_same (r l : Nat) (x : W64) (h : l < 32) : (w.putVV r l x).getVV r l = x := by
  simp only [Warp.getVV, Warp.putVV]
  have h1 : ¬ (r + 1 = r) := by omega
  have h2 : ¬ (r = r + 1) := by omega
  simp only [Warp.getV_putV _ _ _ _ _ _ h h, h1, h2, false_and, and_self, if_true, if_false]
  ext i hi
  simp only [BitVec.getElem_append]
  split
  · simp [BitVec.getLsbD_eq_getElem hi]
  · simp only [BitVec.getElem_extractLsb']
    rw [← BitVec.getLsbD_eq_getElem]
    congr 1; omega

end Sys2Proof.Machine
end

