-- ==== Sys2Proof/Laws/Issue.lean ====
section
/-! SUPPORT. What the issue of an instruction can do (11 Table 11-9, 10 R244): one law for each way in which a meaning ends,
and the laws of the shared writes of destinations. -/

namespace Sys2Proof.Machine

/-! ### Warps and blocks in the state -/

@[simp] theorem warp?_setWarp (s : State) (r : WRef) (w : Warp) : (s.setWarp r w).warp? r = some w := by
  simp [State.warp?, State.core]

theorem warp?_setWarp_other (s : State) (r q : WRef) (w : Warp) (h : q ≠ r) : (s.setWarp r w).warp? q = s.warp? q := by
  simp only [State.warp?, State.core, State.setWarp_cores, mget_mset]
  split
  · next hc =>
    have hs : q.slot ≠ r.slot := by
      intro hs; apply h; cases q; cases r; simp_all
    simp [mfind_mset_other _ _ hs, hc]
  · rfl

theorem block?_setWarp (s : State) (r : WRef) (w : Warp) (l h : Nat) : (s.setWarp r w).block? l h = s.block? l h := by
  simp only [State.block?, State.core, State.setWarp_cores, mget_mset]
  split
  · next hc => rw [hc]
  · rfl

theorem mdel_minsert (m : SMap α) (k : Nat) (v : α) : mdel (minsert (mdel m k) k v) k = mdel m k := by
  have key : ∀ m : SMap α, (∀ e ∈ m, e.1 ≠ k) → mdel (minsert m k v) k = m := by
    intro m h
    induction m with
    | nil => simp [minsert, mdel]
    | cons a t ih =>
      obtain ⟨j, x⟩ := a
      have hj : j ≠ k := h (j, x) (List.mem_cons_self ..)
      have ht : ∀ e ∈ t, e.1 ≠ k := fun e he => h e (List.mem_cons_of_mem _ he)
      have hf : mdel t k = t := List.filter_eq_self.2 (fun e he => by simpa using ht e he)
      simp only [minsert]
      split
      · simp only [mdel, List.filter_cons] at hf ⊢
        simp [hj, hf]
      · have := ih ht
        simp only [mdel, List.filter_cons] at this ⊢
        simp [hj, this]
  exact key _ (fun e he => by simpa using (List.mem_filter.1 he).2)

@[simp] theorem mset_mset (m : SMap α) (k : Nat) (a b : α) : mset (mset m k a) k b = mset m k b := by
  simp only [mset, mdel_minsert]

/-- The last write of a warp is the one that stays. -/
@[simp] theorem setWarp_setWarp (s : State) (r : WRef) (w v : Warp) : (s.setWarp r w).setWarp r v = s.setWarp r v := by
  have hc : (s.setWarp r w).core r.core = { s.core r.core with warps := mset (s.core r.core).warps r.slot w } := by
    simp [State.core]
  show ({ s with cores := mset (mset s.cores r.core _) r.core { (s.setWarp r w).core r.core with
      warps := mset ((s.setWarp r w).core r.core).warps r.slot v } } : State) = _
  rw [hc]
  simp only [mset_mset]
  rfl

theorem updWarp_of (s : State) (r : WRef) (w : Warp) (f : Warp → Warp) (h : s.warp? r = some w) :
    s.updWarp r f = s.setWarp r (f w) := by simp [State.updWarp, h]

@[simp] theorem updWarp_setWarp (s : State) (r : WRef) (w : Warp) (f : Warp → Warp) :
    (s.setWarp r w).updWarp r f = s.setWarp r (f w) := by simp [State.updWarp]

/-! ### Issue -/

variable {i : Instr} {s : State} {e : Env} {body : Env → State → Res}

/-- The issuing warp of a ready instruction. -/
theorem ready_warp (h : ready i s = some e) : s.ctl.cur = some e.r ∧ s.warp? e.r = some e.w ∧
    s.block? e.r.core e.w.blk = some e.b := by
  unfold ready at h
  repeat' split at h
  all_goals cases h
  all_goals simp_all

/-- A ready instruction runs its meaning and ends as the meaning says. -/
theorem issue_ready (h : ready i s = some e) :
    ∃ raw, encode i = some raw ∧ issue i s body = finish s e raw raw.toBits (body e s) := by
  unfold ready at h
  split at h
  · cases h
  next r hr =>
  split at h
  · cases h
  next w hw =>
  split at h
  next b raw hb he =>
    split at h
    next hc =>
      simp only [Option.some.injEq] at h
      simp only [Bool.and_eq_true, decide_eq_true_eq, Bool.or_eq_true] at hc
      obtain ⟨⟨h1, h2⟩, h3⟩ := hc
      refine ⟨raw, he, ?_⟩
      have hg : (!Cls.lanes raw.cls && !guardScalar w raw.pg.val raw.pn) = false := by
        rcases h3 with h3 | h3 <;> simp [h3]
      subst h
      simp only [issue, hr, hw, hb, he, h1, h2, hg]
      rfl
    · cases h
  · cases h

/-- An instruction that ends at the next one: the warp retires there. -/
theorem issue_done (h : ready i s = some e) {t : State} {w1 : Warp} (hb : body e s = .done t) (hw : t.warp? e.r = some w1) :
    issue i s body = t.setWarp e.r (retireWarp w1 e.next t.ctl.clock) := by
  obtain ⟨raw, -, hi⟩ := issue_ready (body := body) h
  rw [hi, hb]
  exact updWarp_of _ _ _ _ hw

/-- A jump: the warp retires at the target. -/
theorem issue_jump (h : ready i s = some e) {t : State} {w1 : Warp} {pc : VAddr} (hb : body e s = .jump t pc)
    (hw : t.warp? e.r = some w1) : issue i s body = t.setWarp e.r (retireWarp w1 pc t.ctl.clock) := by
  obtain ⟨raw, -, hi⟩ := issue_ready (body := body) h
  rw [hi, hb]
  exact updWarp_of _ _ _ _ hw

/-- A wait outside a halt's skid: only the wait is set. -/
theorem issue_wait (h : ready i s = some e) (hs : e.w.skid = none) {t : State} {w1 : Warp} {why : WaitR}
    (hb : body e s = .wait t why) (hw : t.warp? e.r = some w1) : issue i s body = t.setWarp e.r (waitWarp w1 why) := by
  obtain ⟨raw, -, hi⟩ := issue_ready (body := body) h
  rw [hi, hb]
  simp only [finish, hs, Option.isSome_none, Bool.false_eq_true, if_false]
  exact updWarp_of _ _ _ _ hw

/-- A trap that decode does not raise, outside a halt's skid. -/
theorem issue_trap (h : ready i s = some e) (hs : e.w.skid = none) {t : State} {q : TrapReq} (hb : body e s = .trap t q)
    (hq : q.cause = 0 ∨ q.cause ≥ 8) : issue i s body = takeTrap t e.r q := by
  obtain ⟨raw, -, hi⟩ := issue_ready (body := body) h
  rw [hi, hb]
  have hd : ∀ l, withDops l q raw.toBits e.len raw.op e.next = q := by
    intro l
    unfold withDops
    split
    · next hc =>
      simp only [Bool.and_eq_true, decide_eq_true_eq] at hc
      omega
    · rfl
  simp [finish, hs, hd]

theorem issue_raw (h : ready i s = some e) {t : State} (hb : body e s = .raw t) : issue i s body = t := by
  obtain ⟨raw, -, hi⟩ := issue_ready (body := body) h
  rw [hi, hb]
  rfl

/-- An instruction that changes its own warp only. -/
theorem issueW_ready {f : Env → Warp} (h : ready i s = some e) : issueW i s f = retired s e (f e) := by
  unfold issueW retired retiredAt
  rw [issue_done h rfl (warp?_setWarp s e.r (f e))]
  simp

/-! ### Destinations -/

theorem mem_lanesOf (m : Mask) (l : Nat) : l ∈ lanesOf m ↔ l < 32 ∧ m.getLsbD l = true := by
  simp [lanesOf]

theorem lanesOf_nodup (m : Mask) : (lanesOf m).Nodup := List.Pairwise.filter _ List.nodup_range

/-- What a write of v registers lane by lane leaves. -/
theorem foldl_wrReg_v (d : Fin 256) (is64 : Bool) (f : Nat → W64) (ls : List Nat) (hl : ∀ l ∈ ls, l < 32) (hn : ls.Nodup)
    (w : Warp) :
    let w1 := ls.foldl (fun w i => wrReg w is64 i (.v d) (f i)) w
    w1 = { w with v := w1.v } ∧ ∀ n l, l < 32 → w1.getV n l =
      if l ∈ ls ∧ n = d.val then (f l).extractLsb' 0 32
      else if l ∈ ls ∧ is64 = true ∧ n = d.val + 1 then (f l).extractLsb' 32 32
      else w.getV n l := by
  induction ls generalizing w with
  | nil => simp
  | cons a t ih =>
    have ha : a < 32 := hl a (List.mem_cons_self ..)
    have hat : a ∉ t := (List.nodup_cons.1 hn).1
    obtain ⟨h1, h2⟩ := ih (fun l hlt => hl l (List.mem_cons_of_mem _ hlt)) (List.nodup_cons.1 hn).2 (wrReg w is64 a (.v d) (f a))
    refine ⟨?_, ?_⟩
    · simp only [List.foldl_cons]
      rw [h1]
      cases is64 <;> rfl
    · intro n l hlt
      simp only [List.foldl_cons]
      rw [h2 n l hlt]
      by_cases hla : l = a
      · subst hla
        simp only [hat, false_and, if_false, List.mem_cons, true_or, true_and]
        cases is64
        · simp only [wrReg, Bool.false_eq_true, if_false]
          rw [Warp.getV_putV _ _ _ _ _ _ ha hlt]
          simp
        · simp only [wrReg, if_true, Warp.putVV, true_and]
          rw [Warp.getV_putV _ _ _ _ _ _ ha hlt, Warp.getV_putV _ _ _ _ _ _ ha hlt]
          by_cases hn0 : n = d.val
          · have : ¬ (n = d.val + 1) := by omega
            simp [hn0]
          · simp [hn0]
      · simp only [List.mem_cons, hla, false_or]
        have : (wrReg w is64 a (.v d) (f a)).getV n l = w.getV n l := by
          cases is64
          · simp only [wrReg, Bool.false_eq_true, if_false]
            rw [Warp.getV_putV _ _ _ _ _ _ ha hlt]
            simp [hla]
          · simp only [wrReg, if_true, Warp.putVV]
            rw [Warp.getV_putV _ _ _ _ _ _ ha hlt, Warp.getV_putV _ _ _ _ _ _ ha hlt]
            simp [hla]
        rw [this]

/-- The shared write of a vector or scalar destination. -/
theorem perLane_result (e : Env) (c : Cls) (d : Reg) (is64 : Bool) (f : Nat → W64)
    (hd : if c = .scl then ∃ n, d = .s n else ∃ n, d = .v n) : LaneResult e c d is64 f (perLane e c d is64 f) := by
  by_cases hc : c = .scl
  · simp only [hc, if_true] at hd
    obtain ⟨n, rfl⟩ := hd
    refine ⟨?_, fun h => absurd hc h, fun _ => ⟨?_, fun m => ?_⟩⟩
    · simp only [perLane, hc, if_true]; rfl
    · simp only [perLane, hc, if_true]; rfl
    · simp only [perLane, hc, if_true, wrReg, Reg.idx]
      exact Warp.getS_putS _ _ _ _
  · simp only [hc, if_false] at hd
    obtain ⟨n, rfl⟩ := hd
    obtain ⟨h1, h2⟩ := foldl_wrReg_v n is64 f (lanesOf e.act) (fun l h => ((mem_lanesOf _ _).1 h).1) (lanesOf_nodup _) e.w
    have hp : perLane e c (.v n) is64 f = (lanesOf e.act).foldl (fun w i => wrReg w is64 i (.v n) (f i)) e.w := by
      simp [perLane, hc]
    rw [hp]
    refine ⟨?_, fun _ => ⟨?_, fun m l hl => ?_⟩, fun h => absurd h hc⟩
    · rw [h1]
    · rw [h1]
    · rw [h2 m l hl]
      simp [mem_lanesOf, hl, Reg.idx]

/-- The shared write of a predicate destination. -/
theorem perLanePred_result (e : Env) (c : Cls) (d : Reg) (f : Nat → Bool)
    (hd : if c = .scl then ∃ n, d = .k n else ∃ n, d = .p n) : PredResult e c d f (perLanePred e c d f) := by
  by_cases hc : c = .scl
  · simp only [hc, if_true] at hd
    obtain ⟨n, rfl⟩ := hd
    have hp : perLanePred e c (.k n) f = e.w.putK n.val (f 0) := by simp [perLanePred, hc]
    rw [hp]
    refine ⟨?_, fun h => absurd hc h, fun _ => ⟨by simp, fun m hm => ?_⟩⟩
    · unfold Warp.putK; split <;> rfl
    · exact Warp.getK_putK _ _ _ _ n.isLt hm
  · simp only [hc, if_false] at hd
    obtain ⟨n, rfl⟩ := hd
    have hp : perLanePred e c (.p n) f =
        e.w.putP n.val ((e.w.getP n.val &&& ~~~e.act) ||| maskOf ((lanesOf e.act).filter f)) := by simp [perLanePred, hc]
    rw [hp]
    refine ⟨?_, fun _ => ⟨by simp, fun m l hm hl => ?_⟩, fun h => absurd h hc⟩
    · unfold Warp.putP; split <;> rfl
    · rw [Warp.getP_putP]
      by_cases hmn : m = n.val ∧ n.val ≠ 7
      · obtain ⟨rfl, h7⟩ := hmn
        have hbit : (maskOf ((lanesOf e.act).filter f)).getLsbD l = (e.act.getLsbD l && f l) := by
          rw [Bool.eq_iff_iff, maskOf_bit _ _ hl]
          simp [List.mem_filter, mem_lanesOf, hl]
        simp only [ne_eq, h7, not_false_eq_true, and_self, if_true, Reg.idx, and_true, BitVec.getLsbD_or, BitVec.getLsbD_and,
          BitVec.getLsbD_not, hbit, hl, decide_true, Bool.true_and]
        cases h : e.act.getLsbD l <;> simp
      · have : ¬ (e.act.getLsbD l = true ∧ m = Reg.idx (.p n) ∧ m ≠ 7) := by
          rintro ⟨-, h1, h2⟩
          exact hmn ⟨h1, by rw [← show m = n.val from h1]; exact h2⟩
        rw [if_neg hmn, if_neg this]

/-! ### What the decode checks say -/

/-- Every decode check of a ready instruction has passed. -/
theorem ready_check (h : ready i s = some e) : WellFormed i = true ∧ illegalNow e.w i = false ∧
    (∀ u ∈ usesOf i, useOk e.w e.b.nshacc u = true) ∧ limitsOk e.b i = true := by
  unfold ready at h
  split at h
  · cases h
  next r hr =>
  split at h
  · cases h
  next w hw =>
  split at h
  next b raw hb he =>
    split at h
    next hc =>
      simp only [Option.some.injEq] at h
      subst h
      simp only [Bool.and_eq_true, decide_eq_true_eq] at hc
      have h1 := hc.1.1
      unfold issueCheck at h1
      repeat' split at h1
      all_goals cases h1
      simp_all
    · cases h
  · cases h

theorem useOk_file {w : Warp} {n : Nat} {u : Use} (h : useOk w n u = true) : Reg.file u.r ∈ u.files := by
  simp only [useOk, Bool.and_eq_true, List.contains_iff_mem] at h
  exact h.1

/-- The file of a vector-kind operand of a ready instruction. -/
theorem uVk_reg {w : Warp} {n : Nat} {c : Cls} {b : Bool} {r : Reg} (h : useOk w n (uVk c b r) = true) :
    if c = .scl then ∃ n, r = .s n else ∃ n, r = .v n := by
  have hf := useOk_file h
  unfold uVk at hf
  cases c <;> cases b <;> cases r <;> simp_all [Reg.file]

/-- The file of a predicate operand of a ready instruction. -/
theorem uPred_reg {w : Warp} {n : Nat} {c : Cls} {r : Reg} (h : useOk w n (uPred c r) = true) :
    if c = .scl then ∃ n, r = .k n else ∃ n, r = .p n := by
  have hf := useOk_file h
  unfold uPred at hf
  cases c <;> cases r <;> simp_all [Reg.file, uK, uP]

end Sys2Proof.Machine
end

