-- ==== Sys2Proof/Laws/Quiet.lean ====
section
/-! SUPPORT. What the memory side of the part leaves alone: caches, homes, RDCs, directories, page tracking, translation and the
accesses of engines change no warp, no block, no launch, no timeline and no control register, and they keep memory in its
canonical form. -/

namespace Sys2Proof.Machine

/-- `t` differs from `s` only in what the memory side holds. -/
structure Quiet (s t : State) : Prop where
  fed : t.fed = s.fed
  ctl : t.ctl = { s.ctl with nextId := t.ctl.nextId }
  pkg : t.pkg = { s.pkg with exp := t.pkg.exp, links := t.pkg.links }
  ctx : t.vm.ctx = s.vm.ctx
  warp : ∀ r, t.warp? r = s.warp? r
  block : ∀ l h, t.block? l h = s.block? l h
  moves : t.moves = s.moves
  gathers : t.gathers = s.gathers
  kvHeld : t.kvHeld = s.kvHeld
  mem : Memory.wf s.mem → Memory.wf t.mem

theorem Quiet.refl (s : State) : Quiet s s := ⟨rfl, rfl, rfl, rfl, fun _ => rfl, fun _ _ => rfl, rfl, rfl, rfl, id⟩

theorem Quiet.trans {s t u : State} (h : Quiet s t) (g : Quiet t u) : Quiet s u :=
  ⟨g.fed.trans h.fed, by rw [g.ctl, h.ctl], by rw [g.pkg, h.pkg], g.ctx.trans h.ctx, fun r => (g.warp r).trans (h.warp r),
   fun l k => (g.block l k).trans (h.block l k), g.moves.trans h.moves, g.gathers.trans h.gathers, g.kvHeld.trans h.kvHeld, fun x => g.mem (h.mem x)⟩

theorem Quiet.foldl {β : Type} {f : State → β → State} (h : ∀ s x, Quiet s (f s x)) (l : List β) (s : State) :
    Quiet s (l.foldl f s) := by
  induction l generalizing s with
  | nil => exact .refl s
  | cons a t ih => exact (h s a).trans (ih _)

/-! ### Updates of one part -/

theorem quiet_updHome (s : State) (n : Nat) (f : Home → Home) : Quiet s (s.updHome n f) :=
  ⟨rfl, rfl, rfl, rfl, fun _ => rfl, fun _ _ => rfl, rfl, rfl, rfl, id⟩

theorem quiet_updDie (s : State) (n : Nat) (f : Die → Die) : Quiet s (s.updDie n f) :=
  ⟨rfl, rfl, rfl, rfl, fun _ => rfl, fun _ _ => rfl, rfl, rfl, rfl, id⟩

theorem quiet_clcs (s : State) (m : SMap (SMap Copy)) : Quiet s { s with clcs := m } :=
  ⟨rfl, rfl, rfl, rfl, fun _ => rfl, fun _ _ => rfl, rfl, rfl, rfl, id⟩

theorem quiet_setClc (s : State) (k line : Nat) (c : Copy) : Quiet s (s.setClc k line c) := quiet_clcs _ _

theorem quiet_updCore (s : State) (l : Nat) (f : Core → Core) (hw : (f (s.core l)).warps = (s.core l).warps)
    (hb : (f (s.core l)).blocks = (s.core l).blocks) : Quiet s (s.updCore l f) := by
  have hc : ∀ k, (s.updCore l f).core k = if k = l then f (s.core l) else s.core k := by
    intro k
    simp only [State.core, State.updCore_cores, mget_mset]
  refine ⟨rfl, rfl, rfl, rfl, fun r => ?_, fun k h => ?_, rfl, rfl, rfl, id⟩
  · simp only [State.warp?, hc]
    split
    · next h => rw [hw, h]
    · rfl
  · simp only [State.block?, hc]
    split
    · next h => rw [hb, h]
    · rfl

theorem quiet_memLine (s : State) (line : Nat) (d : SMap Byte) : Quiet s { s with mem := memPutLine s.mem line d } :=
  ⟨rfl, rfl, rfl, rfl, fun _ => rfl, fun _ _ => rfl, rfl, rfl, rfl, fun h => memPutLine_wf _ _ _ h⟩

theorem quiet_countLost (s : State) (line : Nat) : Quiet s (s.countLost line) := by
  unfold State.countLost
  split
  all_goals first | exact .refl s | exact ⟨rfl, rfl, rfl, rfl, fun _ => rfl, fun _ _ => rfl, rfl, rfl, rfl, id⟩

theorem quiet_tlb (s : State) (l : List TlbEnt) (r : SMap (List RangeEnt)) : Quiet s { s with vm := { s.vm with tlb := l, rtlb := r } } :=
  ⟨rfl, rfl, rfl, rfl, fun _ => rfl, fun _ _ => rfl, rfl, rfl, rfl, id⟩

theorem quiet_net (s : State) (k : Nat) (m : List Msg) : Quiet s { s with net := m, ctl := { s.ctl with nextId := k } } :=
  ⟨rfl, rfl, rfl, rfl, fun _ => rfl, fun _ _ => rfl, rfl, rfl, rfl, id⟩

theorem quiet_netOnly (s : State) (m : List Msg) : Quiet s { s with net := m } :=
  ⟨rfl, rfl, rfl, rfl, fun _ => rfl, fun _ _ => rfl, rfl, rfl, rfl, id⟩

theorem quiet_updLink (s : State) (i : Nat) (f : Link → Link) : Quiet s (s.updLink i f) :=
  ⟨rfl, rfl, rfl, rfl, fun _ => rfl, fun _ _ => rfl, rfl, rfl, rfl, id⟩

theorem quiet_cross (s : State) (a b : Nat) : Quiet s (cross s a b) := Quiet.foldl (fun _ _ => quiet_updLink _ _ _) _ _

theorem quiet_send (s : State) (m : Msg) : Quiet s (send s m) := by
  unfold send
  simp only
  exact (quiet_net s _ _).trans (Quiet.foldl (fun _ _ => quiet_updLink _ _ _) _ _)

theorem mfind_map (m : SMap α) (g : Nat × α → Nat × α) (hk : ∀ e, (g e).1 = e.1) (k : Nat) :
    mfind (m.map g) k = (mfind m k).map (fun v => (g (k, v)).2) := by
  induction m with
  | nil => rfl
  | cons e t ih =>
    obtain ⟨a, v⟩ := e
    have h1 : g (a, v) = (a, (g (a, v)).2) := Prod.ext (hk (a, v)) rfl
    simp only [List.map_cons]
    rw [h1]
    simp only [mfind]
    by_cases h : a = k
    · subst h; simp
    · simp [h, ih]

/-- A change of every core that leaves its warps and blocks alone. -/
theorem quiet_mapCores (s : State) (g : Nat × Core → Nat × Core) (h1 : ∀ c, (g c).1 = c.1) (h2 : ∀ c, (g c).2.warps = c.2.warps)
    (h3 : ∀ c, (g c).2.blocks = c.2.blocks) : Quiet s { s with cores := s.cores.map g } := by
  have hc : ∀ k, (State.core { s with cores := s.cores.map g } k).warps = (s.core k).warps ∧
      (State.core { s with cores := s.cores.map g } k).blocks = (s.core k).blocks := by
    intro k
    simp only [State.core, mget]
    rw [mfind_map _ _ h1]
    cases mfind s.cores k with
    | none => simp
    | some c => simp [h2, h3]
  refine ⟨rfl, rfl, rfl, rfl, fun r => ?_, fun l h => ?_, rfl, rfl, rfl, id⟩
  · simp only [State.warp?, (hc r.core).1]
  · simp only [State.block?, (hc l).2]

theorem quiet_markWhere (s : State) (p : RtEnt → Bool) : Quiet s (markWhere s p) := by
  unfold markWhere
  refine quiet_mapCores s _ ?_ ?_ ?_ <;> intro c <;> simp only <;> split <;> rfl

theorem quiet_markStale (s : State) (page : Nat) : Quiet s (markStale s page) := quiet_markWhere _ _

/-! ### Lines at the home -/

theorem quiet_setHomeLine (s : State) (n line : Nat) (l : HomeLine) : Quiet s (s.setHomeLine n line l) := quiet_updHome _ _ _

theorem quiet_evictHome (s : State) (n line : Nat) : Quiet s (evictHome s n line) := by
  unfold evictHome
  split
  · exact .refl s
  · exact (quiet_memLine s line _).trans (quiet_updHome _ _ _)

theorem quiet_touchHome (s : State) (n line cls chain : Nat) (ef : Bool) : Quiet s (touchHome s n line cls chain ef) := by
  unfold touchHome
  split
  · exact quiet_setHomeLine _ _ _ _
  · refine Quiet.trans ?_ (quiet_setHomeLine _ _ _ _)
    split
    · exact .refl s
    · split
      · exact .refl s
      · exact quiet_evictHome _ _ _

theorem quiet_settleHome (s : State) (n line : Nat) : Quiet s (settleHome s n line) := by
  unfold settleHome
  split
  · exact .refl s
  · split
    · exact quiet_evictHome _ _ _
    · exact .refl s

theorem quiet_hitHome (s : State) (n line : Nat) : Quiet s (hitHome s n line) := by
  unfold hitHome
  split
  · exact .refl s
  · exact quiet_setHomeLine _ _ _ _

theorem quiet_hostBack (s : State) (n page : Nat) : Quiet s (hostBack s n page) := by
  unfold hostBack
  split
  · exact .refl s
  · split
    · exact quiet_updHome _ _ _
    · exact .refl s

theorem quiet_homePut (s : State) (line : Nat) (bytes : SMap Byte) (p : Option Nat) (cls chain : Nat) (ef : Bool) :
    Quiet s (homePut s line bytes p cls chain ef).1 := by
  unfold homePut
  simp only
  split
  · exact quiet_countLost _ _
  · exact ((((quiet_hostBack _ _ _).trans (quiet_touchHome _ _ _ _ _ _)).trans (quiet_setHomeLine _ _ _ _)).trans
      (quiet_updHome _ _ _)).trans (quiet_settleHome _ _ _)

theorem quiet_flushHome (s : State) (line : Nat) : Quiet s (flushHome s line) := by
  unfold flushHome
  simp only
  split
  · exact .refl s
  · exact (quiet_memLine s line _).trans (quiet_setHomeLine _ _ _ _)

/-! ### RDCs, directories and page tracking -/

theorem quiet_setRdc (s : State) (d line : Nat) (x : RdcLine) : Quiet s (s.setRdc d line x) := quiet_updDie _ _ _
theorem quiet_putDir (s : State) (n line : Nat) (e : DirEnt) : Quiet s (s.putDir n line e) := quiet_updHome _ _ _

theorem quiet_dropRdc (s : State) (d line : Nat) : Quiet s (dropRdc s d line) := by
  unfold dropRdc
  split
  · exact .refl s
  · exact (quiet_updDie _ _ _).trans (quiet_updHome _ _ _)

theorem quiet_lessDrop (s : State) (n line : Nat) : Quiet s (lessDrop s n line) := quiet_updHome _ _ _

theorem quiet_retireEnt (s : State) (n line d : Nat) : Quiet s (retireEnt s n line d) := by
  unfold retireEnt
  split
  · exact quiet_lessDrop _ _ _
  · split
    · exact quiet_putDir _ _ _ _
    · split
      · exact quiet_putDir _ _ _ _
      · exact .refl s

theorem quiet_takeEvicts (s : State) (p : Msg → Nat → Bool) : Quiet s (takeEvicts s p) := by
  unfold takeEvicts
  refine Quiet.foldl (fun s m => ?_) _ _
  simp only
  refine Quiet.trans ?_ (quiet_retireEnt _ _ _ _)
  split
  · exact quiet_netOnly _ _
  · exact (quiet_netOnly s _).trans (quiet_homePut _ _ _ _ _ _ _)

theorem quiet_ownerHome (s : State) (line d : Nat) : Quiet s (ownerHome s line d) := by
  unfold ownerHome
  split
  · exact .refl s
  · simp only
    split
    · exact .refl s
    · exact quiet_homePut _ _ _ _ _ _ _

theorem quiet_recallEnt (s : State) (line d : Nat) : Quiet s (recallEnt s line d) := by
  unfold recallEnt
  simp only
  split
  · split
    · exact .refl _
    · exact (((quiet_ownerHome _ _ _).trans (quiet_cross _ _ _)).trans (quiet_dropRdc _ _ _)).trans (quiet_putDir _ _ _ _)
  · exact (Quiet.foldl (fun s x => (quiet_cross s _ x).trans (quiet_dropRdc _ x line)) _ _).trans (quiet_putDir _ _ _ _)

theorem quiet_dirRoom (s : State) (n line : Nat) : Quiet s (dirRoom s n line) := by
  unfold dirRoom
  simp only
  split
  · exact .refl s
  · split
    · exact quiet_updHome _ _ _
    · split
      · exact .refl s
      · exact (quiet_takeEvicts _ _).trans (quiet_recallEnt _ _ _)

theorem quiet_rebuild (s : State) (n line x : Nat) : Quiet s (rebuild s n line x) :=
  ((quiet_dirRoom _ _ _).trans (quiet_putDir _ _ _ _)).trans (quiet_lessDrop _ _ _)

theorem quiet_discoverNow (s : State) (line d : Nat) : Quiet s (discoverNow s line d) := by
  unfold discoverNow
  simp only
  split
  · exact .refl s
  · have h := Quiet.foldl (f := fun t x => cross t (s.homeOf line) x) (fun t x => quiet_cross t _ x)
      ((List.range 8).filter (fun x => x != d && s.onlineSite x)) s
    split
    · exact h
    · exact h.trans (quiet_rebuild _ _ _ _)

theorem quiet_settleLine (s : State) (line d : Nat) : Quiet s (settleLine s line d) :=
  (quiet_takeEvicts _ _).trans (quiet_discoverNow _ _ _)

theorem quiet_recallAll (s : State) (line d : Nat) : Quiet s (recallAll s line d) :=
  (quiet_settleLine _ _ _).trans (quiet_recallEnt _ _ _)

theorem quiet_pullDirty (s : State) (line : Nat) : Quiet s (pullDirty s line) := by
  unfold pullDirty
  simp only
  have h0 := quiet_settleLine s line 99
  generalize settleLine s line 99 = s0 at h0 ⊢
  refine h0.trans ?_
  split
  · exact .refl _
  · next x _ =>
    split
    · exact .refl _
    · have h := (quiet_cross s0 (s0.homeOf line) x).trans (quiet_ownerHome _ line x)
      split
      · exact h
      · exact h.trans (quiet_setRdc _ _ _ _)

theorem quiet_addPshr (s : State) (n line d : Nat) : Quiet s (addPshr s n line d) := by
  have h : Quiet s (if regionOf (64 * line) = .host then
      s.updHome n (fun h => { h with hostShr := mupd 0#8 h.hostShr (line / 64) (fun v => v ||| siteBit d) })
    else s) := by
    split
    · exact quiet_updHome _ _ _
    · exact .refl s
  unfold addPshr
  simp only
  split
  · exact h
  · exact h.trans (quiet_updHome _ _ _)

theorem quiet_dieAccess (s : State) (n page : Nat) : Quiet s (dieAccess s n page) := by
  unfold dieAccess
  split
  · exact .refl s
  · split
    · exact quiet_updHome _ _ _
    · exact .refl s

theorem quiet_pageSnoopDie (s : State) (page d : Nat) : Quiet s (pageSnoopDie s page d) := by
  unfold pageSnoopDie
  refine (quiet_takeEvicts s _).trans (Quiet.foldl (fun s e => ?_) _ _)
  simp only
  exact (((quiet_ownerHome _ _ _).trans (quiet_cross _ _ _)).trans (quiet_dropRdc _ _ _)).trans (quiet_putDir _ _ _ _)

theorem quiet_handover (s : State) (n page : Nat) : Quiet s (handover s n page) := by
  unfold handover
  simp only
  split
  · exact quiet_updHome _ _ _
  · refine Quiet.trans (Quiet.trans ?_ (Quiet.foldl (fun s d => quiet_pageSnoopDie s page d) _ _)) (quiet_updHome _ _ _)
    split
    · exact .refl s
    · split
      · exact .refl s
      · exact quiet_updHome _ _ _

/-! ### Whole accesses at the home -/

theorem quiet_serveRead (s : State) (line : Nat) : Quiet s (serveRead s line).1 := by
  unfold serveRead
  simp only
  exact ((quiet_dieAccess _ _ _).trans (quiet_pullDirty _ _)).trans (quiet_hitHome _ _ _)

theorem quiet_serveWriteE (s : State) (line : Nat) (bytes : SMap Byte) (p : Option Nat) (cls chain : Nat) (ef : Bool) :
    Quiet s (serveWriteE s line bytes p cls chain ef).1 := by
  unfold serveWriteE
  simp only
  exact (((quiet_markStale _ _).trans (quiet_dieAccess _ _ _)).trans (quiet_recallAll _ _ _)).trans (quiet_homePut _ _ _ _ _ _ _)

theorem quiet_serveWrite (s : State) (line : Nat) (bytes : SMap Byte) (p : Option Nat) (cls chain : Nat) :
    Quiet s (serveWrite s line bytes p cls chain).1 := quiet_serveWriteE _ _ _ _ _ _ _

theorem quiet_pushHome (s : State) (line d : Nat) (bytes : SMap Byte) (p : Option Nat) (cls chain : Nat) (ef : Bool) :
    Quiet s (pushHome s line d bytes p cls chain ef).1 := by
  unfold pushHome
  simp only
  split
  · exact quiet_countLost _ _
  · split
    · exact .refl s
    · exact (((quiet_cross _ _ _).trans (quiet_recallAll _ _ _)).trans (quiet_dieAccess _ _ _)).trans (quiet_homePut _ _ _ _ _ _ _)

theorem quiet_servePush (s : State) (line d : Nat) (bytes : SMap Byte) (p : Option Nat) (cls chain : Nat) (ef : Bool) :
    Quiet s (servePush s line d bytes p cls chain ef).1 := by
  have h := quiet_pushHome s line d bytes p cls chain ef
  unfold servePush
  simp only
  generalize pushHome s line d bytes p cls chain ef = r at h ⊢
  split
  · exact h
  · split
    · exact h
    · exact (h.trans (quiet_setRdc _ _ _ _)).trans (quiet_updHome _ _ _)

theorem quiet_pushRdc (s : State) (d line : Nat) : Quiet s (pushRdc s d line) := by
  unfold pushRdc
  simp only
  split
  · exact .refl s
  · split
    · exact .refl s
    · exact (quiet_setRdc _ _ _ _).trans (quiet_pushHome _ _ _ _ _ _ _ _)

theorem quiet_readLine (s : State) (line : Nat) : Quiet s (readLine s line) := by
  unfold readLine
  split
  · exact .refl s
  · exact quiet_serveRead _ _

theorem quiet_readPhys (s : State) (pa n : Nat) : Quiet s (readPhys s pa n).1 :=
  Quiet.foldl (fun s l => quiet_serveRead s l) _ _

theorem quiet_writePhysE (s : State) (pa : Nat) (l : List Byte) (cls chain : Nat) (ef sy : Bool) :
    Quiet s (writePhysE s pa l cls chain ef sy) := by
  unfold writePhysE
  refine Quiet.foldl (fun s ln => ?_) _ _
  simp only
  split
  · exact (quiet_serveWriteE _ _ _ _ _ _ _).trans (quiet_flushHome _ _)
  · exact quiet_serveWriteE _ _ _ _ _ _ _

theorem quiet_writePhys (s : State) (pa : Nat) (l : List Byte) (cls chain : Nat) (sy : Bool) :
    Quiet s (writePhys s pa l cls chain sy) := quiet_writePhysE _ _ _ _ _ _ _

/-! ### A core's side -/

theorem quiet_setL1 (s : State) (core line : Nat) (c : Copy) : Quiet s (s.setL1 core line c) := quiet_updCore _ _ _ rfl rfl
theorem quiet_raisePts (s : State) (core t : Nat) : Quiet s (s.raisePts core t) := quiet_updCore _ _ _ rfl rfl

theorem quiet_delL1 (s : State) (core line : Nat) : Quiet s (s.delL1 core line) := quiet_updCore _ _ _ rfl rfl
theorem quiet_delClc (s : State) (k line : Nat) : Quiet s (s.delClc k line) := quiet_clcs _ _

theorem quiet_fillL1 (s : State) (core line : Nat) (x : Copy) : Quiet s (fillL1 s core line x) := by
  unfold fillL1
  simp only
  refine Quiet.trans ?_ (quiet_setL1 _ _ _ _)
  split
  · exact .refl s
  · split
    · exact .refl s
    · exact quiet_delL1 _ _ _

theorem quiet_clcHit (s : State) (core line : Nat) (c : Cache) : Quiet s (clcHit s core line c) := by
  unfold clcHit
  simp only
  split
  · split
    · have h : ∀ x y, Quiet s ((s.setClc (s.clusterOf core) line x).raisePts core y) :=
        fun _ _ => (quiet_setClc _ _ _ _).trans (quiet_raisePts _ _ _)
      split
      · exact h _ _
      · exact (h _ _).trans (quiet_fillL1 _ _ _ _)
    · exact .refl s
  · exact .refl s

theorem quiet_dropLeases (s : State) (k line : Nat) : Quiet s (dropLeases s k line) := quiet_netOnly _ _

theorem quiet_rdcWrite (s : State) (d line : Nat) (x : RdcLine) (bytes : SMap Byte) (p : Option Nat) :
    Quiet s (rdcWrite s d line x bytes p).1 := by
  have h : ∀ y f, Quiet s ((s.setRdc d line y).updHome d f) := fun _ _ => (quiet_setRdc _ _ _ _).trans (quiet_updHome _ _ _)
  unfold rdcWrite
  simp only
  split
  · exact h _ _
  · exact (h _ _).trans (quiet_send _ _)

theorem quiet_clcSend (s : State) (d line : Nat) (c : Copy) (p : Option Nat) : Quiet s (clcSend s d line c p).1 := by
  have h := quiet_markStale s (line / 64)
  unfold clcSend
  simp only
  split
  · split
    · exact h.trans (quiet_rdcWrite _ _ _ _ _ _)
    · exact h.trans (quiet_servePush _ _ _ _ _ _ _ _)
  · exact h.trans (quiet_servePush _ _ _ _ _ _ _ _)

theorem quiet_cleanL1s (s : State) (k line : Nat) : Quiet s (cleanL1s s k line) := by
  unfold cleanL1s
  refine quiet_mapCores s _ ?_ ?_ ?_ <;> intro c <;> split <;> rfl

theorem quiet_pushClc (s : State) (k line : Nat) (core : Option Nat) : Quiet s (pushClc s k line core) := by
  unfold pushClc
  split
  · exact .refl s
  · simp only
    split
    · exact .refl s
    · next c _ _ =>
      have h := ((quiet_setClc s k line { Copy.clean c with gwts := none }).trans (quiet_cleanL1s _ k line)).trans
        (quiet_dropLeases _ k line)
      split
      · exact h.trans (quiet_clcSend _ _ _ _ _)
      · exact (h.trans (quiet_clcSend _ _ _ _ _)).trans (quiet_raisePts _ _ _)

theorem quiet_clcRoom (s : State) (k line : Nat) : Quiet s (clcRoom s k line) := by
  unfold clcRoom
  split
  · exact .refl s
  · split
    · exact .refl s
    · exact (quiet_pushClc _ _ _ _).trans (quiet_delClc _ _ _)

theorem quiet_clcWrite (s : State) (core line : Nat) (bytes : SMap Byte) (cls chain : Nat) (ef : Bool) :
    Quiet s (clcWrite s core line bytes cls chain ef) := by
  have h0 := (quiet_markStale s (line / 64)).trans (quiet_clcRoom _ (s.clusterOf core) line)
  unfold clcWrite
  simp only
  generalize clcRoom (markStale s (line / 64)) (s.clusterOf core) line = s0 at h0 ⊢
  refine h0.trans ?_
  split
  · exact (quiet_setClc _ _ _ _).trans (quiet_updCore _ _ _ rfl rfl)
  · exact ((quiet_setClc _ _ _ _).trans (quiet_updCore _ _ _ rfl rfl)).trans (quiet_setL1 _ _ _ _)

theorem quiet_drainOne (s : State) (core buf : Nat) : Quiet s (drainOne s core buf) := by
  unfold drainOne
  split
  · exact .refl s
  · simp only
    split
    · exact .refl s
    · split
      · exact quiet_updCore _ _ _ rfl rfl
      · exact (quiet_updCore _ _ _ rfl rfl).trans (quiet_clcWrite _ _ _ _ _ _ _)

theorem quiet_drainN (core buf n : Nat) (s : State) : Quiet s (drainN core buf n s) := by
  induction n generalizing s with
  | zero => exact .refl s
  | succ n ih => exact (quiet_drainOne _ _ _).trans (ih _)

theorem quiet_drainAll (s : State) (core : Nat) : Quiet s (drainAll s core) :=
  Quiet.foldl (fun _ _ => quiet_drainN _ _ _ _) _ _

theorem quiet_drainLine (s : State) (core line : Nat) : Quiet s (drainLine s core line) := by
  unfold drainLine
  simp only
  split
  · exact .refl s
  · exact quiet_drainN _ _ _ _

theorem quiet_pushCluster (s : State) (k : Nat) (core : Option Nat) : Quiet s (pushCluster s k core) :=
  Quiet.foldl (fun _ _ => quiet_pushClc _ _ _ _) _ _

theorem quiet_pushDie (s : State) (d : Nat) : Quiet s (pushDie s d) :=
  Quiet.foldl (fun _ _ => quiet_pushRdc _ _ _) _ _

theorem quiet_flushHomes (s : State) : Quiet s (flushHomes s) := by
  unfold flushHomes
  refine Quiet.foldl (fun _ _ => Quiet.foldl (fun _ _ => ?_) _ _) _ _
  split
  · exact .refl _
  · exact quiet_flushHome _ _

theorem quiet_release (s : State) (core : Nat) (sc : Scope) : Quiet s (release s core sc) := by
  unfold release
  simp only
  have h1 : Quiet s ((s.coresOf core sc).foldl drainAll s) := Quiet.foldl (fun _ _ => quiet_drainAll _ _) _ _
  generalize (s.coresOf core sc).foldl drainAll s = s1 at h1 ⊢
  have h2 : Quiet s ((s1.clustersOf core sc).foldl (fun x k => pushCluster x k (if k = s1.clusterOf core then some core else none)) s1) :=
    h1.trans (Quiet.foldl (fun _ _ => quiet_pushCluster _ _ _) _ _)
  generalize (s1.clustersOf core sc).foldl (fun x k => pushCluster x k (if k = s1.clusterOf core then some core else none)) s1 = s2 at h2 ⊢
  have h3 : Quiet s ((s2.dies.map (·.1)).foldl pushDie s2) := h2.trans (Quiet.foldl (fun _ _ => quiet_pushDie _ _) _ _)
  repeat' split
  · exact Quiet.foldl (fun _ _ => quiet_markStale _ _) _ _
  · exact h1
  · exact h2
  · exact h3
  · exact h3.trans (quiet_flushHomes _)

theorem quiet_acquire (s : State) (core : Nat) (sc : Scope) : Quiet s (acquire s core sc) := by
  unfold acquire
  simp only
  split
  · exact .refl s
  · split
    · exact quiet_updCore _ _ _ rfl rfl
    · exact quiet_raisePts _ _ _

theorem quiet_fenceDo (s : State) (core : Nat) (k : FenceKind) (q : Scope) : Quiet s (fenceDo s core k q) := by
  unfold fenceDo
  simp only
  have h : Quiet s (if k.rel then release s core q else s) := by
    split
    · exact quiet_release _ _ _
    · exact .refl s
  split
  · exact h.trans (quiet_acquire _ _ _)
  · exact h

/-! ### Translation and engines -/

theorem quiet_heatNow (s : State) (q : HeatReq) : Quiet s (heatNow s q) := by
  unfold heatNow
  simp only
  split
  · exact .refl s
  · exact quiet_writePhys _ _ _ _ _ _

theorem quiet_heatUpdate (s : State) (q : HeatReq) : Quiet s (heatUpdate s q) := by
  unfold heatUpdate
  split
  · exact ⟨rfl, rfl, rfl, rfl, fun _ => rfl, fun _ _ => rfl, rfl, rfl, rfl, id⟩
  · exact quiet_heatNow _ _

theorem quiet_heat (s : State) (l : List HeatReq) : Quiet s { s with vm := { s.vm with heat := l } } :=
  ⟨rfl, rfl, rfl, rfl, fun _ => rfl, fun _ _ => rfl, rfl, rfl, rfl, id⟩

theorem quiet_serveHeat (s : State) : Quiet s (serveHeat s) := by
  unfold serveHeat
  exact (quiet_heat s []).trans (Quiet.foldl (fun s q => quiet_heatUpdate s q) _ _)

theorem quiet_heatRaise (s : State) (a : Nat) (e : W64) (wr : Bool) : Quiet s (heatRaise s a e wr) := quiet_heatUpdate _ _

theorem quiet_useTlb (s : State) (t : TlbEnt) (wr : Bool) : Quiet s (useTlb s t wr) := by
  have h := fun l => quiet_tlb s l s.vm.rtlb
  unfold useTlb
  cases wr
  all_goals
    simp only [Bool.false_eq_true, if_false, if_true]
    split
    · exact (h _).trans (quiet_heatRaise _ _ _ _)
    · exact h _

theorem quiet_loadRange (s : State) (agent ctx : Nat) : Quiet s (loadRange s agent ctx).1 := by
  unfold loadRange
  simp only
  split
  · exact .refl s
  · split
    · exact .refl s
    · have h := Quiet.foldl (fun s l => quiet_readLine s l) (linesOf (s.ctxEnt ctx).rtab (32 * min 32 (s.ctxEnt ctx).nrange)) s
      generalize List.foldl readLine s (linesOf (s.ctxEnt ctx).rtab (32 * min 32 (s.ctxEnt ctx).nrange)) = s1 at h ⊢
      exact h.trans (quiet_tlb s1 s1.vm.tlb _)

theorem quiet_translate (s : State) (agent ctx va : Nat) (need : BitVec 4) (wr : Bool) :
    Quiet s (translate s agent ctx va need wr).1 := by
  unfold translate
  simp only
  split
  · exact .refl s
  · have h := quiet_loadRange s agent ctx
    generalize loadRange s agent ctx = lr at h ⊢
    split
    · split
      · exact h
      · exact h
    · split
      · exact h
      · split
        · split
          · exact h
          · exact h.trans (quiet_useTlb _ _ _)
        · have h2 := h.trans (Quiet.foldl (fun s l => quiet_readLine s l) (walkLines lr.1 va 5 (s.ctxEnt ctx).root 1) lr.1)
          generalize (walkLines lr.1 va 5 (s.ctxEnt ctx).root 1).foldl readLine lr.1 = s1 at h2 ⊢
          split
          · exact h2
          · split
            · exact h2
            · refine Quiet.trans (h2.trans ?_) (quiet_useTlb _ _ _)
              exact (quiet_tlb s1 _ s1.vm.rtlb).trans (quiet_heatRaise _ _ _ _)

end Sys2Proof.Machine
end

