-- ==== Sys2Proof/Tests/Slice0.lean ====
section
/-! SUPPORT. The model's own checks: ill-formed instructions are refused, words written out from the encodings of the spec
decode, one step gives what the spec's rules and worked examples give, and the hypotheses of every statement can be met. -/

open Sys2Proof Sys2Proof.Machine

namespace Sys2Proof.Tests

set_option Elab.async false

/-! ### Small states -/

/-- The unguarded header. -/
def hd0 : Hd := { pg := 7, pn := false, wide := false }
/-- Warp slot 0 of core 0. -/
def r0 : WRef := { core := 0, slot := 0 }
/-- A warp with some registers set: lane 0 and lane 1 of v1 and v2, and s1 to s4. -/
def w0 : Warp := { loadedWarp with
  v := [(32, 5#32), (33, 0x80000000#32), (64, 7#32), (65, 1#32)]
  s := [(1, 3#64), (2, 4#64)] }
/-- A block with a scratchpad and four barriers. -/
def b0 : Block := { loadedBlock with size := 4096, nbar := 4 }
/-- The package after enumeration. -/
def up : State := packageReset plainReset State.reset
/-- The package with one warp, which issues, and its block. -/
def onW (s : State) (w : Warp) (b : Block) : State := ((s.setWarp r0 w).setBlock 0 0 b).withCur (some r0)
/-- The usual small state. -/
def s0 : State := onW up w0 b0
/-- A range that maps every page of the space to itself, with every permission. -/
def rng : RangeEnt := { v := true, vbase := 0, vlimit := 0x3FFFFFFFFFF, pbase := 0, perm := 15#4, cls := 0, rschk := false }
/-- Tenant 1 with that range, for core 0, the engines of site 0 and the FED. -/
def mapped (s : State) : State := { s with
  vm := {
    ctx := [(1, { en := true, svec := 0x100#54, pfvec := 0x200#54, uvec := 0x300#54 })]
    rtlb := [0, agentKve 0, agentRes 0, agentCopy 0, agentPort 0, agentCp, agentColl].map (fun a => (64 * a + 1, [rng])) } }
/-- An instruction is ready, and what it then sees meets a condition. -/
def meets (i : Instr) (s : State) (p : Env → Bool) : Bool :=
  match ready i s with
  | some e => p e
  | none => false
/-- An instruction is ready. -/
def runs (s : State) (i : Instr) : Bool := meets i s (fun _ => true)
/-- The word, read by the decoder, is the instruction. -/
def readsAs (x : Nat × Nat × Instr) : Bool := decide (decodeTableWord x.1 x.2.1 = some x.2.2)
/-- A test of the state after an instruction. -/
def after (i : Instr) (s : State) (p : State → Bool) : Bool :=
  match exec i s with
  | .next t => p t
  | _ => false
/-- A test of the issuing warp after an instruction. -/
def afterW (i : Instr) (s : State) (p : Warp → Bool) : Bool :=
  after i s (fun t => match t.warp? r0 with
    | some w => p w
    | none => false)

/-! ### Ill-formed instructions (11 R262, R265 to R270) -/

def alu2 : FAlu2 := { hd := hd0, cls := .vec, ty := .s32, sat := false, d := .v 3, a := .v 1, b := .reg (.v 2) }
def alu1 : FAlu1 := { hd := hd0, cls := .vec, ty := .s32, sat := false, d := .v 3, a := .v 1 }
def alu3 : FAlu3 := { hd := hd0, cls := .vec, ty := .s32, sat := false, d := .v 3, a := .v 1, b := .reg (.v 2), c := .v 1 }
def cmpI : FIcmp := { hd := hd0, cls := .vec, ty := .s32, rel := .lt, d := .p 1, a := .v 1, b := .reg (.v 2) }
def dot4 : FIdot := { hd := hd0, signed := true, sat := false, d := .v 3, a := .v 1, b := .v 2, c := .v 1 }
def lea0 : FLea := { hd := hd0, cls := .vec, signed := true, d := .v 4, a := .v 2, b := .reg (.v 1), sh := 3#8 }
def sel0 : FSel := { hd := hd0, cls := .vec, z64 := false, d := .v 3, a := .v 1, b := .reg (.v 2), p := .p 1 }
def mov0 : FMov := { hd := hd0, cls := .vec, z64 := false, d := .v 3, a := .v 1 }
def movi0 : FMovi := { hd := hd0, cls := .vec, d := .v 3, im := .s32 0xFFFFFFFF#32 }
def bfe0 : FBfe := { hd := hd0, cls := .vec, ty := .s32, d := .v 3, a := .v 1, f := .imm 0x0804#32 }
def bfi0 : FBfi := { hd := hd0, cls := .vec, ty := .s32, d := .v 3, a := .v 1, f := .imm 0x0804#32, c := .v 2 }
def fp2 : FFp2 := { hd := hd0, cls := .vec, ty := .f32, rm := .dyn, d := .v 3, a := .v 1, b := .reg (.v 2) }
def fp3 : FFp3 := { hd := hd0, cls := .vec, ty := .f32, rm := .dyn, d := .v 3, a := .v 1, b := .reg (.v 2), c := .v 1 }
def fpM : FFpM := { hd := hd0, cls := .vec, ty := .f32, d := .v 3, a := .v 1, b := .reg (.v 2) }
def fcmp0 : FFcmp := { hd := hd0, cls := .vec, ty := .f32, rel := .ltu, e := false, d := .p 1, a := .v 1, b := .reg (.v 2) }
def fp1 : FFp1 := { hd := hd0, cls := .vec, ty := .f32, rm := .dyn, d := .v 3, a := .v 1 }
def cvt0 : FCvt :=
  { hd := hd0, cls := .vec, dt := .int .s32, st := .fp .f32, rm := .dyn, elem := false, sat := false, d := .v 3, a := .v 1 }
def bfp0 : FBfpack := { hd := hd0, ty := .bfp8, sh := 1, d := .v 3, a := .v 1, e := .s 5 }
def bfu0 : FBfunpack := { hd := hd0, ty := .bfp8, d := .v 3, a := .v 1, e := .s 5 }
def vote0 : FVote := { hd := hd0, op := .mask, d := .s 3, a := .p 1, t := 0#8 }
def plop0 : FPlop := { hd := hd0, cls := .vec, op := .bin .and (.p 2), d := .p 1, a := .p 3 }
def shfl0 : FShfl := { hd := hd0, cls := .vec, mode := .sel, seg := 3, d := .v 3, a := .v 1, b := .imm 3#32 }
def wred0 : FWred := { hd := hd0, cls := .vec, op := .add, ty := .int .s32, d := .v 3, a := .v 1 }
def wscan0 : FWscan := { hd := hd0, op := .add, ex := false, ty := .int .s32, d := .v 3, a := .v 1 }
def ldst : FLdSt :=
  { hd := hd0, cls := .vec, ty := .int .s32, cache := .ca, sp := .s, wid := .one, d := .v 3, a := .v 4, off := none }
def atom0 : FAtom := {
  hd := hd0
  cls := .scl
  op := .add
  ty := .int .s32
  sc := .dv
  cache := .ca
  sp := .g
  d := .s 6
  a := .s 4
  b := .s 2
  c := none
  off := none
  g := 0#8 }
def red0 : FRed :=
  { hd := hd0, cls := .scl, op := .add, ty := .int .s32, sc := .dv, cache := .ca, sp := .g, a := .s 4, b := .s 2, off := none, g := 0#8 }
def qld0 : FQld := { hd := hd0, ty := .int .s32, cache := .ca, sp := .g, q := .q 1, b := .s 5, a := .s 4, c := 1#8, off := none }
def cpy0 : FCpy := { hd := hd0, cache := .ca, a := .s 5, b := .s 4, len := .imm 64#32 }
def cm0 : FCm := { hd := hd0, cls := .scl, sc := .dv, sp := .g, a := .s 4, off := none }
def clv0 : FClv := { hd := hd0, cls := .scl, sp := .g, a := .s 4, off := none }
def pf0 : FPfmap := { hd := hd0, cls := .scl, sp := .g, d := .s 6, a := .s 4, off := none }
def tmma0 : FTmma := { hd := hd0, plane1 := false, d := .a 1, a := .s 5, b := .s 6, c := .v 8, t := 0, ssv := false, ssel := 0#8 }
def kv0 : FKv := { hd := hd0, ty := .int .s32, wid := .one, d := .v 3, a := .s 10, b := .s 11, c := .v 6 }
def kv4 : FKv4 := { hd := hd0, d := .s 3, a := .s 10, b := .s 11, c := .s 12, im := 1#32 }
def bad : Hd := { pg := 7, pn := true, wide := false }
def wide0 : Hd := { pg := 7, pn := false, wide := true }

/-- PG = 7 with PN = 1; a widened form without an immediate. -/
theorem test_illFormed_header : [Instr.iadd { alu2 with hd := bad }, .iadd { alu2 with hd := wide0 },
    .iadd { alu2 with hd := bad, b := .imm 1#32 }, .bra { hd := bad, off := 0#32 }, .yield { hd := wide0 }, .ret { hd := wide0, a := .s 1 },
    .ld { ldst with hd := wide0 }, .sleep { hd := wide0, src := .reg (.s 1) }, .trap { hd := bad, n := 1#16 },
    .wait { hd := bad, c := .ld, n := 0#8 }, .barinv { hd := wide0, n := 0#8 }].all (fun i => !WellFormed i) = true := by
  decide +kernel

/-- Classes, register files and immediates of the computing instructions. -/
theorem test_illFormed_alu : [Instr.iadd { alu2 with cls := .acc }, .iadd { alu2 with d := .s 3 }, .iadd { alu2 with a := .s 3 },
    .iadd { alu2 with cls := .scl }, .iadd { alu2 with cls := .vsb }, .iadd { alu2 with cls := .vsb, b := .imm 1#32 },
    .imulhi { alu2 with sat := true }, .not { alu1 with sat := true }, .iabs { alu1 with ty := .z32 }, .clz { alu1 with ty := .s8 },
    .clz { alu1 with cls := .vsb }, .imad { alu3 with c := .s 1 }, .icmp { cmpI with d := .v 1 }, .idot4 { dot4 with c := .s 1 },
    .lea { lea0 with a := .s 1 }, .sel { sel0 with p := .v 1 }, .mov { mov0 with cls := .vsb }, .movi { movi0 with cls := .vsb },
    .movi { movi0 with hd := wide0, im := .z64 0#64 }, .bfe { bfe0 with f := .imm 0x10804#32 }, .bfe { bfe0 with ty := .z16 },
    .bfi { bfi0 with c := .s 2 }].all (fun i => !WellFormed i) = true := by decide +kernel

theorem test_illFormed_float : [Instr.fadd { fp2 with d := .s 3 }, .ffma { fp3 with c := .s 1 }, .fmin { fpM with cls := .acc },
    .fcmp { fcmp0 with d := .v 1 }, .fcmp { fcmp0 with e := true }, .frnd { fp1 with cls := .vsb }, .fsqrt { fp1 with hd := wide0 },
    .cvt { cvt0 with elem := true }, .cvt { cvt0 with sat := true }, .bfpack { bfp0 with sh := 0 }, .bfpack { bfp0 with e := .v 1 },
    .bfunpack { bfu0 with d := .s 1 }].all (fun i => !WellFormed i) = true := by decide +kernel

theorem test_illFormed_lanes : [Instr.vote { vote0 with t := 1#8 }, .vote { vote0 with d := .v 1 }, .plop { plop0 with cls := .acc },
    .plop { plop0 with op := .lut (.v 1) (.p 2) 0#8 }, .shfl { shfl0 with cls := .scl }, .shfl { shfl0 with a := .s 1 },
    .wred { wred0 with op := .and, ty := .fp .f32 }, .wred { wred0 with cls := .scl }, .wred { wred0 with cls := .acc },
    .wscan { wscan0 with d := .s 1 }, .exit { hd := hd0, cls := .acc }, .brc { hd := hd0, inv := false, p := .v 1, target := 0#32, join := 0#32 },
    .brx { hd := hd0, a := .v 1, off := none }, .call { hd := hd0, d := .v 1, src := .imm 0#32 }].all (fun i => !WellFormed i) = true := by
  decide +kernel

theorem test_illFormed_system : [Instr.sread { hd := hd0, cls := .scl, z64 := true, d := .s 1, n := .clock },
    .sread { hd := hd0, cls := .acc, z64 := false, d := .s 1, n := .clock }, .swrite { hd := hd0, n := .exec, src := .reg (.v 1) },
    .setfmt { hd := hd0, src := .imm 0x1000#32 }, .setfmt { hd := hd0, src := .imm 0x01000000#32 }, .fenceAcq { hd := hd0, sc := .dv, g := 1#8 },
    .fenceRel { hd := wide0, sc := .dv, g := 0#8 }, .launch { hd := hd0, d := .k 1, a := .v 1, b := .s 1 },
    .emit { hd := hd0, d := .v 1, a := .s 1, n := 0#8 }, .execrd { hd := hd0, d := .v 1 }, .tlsig { hd := hd0, a := .v 1, b := .s 1 },
    .tlwait { hd := hd0, a := .v 1, src := .imm 0#32 }, .ill { len := .l64, bits := 4#128 }, .ill { len := .l96, bits := 0#128 },
    .ill { len := .l64, bits := 0x10000000000000000#128 }].all (fun i => !WellFormed i) = true := by decide +kernel

theorem test_illFormed_memory : [Instr.ld { ldst with cls := .acc }, .ld { ldst with a := .s 1 }, .st { ldst with cls := .scl },
    .atom { atom0 with sc := .gp }, .atom { atom0 with g := 1#8 }, .atom { atom0 with op := .and, ty := .fp .f32 },
    .atom { atom0 with ty := .int .z8 }, .atom { atom0 with op := .cas }, .atom { atom0 with c := some (.s 1) }, .red { red0 with op := .exch },
    .red { red0 with op := .cas }, .red { red0 with cls := .vsb }, .qld { qld0 with ty := .int .z64 }, .qld { qld0 with q := .v 1 },
    .cpyg { cpy0 with a := .v 1 }, .cflush { cm0 with sc := .bk }, .cinv { cm0 with cls := .vsb }, .clv { clv0 with a := .v 1 },
    .pfmap { pf0 with d := .v 1 }, .qpop { hd := hd0, d := .s 1, a := .q 1 }, .tlbinvPage { hd := hd0, a := .v 1 }].all
      (fun i => !WellFormed i) = true := by decide +kernel

theorem test_illFormed_engines : [Instr.barinit { hd := hd0, n := 0#8, src := .imm 0x10000#32 }, .bararv { hd := hd0, tile := false, d := some (.v 1), n := 0#8 },
    .barwait { hd := hd0, d := .k 1, n := 0#8, src := .imm 0x100#32 }, .barrmt { hd := hd0, d := .v 1, a := .s 1, n := 0#8, g := 0#8 },
    .tmma { tmma0 with c := .s 1 }, .tmma { tmma0 with d := .v 1 }, .accz { hd := hd0, d := .v 1 }, .accmovAccToVec { hd := hd0, d := .a 1, a := .a 2 },
    .accmovVecToAcc { hd := hd0, d := .v 1, a := .v 2 }, .accmovAccToAcc { hd := hd0, d := .a 1, a := .v 2 },
    .resalloc { hd := hd0, d := .v 1, a := .s 1, src := .imm 1#32 }, .resload { hd := hd0, ty := .bfp8, d := .s 1, a := .s 2, b := .s 3, c := .v 4 },
    .resq { hd := hd0, d := .v 1, a := .s 1 }, .kvld { kv0 with d := .s 1 }, .kvst { kv0 with c := .s 1 }, .kvapp { kv0 with d := .v 1 },
    .kvfork { kv4 with c := .v 1 }, .kvrel { hd := hd0, d := .s 1, a := .s 2, b := .v 3, j := 0#32 }].all (fun i => !WellFormed i) = true := by
  decide +kernel

/-! ### Words (11 Tables 11-3 to 11-7, 11-10, and the reference entries)

Each word is its fields as the spec's encoding places them: LEN, OP at bit 2, PG at 10, PN at 13, CLS at 14, D at 16, A at 24,
B at 32, C at 40, TYPE at 48, SOP at 52, MOD at 56, the immediates at 64 and 96. -/

theorem test_decode_control_1 :
    ([
    (64, 0x0000000000001C00, .ill { len := .l64, bits := 0x1C00#128 }),
    (64, 0x0000000000001C04, .nop { len := .l64, pg := 7 }),
    (96, 0x000000400000000000005C09, .bra { hd := hd0, off := 0x40#32 }),
    (96, 0x000000080000000005005C0D, .brx { hd := hd0, a := .s 5, off := some 8#32 }),
    (128, 0x00000080000000400010000041005C12, .brc { hd := hd0, inv := true, p := .p 1, target := 0x40#32, join := 0x80#32 }),
    (64, 0x0000000000005C14, .join),
    (64, 0x0000000006075C18, .call { hd := hd0, d := .s 7, src := .reg (.s 6) }),
    (64, 0x0000000007005C1C, .ret { hd := hd0, a := .s 7 }),
    (64, 0x0000000000002820, .exit { hd := { pg := 2, pn := true, wide := false }, cls := .vec }),
    (64, 0x0000000000005C24, .yield { hd := hd0 }),
    (96, 0x000000640000000000005C29, .sleep { hd := hd0, src := .imm 100#32 }),
    (64, 0x0000000000005C2C, .bkpt { hd := hd0 }),
    (96, 0x000000050000000000005C31, .trap { hd := hd0, n := 5#16 }),
    (64, 0x0000000000005C34, .tret { hd := hd0 })] : List (Nat × Nat × Instr)).all readsAs = true := by decide +kernel

theorem test_decode_control_2 :
    ([
    (64, 0x0010000000005C34, .tretSkip { hd := hd0 }),
    (64, 0x0000000000035C38, .execrd { hd := hd0, d := .s 3 }),
    (96, 0x0000000F0000000000005C3D, .execwr { hd := hd0, src := .imm 15#32 }),
    (64, 0x000B0E0000021C40, .sread { hd := hd0, cls := .vec, z64 := true, d := .v 2, n := .clock }),
    (64, 0x0000000003005C44, .swrite { hd := hd0, n := .exec, src := .reg (.s 3) }),
    (96, 0x000004000000000000005C49, .setfmt { hd := hd0, src := .imm 0x400#32 })] : List (Nat × Nat × Instr)).all readsAs = true := by decide +kernel

theorem test_decode_ordering :
    ([
    (64, 0x0020020000005C4C, .wait { hd := hd0, c := .cp, n := 2#8 }),
    (64, 0xA000000000005C50, .fenceAcq { hd := hd0, sc := .dv, g := 0#8 }),
    (64, 0x2010000000005C50, .fenceRel { hd := hd0, sc := .bk, g := 0#8 }),
    (96, 0x000000036020000000005C51, .fenceAr { hd := hd0, sc := .gp, g := 3#8 }),
    (64, 0xC030000000005C50, .fenceSc { hd := hd0, sc := .sy, g := 0#8 }),
    (64, 0x0000000004005C54, .step { hd := hd0, src := .reg (.s 4) }),
    (64, 0x0000000000005C58, .abortg { hd := hd0 }),
    (64, 0x0000000302495C5C, .launch { hd := hd0, d := .k 1, a := .s 2, b := .s 3 }),
    (64, 0x0000020003495C60, .emit { hd := hd0, d := .k 1, a := .s 3, n := 2#8 })] : List (Nat × Nat × Instr)).all readsAs = true := by decide +kernel

theorem test_decode_lanes :
    ([
    (64, 0x00300900434A5C64, .vote { hd := hd0, op := .atl, d := .k 2, a := .p 3, t := 9#8 }),
    (96, 0x000000960060444342411C69, .plop { hd := hd0, cls := .vec, op := .lut (.p 3) (.p 4) 0x96#8, d := .p 1, a := .p 2 }),
    (96, 0x000000030020030002011C6D, .shfl { hd := hd0, cls := .vec, mode := .bfly, seg := 3, d := .v 1, a := .v 2, b := .imm 3#32 }),
    (64, 0x002600000201DC70, .wred { hd := hd0, cls := .acc, op := .max, ty := .int .s32, d := .s 1, a := .v 2 }),
    (64, 0x0080000002011C74, .wscan { hd := hd0, op := .add, ex := true, ty := .fp .f32, d := .v 1, a := .v 2 })] : List (Nat × Nat × Instr)).all readsAs = true := by decide +kernel

theorem test_decode_integer :
    ([
    (64, 0x0016000201039C80, .iadd { hd := hd0, cls := .vsb, ty := .s32, sat := true, d := .v 3, a := .v 1, b := .reg (.s 2) }),
    (64, 0x0016000201039C84, .isub { hd := hd0, cls := .vsb, ty := .s32, sat := true, d := .v 3, a := .v 1, b := .reg (.s 2) }),
    (64, 0x0016000201039C88, .imul { hd := hd0, cls := .vsb, ty := .s32, sat := true, d := .v 3, a := .v 1, b := .reg (.s 2) }),
    (64, 0x000B000806045C8C, .imulhi { hd := hd0, cls := .scl, ty := .z64, sat := false, d := .s 4, a := .s 6, b := .reg (.s 8) }),
    (64, 0x000B000806045C94, .imin { hd := hd0, cls := .scl, ty := .z64, sat := false, d := .s 4, a := .s 6, b := .reg (.s 8) }),
    (64, 0x000B000806045C98, .imax { hd := hd0, cls := .scl, ty := .z64, sat := false, d := .s 4, a := .s 6, b := .reg (.s 8) }),
    (96, 0xFFFFFFFE0005040001031C91, .imad { hd := hd0, cls := .vec, ty := .s16, sat := false, d := .v 3, a := .v 1, b := .imm 0xFFFFFFFE#32, c := .v 4 }),
    (64, 0x0004000001031C9C, .iabs { hd := hd0, cls := .vec, ty := .s8, sat := false, d := .v 3, a := .v 1 }),
    (64, 0x002A000302411CA0, .icmp { hd := hd0, cls := .vec, ty := .z32, rel := .lt, d := .p 1, a := .v 2, b := .reg (.v 3) }),
    (64, 0x0016040302011CA4, .idot4 { hd := hd0, signed := true, sat := true, d := .v 1, a := .v 2, b := .v 3, c := .v 4 }),
    (64, 0x000A030604021CA8, .lea { hd := hd0, cls := .vec, signed := false, d := .v 2, a := .v 4, b := .reg (.v 6), sh := 3#8 }),
    (64, 0x0000440302011CAC, .sel { hd := hd0, cls := .vec, z64 := false, d := .v 1, a := .v 2, b := .reg (.v 3), p := .p 4 }),
    (64, 0x0000000200019CB0, .mov { hd := hd0, cls := .vsb, z64 := false, d := .v 1, a := .s 2 }),
    (128, 0x123456789ABCDEF0000B000000025CB6, .movi { hd := hd0, cls := .scl, d := .s 2, im := .z64 0x123456789ABCDEF0#64 })] : List (Nat × Nat × Instr)).all readsAs = true := by decide +kernel

theorem test_decode_bits :
    ([
    (64, 0x0009000201031CC0, .and { hd := hd0, cls := .vec, ty := .z16, sat := false, d := .v 3, a := .v 1, b := .reg (.v 2) }),
    (64, 0x0009000201031CC4, .or { hd := hd0, cls := .vec, ty := .z16, sat := false, d := .v 3, a := .v 1, b := .reg (.v 2) }),
    (64, 0x0009000201031CC8, .xor { hd := hd0, cls := .vec, ty := .z16, sat := false, d := .v 3, a := .v 1, b := .reg (.v 2) }),
    (64, 0x0009000201031CD0, .shl { hd := hd0, cls := .vec, ty := .z16, sat := false, d := .v 3, a := .v 1, b := .reg (.v 2) }),
    (64, 0x0009000201031CD4, .shr { hd := hd0, cls := .vec, ty := .z16, sat := false, d := .v 3, a := .v 1, b := .reg (.v 2) }),
    (64, 0x0009000201031CD8, .sra { hd := hd0, cls := .vec, ty := .z16, sat := false, d := .v 3, a := .v 1, b := .reg (.v 2) }),
    (64, 0x0008000001031CCC, .not { hd := hd0, cls := .vec, ty := .z8, sat := false, d := .v 3, a := .v 1 }),
    (96, 0x000008040006000001031CDD, .bfe { hd := hd0, cls := .vec, ty := .s32, d := .v 3, a := .v 1, f := .imm 0x0804#32 }),
    (64, 0x000A040201031CE0, .bfi { hd := hd0, cls := .vec, ty := .z32, d := .v 3, a := .v 1, f := .reg (.v 2), c := .v 4 }),
    (64, 0x000B000004025CE4, .clz { hd := hd0, cls := .scl, ty := .z64, sat := false, d := .s 2, a := .s 4 }),
    (64, 0x000B000004025CE8, .popc { hd := hd0, cls := .scl, ty := .z64, sat := false, d := .s 2, a := .s 4 }),
    (64, 0x000B000004025CEC, .brev { hd := hd0, cls := .scl, ty := .z64, sat := false, d := .s 2, a := .s 4 })] : List (Nat × Nat × Instr)).all readsAs = true := by decide +kernel

theorem test_decode_floats :
    ([
    (64, 0x0100000201031D00, .fadd { hd := hd0, cls := .vec, ty := .f32, rm := .rz, d := .v 3, a := .v 1, b := .reg (.v 2) }),
    (64, 0x0100000201031D04, .fmul { hd := hd0, cls := .vec, ty := .f32, rm := .rz, d := .v 3, a := .v 1, b := .reg (.v 2) }),
    (64, 0x0401040201031D08, .ffma { hd := hd0, cls := .vec, ty := .f16, rm := .dyn, d := .v 3, a := .v 1, b := .reg (.v 2), c := .v 4 }),
    (64, 0x0002000201031D0C, .fmin { hd := hd0, cls := .vec, ty := .bf16, d := .v 3, a := .v 1, b := .reg (.v 2) }),
    (64, 0x0002000201031D10, .fmax { hd := hd0, cls := .vec, ty := .bf16, d := .v 3, a := .v 1, b := .reg (.v 2) }),
    (64, 0x00D1010302411D14, .fcmp { hd := hd0, cls := .vec, ty := .f16, rel := .geu, e := true, d := .p 1, a := .v 2, b := .reg (.v 3) }),
    (64, 0x0200000001031D18, .frnd { hd := hd0, cls := .vec, ty := .f32, rm := .ru, d := .v 3, a := .v 1 }),
    (64, 0x0306000001031D1C, .cvt { hd := hd0, cls := .vec, dt := .int .s32, st := .fp .f32, rm := .rd, elem := false, sat := false, d := .v 3, a := .v 1 })] : List (Nat × Nat × Instr)).all readsAs = true := by decide +kernel

theorem test_decode_functions :
    ([
    (64, 0x0400000001031D20, .frcp { hd := hd0, cls := .vec, ty := .f32, rm := .dyn, d := .v 3, a := .v 1 }),
    (64, 0x0400000001031D24, .frsq { hd := hd0, cls := .vec, ty := .f32, rm := .dyn, d := .v 3, a := .v 1 }),
    (64, 0x0400000001031D28, .fsqrt { hd := hd0, cls := .vec, ty := .f32, rm := .dyn, d := .v 3, a := .v 1 }),
    (64, 0x0400000001031D2C, .fexp2 { hd := hd0, cls := .vec, ty := .f32, rm := .dyn, d := .v 3, a := .v 1 }),
    (64, 0x0400000001031D30, .flog2 { hd := hd0, cls := .vec, ty := .f32, rm := .dyn, d := .v 3, a := .v 1 }),
    (64, 0x0400000001031D34, .fsin { hd := hd0, cls := .vec, ty := .f32, rm := .dyn, d := .v 3, a := .v 1 }),
    (64, 0x0400000001031D38, .fcos { hd := hd0, cls := .vec, ty := .f32, rm := .dyn, d := .v 3, a := .v 1 }),
    (64, 0x0400000001031D3C, .ftanh { hd := hd0, cls := .vec, ty := .f32, rm := .dyn, d := .v 3, a := .v 1 }),
    (64, 0x003C05000204DD40, .bfpack { hd := hd0, ty := .bfp8, sh := 3, d := .v 4, a := .v 2, e := .s 5 }),
    (64, 0x000E00050204DD44, .bfunpack { hd := hd0, ty := .bfp4, d := .v 4, a := .v 2, e := .s 5 })] : List (Nat × Nat × Instr)).all readsAs = true := by decide +kernel

theorem test_decode_memory_1 :
    ([
    (96, 0x00000010E900000006041D81, .ld { hd := hd0, cls := .vec, ty := .fp .f32, cache := .cg, sp := .g, wid := .v2, d := .v 4, a := .v 6, off := some 16#32 }),
    (64, 0xE408000300049D84, .st { hd := hd0, cls := .vsb, ty := .int .z8, cache := .ca, sp := .s, wid := .one, d := .v 4, a := .s 3, off := none }),
    (64, 0x808A050402011D88, .atom { hd := hd0, cls := .vec, op := .cas, ty := .int .z32, sc := .di, cache := .ca, sp := .g, d := .v 1, a := .v 2, b := .v 4, c := some (.v 5), off := none, g := 0#8 }),
    (128, 0x00000001000000046006000402001D8E, .red { hd := { hd0 with wide := true }, cls := .vec, op := .add, ty := .int .s32, sc := .gp, cache := .ca, sp := .g, a := .v 2, b := .v 4, off := some 4#32, g := 1#8 }),
    (64, 0xE000FF0204615D90, .qld { hd := hd0, ty := .fp .f32, cache := .ca, sp := .g, q := .q 1, b := .s 2, a := .s 4, c := 255#8, off := none }),
    (64, 0x0000000061031D94, .qpop { hd := hd0, d := .v 3, a := .q 1 }),
    (96, 0x00001000E000000402005D99, .cpyLd { hd := hd0, cache := .ca, a := .s 2, b := .s 4, len := .imm 4096#32 }),
    (64, 0xE010050402005D98, .cpySt { hd := hd0, cache := .ca, a := .s 2, b := .s 4, len := .reg (.s 5) }),
    (64, 0xE000050402005D9C, .cpyg { hd := hd0, cache := .ca, a := .s 2, b := .s 4, len := .reg (.s 5) }),
    (64, 0x0000000000035DA0, .cbclose { hd := hd0, d := .s 3 }),
    (96, 0x000000020000000000005DA5, .cbwait { hd := hd0, src := .imm 2#32 }),
    (64, 0xA000000002001DA8, .cflush { hd := hd0, cls := .vec, sc := .dv, sp := .g, a := .v 2, off := none }),
    (64, 0x4000000002005DAC, .cinv { hd := hd0, cls := .scl, sc := .cl, sp := .g, a := .s 2, off := none }),
    (64, 0xE000000002001DB0, .clv { hd := hd0, cls := .vec, sp := .g, a := .v 2, off := none })] : List (Nat × Nat × Instr)).all readsAs = true := by decide +kernel

theorem test_decode_memory_2 :
    ([
    (64, 0xE000000002011DB4, .pfmap { hd := hd0, cls := .vec, sp := .g, d := .v 1, a := .v 2, off := none }),
    (64, 0x0000000003005DB8, .tlbinvPage { hd := hd0, a := .s 3 }),
    (64, 0x0010000000005DB8, .tlbinvCtx { hd := hd0 }),
    (64, 0x0020000000005DB8, .tlbinvRange { hd := hd0 })] : List (Nat × Nat × Instr)).all readsAs = true := by decide +kernel

theorem test_decode_barriers :
    ([
    (96, 0x000000600000020000005DC1, .barinit { hd := hd0, n := 2#8, src := .imm 96#32 }),
    (64, 0x0030020000045DC4, .bararv { hd := hd0, tile := true, d := some (.s 4), n := 2#8 }),
    (64, 0x0000020500495DC8, .barwait { hd := hd0, d := .k 1, n := 2#8, src := .reg (.s 5) }),
    (96, 0x000000010000020003495DCD, .barrmt { hd := hd0, d := .k 1, a := .s 3, n := 2#8, g := 1#8 }),
    (64, 0x0000020000005DD0, .barinv { hd := hd0, n := 2#8 }),
    (64, 0x0000000302005DD4, .tlsig { hd := hd0, a := .s 2, b := .s 3 }),
    (96, 0x000000070000000002005DD9, .tlwait { hd := hd0, a := .s 2, src := .imm 7#32 })] : List (Nat × Nat × Instr)).all readsAs = true := by decide +kernel

theorem test_decode_matrix :
    ([
    (96, 0x00010305001008030251DE01, .tmma { hd := hd0, plane1 := true, d := .a 1, a := .s 2, b := .s 3, c := .v 8, t := 5, ssv := true, ssel := 3#8 }),
    (64, 0x00000000005ADE04, .accz { hd := hd0, d := .b 2 }),
    (64, 0x000000005120DE08, .accmovAccToVec { hd := hd0, d := .v 32, a := .a 1 }),
    (64, 0x001000002051DE08, .accmovVecToAcc { hd := hd0, d := .a 1, a := .v 32 }),
    (64, 0x002000005A51DE08, .accmovAccToAcc { hd := hd0, d := .a 1, a := .b 2 }),
    (96, 0x000000020000000002015E0D, .resalloc { hd := hd0, d := .s 1, a := .s 2, src := .imm 2#32 }),
    (64, 0x000D040302015E10, .resload { hd := hd0, ty := .bfp6, d := .s 1, a := .s 2, b := .s 3, c := .s 4 }),
    (64, 0x0000000002005E14, .respin { hd := hd0, a := .s 2 }),
    (64, 0x0000000002005E18, .resunpin { hd := hd0, a := .s 2 }),
    (64, 0x0000000002015E1C, .resq { hd := hd0, d := .s 1, a := .s 2 }),
    (64, 0x0000000002015E20, .resref { hd := hd0, d := .s 1, a := .s 2 }),
    (64, 0x0000000002005E24, .resfree { hd := hd0, a := .s 2 })] : List (Nat × Nat × Instr)).all readsAs = true := by decide +kernel

theorem test_decode_kv :
    ([
    (64, 0x0100060201041E40, .kvld { hd := hd0, ty := .fp .f32, wid := .v2, d := .v 4, a := .s 1, b := .s 2, c := .v 6 }),
    (64, 0x0100060201041E44, .kvst { hd := hd0, ty := .fp .f32, wid := .v2, d := .v 4, a := .s 1, b := .s 2, c := .v 6 }),
    (64, 0x0000040201051E48, .kvapp { hd := hd0, ty := .fp .f32, wid := .one, d := .s 5, a := .s 1, b := .s 2, c := .v 4 }),
    (96, 0x000000040000030201055E4D, .kvfork { hd := hd0, d := .s 5, a := .s 1, b := .s 2, c := .s 3, im := 4#32 }),
    (96, 0x000000040000000201055E51, .kvrel { hd := hd0, d := .s 5, a := .s 1, b := .s 2, j := 4#32 }),
    (96, 0x000000010000030201055E55, .kvdem { hd := hd0, d := .s 5, a := .s 1, b := .s 2, c := .s 3, im := 1#32 })] : List (Nat × Nat × Instr)).all readsAs = true := by decide +kernel

/-! ### Hypotheses that can be met: computing instructions -/

theorem met_IntegerArithmetic : [Instr.iadd alu2, .isub { alu2 with sat := true }, .imul { alu2 with cls := .vsb, b := .reg (.s 2) },
    .imulhi { alu2 with b := .imm 0xFFFFFFFF#32 }, .imad alu3, .idot4 dot4, .imin alu2, .imax alu2, .iabs alu1,
    .iadd { alu2 with cls := .scl, ty := .z64, d := .s 3, a := .s 1, b := .reg (.s 2) }].all (runs s0) = true := by decide +kernel

theorem met_IntegerCompare : runs s0 (.icmp cmpI) = true := by decide +kernel

theorem met_LogicAndShifts : ([Instr.and alu2, .or alu2, .xor alu2, .not alu1, .shl alu2, .shr alu2, .sra { alu2 with b := .imm 255#32 }].all
    (runs s0) && alu2.sat == false) = true := by decide +kernel

theorem met_BitFields : [Instr.bfe bfe0, .bfi bfi0, .clz alu1, .popc alu1, .brev alu1].all (runs s0) = true := by decide +kernel

theorem met_MovesAndAddresses : [Instr.lea lea0, .mov mov0, .movi movi0, .sel sel0].all (runs s0) = true := by decide +kernel

theorem met_FloatArithmetic : [Instr.fadd fp2, .fmul fp2, .ffma fp3, .fmin fpM, .fmax fpM].all (runs s0) = true := by decide +kernel

theorem met_FloatCompare : runs s0 (.fcmp fcmp0) = true := by decide +kernel

theorem met_RoundingKeepsRepresentable : Rnd.rn ≠ .dyn ∧ 0xFFFFFFFF < 2 ^ FpFmt.width (FpTy.fmt .f32) := by decide +kernel

theorem met_FloatFunctionsAndConversions : [Instr.frnd fp1, .frcp fp1, .frsq fp1, .fsqrt fp1, .fexp2 fp1, .flog2 fp1, .fsin fp1, .fcos fp1,
    .ftanh fp1, .cvt cvt0].all (runs s0) = true := by decide +kernel

theorem met_BlockFloat : [Instr.bfpack bfp0, .bfunpack bfu0].all (runs s0) = true := by decide +kernel

theorem met_PredicateLogic : [Instr.vote vote0, .vote { vote0 with op := .count }, .vote { vote0 with op := .lead },
    .vote { vote0 with op := .atl, d := .k 1, t := 255#8 }, .vote { vote0 with op := .agree, d := .k 1 }, .plop plop0].all
      (runs s0) = true := by decide +kernel

theorem met_ShufflesAndReductions : [Instr.shfl shfl0, .wred wred0, .wred { wred0 with cls := .acc, d := .s 3 }, .wscan wscan0].all
    (runs s0) = true := by decide +kernel

/-! ### Hypotheses that can be met: control flow and traps -/

def brx0 : FBrx := { hd := hd0, a := .s 1, off := none }
def call0 : FDSrc := { hd := hd0, d := .s 7, src := .reg (.s 1) }
/-- s1 holds the first address beyond the space. -/
def far : State := onW up { w0 with s := [(1, 0x40000000000000#64)] } b0
/-- s1 holds the last address of the space. -/
def near : State := onW up { w0 with s := [(1, 0x3FFFFFFFFFFFFF#64)] } b0

theorem met_Branches : ([.bra { hd := hd0, off := 0xFFFFFFF8#32 }, .brx brx0, .call call0, .ret { hd := hd0, a := .s 1 }].all (fun i =>
    meets i near (fun e => decide ((rdReg e.w false 0 (.s 1)).toNat < 2 ^ 54)) &&
    meets i far (fun e => e.w.skid.isNone && decide (2 ^ 54 ≤ (rdReg e.w false 0 (.s 1)).toNat)))) = true := by decide +kernel

def brc0 (inv : Bool) : Instr := .brc { hd := hd0, inv := inv, p := .p 1, target := 0x40#32, join := 0x80#32 }
/-- A warp with n entries on its stack and a predicate p1. -/
def stk (n : Nat) (p : Mask) : State :=
  onW up { w0 with stack := List.replicate n { pc := 8#54, mask := 3#32, fmt := 0x400#24 }, p := [(1, p)] } b0

theorem met_Divergence : [
    meets (brc0 false) (stk 30 1#32) (fun e => e.w.exec &&& e.w.getP 1 != 0#32 && e.w.exec &&& ~~~(e.w.getP 1) != 0#32 &&
      decide (e.w.stack.length ≤ 30)),
    meets (brc0 false) (stk 31 allLanes) (fun e => e.w.exec &&& ~~~(e.w.getP 1) == 0#32 && decide (e.w.stack.length ≤ 31)),
    meets (brc0 true) (stk 31 allLanes) (fun e => e.w.exec &&& ~~~(e.w.getP 1) == 0#32 && e.w.exec &&& e.w.getP 1 != 0#32),
    meets (brc0 false) (stk 31 1#32) (fun e => e.w.skid.isNone && decide (32 < e.w.stack.length + 2)),
    meets (brc0 false) (stk 32 0#32) (fun e => e.w.skid.isNone && decide (32 < e.w.stack.length + 1)),
    meets .join (stk 1 0#32) (fun e => e.w.level == 0 && !e.w.stack.isEmpty),
    meets .join (stk 0 0#32) (fun e => e.w.skid.isNone && e.w.stack.isEmpty),
    meets .join (onW up { w0 with stack := [{ pc := 8#54, mask := 3#32, fmt := 0x400#24 }], level := 2, f2 := { depth := 1 } } b0)
      (fun e => decide (0 < e.w.level) && e.w.stack.length == levelDepth e.w)].all id = true := by decide +kernel

theorem met_LanesExit : [
    meets (.exit { hd := { hd0 with pg := 1 }, cls := .vec }) (stk 0 1#32) (fun e => e.w.exited ||| e.act != allLanes),
    meets (.exit { hd := hd0, cls := .scl }) s0 (fun e => e.b.halt != some e.r.slot),
    meets (.exit { hd := hd0, cls := .scl }) (onW up { w0 with level := 2 } { b0 with halt := some 0 })
      (fun e => e.b.halt == some e.r.slot && e.w.exited ||| ~~~e.w.exited == allLanes)].all id = true := by decide +kernel

def fmtSrc (w : W32) : FSrc := { hd := hd0, src := .imm w }

theorem met_SpecialRegisters : [runs s0 (.nop { len := .l64, pg := 3 }), runs s0 (.execrd { hd := hd0, d := .s 3 }),
    runs s0 (.execwr (fmtSrc 15#32)), meets (.setfmt (fmtSrc 0x2413#32)) s0 (fun e => (fmtOf (srcS e.w (.imm 0x2413#32))).isSome),
    meets (.setfmt (fmtSrc 7#32)) s0 (fun e => e.w.skid.isNone && (fmtOf (srcS e.w (.imm 7#32))).isNone),
    [SpReg.exec, .fmt, .nbv, .laneid, .warpid, .blockid, .tenant, .clock, .tcause, .tpc, .tskid, .taddr, .tdmask, .tdop0, .tdop1, .tdop2,
      .tdop3, .capacity, .hmap4, .ldcnt, .stcnt, .cpcnt, .tlcnt].all (fun n => [s0, onW up { w0 with level := 2 } b0].all (fun s =>
        runs s (.sread { hd := hd0, cls := .vec, z64 := false, d := .v 4, n := n }) &&
        (n == .laneid || runs s (.sread { hd := hd0, cls := .scl, z64 := false, d := .s 4, n := n })))),
    runs s0 (.swrite { hd := hd0, n := .exec, src := .imm 15#32 }),
    meets (.swrite { hd := hd0, n := .fmt, src := .imm 0x400#32 }) s0 (fun e => (fmtOf (srcS e.w (.imm 0x400#32))).isSome)].all id = true := by
  decide +kernel

/-- A warp with one load and one copy outstanding. -/
def busyW : Warp := { w0 with
  loads := [{ id := 9, dest := .vreg 9 false, lanes := [{ lane := 0, va := 64, pa := 64, w := 4 }] }] }

/-- A warp with one atomic outstanding. -/
def atomW : Warp := { w0 with
  atoms := [{ id := 2, op := .add, ty := .int .z32, scope := .dv, ftz := false, dest := none, reqs := [{ id := 4, pa := 64, va := 64, lanes := [(31, 1, 0)] }] }] }

theorem met_GivingUpIssueAndWaits : [runs s0 (.yield { hd := hd0 }), meets (.sleep (fmtSrc 0#32)) s0 (fun e => (srcS e.w (.imm 0#32)).toNat % 2 ^ 32 == 0),
    [none, some 2].all (fun n => let s := onW up { w0 with skid := n } b0
      meets (.sleep (fmtSrc 1#32)) s (fun e => (srcS e.w (.imm 1#32)).toNat % 2 ^ 32 != 0 && e.w.skid == n)),
    [CntCls.ld, .st, .cp, .tl].all (fun c => runs s0 (.wait { hd := hd0, c := c, n := 0#8 })),
    meets (.wait { hd := hd0, c := .ld, n := 1#8 }) (onW up busyW b0) (fun e => State.ldcnt e.w == 1),
    meets (.wait { hd := hd0, c := .ld, n := 0#8 }) (onW up busyW b0) (fun e => decide (0 < State.ldcnt e.w))].all id = true := by decide +kernel

theorem met_TrapInstructions : [WellFormed (.ill { len := .l64, bits := 0x1C00#128 }), s0.ctl.cur == some r0, (s0.warp? r0).isSome, (s0.block? 0 0).isSome,
    (encode (.ill { len := .l64, bits := 0x1C00#128 })).isSome, meets (.bkpt { hd := hd0 }) s0 (fun e => e.w.skid.isNone),
    meets (.trap { hd := hd0, n := 5#16 }) s0 (fun e => e.w.skid.isNone)].all id = true := by decide +kernel

def illOperand : TrapReq := { cause := 3, mask := 1#32 }

theorem met_TrapEntryAndDoubleFaults : [s0.warp? r0 == some w0, s0.block? 0 0 == some b0, w0.skid.isNone, w0.level == 0, trapClass illOperand != .t,
    (onW up { w0 with level := 2 } b0).warp? r0 == some { w0 with level := 2 },
    (onW up { w0 with level := 1 } b0).warp? r0 == some { w0 with level := 1 }, b0.slots.contains 0, illOperand.cause != 26].all id = true := by
  decide +kernel

/-- A second warp of the block, in slot 1, with a wait. -/
def pair (w : Option WaitR) (b : Block) : State :=
  (onW up w0 { b with slots := [0, 1] }).setWarp { core := 0, slot := 1 } { w0 with id := 1, wait := w }

theorem met_BlockHalts : [trapClass illOperand == .h, b0.halt.isNone, [0, 1].Nodup, (pair none b0).warp? { core := 0, slot := 1 } == some { w0 with id := 1 },
    (pair (some .counter) b0).warp? { core := 0, slot := 1 } == some { w0 with id := 1, wait := some .counter },
    (pair none b0).block? 0 0 == some { b0 with slots := [0, 1] }].all id = true := by decide +kernel

/-- A handler at level 2, entered from level 0 with a cause and a saved frame. -/
def inH (c : Nat) (d1 : W64) : State := onW up
  { w0 with level := 2, pc := 0x100#54, t2 := { cause := BitVec.ofNat 6 c, rmask := 3#32, dop1 := d1, dop2 := 0x48#64 },
            f2 := { pc := 0x40#54, exec := 7#32, fmt := 0x400#24, depth := 0 } } b0
def plainOk (e : Env) : Bool := e.w.skid.isNone && e.w.level == 2 && e.b.phase == .run && e.b.halt.isNone

theorem met_TrapReturn : [meets (.tret { hd := hd0 }) (inH 3 0#64) plainOk, meets (.tretSkip { hd := hd0 }) (inH 1 0#64) plainOk,
    meets (.tretSkip { hd := hd0 }) (inH 7 0#64) plainOk, meets (.tretSkip { hd := hd0 }) (inH 8 0#64) plainOk,
    meets (.tretSkip { hd := hd0 }) (inH 22 1#64) plainOk,
    meets (.tretSkip { hd := hd0 }) (onW up { w0 with level := 3, t2 := { cause := 32#6 } } b0) (fun e => e.w.skid.isNone && e.w.level == 3),
    meets (.tret { hd := hd0 }) ((inH 3 0#64).updBlock 0 0 (fun b => { b with halt := some 0 })) (fun e =>
      e.w.skid.isNone && e.w.t2.hlvl == 0#2 && e.b.phase == .run && e.b.halt == some e.r.slot && decide e.b.slots.Nodup),
    meets (.tret { hd := hd0 }) (onW up { w0 with level := 3, t2 := { cause := 34#6 } } b0) (fun e => e.w.level == 3 && e.w.t2.cause == 34#6)].all
      id = true := by decide +kernel

/-! ### Hypotheses that can be met: ordering, barriers, timelines, accumulators -/

/-- A launch of two blocks that form one ABORT group. -/
def launch0 : Launch := {
  ctx := 1
  hdr := {
    nblock := 2
    scr := 4096
    nbar := 4
    nshacc := 8
    groups := [{ valid := true, coloc := false, abort := true, base0 := 0, count0 := 2, stride0 := 1, base1 := 0, count1 := 0, stride1 := 0 }] }
  issuer := .queue 0
  status := 0
  nbvEff := 2
  next := 1
  running := 1 }
/-- The launch is accepted, and its block 0 is the small block. -/
def s1 : State := (mapped s0).setLaunch 0 launch0
def relK : FenceKind := { rel := true, acq := false, sc := false }
def dv0 : FFence := { hd := hd0, sc := .dv, g := 0#8 }
def gp (g : Byte) : FFence := { hd := hd0, sc := .gp, g := g }

theorem met_Fences : [
    [Instr.fenceAcq dv0, .fenceRel dv0, .fenceAr dv0, .fenceSc dv0].all (fun i => meets i s1 (fun e =>
      (fenceWait s1 e.r e.w e.b.ctx { rel := true, acq := true, sc := true } .dv).isNone)),
    [Instr.fenceAcq (gp 0#8), .fenceRel (gp 0#8), .fenceAr (gp 0#8), .fenceSc (gp 0#8)].all (fun i => meets i s1 (fun e => groupOk s1 e.b 0)),
    [Instr.fenceAcq (gp 1#8), .fenceRel (gp 1#8), .fenceAr (gp 1#8), .fenceSc (gp 1#8)].all (fun i => meets i s1 (fun e =>
      !groupOk s1 e.b 1 && e.w.skid.isNone)),
    meets (.fenceAcq dv0) (onW up busyW b0) (fun e => e.w.skid.isNone &&
      (fenceWait up e.r e.w e.b.ctx { rel := false, acq := true, sc := false } .dv).isSome)].all id = true := by decide +kernel

theorem met_StepsAndAborts : [meets (.step (fmtSrc 3#32)) s1 (fun e => s1.stcnt e.r e.w == 0 && (fenceWait s1 e.r e.w e.b.ctx relK .dv).isNone),
    abortGroups (release s1 0 .dv) b0 == [0],
    meets (.abortg { hd := hd0 }) s1 (fun e => (fenceWait s1 e.r e.w e.b.ctx relK .dv).isNone && s1.launch? e.b.lid == some launch0 &&
      (release s1 e.r.core .dv).launch? e.b.lid == some launch0 && e.w.level != 3 && (presentBlocks s1 e.b.lid).contains 0#32 &&
      launch0.abortsWith e.b.bid.toNat 0),
    meets (.abortg { hd := hd0 }) (s1.setWarp r0 { w0 with level := 3 }) (fun e => relK == { rel := true, acq := false, sc := false } && e.w.level == 3 &&
      (fenceWait s1 e.r e.w e.b.ctx relK .dv).isNone),
    [Instr.step (fmtSrc 3#32), .abortg { hd := hd0 }].all (fun i => meets i (onW up atomW b0) (fun e => e.w.skid.isNone &&
      decide ((onW up atomW b0).stcnt e.r e.w < 64) && (fenceWait (onW up atomW b0) e.r e.w e.b.ctx relK .dv).isSome))].all id = true := by decide +kernel

/-- The small block with barrier 1 set up. -/
def barB (o : Bar) : Block := { b0 with scr := putBytes [] (bytesAt (barOff b0 1) (barBytes o)) }
def live (a : Nat) (parked : W32) : Bar := { expect := 2, arrived := a, phase := 255, valid := true, parked := parked }
def bInit (w : W32) : Instr := .barinit { hd := hd0, n := 1#8, src := .imm w }

theorem met_BarrierObjects : [
    meets (bInit 65535#32) s0 (fun e => (getBar e.b 1).parked == 0#32), meets (bInit 1#32) s0 (fun e => (getBar e.b 1).parked == 0#32),
    meets (.barinit { hd := hd0, n := 1#8, src := .reg (.s 9) }) s0 (fun e => e.w.skid.isNone && (srcS e.w (.reg (.s 9))).toNat == 0),
    meets (.barinit { hd := hd0, n := 1#8, src := .reg (.s 1) }) (onW up { w0 with s := [(1, 65536#64)] } b0)
      (fun e => e.w.skid.isNone && decide (65536 ≤ (srcS e.w (.reg (.s 1))).toNat)),
    meets (bInit 1#32) (onW up w0 (barB (live 0 2#32))) (fun e => e.w.skid.isNone && (getBar e.b 1).parked != 0#32),
    meets (.barinv { hd := hd0, n := 1#8 }) s0 (fun e => !(getBar e.b 1).valid),
    meets (.barinv { hd := hd0, n := 1#8 }) (onW up w0 (barB (live 0 2#32))) (fun e => (getBar e.b 1).valid),
    b0.slots[0]? == some 0 && (1#32).getLsbD 0 && (s0.warp? r0).isSome,
    s0.block? 0 0 == some b0 && decide (3 < b0.nbar) && decide (16 * b0.nbar ≤ b0.size),
    !(getBar b0 1).valid, (getBar (barB (live 0 0#32)) 1) == live 0 0#32, (live 0 0#32).arrived + 1 == 1,
    decide ((live 1 0#32).expect ≤ (live 1 0#32).arrived + 1)].all id = true := by decide +kernel

/-- The warp has 64 remote arrivals outstanding. -/
def sent64 (s : State) : State := s.updFed (fun f => { f with arrivals := (List.range 64).map (fun i =>
  { id := i, sb := b0.bid, sw := w0.id, kd := 5, lid := b0.lid, bid := 0#32, n := 0 }) })
def bArv (d : Option Reg) : Instr := .bararv { hd := hd0, tile := true, d := d, n := 1#8 }
def bWait (p : W32) : Instr := .barwait { hd := hd0, d := .k 1, n := 1#8, src := .imm p }
def bRmt (g : Byte) : Instr := .barrmt { hd := hd0, d := .k 1, a := .s 9, n := 1#8, g := g }

theorem met_BarrierInstructions : [
    [bArv none, bArv (some (.s 3))].all (fun i => meets i s0 (fun e =>
      (fenceWait s0 e.r e.w e.b.ctx relK .bk).isNone && s0.tlcnt e.r == 0)),
    meets (bWait 0#32) s0 (fun e => (getBar e.b 1).parked &&& (1#32 <<< e.w.id) == 0#32 && !(getBar e.b 1).valid),
    meets (bWait 255#32) (onW up { w0 with barGone := some w0.pc } (barB (live 0 0#32))) (fun e => e.w.barGone == some e.w.pc && (getBar e.b 1).valid &&
      (getBar e.b 1).parked &&& (1#32 <<< e.w.id) == 0#32),
    meets (bWait 254#32) (onW up w0 (barB (live 0 0#32))) (fun e => e.w.barGone.isNone && (getBar e.b 1).valid && phaseDone (getBar e.b 1) 254 &&
      (getBar e.b 1).parked &&& (1#32 <<< e.w.id) == 0#32 &&
      (fenceWait (onW up w0 (barB (live 0 0#32))) e.r e.w e.b.ctx acqKind .bk).isNone),
    meets (bWait 255#32) (onW up w0 (barB (live 0 0#32))) (fun e => e.w.skid.isNone && (getBar e.b 1).valid && !phaseDone (getBar e.b 1) 255),
    meets (bRmt 0#8) (sent64 s1) (fun e => groupOk (sent64 s1) e.b 0 && targetOk (sent64 s1) e.b 0 0 && e.w.skid.isNone && (sent64 s1).stcnt e.r e.w == 64),
    meets (bRmt 0#8) s1 (fun e => groupOk s1 e.b 0 && targetOk s1 e.b 0 0 && s1.stcnt e.r e.w == 0 &&
      (fenceWait s1 e.r e.w e.b.ctx relK (effScope s1 e.b .gp)).isNone),
    meets (bRmt 1#8) s1 (fun e => e.w.skid.isNone && !groupOk s1 e.b 1)].all id = true := by decide +kernel

/-- Queue 0 belongs to tenant 1; s1 holds its TLID 0 and s2 a value. -/
def tl0 : State := (onW up { w0 with s := [(2, 5#64)] } b0).updQueue 0 (fun q => { q with ctx := 1, tl := 3#64 })
def tlS : Instr := .tlsig { hd := hd0, a := .s 1, b := .s 2 }
def tlW (n : W32) : Instr := .tlwait { hd := hd0, a := .s 1, src := .imm n }

theorem met_Timelines : [
    meets tlS tl0 (fun e => queueOk tl0 e.b.ctx 0 && tl0.stcnt e.r e.w == 0 && (fenceWait tl0 e.r e.w e.b.ctx relK .dv).isNone),
    meets tlS s0 (fun e => e.w.skid.isNone && !queueOk s0 e.b.ctx 3),
    meets (tlW 3#32) tl0 (fun e => tlOk tl0 e.b.ctx 0 3 && decide (3 ≤ tl0.tlCounter e.b.ctx 0) &&
      (fenceWait tl0 e.r e.w e.b.ctx acqKind .dv).isNone),
    meets (tlW 4#32) tl0 (fun e => tlOk tl0 e.b.ctx 0 4 && decide (tl0.tlCounter e.b.ctx 0 < 4) && e.w.level != 3),
    meets (tlW 0#32) s0 (fun e => e.w.skid.isNone && !tlOk s0 e.b.ctx 3 0)].all id = true := by decide +kernel

theorem met_Accumulators : [runs s0 (.accz { hd := hd0, d := .a 3 }), runs s0 (.accz { hd := hd0, d := .b 7 }),
    runs s0 (.accmovVecToAcc { hd := hd0, d := .a 0, a := .v 224 }), runs s0 (.accmovAccToAcc { hd := hd0, d := .b 0, a := .a 1 }),
    runs s0 (.accmovAccToVec { hd := hd0, d := .v 32, a := .b 7 })].all id = true := by decide +kernel

/-! ### Hypotheses that can be met: memory instructions -/

/-- Addresses of lanes 0 and 1 in v4 and v5: `a` and `a` + 4; s4 holds `a`. -/
def at0 (s : State) (a : Nat) : State := onW s
  { w0 with exec := 3#32
            v := [(128, BitVec.ofNat 32 a), (129, BitVec.ofNat 32 (a + 4)), (160, BitVec.ofNat 32 (a / 2 ^ 32)), (161, BitVec.ofNat 32 (a / 2 ^ 32))]
            s := [(4, BitVec.ofNat 64 a)] } b0
/-- The lanes' checks at a state. -/
def lanesOk (s : State) (e : Env) (sp : Space) (need : BitVec 4) (wr : Bool) (w : Nat) (a : Reg) (c : Cls) : Bool :=
  let q := checkLanes s e sp need wr w (laneAddr e.w sp a none) (accLanes e c)
  q.2.1.isEmpty && !q.2.2.isEmpty && q.2.2.all (fun y => !(atomLines e.w).contains (y.pa / 64))
def inS (a : Nat) : State := at0 (mapped up) a
def ldG : FLdSt := { ldst with sp := .g }

theorem met_LoadsAndTheirBytes : [
    meets (.ld ldst) (inS 4088) (fun e => lanesOk (inS 4088) e .s needR false 4 (.v 4) .vec),
    meets (.ld ldG) (inS 0x1000) (fun e => lanesOk (inS 0x1000) e .g needR false 4 (.v 4) .vec && decide (State.ldcnt e.w < 64)),
    meets (.ld ldst) (inS 4096) (fun e => e.w.skid.isNone && !lanesOk (inS 4096) e .s needR false 4 (.v 4) .vec),
    (onW (mapped up) { w0 with exec := 3#32, v := [(128, 0x1000#32), (129, 0x1002#32)] } b0 |> fun s => meets (.ld ldG) s (fun e =>
      e.w.skid.isNone && State.ldcnt e.w == 0 && (checkLanes s e .g needR false 4 (laneAddr e.w .g (.v 4) none) (accLanes e .vec) |> fun q =>
        !q.2.1.isEmpty && !q.2.2.isEmpty && q.2.2.all (fun y => !(atomLines e.w).contains (y.pa / 64))))),
    runs (inS 0x1000) (.ld { ldG with cls := .scl, d := .s 6, a := .s 4 })].all id = true := by decide +kernel

theorem met_LoadedBytes : (31 : Nat) < 32 ∧ [1#8].length = 1 ∧ [1#8, 2#8].length = 2 ∧ [1#8, 2#8, 3#8, 4#8].length = 4 * 1 ∧ 31 < 32 := by
  decide

theorem met_Stores : [
    meets (.st ldst) (inS 4024) (fun e => lanesOk (inS 4024) e .s needW true 4 (.v 4) .vec),
    meets (.st ldG) (inS 0x1000) (fun e => lanesOk (inS 0x1000) e .g needW true 4 (.v 4) .vec && e.w.loads.isEmpty &&
      decide ((inS 0x1000).stcnt e.r e.w < 64)),
    [busyW, atomW].all (fun w => [ldG, ldst].all (fun x => meets (.st x) (onW (mapped up) w b0) (fun e => e.w.skid.isNone && unbound e.w &&
      decide ((onW (mapped up) w b0).stcnt e.r e.w < 64))))].all id = true := by decide +kernel

def atS : FAtom := { atom0 with sc := .bk, sp := .s }
def rdS : FRed := { red0 with sc := .bk, sp := .s }

theorem met_Atomics : [
    [Instr.atom atom0, .red red0].all (fun i => meets i (inS 0x1000) (fun e => lanesOk (inS 0x1000) e .g needW true 4 (.s 4) .scl && e.w.loads.isEmpty &&
      decide ((inS 0x1000).stcnt e.r e.w < 64) && decide (State.ldcnt e.w < 64))),
    [Instr.atom atS, .red rdS].all (fun i => meets i (inS 16) (fun e => lanesOk (inS 16) e .s needW true 4 (.s 4) .scl)),
    [Instr.atom { atom0 with hd := wide0, sc := .gp, off := some 0#32 }, .red { red0 with hd := wide0, sc := .gp, off := some 0#32 }].all (fun i =>
      meets i (inS 0x1000) (fun e => !groupOk (inS 0x1000) e.b 0 && e.w.skid.isNone)),
    decide (32 ≤ IntTy.bits .s32) && decide (0xFFFFFFFF < 2 ^ IntTy.bits .s32)].all id = true := by decide +kernel

/-- A block with a COMPUTE warp of WARPID 0 and the issuing ACCESS warp, in slot 64, of WARPID 1. -/
def accS (q : List QEnt) : State :=
  (((up.setBlock 0 0 { b0 with slots := [0, 64] }).setWarp r0 { w0 with q := if q.isEmpty then [] else [(1, q)] }).setWarp { core := 0, slot := 64 }
    { w0 with id := 1, access := true }).withCur (some { core := 0, slot := 64 })
/-- The same with the COMPUTE warp issuing. -/
def popS (q : List QEnt) (w : Warp) : State := ((accS q).setWarp { core := 0, slot := 64 } w).withCur (some r0)
def pop0 : Instr := .qpop { hd := hd0, d := .v 3, a := .q 1 }
def ent (f : Bool) : QEnt := { id := 5, filled := f, data := [] }

theorem met_OperandQueues : [
    [qld0, { qld0 with sp := .s }].all (fun x => meets (.qld x) (accS []) (fun e => decide (State.ldcnt e.w < 64) &&
      (warpOfId (accS []) 0 e.b ((rdReg e.w false 0 (.s 5)).toNat % 32)).any (fun y => decide ((mget [] y.2.q 1).length < 8)) &&
      (checkS e.b false 0 0 4).isRight)),
    meets pop0 (popS [ent true] { w0 with access := true }) (fun e => mget [] e.w.q 1 == [ent true]),
    meets pop0 (popS [ent false] { w0 with access := true }) (fun e => mget [] e.w.q 1 == [ent false]),
    meets pop0 (popS [] { w0 with access := true }) (fun e => e.w.skid.isNone && mget [] e.w.q 1 == [] && accessAlive (popS [] { w0 with access := true }) 0 e.b),
    meets pop0 s0 (fun e => e.w.skid.isNone && mget [] e.w.q 1 == [] && !accessAlive s0 0 e.b)].all id = true := by decide +kernel

/-- s4 holds the source of a copy and s5 its destination. -/
def cpyS (src dst : Nat) : State := onW (mapped up) { w0 with s := [(4, BitVec.ofNat 64 src), (5, BitVec.ofNat 64 dst)] } b0
def len0 : FCpy := { cpy0 with len := .reg (.s 9) }

theorem met_CopiesAndSegments : [
    [Instr.cpyLd cpy0, .cpySt cpy0, .cpyg cpy0].all (fun i => meets i (cpyS 64 128) (fun e => (copyCheck e 128 64 64 false true).isNone &&
      (copyCheck e 128 64 64 true false).isNone && (copyCheck e 128 64 64 false false).isNone && decide (State.cpcnt e.w < 16))),
    [Instr.cpyLd len0, .cpySt len0, .cpyg len0].all (fun i => meets i (cpyS 64 128) (fun e => (srcS e.w (.reg (.s 9))).toNat == 0 &&
      (copyCheck e 128 64 0 false true).isNone)),
    [Instr.cpyLd cpy0, .cpySt cpy0, .cpyg cpy0].all (fun i => meets i (cpyS 64 130) (fun e => e.w.skid.isNone &&
      (copyCheck e 130 64 64 false true).isSome && (copyCheck e 130 64 64 true false).isSome && (copyCheck e 130 64 64 false false).isSome))].all
        id = true := by decide +kernel

def seg0 (d : Bool) (f : Option Nat) : Seg := { id := 1, src := 64, dst := 128, len := 64, srcS := false, dstS := true, done := d, fail := f }
/-- Batch 1 is closed and holds one copy. -/
def batS (d : Bool) (f : Option Nat) : State := onW up { w0 with batch := 2#32, copies := [{ id := 7, batch := 1#32, segs := [seg0 d f] }] } b0
def cbW (n : W32) : Instr := .cbwait { hd := hd0, src := .imm n }

theorem met_CopyBatches : [
    meets (.cbclose { hd := hd0, d := .s 3 }) s0 (fun e => decide ((openBatches e.w).length < 8)),
    meets (.cbclose { hd := hd0, d := .s 3 }) (onW up { w0 with batch := 9#32, copies := (List.range 8).map (fun i =>
      { id := i, batch := BitVec.ofNat 32 (i + 1), segs := [seg0 false none] }) } b0) (fun e => decide (8 ≤ (openBatches e.w).length)),
    meets (cbW 1#32) (batS true none) (fun e => e.w.level != 3 && decide (2 ^ 31 ≤ serial 1#32 e.w.batch) && (covered e.w 1#32).all CopyOp.over &&
      (firstFail e.w (covered e.w 1#32)).isNone && (fenceWait (batS true none) e.r e.w e.b.ctx acqKind .dv).isNone),
    meets (cbW 1#32) (batS false none) (fun e => decide (2 ^ 31 ≤ serial 1#32 e.w.batch) && (covered e.w 1#32).any (fun c => !CopyOp.over c)),
    meets (cbW 1#32) (batS false (some 19)) (fun e => e.w.skid.isNone && decide (2 ^ 31 ≤ serial 1#32 e.w.batch) &&
      (covered e.w 1#32).all CopyOp.over && (firstFail e.w (covered e.w 1#32)).isSome),
    meets (cbW 2#32) (batS true none) (fun e => e.w.skid.isNone && decide (serial 2#32 e.w.batch < 2 ^ 31))].all id = true := by decide +kernel

theorem met_CacheMaintenance : [
    [Instr.cflush cm0, .cinv cm0, .clv clv0].all (fun i => meets i (inS 0x1000) (fun e => lanesOk (inS 0x1000) e .g needR false 1 (.s 4) .scl &&
      (inS 0x1000).stcnt e.r e.w == 0 && !drainStuck (inS 0x1000) e.r.core 64 &&
      [Scope.dv, .sy].all (fun sc => let q := reachLanes sc (checkLanes (inS 0x1000) e .g needR false 1 (laneAddr e.w .g (.s 4) none) (accLanes e .scl))
        q.2.1.isEmpty && namedLines q.2.2 == [64]) &&
      [Scope.wp, .cl, .di, .dv, .gp, .sy].all (fun sc => !lineStuck (inS 0x1000) e.r.core 64 sc)))].all id = true := by decide +kernel

/-- The warp at level 2, where `PFMAP` and `TLBINV` run. -/
def sup : State := onW (mapped up) { w0 with level := 2, s := [(4, 0x1000#64)] } b0
def tlbE : TlbEnt := { agent := 0, ctx := 1, g := false, vpage := 0, log2 := 12, pbase := 0x5000, perm := 15#4, cls := 0, rs := false, leaf := 0, pte := 0#64 }
def withTlb (s : State) : State := { s with vm := { s.vm with tlb := [tlbE] } }

theorem met_TlbInvalidation : [
    [Instr.tlbinvPage { hd := hd0, a := .s 4 }, .tlbinvCtx { hd := hd0 }, .tlbinvRange { hd := hd0 }].all (fun i => meets i (withTlb sup) (fun e =>
      (withTlb sup).stcnt e.r e.w == 0 && (fenceWait (withTlb sup) e.r e.w e.b.ctx relK .dv).isNone && !pendingThrough (withTlb sup) (throughTlb [tlbE]) &&
      !pendingThrough (withTlb sup) (fun _ _ _ => true)))].all id = true := by decide +kernel

/-- A leaf of a mapped page at the first entry of each table of tenant 1, whose root is at 0x2000. -/
def tabS (leaf : Nat) : State := { sup with
  mem := ((List.range 4).flatMap (fun i => [(0x2000 + 0x1000 * i, 1#8), (0x2001 + 0x1000 * i, BitVec.ofNat 8 (0x30 + 0x10 * i))])) ++
    (if leaf = 0 then [] else [(0x6000, BitVec.ofNat 8 leaf)])
  vm := { sup.vm with ctx := [(1, { en := true, root := 0x2000 })], rtlb := [(1, [])] } }

/-- The same, with a first-touch leaf. -/
def tabF (n : Nat) : State := { tabS 0 with mem := (tabS 0).mem ++ [(0x6000, 2#8), (0x6001, BitVec.ofNat 8 n)] }

/-- A first-touch leaf, and a pool whose entry at HEAD is the page at 0xB000. -/
def tabP : State := { tabF 1 with
  mem := (tabF 1).mem ++ [(0x9001, 0xA0#8), (0x9008, 4#8), (0x9018, 1#8), (0xA001, 0xB0#8)]
  vm := { (tabF 1).vm with ctx := [(1, { en := true, root := 0x2000, pool := 0x9000 })] } }
/-- No byte of the package is anywhere but in memory. -/
def allHome (s : State) : Bool := s.net.isEmpty && s.dies.all (fun d => d.2.rdc.isEmpty) && s.homes.all (fun h => h.2.lines.isEmpty) && !s.pkg.exp.off0 && !s.pkg.exp.off1

theorem met_FirstTouch : [
    allHome tabP && (match pfWalk tabP 0 5 (tabP.ctxEnt 1).root 1 with
      | .leaf a x => let z := poolRead tabP 0x9000
        a == 0x6000 && pteFt x && bits x 7 7 == 0 && (tabP.mapCause 0x9000 false).isNone && z.snoopNum 0x9010 8 != z.snoopNum 0x9018 8 &&
        (poolFault z 0x9000).isNone && (poolEnt z 0x9000 0).2 == 0xB000 && allHome z
      | _ => false),
    meets (.pfmap { pf0 with a := .s 9 }) (tabS 0x3F) (fun e => (tabS 0x3F).stcnt e.r e.w == 0 && !pfBusy (tabS 0x3F) e.b.ctx [0] && decide (laneAddr e.w .g (.s 9) none 0 < 2 ^ 54) &&
      (pfOne (tabS 0x3F) e.b.ctx 0).2 == .inr 1),
    pfWalk (tabS 0x3F) 0 5 ((tabS 0x3F).ctxEnt 1).root 1 == .mapped, pfWalk up 0 5 (up.ctxEnt 1).root 1 == .upper,
    (match pfWalk (tabS 0) 0 5 ((tabS 0).ctxEnt 1).root 1 with
      | .leaf _ x => !pteFt x
      | _ => false),
    (match pfWalk (tabF 1) 0 5 ((tabF 1).ctxEnt 1).root 1 with
      | .leaf _ x => pteFt x && bits x 7 7 == 0 && ((tabF 1).mapCause ((tabF 1).ctxEnt 1).pool false).isNone &&
        (poolRead (tabF 1) ((tabF 1).ctxEnt 1).pool |> fun z =>
          z.snoopNum (((tabF 1).ctxEnt 1).pool + 16) 8 == z.snoopNum (((tabF 1).ctxEnt 1).pool + 24) 8)
      | _ => false)].all id = true := by decide +kernel

/-- The range table of tenant 1 lies in no region that exists. -/
def farRange : State := { up with vm := { up.vm with ctx := [(1, { en := true, nrange := 1, rtab := 0x8000000000 })] } }
/-- The tables are walked: no range and no page-TLB entry names the page. -/
def walked (s : State) (va : Nat) : Walk :=
  walkFrom ((walkLines (loadRange s 0 1).1 va 5 (s.ctxEnt 1).root 1).foldl readLine (loadRange s 0 1).1) va 5 (s.ctxEnt 1).root 1

theorem met_Translation : [!(up.ctxEnt 1).en, (sup.ctxEnt 1).en && (loadRange sup 0 1).2.any (fun l => (rangeHit l 0x1000).isSome),
    ((withTlb (tabS 0)).ctxEnt 1).en && (loadRange (withTlb (tabS 0)) 0 1).2.any (fun l => (rangeHit l 8).isNone) &&
      tlbHit (withTlb (tabS 0)) 0 1 8 == some tlbE,
    (farRange.ctxEnt 1).en && (loadRange farRange 0 1).2.isNone && (rangeFault farRange 1).isSome,
    [0, 0x3F].all (fun n => ((tabS n).ctxEnt 1).en && (loadRange (tabS n) 0 1).2.any (fun l => (rangeHit l 8).isNone) && (tlbHit (tabS n) 0 1 8).isNone),
    (match walked (tabS 0) 8 with
      | .fault _ _ => true
      | _ => false),
    (match walked (tabS 0x3F) 8 with
      | .leaf _ _ _ => true
      | _ => false)].all id = true := by decide +kernel

/-! ### Hypotheses that can be met: launches, commands, the schedule -/

/-- Registers s1 to s4 of the warp: two addresses for `LAUNCH`. -/
def laS (a b : Nat) : State := onW (mapped up) { w0 with s := [(1, BitVec.ofNat 64 a), (2, BitVec.ofNat 64 b)] } b0
def la0 : Instr := .launch { hd := hd0, d := .k 1, a := .s 1, b := .s 2 }
def node0 : NodeD := { addr := 0x30000, header := 0x20000, ring := 0x40000, timeout := 1, thresh := 1, recsz := 16, cap := 4 }
/-- A header of one role of one warp, on core 0. -/
def hdr0 : Header := {
  nblock := 1
  scr := 4096
  cmask := 1#1024
  roles := [{ entry := 0x100, access := false, warps := 1, vregs := 8, sregs := 4, nacc := 0 }]
  nodes := [node0] }
def graph (pend : List (Nat × Bool)) (tail : Nat) : Launch := {
  ctx := 1
  hdr := hdr0
  issuer := .queue 0
  status := 0
  nbvEff := 2
  tails := [(0, tail)]
  pending := [(0, pend)] }
def sub0 : Submit := { header := 0x20000, status := 0, ctx := 1, lid := 0, bid := 0#32, warp := 0 }
def em0 : Instr := .emit { hd := hd0, d := .k 1, a := .s 1, n := 0#8 }
def emS (o tail : Nat) : State := (laS o 0).setLaunch 0 (graph [] tail)

theorem met_LaunchAndEmit : [
    meets la0 (laS 0x3FFFFFFFFFFFC0 0x3FFFFFFFFFFFF8) (fun e => (fenceWait (laS 0 0) e.r e.w e.b.ctx relK .dv).isNone &&
      decide ((rdReg e.w false 0 (.s 1)).toNat % 64 = 0) && decide ((rdReg e.w false 0 (.s 2)).toNat < 2 ^ 54)),
    [(0, (laS 0 0).fed.subs), (64, List.replicate 64 sub0)].all (fun y => ((laS 0 0).updFed (fun f => { f with subs := y.2 })).fed.subs.length == y.1),
    [(65, 0), (63, 1), (64, 4)].all (fun y => meets la0 (laS y.1 y.2) (fun e => e.w.skid.isNone)),
    [(0x40000000000000, 0), (0, 0x40000000000000)].all (fun y => meets la0 (laS y.1 y.2) (fun e => e.w.skid.isNone &&
      decide (2 ^ 54 ≤ max (rdReg e.w false 0 (.s 1)).toNat (rdReg e.w false 0 (.s 2)).toNat))),
    meets em0 (sent64 (emS 0 0)) (fun e => e.w.skid.isNone && (sent64 (emS 0 0)).stcnt e.r e.w == 64),
    meets em0 (emS 4080 4) (fun e => decide (4080 + node0.recsz ≤ e.b.size) && (emS 4080 4).stcnt e.r e.w == 0 && (fenceWait (emS 4080 4) e.r e.w e.b.ctx relK .dv).isNone &&
      (emS 4080 4).launch? e.b.lid == some (graph [] 4) && (graph [] 4).hdr.nodes[0]? == some node0 && node0.cap == 4),
    meets em0 (emS 0 3) (fun e => (fenceWait (emS 0 3) e.r e.w e.b.ctx relK .dv).isNone && ringSlot (graph [] 3) 0 node0 == 0x40030 &&
      virtIdle (release (emS 0 3) 0 .dv) agentCp e.b.ctx 0x40030 16 needW true &&
      (writeVirt (release (emS 0 3) 0 .dv) agentCp e.b.ctx 0x40030 (getBytes e.b.scr 0 16) needW).2.isNone &&
      (match engineXlat (release (emS 0 3) 0 .dv) agentCp e.b.ctx 0x40030 needW true with
        | (_, .inr p) => decide (p.pa % 64 + 16 ≤ 64)
        | _ => false)),
    meets em0 (laS 0 0) (fun e => e.w.skid.isNone && ((laS 0 0).launch? e.b.lid).isNone),
    meets em0 (emS 8 0) (fun e => e.w.skid.isNone && decide ((rdReg e.w false 0 (.s 1)).toNat % 16 ≠ 0)),
    meets em0 (emS 4096 0) (fun e => e.w.skid.isNone && decide (e.b.size < 4096 + node0.recsz))].all id = true := by decide +kernel

/-- The header of a launch of one block of one warp on core 0, at 0x20000. -/
def hdrMem : List Host.Cell := [(0x20000, 1#8), (0x20001, 1#8), (0x20041, 1#8), (0x20048, 1#8), (0x20049, 4#8), (0x2004A, 1#8), (0x20100, 1#8)]
/-- A command of a code at QHEAD of queue 0 of tenant 1, with a launch header at an address; the ring is at 0x10000. -/
def cpS (code addr : Nat) : State := ({ mapped up with
  mem := (0x10000, BitVec.ofNat 8 code) :: (if addr = 0 then [] else [(0x1000A, BitVec.ofNat 8 (addr / 65536))]) ++ hdrMem } : State).updQueue 0 (fun q =>
    { q with en := true, ctx := 1, base := 0x10000, tail := 1#64 })
/-- The command found at QHEAD of queue 0 has that code. -/
def found (s : State) (code : Nat) : Bool :=
  match findCmd s 0 with
  | (_, .cmd l) => fieldAt l 0 1 == code
  | _ => false
def busyQ (s : State) : State := s.updQueue 0 (fun q => { q with cmds := [{ num := 0 }] })

theorem met_CommandQueues : [
    (up.queue 63).stop == 0 && decide (63 < 64), (cpS 1 0).queue 0 != {}, (up.queue 0).tail == (up.queue 0).head,
    ((cpS 1 0).queue 0).stop == 0 && decide (2 ^ ((cpS 1 0).queue 0).log2n < (BitVec.ofNat 64 17 - ((cpS 1 0).queue 0).head).toNat),
    (findCmd (cpS 8 0) 0).2 == .stop 1,
    found (cpS 1 0x20000) 1 && (acceptLaunch (cpS 1 0x20000) 1 0x20000 0 (.queue 0)).2.isSome,
    found (cpS 1 0) 1 && (acceptLaunch (cpS 1 0) 1 0 0 (.queue 0)).2.isNone,
    (up.updFed (fun f => { f with subs := [sub0] })).fed.subs[0]? == some sub0 &&
      !((up.updFed (fun f => { f with subs := [sub0] })).fed.subs.take 0).any (fun y => y.warp == 0),
    (match checkLaunch (cpS 1 0) 1 4 with
      | (_, .inl (c, _)) => c == 8
      | _ => false),
    found (cpS 2 0) 2 && queueIdle (cpS 2 0) 0, found (cpS 3 0) 3 && queueIdle (cpS 3 0) 0, found (cpS 4 0) 4,
    found (cpS 6 0) 6 && queueIdle (cpS 6 0) 0 && bits 6 10 8 != 6, found (cpS 7 0) 7 && queueIdle (cpS 7 0) 0,
    found (busyQ (cpS 7 0)) 7 && !queueIdle (busyQ (cpS 7 0)) 0].all id = true := by decide +kernel

/-- The launch of the header, at its first block, with a node. -/
def dealS (aff : Bool) : State := (up.setLaunch 0 { graph [] 0 with hdr := { hdr0 with affinity := aff, affBase := 9#64 } }).updCore 0 (fun c =>
  { c with rt := if aff then [(0, { name := 9#64, tenant := 1#6, state := 2#3, nquad := 1#6 })] else [] })
/-- The same with the node's launch, and a pending record of cycle 0 that was written. -/
def nodeS : State := ((mapped up).setLaunch 0 (graph [(0, true)] 1)).setLaunch 1 { graph [] 0 with issuer := .node 0 0 }
def clockAt (s : State) (n : Nat) : State := s.updCtl (fun c => { c with clock := n })
/-- So many microseconds of real time have passed. -/
def timeAt (s : State) (n : Nat) : State := s.updCtl (fun c => { c with time := n * usTicks })
/-- Every lane of the warp has exited; the block has another warp, or not. -/
def endS (others : List Nat) : State := onW (up.setLaunch 0 { graph [] 0 with next := 1, running := 1 }) { w0 with exited := allLanes } { b0 with slots := 0 :: others }

theorem met_BlocksAndNodes : [
    !dealBlocked (dealS false) 0 (graph [] 0) && eligible (dealS false) 1 hdr0 == [0] && firstFit (dealS false) [0] 0 (hdrNeed hdr0) == some 0 &&
      colocSet hdr0 0 == none,
    holders (dealS true) 1 [0] (affName { hdr0 with affBase := 9#64 } 0) == [0] && coreFits ((dealS true).core 0) (hdrNeed hdr0),
    [true, false].all (fun b => let s := nodeS.updLaunch 1 (fun l => { l with aborted := b, hdr := { l.hdr with cmask := 0#1024 } })
      (childOf s 0 0).any (fun c => c.1 == 1 && c.2.aborted == b && (eligible s c.2.ctx c.2.hdr).isEmpty) && decide (max 1 node0.thresh ≤ 1)),
    (childOf nodeS 0 0).any (fun c => !c.2.aborted) && (readRecs nodeS 1 node0 0 [(0, true)] .done).2.isSome && firstFit nodeS (eligible nodeS 1 hdr0) 0 (hdrNeed hdr0) == some 0,
    (timeAt nodeS 1 |> fun s => (childOf s 0 0).isSome && decide (0 + node0.timeout * usTicks ≤ s.ctl.time) && node0.timeout == 1 &&
      (readRecs s 1 node0 0 [(0, true)] .done).2.isSome),
    [endS [1], endS []].all (fun s => s.warp? r0 == some { w0 with exited := allLanes } && State.ldcnt w0 == 0 && s.stcnt r0 w0 == 0 && State.cpcnt w0 == 0 &&
      s.tlcnt r0 == 0),
    releaseReady (dropWarp (endS []) r0) 0 .dv].all id = true := by decide +kernel

/-- Core 0 with warps 0 and 1 of the small block: 0 in the active set, 1 ready. -/
def schedS (w : Warp) : State := (onW up w { b0 with slots := [0, 1] }).updCore 0 (fun c =>
  { c with active := [0], ready := [1], warps := mset c.warps 1 { w0 with id := 1 } })
def waits (w : Option WaitR) : Warp := { w0 with wait := w }

theorem met_WarpSchedule : [
    decide (15 < 16) && (up.lpt 1023).isSome, decide (bits 10 3 0 ≤ 10) && (up.core 0).blocks.isEmpty, !((schedS w0).core 0).blocks.isEmpty,
    decide (10 < bits 11 3 0), ((schedS (waits (some .load))).core 0).active.contains 0 && vacates ((schedS (waits (some .load))).core 0) 0,
    vacates ((schedS (waits (some .yielded))).core 0) 0, !((schedS w0).core 0).active.contains 63 && ((schedS w0).core 0).hasPlace,
    (((schedS w0).updCore 0 (fun c => { c with active := vacant :: List.replicate 7 0 })).core 0).hasPlace,
    ((schedS w0).core 0).ready == [1] && mfind ((schedS w0).core 0).warps 0 == some w0 && w0.level == 0 &&
      ((schedS w0).core 0).active == [0] && mfind ((schedS (waits (some .yielded))).core 0).warps 0 == some (waits (some .yielded)),
    (schedS (waits (some (.sleep 0 8#54)))).warp? r0 == some (waits (some (.sleep 0 8#54))),
    (schedS (waits (some (.service 26 5 8#54)))).warp? r0 == some (waits (some (.service 26 5 8#54))),
    (schedS (waits (some (.service 23 0 8#54)))).warp? r0 == some (waits (some (.service 23 0 8#54))),
    (schedS (waits (some (.page 64 3#32)))).warp? r0 == some (waits (some (.page 64 3#32))) && ((schedS w0).block? 0 0).isSome,
    ((schedS (waits (some (.ring 0)))).setLaunch 0 (graph [] 0)).warp? r0 == some (waits (some (.ring 0))) && (graph [] 0).hdr.nodes[0]?.isSome,
    (schedS (waits (some .area))).warp? r0 == some (waits (some .area)),
    [Phase.stopping, .aborting].all (fun p => let s := (onW (clockAt up 65536) { w0 with level := 1 } { b0 with phase := p })
      (s.block? 0 0) == some { b0 with phase := p } && !w0.held && decide (w0.handlerSince + 65536 ≤ s.ctl.clock))].all id = true := by decide +kernel

/-- Memory that holds some numbers: address, bytes and value, addresses rising. -/
def cells (l : List (Nat × Nat × Nat)) : List Host.Cell :=
  l.flatMap (fun x => (bytesAt x.1 (leBytes x.2.1 x.2.2)).filter (fun c => c.2 != 0#8))

/-! ### Hypotheses that can be met: residencies and the matrix unit -/

/-- Entry 5 of core 0, of generation 3 and one quad of tenant 1, in a state. -/
def ren (st : BitVec 3) : RtEnt := {
  name := 9#64
  gen := 3#10
  state := st
  srcv := true
  tenant := 1#6
  nquad := 1#6
  qmask := if st = 4#3 then 0#32 else 1#32
  src := 0x8000#54
  length := 34816#32 }
/-- Core 0 with that entry, a quota of two quads, and s5 to s8: a scratchpad address, the handle, a source and a length. -/
def resC (e : RtEnt) (h : Nat) : State := (onW (mapped up) { w0 with
  s := [(1, 9#64), (3, 9#64), (5, 0#64), (6, BitVec.ofNat 64 h), (7, 0x8000#64), (8, 34816#64)] } b0).updCore 0 (fun c =>
    { c with rt := [(5, e)], quota := [(1, { used := 4, limit := 8 })] })
def resS (st : BitVec 3) : State := resC (ren st) 197
/-- The same with a running load of entry 5, stopping or not. -/
def resL (e : RtEnt) (stop : Bool) : State := (resC e 197).updCore 0 (fun c => { c with resl := [{ idx := 5, ctx := 1, num := none, stopping := stop }] })
def alloc0 (q : W32) : FResalloc := { hd := hd0, d := .s 3, a := .s 1, src := .imm q }
def fa6 : FA := { hd := hd0, a := .s 6 }
def fda6 : FDA := { hd := hd0, d := .s 3, a := .s 6 }
def resld : FResload := { hd := hd0, ty := .bfp8, d := .s 3, a := .s 6, b := .s 7, c := .s 8 }
/-- The handle in s6 is valid. -/
def valid6 (s : State) (e : Env) : Bool :=
  decide ((rdReg e.w false 0 (.s 6)).toNat < 65536) && (rtValid (s.core 0) e.b.ctx (rdReg e.w false 0 (.s 6)).toNat).isSome
def relDv (s : State) (e : Env) : Bool := (fenceWait s e.r e.w e.b.ctx relK .dv).isNone
/-- An entry without quads, where a pinned one has all of the 32 that there may be. -/
def resFull (e : RtEnt) : State := (resC { e with qmask := 0#32 } 197).updCore 0 (fun c =>
  { c with rt := c.rt ++ [(6, { ren 3#3 with qmask := 0xFFFFFFFF#32 })] })
/-- The core without the entry, and with the quota. -/
def noEnt : State := (resS 2#3).updCore 0 (fun c => { c with rt := [] })

theorem met_ResidencyHandles : [
    runs (resS 2#3) (.resalloc (alloc0 1#32)), (rtByName ((resS 2#3).core 0) 1 9#64).isSome, (rtByName (noEnt.core 0) 1 9#64).isNone,
    decide (quadsOf noEnt 0 < 33), decide (2 ≤ quadsOf noEnt 0) && decide ((quotaOf noEnt 0 1).limit < (quotaOf noEnt 0 1).used + 4 * 2),
    decide (63 < 64) && (resAlloc noEnt 0 1 9#64 1).2.2 == 0,
    ([2#3, 3#3, 5#3] : List (BitVec 3)).all (fun st => meets (.resunpin fa6) (resS st) (valid6 (resS st)) && meets (.respin fa6) (resS st) (valid6 (resS st)) &&
      meets (.resfree fa6) (resS st) (valid6 (resS st))),
    meets (.respin fa6) (resS 4#3) (fun e => valid6 (resS 4#3) e && !sourceBusy (resS 4#3) 1 0x8000 34816 &&
      relDv ((resS 4#3).setRt 0 5 { ren 4#3 with pin := true }) e),
    runs (resS 2#3) (.resq fda6),
    [Instr.respin fa6, .resunpin fa6, .resfree fa6, .resref fda6, .resload resld].all (fun i => [65535, 198].all (fun h =>
      let s := resC (ren 2#3) h
      meets i s (fun e => e.w.skid.isNone && decide ((rdReg e.w false 0 (.s 6)).toNat < 65536) && !valid6 s e)))].all id = true := by decide +kernel

theorem met_ResidencyLoads : [
    [0x8001, 0x40000000000000].all (fun a => meets (.resload { resld with b := .s 2 }) ((resS 2#3).setWarp r0
      { w0 with s := [(2, BitVec.ofNat 64 a), (6, 197#64)] }) (fun e => valid6 (resS 2#3) e && e.w.skid.isNone)),
    meets (.resload resld) (resS 1#3) (valid6 (resS 1#3)), meets (.resload resld) (resC { ren 2#3 with nquad := 2#6 } 197) (valid6 (resS 2#3)),
    ([2#3, 4#3, 5#3] : List (BitVec 3)).all (fun st => meets (.resload resld) (resS st) (fun e => valid6 (resS st) e && relDv (resS st) e &&
      ((resS st).core 0).resl.isEmpty && !sourceBusy (resS st) 1 0x8000 34816 && (entryQuads (release (resS st) 0 .dv) 0 (ren st)).isSome &&
      (1 : Nat) * imageLen 0 == 34816)),
    ([2#3, 4#3, 5#3] : List (BitVec 3)).all (fun st => meets (.resload resld) (resFull (ren st)) (fun e => valid6 (resFull (ren st)) e &&
      relDv (resFull (ren st)) e && !sourceBusy (resFull (ren st)) 1 0x8000 34816 &&
      (entryQuads (release (resFull (ren st)) 0 .dv) 0 { ren st with qmask := 0#32 }).isNone)),
    meets (.resref fda6) (resC { ren 5#3 with srcv := false } 197) (valid6 (resC { ren 5#3 with srcv := false } 197)),
    ([1#3, 2#3, 3#3, 4#3, 5#3] : List (BitVec 3)).all (fun st => meets (.resref fda6) (resS st) (fun e => valid6 (resS st) e && relDv (resS st) e &&
      ((issueNum (release (resS st) 0 .dv) 1 4096).2 |> fun y => (entryQuads y 0 ((y.core 0).rtEnt 5)).isSome))),
    ([4#3, 5#3] : List (BitVec 3)).all (fun st => meets (.resref fda6) (resFull (ren st)) (fun e => valid6 (resFull (ren st)) e && relDv (resFull (ren st)) e &&
      ((issueNum (release (resFull (ren st)) 0 .dv) 1 4096).2 |> fun y => (entryQuads y 0 ((y.core 0).rtEnt 5)).isNone))),
    (runningLoad (resL (ren 1#3) false) 0 5).isSome && (runningLoad (resL { ren 1#3 with srcv := false } false) 0 5).isSome &&
      (resL (ren 1#3) false |> fun s => (s.core 0).mu.isEmpty && virtIdle s (agentRes (s.siteOf 0)) 1 0x8000 34816 (engineNeed false needR) false &&
        !sourceBusy s 1 0x8000 34816 && (mfind s.cores 0).isSome && (match engineXlat s (agentRes (s.siteOf 0)) 1 0x8040 (engineNeed false needR) false with
          | (_, .inr _) => true
          | _ => false)),
    ((resL (ren 1#3) true).core 0).resl.any (fun r => r.idx == 5 && r.stopping), (up.ctl.clock / 1024) % 2 ^ 30 == 0].all id = true := by decide +kernel

/-- The source of one page-sized piece can be read. -/
theorem met_ResidencySource : (match readVirt ((srcPages { ren 1#3 with length := 64#32 }).foldl (fun s va => markSource s 0 5 1 va false)
      (loadLog (resL { ren 1#3 with length := 64#32 } false) 0 { ren 1#3 with length := 64#32 } false 0 .corrected)) (agentRes 0) 1 0x8000 64 (engineNeed false needR) with
    | (_, .inr l) => l.length == 64
    | _ => false) = true := by decide +kernel

/-- A RES_PRELOAD of name 9 for logical core 0 at queue 0: source 0x20000 and a length. -/
def preS (len : Nat) (used : Nat) : State := { cpS 5 0 with
  mem := (0x10000, 5#8) :: (0x10008, 9#8) :: (0x10012, 2#8) ::
    (bytesAt 0x10018 (leBytes 3 len)).filter (fun c => c.2 != 0#8) } |> fun s => s.updCore 0 (fun c => { c with quota := [(1, { used := used, limit := 8 })] })

/-- The same with bits 25 to 24 of its first word, a name and a source, and the length of one image. -/
def preN (hi name src : Nat) : State := { preS 34816 0 with
  mem := cells [(0x10000, 8, 5 + 2 ^ 24 * hi + (if hi = 3 then 0xFF0000 else 0)), (0x10008, 8, name), (0x10010, 8, src), (0x10018, 8, 34816)] }

theorem met_ResidencyPreload : [
    found (preS 34816 0) 5 && preShapes 34816 == [(0, 1)] && (rtByName ((preS 34816 0).core 0) 1 9#64).isNone,
    found (preN 3 9 0x20000) 5 && ((preN 3 9 0x20000).updPkg (fun p => { p with passed := 1#8 })).lpt 1023 == none,
    found (preN 0 0 0x20000) 5, found ((preS 64 0).updCore 0 (fun c => { c with rt := [(5, { ren 2#3 with name := 9#64 })] })) 5 &&
      (rtByName (((preS 64 0).updCore 0 (fun c => { c with rt := [(5, { ren 2#3 with name := 9#64 })] })).core 0) 1 9#64).isSome,
    found (preS 64 0) 5 && (preShapes 64).isEmpty && (quotaOf (preS 64 0) 0 1).limit == 8,
    ((preS 64 0).updCore 0 (fun c => { c with quota := [] }) |> fun s => (quotaOf s 0 1).limit == 0 && found s 5),
    (preS 34816 0 |> fun s => (s.lpt 0).isSome && !sourceBusy s 1 0x20000 34816 && (resAlloc s 0 1 9#64 1).2.2 == 0),
    (resAlloc (preS 34816 8) 0 1 9#64 1).2.2 == 2, found (preN 0 9 0x20001) 5 && found (preN 0 9 0x40000000000000) 5].all id = true := by decide +kernel

/-- One accepted `TMMA` of the warp, at a K-block or not started. -/
def mu0 (run : Option Nat) : Tmma := { id := 3, slot := 0, blk := 0, acc := 1, base := 0, handle := 197#16, tile := 0, plane1 := false, fmt := 0x000400#24,
                                       scales := [], nbv := 2, ran := run == some 16,
                                       run := run.map (fun k => { quad := 0, k := k, acc := List.replicate 1024 0 }) }
/-- The matrix unit of core 0 holds it; the block's scratchpad is 8 KiB. -/
def tmS (e : RtEnt) (m : List Tmma) (w : Warp) : State := (onW (mapped up) w { b0 with size := 8192 }).updCore 0 (fun c =>
  { c with rt := [(5, e)], mu := m })
def tmW : Warp := { w0 with s := [(5, 0#64), (6, 197#64)] }
def tmChk (s : State) (w : Warp) (p : Env → Bool) : Bool :=
  meets (.tmma tmma0) (s.setWarp r0 w) (fun e => e.w.skid.isNone && e.w.heldAt.isNone && p e)
/-- The residency of the handle, for a `TMMA` that passes its checks. -/
def tmHas (e : RtEnt) (found : Bool) : Bool := let s := tmS e [] tmW
  tmChk s tmW (fun v => (tmmaCheck v tmma0 (fmtSsel v.w.fmt) 0 197).isNone && s.tlcnt v.r == 0 &&
    (match tmmaRes (s.core 0) v.b.ctx 197 0 v.w.exec with
      | .inr (_, y) => found && y.state == e.state
      | .inl _ => !found))

theorem met_MatrixMultiply : [
    ([1#3, 2#3, 3#3, 4#3] : List (BitVec 3)).all (fun st => tmHas (ren st) true), tmHas (ren 5#3) false,
    tmChk (tmS (ren 4#3) [] tmW) tmW (fun e => !sourceBusy (tmS (ren 4#3) [] tmW) 1 0x8000 34816 && relDv (tmS (ren 4#3) [] tmW) e &&
      (startRefill (release (tmS (ren 4#3) [] tmW) 0 .dv) 0 5 { idx := 5, ctx := 1, num := none }).isSome &&
      (release (tmS (ren 4#3) [] tmW) 0 .dv).cores == (tmS (ren 4#3) [] tmW).cores),
    (resFull (ren 4#3) |> fun s => (startRefill (release s 0 .dv) 0 5 { idx := 5, ctx := 1, num := none }).isNone &&
      meets (.tmma tmma0) s (fun e => e.w.skid.isNone && e.w.heldAt.isNone && relDv s e && !sourceBusy s 1 0x8000 34816)),
    tmChk (tmS (ren 2#3) [] tmW) { tmW with exec := 1#32 } (fun e => (tmmaCheck e tmma0 (fmtSsel e.w.fmt) 0 197).isSome),
    meets (.tmma tmma0) ((tmS (ren 2#3) [] tmW).setWarp r0 { tmW with heldAt := some (.goes 8#54) }) (fun e => e.w.heldAt == some (.goes 8#54)),
    meets (.tmma tmma0) ((tmS (ren 2#3) [] tmW).setWarp r0 { tmW with heldAt := some (.withdrawn 22 197 9#64) }) (fun e => e.w.skid.isNone &&
      e.w.heldAt == some (.withdrawn 22 197 9#64)),
    (tmS (ren 2#3) [mu0 none] tmW |> fun s => (s.core 0).mu == [mu0 none] && !issueHeld s && (quadList ((s.core 0).rtEnt 5).qmask)[0]? == some 0),
    ([0, 15].all fun k => let s := tmS (ren 2#3) [{ mu0 (some k) with image := List.replicate 8192 0#8 }] tmW
      decide (k + ([] : List Nat).count 1023 < 16) && (s.core 0).mu.length == 1 && !arrayHeld s && (s.warp? r0).isSome && (s.block? 0 0).any (fun b => (List.range 16).all (fun i =>
        ((List.replicate 8192 0#8).drop (runAt 8 i k)).take 32 == getBytes b.scr (0 + runAt 8 i k) 32))),
    ((tmS (ren 2#3) [mu0 (some 16)] tmW).core 0).mu == [mu0 (some 16)] && (mu0 (some 16)).ran].all id = true := by decide +kernel

/-- The own store that the release of a `TMMA` performs makes the residency stale whose refill it would begin. -/
theorem met_StaleByRelease : (let s := (tmS { ren 4#3 with pages := [(8, 8)] } [] tmW).updCore 0 (fun c =>
      { c with wb := [(0, [{ slot := 0, op := 9, ctx := 1, cls := 0, chain := 0, ef := false, bytes := [(0x8000, 1#8)] }])] })
    meets (.tmma tmma0) s (fun e => e.w.skid.isNone && e.w.heldAt.isNone && relDv s e && !sourceBusy s 1 0x8000 34816 &&
      (tmmaCheck e tmma0 (fmtSsel e.w.fmt) 0 197).isNone && (match tmmaRes (s.core 0) 1 197 0 e.w.exec, tmmaRes ((release s 0 .dv).core 0) 1 197 0 e.w.exec with
        | .inr _, .inl _ => true
        | _, _ => false))) = true := by decide +kernel

/-- A packet in flight. -/
def pkt (k : MsgKind) (src dst line : Nat) : Msg := { id := 1, kind := k, src := src, dst := dst, line := line, inc := 1, rinc := 1 }

/-! ### Hypotheses that can be met: the key-value engine -/

/-- A directory entry's first word. -/
def dirW (addr ver tier ref : Nat) : Nat := addr * 2 ^ 32 + ver * 2 ^ 24 + tier * 2 ^ 20 + ref
/-- A pool at 0x20000 of four blocks of 2^bs bytes with records of 64 bytes: block 0 has one reference, block 1 has two, block 2 is in
the ID ring, block 3 is free; one storage address in the rings of tiers 1 and 2, or none where `full`; the sequence at 0x40000
has a table of two entries, blocks 0 and 1, and a length; the sequence at 0x40010 is empty. -/
def kvMem (bs len : Nat) (full : Bool) : List Host.Cell := cells [
  (0x20000, 8, 0x30000), (0x20008, 8, 4 * 2 ^ 32 + 6 * 256 + bs), (0x20010, 8, 0x21000), (0x20018, 8, 4), (0x20028, 8, if full then 0 else 1),
  (0x20030, 8, 0x22000), (0x20038, 8, 4), (0x20048, 8, 1), (0x20050, 8, 0x23000), (0x20058, 8, 4), (0x20068, 8, 1),
  (0x21000, 4, 2), (0x22000, 4, 0x60), (0x23000, 4, 0x61), (0x30000, 8, dirW 0x50 1 1 1), (0x30010, 8, dirW 0x51 1 1 2),
  (0x40000, 8, 0x41000), (0x40008, 8, 2 * 2 ^ 32 + len), (0x40010, 8, 0x42000), (0x40018, 8, 2 * 2 ^ 32), (0x41000, 4, 2 ^ 31), (0x41004, 4, 2 ^ 31 + 1)]
/-- The warp: s10 the pool, s11 the sequence, s12 the other; lane 0 names a token in v6 and an offset in v7. -/
def kvWarp (tok : Nat) : Warp := { w0 with
  exec := 1#32
  s := [(10, 0x20000#64), (11, 0x40000#64), (12, 0x40010#64)]
  v := [(192, BitVec.ofNat 32 tok), (224, 60#32)] }
def kvS (len tok : Nat) (full : Bool) : State := { onW (mapped up) (kvWarp tok) b0 with mem := kvMem 12 len full }
/-- The same with blocks of 128 bytes, which keep the check of a copy short. -/
def kvC (len tok : Nat) : State := { onW (mapped up) (kvWarp tok) b0 with mem := kvMem 7 len false }
/-- The same with no block free in STORE1. -/
def kvCnoTail (len tok : Nat) : State :=
  let s := kvC len tok
  { s with mem := s.mem.filter (fun c => c.1 != 0x20048) }
def app0 : FKv := { kv0 with d := .s 3, c := .v 6 }
def rel0 (j : W32) : FKvrel := { hd := hd0, d := .s 3, a := .s 10, b := .s 11, j := j }
/-- `KVFORK` of k entries from the sequence in s11 to the empty one in s12. -/
def fork0 (k : W32) : FKv4 := { kv4 with b := .s 12, c := .s 11, im := k }
/-- The instruction reaches its pool and sequence, and a condition holds of what was read. -/
def kvReach (i : Instr) (s : State) (p : Env → State → KvPool → KvSeq → Bool) : Bool :=
  meets i s (fun e => (kvCheck [(kvReg e (.s 10), 64), (kvReg e (.s 11), 16)]).isNone && e.w.skid.isNone && (s.stcnt e.r e.w == 0) && e.w.loads.isEmpty &&
    (match kvPoolAt s e (kvReg e (.s 10)) with
      | none => false
      | some (s1, q) => match kvSeqAt s1 e (kvReg e (.s 11)) (kvR e) with
        | none => false
        | some (s2, y) => p e s2 q y))
def lanesAt (s : State) (e : Env) (p : KvPool) (q : KvSeq) (f : List LaneFault → List KvHit → State → Bool) : Bool :=
  match kvLanesAt s e p q (kvR e) 4 (.v 6) with
  | none => false
  | some (s3, bad, hits) => f bad hits s3

theorem met_KvAddresses : [
    [Instr.kvld kv0, .kvst kv0, .kvapp app0, .kvrel (rel0 0#32)].all (fun i =>
      let s := onW (mapped up) { kvWarp 0 with s := [(10, 0x20020#64)] } b0
      meets i s (fun e => e.w.skid.isNone && e.w.loads.isEmpty && (kvCheck [(kvReg e (.s 10), 64), (kvReg e (.s 11), 16)]).isSome)),
    meets (.kvdem { kv4 with c := .s 12 }) (kvS 64 0 false) (fun e => (kvCheck [(kvReg e (.s 10), 64), (kvReg e (.s 12), 8)]).isNone &&
      (kvPoolAt (kvS 64 0 false) e (kvReg e (.s 10))).any (fun y => (demCause y.1 y.2 (kvReg e (.s 11)) 0).isNone)),
    [(Reg.s 11, some 4), (.s 13, none)].all (fun y => meets (.kvdem { kv4 with b := y.1, c := .s 12, im := 2#32 }) (kvS 64 0 false) (fun e =>
      match kvPoolAt (kvS 64 0 false) e (kvReg e (.s 10)) with
        | none => false
        | some (s1, p) => let n := issueNum s1.freshId.2 1 0x2000
          let z := giveNum n.2 e (.s 3) 0x2000 n.1
          (demCause s1 p (kvReg e y.1) 2).isNone && demRefusal z p (kvReg e y.1) 2 == y.2 && (ringTake z p 2).2.isSome))].all id = true := by decide +kernel

/-- Block 0 is being moved. -/
def kvMov (len tok : Nat) : State := { kvS len tok false with
  mem := (kvMem 12 len false).map (fun c => if c.1 = 0x30002 then (c.1, c.2 ||| 0x80#8) else c) }
/-- Some bytes of the structures are 0. -/
def kvCut (len a n : Nat) : State := { kvS len 0 false with mem := (kvMem 12 len false).filter (fun c => decide (c.1 < a) || decide (a + n ≤ c.1)) }
/-- A byte of the structures is another one. -/
def kvByte (s : State) (a : Nat) (v : Byte) : State := { s with mem := memPut s.mem a v }
/-- The next copy or store of the engine meets an uncorrectable error. -/
def kvMeets (s : State) : State := s.updCtl (fun c => { c with kvMet := [(0, .failed 19)] })
/-- An append whose block comes from `mk` fails so, or goes through. -/
def appends (s : State) (e : Env) (p : KvPool) (q : KvSeq) (tbl : List Nat) (mk : State → State × (KvErr ⊕ Nat)) (off : Nat) (r : Option KvErr) : Bool :=
  match mk s with
  | (_, .inl k) => r == some k
  | (_, .inr _) => r.isNone && s.ctl.kvMet.isEmpty && (match kvTableAt e q.bt (kvW e) tbl s with
    | none => false
    | some (s1, _) => match kvWordAt s1 e (q.va + 8) 4 (kvW e) with
      | none => false
      | some (s2, _) => match mk s2 with
        | (s3, .inr b) => (kvToken s3 e p b off 4 (.v 6)).isRight
        | _ => false)
def fresh (e : Env) (p : KvPool) (q : KvSeq) (ix : Nat) (s : State) : State × (KvErr ⊕ Nat) := match newBlk s p with
  | (s1, .inr n) => (kvSetBte s1 e q ix n, .inr n)
  | r => r
/-- Some block that the lanes write is being moved. -/
def heldBlk (s3 : State) (p : KvPool) (hits : List KvHit) : Bool :=
  (((hits.map (·.blk)).eraseDups).map (fun b => (entGet s3 p b).2)).any (fun b => b.ref = 1 && b.moving)

theorem met_KvLoads : [
    kvReach (.kvld kv0) (kvS 64 63 false) (fun e s p q => lanesAt s e p q (fun bad hits _ => bad.isEmpty && !hits.isEmpty)),
    (kvS 64 63 false |> fun s => s.setWarp r0 { kvWarp 63 with exec := 3#32, v := [(192, 63#32), (193, 64#32), (224, 60#32), (225, 60#32)] }) |> fun s =>
      kvReach (.kvld kv0) s (fun e z p q => lanesAt z e p q (fun bad hits _ => !bad.isEmpty && !hits.isEmpty)),
    [Instr.kvld kv0, .kvst kv0].all (fun i => kvReach i (kvS 64 64 false) (fun e s p q => lanesAt s e p q (fun bad hits _ => !bad.isEmpty && hits.isEmpty))),
    kvReach (.kvst kv0) (kvMov 64 63) (fun e s p q => lanesAt s e p q (fun _ hits s3 => heldBlk s3 p hits)),
    [(kvS 64 63 false, true), (kvC 3 2, true), (kvMeets (kvS 64 63 false), false), (kvByte (kvS 64 63 false) 0x30007 8, false)].all (fun x =>
      kvReach (.kvst kv0) x.1 (fun e s p q => lanesAt s e p q (fun bad hits s3 =>
      let blks := (hits.map (·.blk)).eraseDups
      let es := blks.map (fun b => (b, (entGet s3 p b).2))
      let ixs := ((hits.filter (fun h => ((es.filter (fun b => b.2.ref > 1)).map (·.1)).contains h.blk)).map (·.ix)).eraseDups
      bad.isEmpty && !hits.isEmpty && !heldBlk s3 p hits && (match kvTableAt e q.bt (kvW e) ixs s3 with
        | none => false
        | some (s4, _) => let c := kvCows e p q hits blks s4
          (hits.foldl (kvstLane kv0 e p (kvReg e (.s 11)) c.2) (c.1, [])).2.isEmpty == x.2 && hits.all (fun h => match mfind c.2 h.blk with
            | some (.inr b) => (kvWrite c.1 p b h.off (storeBytes e.w .vec (.v 3) h.lane 4)).isRight == (x.1.mem == (kvS 64 63 false).mem || x.2)
            | _ => false)))))].all id = true := by decide +kernel

theorem met_KvAppends : [
    kvReach (.kvapp app0) (kvS 128 0 false) (fun _ _ p q => decide (q.nbte ≤ q.len / KvPool.tpb p)),
    [(kvS 64 0 false, none), (kvS 64 0 true, some (24, 1)), (kvByte (kvS 64 0 false) 0x20014 0x80, some (19, 0))].all (fun (y : State × Option KvErr) =>
      kvReach (.kvapp app0) y.1 (fun e s p q => q.len % KvPool.tpb p == 0 && (match kvTableAt e q.bt (kvR e) [1] s with
        | some (s3, [_]) => appends s3 e p q [1] (fresh e p q 1) 0 y.2
        | _ => false))),
    kvReach (.kvapp app0) (kvS 63 0 false) (fun e s p q => (match kvTableAt e q.bt (kvR e) [0] s with
      | some (s3, [v]) => bteValid v && bteBlk v == 0 && (entCause s3 p 0).isNone && !KvEnt.gone (entGet s3 p 0).2 && (entGet s3 p 0).2.ref == 1 &&
        !(entGet s3 p 0).2.moving && appends (entGet s3 p 0).1 e p q [] (fun s => (s, .inr 0)) 4032 none
      | _ => false)),
    [(false, none), (true, some (24, 2))].all (fun (y : Bool × Option KvErr) => kvReach (.kvapp app0) (if y.1 then kvCnoTail 3 0 else kvC 3 0)
      (fun e s p q =>
      (match kvTableAt e q.bt (kvR e) [1] s with
        | some (s3, [v]) => bteValid v && bteBlk v == 1 && (entCause s3 p 1).isNone && decide (1 < (entGet s3 p 1).2.ref) &&
          appends (entGet s3 p 1).1 e p q [1] (fun s => cowBlk s p 1 (fun s n => kvSetBte s e q 1 n)) 64 y.2
        | _ => false))),
    [(kvCut 63 0x41000 4, 0), (kvCut 63 0x30000 2, 1), (kvMov 63 0, 2), (kvByte (kvS 63 0 false) 0x20004 0x80, 3)].all (fun y => kvReach (.kvapp app0) y.1 (fun e s p q =>
      (match kvTableAt e q.bt (kvR e) [0] s with
        | some (s3, [v]) => let x := (entGet s3 p (bteBlk v)).2
          let c := entCause s3 p (bteBlk v)
          [!bteValid v, bteValid v && c.isNone && KvEnt.gone x, bteValid v && c.isNone && !KvEnt.gone x && x.ref == 1 && x.moving,
            bteValid v && c == some 19][y.2]? == some true
        | _ => false)))].all id = true := by decide +kernel

/-- What a fork of k entries meets: a number out of range, entries that do not all name a block, a block that takes no reference, or nothing. -/
def forks (s : State) (k : Nat) : Option Nat :=
  (ready (.kvfork (fork0 (BitVec.ofNat 32 k))) s).bind (fun e => (kvPoolAt s e (kvReg e (.s 10))).bind (fun y =>
    (kvSeqAt y.1 e 0x40010 (kvR e)).bind (fun d => (kvSeqAt d.1 e 0x40000 (kvR e)).bind (fun z =>
      if d.2.nbte < k then some 4
      else (kvTableAt e z.2.bt (kvR e) (List.range k) z.1).bind (fun t =>
        let ids := t.2.map bteBlk
        if t.2.any (fun v => !bteValid v || decide (y.2.nblk ≤ bteBlk v)) then some 14
        else match (addRefs y.2 ids t.1).2 with
        | .inl c => some (100 + c)
        | .inr (n + 1) => some (n + 1)
        | .inr 0 => (kvTableAt e d.2.bt (kvW e) (List.range k) t.1).bind (fun u => (kvWordAt u.1 e 0x40018 4 (kvW e)).map (fun v =>
          match (addRefs y.2 ids v.1).2 with | .inr n => n | .inl c => 200 + c)))))))
/-- The same for a release from j on. -/
def frees (s : State) (j : Nat) : Option Nat :=
  (ready (.kvrel (rel0 (BitVec.ofNat 32 j))) s).bind (fun e => (kvPoolAt s e (kvReg e (.s 10))).bind (fun y =>
    (kvSeqAt y.1 e 0x40000 (kvR e)).bind (fun q =>
      if q.2.nbte < j then some 4
      else
        let ixs := (List.range (q.2.nbte - j)).map (fun i => j + i)
        (kvTableAt e q.2.bt (kvR e) ixs q.1).bind (fun t =>
          let live := (ixs.zip t.2).filter (fun y => bteValid y.2)
          if live.any (fun v => decide (y.2.nblk ≤ bteBlk v.2)) then some 14
          else if !live.all (fun v => (entCause t.1 y.2 (bteBlk v.2)).isNone) then none
          else if live.any (fun v => KvEnt.gone (entGet t.1 y.2 (bteBlk v.2)).2) then some 5
          else if !(relCauses t.1 y.2 (live.map (fun v => bteBlk v.2))).all (·.isNone) then none
          else (kvTableAt e q.2.bt (kvW e) (live.map (·.1)) t.1).bind (fun u => (kvWordAt u.1 e (0x40000 + 8) 4 (kvW e)).map (fun _ => 0))))))

theorem met_KvSequences : [
    [1#32, 2#32].all (fun k => meets (.kvfork (fork0 k)) (kvS 65 0 false) (fun e => (kvCheck [(0x20000, 64), (0x40010, 16), (0x40000, 16)]).isNone &&
      (kvS 65 0 false).stcnt e.r e.w == 0)),
    [(kvS 65 0 false, 1, 0), (kvS 65 0 false, 2, 0), (kvS 65 0 false, 3, 4), (kvCut 65 0x41000 4, 2, 14), (kvByte (kvS 65 0 false) 0x41000 4, 1, 14),
      (kvCut 65 0x30000 2, 2, 5), (kvByte (kvS 65 0 false) 0x20004 0x80, 1, 119)].all (fun y => forks y.1 y.2.1 == some y.2.2),
    [(kvS 65 0 false, 0, 0), (kvS 65 0 false, 2, 0), (kvS 65 0 false, 3, 4), (kvByte (kvS 65 0 false) 0x41000 4, 0, 14),
      (kvCut 65 0x30000 2, 0, 5)].all (fun y => frees y.1 y.2.1 == some y.2.2)].all id = true := by decide +kernel

/-- A gather of lane 31 in flight from storage at an address, and a move of block 0 to the second tier. -/
def gathS (pa : Nat) (word : Option Nat) : State := { kvMov 64 0 with
  moves := [{ id := 4, num := 1, site := 0, ctx := 1, pool := 0x20000, pool2 := 0x21000, blk := 0, status := 0x43000, word := word }] } |> fun s => s.setWarp r0
    { kvWarp 0 with loads := [{ id := 2, dest := .vreg 3 false, lanes := [{ lane := 31, va := 0x40000, pa := pa, w := 4 }], gather := [(0x30000, 1, 0x50000)] }] }
/-- One context with one leaf at level 3, whose table is at 0x50000. -/
def heatS : State := { up with
  vm := { ctx := [(1, { en := true, root := 0x50000 })] }
  mem := cells [(0x50000, 8, 0x51001), (0x51000, 8, 0x52001), (0x52000, 8, 0x03C0000000000003)] }
/-- The cause, if any, that the status word of a move meets. -/
def wordMet (ctx status : Nat) : Option Nat := (writeVirt (gathS 0x50040 none) (agentKve 0) ctx status (leBytes 8 8) (engineNeed false needW)).2

/-- A held write of the warp that waits for a page. -/
def heldK : State :=
  let k : KvHeld := { id := 7, core := 0, slot := 0, app := false, form := kv0, v := [], s := [], exec := 1#32, act := 1#32,
                      pt := issuePt up w0, page := some (64, 1#32) }
  { up with kvHeld := [k] }

theorem met_KeyValueMoves : [
    [(0x50040, true), (0x8000000000, false)].all (fun y => ((gathS y.1 none).warp? r0).any (fun w => w.loads.any (fun o => o.id == 2 && !o.gather.isEmpty && o.fails.isEmpty)) &&
      netQuiet (gathS y.1 none) && (runCause (gathS y.1 none) y.1 4).isNone == y.2 && allLanes.getLsbD 31),
    (runningMove (gathS 0x50040 none) 4).any (fun m => m.word.isNone), (runningMove (gathS 0x50040 (some 8)) 4).any (fun m => m.word == some 8),
    (moveLog (gathS 0x50040 none) { id := 4, num := 1, site := 0, ctx := 1, pool := 0x20000, pool2 := 0x21000, blk := 0, status := 0x43000 } 0 .corrected |> fun s =>
      let p := poolGet s 0x20000 0x21000
      let e := entGet p.1 p.2 0
      (runCause e.1 (storeAt e.2.tier e.2.addr) (KvPool.bytes p.2)).isNone && (runCause e.1 (storeAt e.2.otier e.2.oaddr) (KvPool.bytes p.2)).isNone &&
        (entCause s p.2 0).isNone),
    (heldK.heldOf r0).any (fun k => k.id == 7 && k.page.isSome),
    wordMet 1 0x43000 == none, wordMet 2 0x43000 == some 15, (wordMet 1 0x3000000000000).any (fun c => c != 15),
    (heatS.vm.ctx.filter (fun c => c.2.en)).length == 1 && heatS.pkg.hsweep != 0, ({ heatS with pkg := { heatS.pkg with hsweep := 0 } } : State).pkg.hsweep == 0,
    !heatS.lineBusy (0x52000 / 64) && bits (heatS.snoopNum 0x52000 8) 0 0 == 1 && heatOp .cool (heatS.snoopNum 0x52000 8) != heatS.snoopNum 0x52000 8,
    (heatS.updHome (heatS.homeOf (0x52000 / 64)) (fun h => { h with held := [{ req := { pkt (.req .rd) 1 0 (0x52000 / 64) with id := 0 }, waits := [2] }] })).lineBusy
      (0x52000 / 64)].all id = true := by decide +kernel

/-! ### Hypotheses that can be met: memory events -/

/-- A load of one lane of the word at 0x1000, whose bytes are in a write buffer of the core, or in no cache. -/
def ldS (d : Dest) (hit : Bool) : State := (onW (mapped up) { w0 with
  loads := [{ id := 2, dest := d, lanes := [{ lane := 31, va := 0x1000, pa := 0x1000, w := 4 }] }] } b0).updCore 0 (fun c =>
    { c with wb := if hit then [(0, [{ slot := 0, op := 9, ctx := 1, cls := 0, chain := 0, ef := false, bytes := bytesAt 0x1000 [1#8, 2#8, 3#8, 4#8] }])] else [] })
/-- A copy of a line with a dirty byte. -/
def cpy1 : Copy := { data := [(0, 7#8), (1, 8#8)], dirty := 1#64 }
/-- A line whose home is not the die of core 0. -/
def farLine : Nat := ((List.range 64).map (fun n => 64 * n)).find? (fun l => up.homeOf l != 0) |>.getD 0
def nearLine : Nat := ((List.range 64).map (fun n => 64 * n)).find? (fun l => up.homeOf l == 0) |>.getD 0
def withRdc (s : State) (d line st : Nat) : State := s.setRdc d line { st := st, copy := cpy1 }
def withNet (s : State) (m : Msg) : State := { s with net := [m] }
/-- The CLC's set of the stored line has sixteen dirty lines in service. -/
def fullClc : State := (List.range 16).foldl (fun s k => (s.setClc 0 (64 + 4096 * (k + 1)) cpy1).updHome (up.homeOf (64 + 4096 * (k + 1))) (fun h =>
  { h with held := h.held ++ [{ req := { pkt (.req .rd) 1 0 (64 + 4096 * (k + 1)) with id := 0 }, waits := [2] }] })) (ldS (.vreg 3 false) true)
/-- The packet arrives now. -/
def comes (s : State) : Bool := s.net.all (fun m => routeOpen s m && incOk s m && inOrder s m)
/-- An atomic addition of scope .dv to the word at 0x1000. -/
def atmS (sc : Scope) : State := onW (mapped up) { w0 with
  atoms := [{ id := 2, op := .add, ty := .int .z32, scope := sc, ftz := false, dest := some (.vreg 3 false), reqs := [{ id := 4, pa := 0x103C, va := 0x103C, lanes := [(31, 1, 0)] }] }] } b0

theorem met_MemoryEvents : [
    (ldS (.vreg 3 false) true |> fun s => (s.warp? r0).any (fun w => w.loads.any (fun o => (loadSplit s r0 w o allLanes).2.isEmpty &&
      (loadSplit s r0 w o allLanes).1.length == 1 && (s.loadBytes 0 0x1000 4).isSome && (o.lanes.filter (fun y => allLanes.getLsbD y.lane)).length == 1 &&
      o.fails.isEmpty && !(0#32).getLsbD 31 && (byLane (o.fails ++ o.lanes.map (fun a => LaneFault.mk a.lane 18 0 a.va))).length == 1 &&
      o.pt.lvl == 0 && w.level == 0 && w.skid.isNone) && (s.block? 0 w.blk).isSome)),
    [ldS (.vreg 3 false) true, fullClc].all (fun s => (mget [] (s.core 0).wb (4 % 4)).any (fun e => e.bytes.any (fun y => s.clcFull 0 (y.1 / 64)) ==
      s.clcs.any (fun c => decide (16 ≤ c.2.length)))),
    !up.lineBusy 0 && up.reaches 0 (up.homeOf 0) && !(Copy.dirtyBytes cpy1).isEmpty && (mfind ((up.setClc 0 0 cpy1).clc 0) 0).isSome,
    decide (((clockAt up 256).core 0).ptsAt + ((clockAt up 256).die ((clockAt up 256).dieOf 0)).tickcc ≤ (clockAt up 256).ctl.clock),
    decide (7 ≤ 7) && (up.mapCause (64 * farLine) false).isNone && up.homeOf farLine != up.dieOf 0 && (up.rdc? 0 farLine).isNone &&
      ((withRdc up 0 farLine 1).rdc? 0 farLine).isSome && !evictionInFlight up 0 farLine && (up.die 0).waits.isEmpty &&
      up.reaches 0 (up.homeOf farLine),
    up.homeOf nearLine == up.dieOf 0 && (up.mapCause (64 * nearLine) false).isNone && !up.lineBusy nearLine,
    [(true, none), (true, some 3), (false, none), (false, some 4)].all (fun (y : Bool × Option Nat) => [cpy1, Copy.clean cpy1].all (fun c =>
      let m : Msg := { pkt (.lease y.1) 0 0 nearLine with pts := (3, 9) }
      let s := withNet (up.setClc (up.clusterOf 0) nearLine { c with gwts := y.2 }) m
      comes s && !s.clcFull (up.clusterOf 0) nearLine && leaseLate ((mfind (s.clc (s.clusterOf 0)) nearLine).getD {}) m == (y.1 == y.2.isNone))),
    ((atmS .dv).warp? r0).any (fun w => w.atoms.head?.any (fun a => a.fails.isEmpty && a.reqs.all (fun q => q.id == 4) &&
      (laneTrap (byLane (a.fails ++ [LaneFault.mk 31 19 0 0x103C])) false).isSome)),
    [(Scope.dv, true), (.gp, true), (.cl, false)].all (fun y => ((atmS y.1).warp? r0).any (fun w => w.atoms.head?.any (fun a => a.id == 2 &&
      a.reqs.any (fun q => (reqCause (atmS y.1) a q .done).isNone)) && (atomOld (atmS y.1) r0 y.1 0x103C 4).2.isSome == y.2)),
    ((atmS .dv).warp? r0).any (fun w => w.atoms.head?.any (fun a => a.reqs.any (fun q => reqCause (atmS .dv) a q (.failed 19) == some 19)))].all id = true := by
  decide +kernel

/-- The issuing ACCESS warp of `accS` with a queue load of two lanes: lane 0 of memory in a write buffer of the core, lane 1 already read. -/
def qfS (pa : Nat) : State := (mapped ((accS [{ id := 2, filled := false, data := [(1, 5#32)] }]).setWarp { core := 0, slot := 64 } { w0 with
  id := 1
  access := true
  loads := [{ id := 2, dest := .queue 0 1 false, lanes := [{ lane := 0, va := 0x1000, pa := pa, w := 4 }] }] })).updCore 0 (fun c =>
    { c with wb := [(0, [{ slot := 64, op := 9, ctx := 1, cls := 0, chain := 0, ef := false, bytes := bytesAt 0x1000 [1#8, 2#8, 3#8, 4#8] }])] })
/-- A segment's move at a state: done, failed or waiting. -/
def movesSeg (s : State) (p : Option (Option Nat) → Bool) : Bool :=
  (s.warp? r0).any (fun w => w.copies.any (fun c => c.segs.any (fun g => !g.done && g.fail.isNone && !g.parked && !g.srcS && g.dstS &&
    p ((segMove s 0 0 b0 c g).map (·.2)))))
/-- Tenant 1's copy engine maps nothing, or only addresses above CAPACITY. -/
def segRng (far : Bool) (s : State) : State := { mapped s with vm := { (mapped s).vm with
  rtlb := [(64 * agentCopy 0 + 1, if far then [{ rng with vlimit := 0xFFFF, pbase := 0x8000000 }] else [])] } }

/-- The faults of the queue load, where the core's range maps nothing or only addresses above CAPACITY. -/
def qfFaults (l : List RangeEnt) (page : Bool) : Bool :=
  let s := { qfS 0 with vm := { (qfS 0).vm with rtlb := [(1, l)] } }
  match s.warp? { core := 0, slot := 64 }, s.block? 0 0 with
  | some w, some b => w.loads.all (fun o => let z := qldLanes s { core := 0, slot := 64 } w b o false
      !z.2.faults.isEmpty && z.2.faults.all (fun f => f.cause = 15 || f.cause = 16) == page)
  | _, _ => false

theorem met_EngineEvents : [
    qfFaults [] true, qfFaults [{ rng with vlimit := 0xFFFF, pbase := 0x8000000 }] false,
    (match (qfS 0).warp? { core := 0, slot := 64 }, (qfS 0).block? 0 0 with
      | some w, some b => w.loads.all (fun o => let z := qldLanes (qfS 0) { core := 0, slot := 64 } w b o false
          z.2.faults.isEmpty && z.2.whole && z.2.vals == [(0, 0x04030201#32)]) && ((qfS 0).warp? r0).isSome
      | _, _ => false),
    movesSeg (mapped (batS false none)) (fun r => r == some none), movesSeg (segRng false (batS false none)) (fun r => r == none),
    movesSeg (segRng true (batS false none)) (fun r => (r.bind id).isSome),
    virtIdle (mapped (batS false none)) (agentCopy 0) 1 64 64 (engineNeed false needR) false &&
      (match engineXlat (mapped (batS false none)) (agentCopy 0) 1 64 (engineNeed false needR) false with
        | (_, .inr _) => true
        | _ => false)].all id = true := by decide +kernel

/-! ### Hypotheses that can be met: coherence and the package -/

/-- The packet arrives at a state that holds nothing else in flight. -/
def pktS (s : State) (k : MsgKind) (src dst line : Nat) : State := withNet s (pkt k src dst line)
/-- A request of die 1 in service at die 0, which waits for the answers of some dies. -/
def heldS (waits : List Nat) : State := (pktS up (.answer true false false) 2 0 nearLine).updHome 0 (fun h =>
  { h with held := [{ req := { pkt (.req .rd) 1 0 nearLine with id := 0 }, waits := waits }] })
def pageS (st : Nat) (page : Nat) : State := up.updHome (up.homeOf (64 * page)) (fun h => { h with pages := [(page, { state := st, pshr := 0x80#8 })] })
/-- A page that the package has, whose recall was asked for at a time. -/
def recallS (t0 : Option Nat) : State := up.updHome (up.homeOf 0) (fun h => { h with pages := [(0, { state := 2, recallAt := t0 })] })
def hostPage : Nat := 0x800000000
/-- The entry names an owner. -/
def ownS : State := up.putDir 0 nearLine (dirE 7)
/-- Window 3 of the management cores holds tenant 1, which maps every page. -/
def winS : State := { mapped up with vm := { (mapped up).vm with rtlb := [(64 * agentWin 3 + 1, [rng])], win := [(3, 1)] } }
/-- A line of the first expander, on or off. -/
def expLine : Nat := 0x40000000000 / 64
def expS (off : Bool) : State := up.updPkg (fun p => { p with exp := { p.exp with off0 := off } })

/-- Every line of the RDC's set of a line has a request of the die out. -/
def fullS : State := (pktS up (.data true) 0 7 nearLine).updDie 7 (fun i => { i with
  rdc := (List.range 16).map (fun k => (nearLine + rdcSets up 7 * (k + 1), { st := 1, copy := {} }))
  waits := (List.range 16).map (fun k => nearLine + rdcSets up 7 * (k + 1)) })

theorem met_Coherence : [
    comes fullS && rdcFull fullS 7 nearLine && !rdcFull (pktS up (.data true) 0 7 nearLine) 7 nearLine,
    (match engineXlat winS (agentWin 3) (mget 0 winS.vm.win 3) 0x1F3F 0#4 true with
      | (s1, .inr y) => s1.idleRange y.pa 2
      | _ => false),
    [ReqKind.rd, .rfo, .upg, .wb, .evn, .dirtyNotice].all (fun k => comes (pktS up (.req k) 7 0 nearLine) && (up.home 0).held.isEmpty &&
      !(pktS up (.req k) 7 0 nearLine).dirStuck nearLine),
    (DirEnt.ownerOf (up.dirEnt 0 nearLine)).isNone && decide ((pkt (.req .rd) 7 0 nearLine).src < 8),
    (mfind (ownS.home 0).dir nearLine).isSome && DirEnt.ownerOf (ownS.dirEnt 0 nearLine) == some 7,
    !up.lineBusy farLine && up.reaches 0 (up.homeOf farLine) && ((withRdc up 0 farLine 3).rdc? 0 farLine).any (fun x => !(Copy.dirtyBytes x.copy).isEmpty),
    (up.mapCause (64 * farLine) false).isNone, up.idleRange 0 64 && !(linesOf 0 64).any (fun l => (up.mapCause (64 * l) false).isSome),
    (match engineXlat winS (agentWin 3) (mget 0 winS.vm.win 3) (64 * farLine) 0#4 false with
      | (s1, .inr x) => s1.idleRange x.pa 64
      | _ => false),
    [MsgKind.snoop true, .snoop false, .discovery].all (fun k => comes (pktS up k 0 7 nearLine) && comes (pktS (withRdc up 7 nearLine 3) k 0 7 nearLine) &&
      ((pktS up k 0 7 nearLine).rdc? 7 nearLine).isNone && ((pktS (withRdc up 7 nearLine 3) k 0 7 nearLine).rdc? 7 nearLine).isSome),
    [[2], [2, 3]].all (fun l => comes (heldS l) && ((heldS l).home 0).held.any (fun h => h.req.line == nearLine && h.waits.contains 2)),
    [MsgKind.data true, .data false, .accessError, .ack].all (fun k => comes (pktS up k 0 7 nearLine)) && !up.expOff nearLine,
    comes (withNet (expS true) { pkt (.data true) 8 0 expLine with inc := 0 }) && (expS true).expOff expLine, comes (pktS up (.replay .rd) 0 7 nearLine),
    ((pageS 1 0).pageEnt? ((pageS 1 0).homeOf 0) 0).any (fun e => e.pshr.getLsbD 7) && ((pageS 1 0).die 7).rdc.isEmpty &&
      (pageS 1 0).reaches ((pageS 1 0).homeOf 0) 7,
    regionOf (64 * (64 * hostPage)) == .host && !up.lineBusy (64 * hostPage)].all id = true := by decide +kernel

/-- Every link is asleep, and a packet from die 0 to die 7 waits for one since time 0. -/
def sleepS (k : MsgKind) (retried : Bool) : State := withNet ((List.range 18).foldl (fun s i => s.updLink i (fun l => { l with asleep := true })) up)
  { pkt k 0 7 nearLine with retried := retried }

theorem met_DiesAndLinks : [
    (timeAt up 100 |> fun s => s.onlineSite 7 && s.passedSites.contains 7 && decide ((s.die 7).beat + 100 * usTicks ≤ s.ctl.time) &&
      (reach (fun i => (s.link i).width != 0) 9 [8]).contains 7),
    decide (((timeAt up 2000).die 7).beat + 2000 * usTicks ≤ (timeAt up 2000).ctl.time),
    (up.updPkg (fun p => { p with online := 0x7F#8 }) |> fun s => s.pkg.passed.getLsbD 7 && !s.onlineSite 7),
    (timeAt up 10000 |> fun s => (s.link 0).width != 0 && !(s.link 0).asleep && (s.link 0).lsleep != 0 &&
      decide ((s.link 0).lastFlit + (s.link 0).lsleep * usTicks ≤ s.ctl.time)),
    (sleepS .discovery false |> fun s => (List.range 18).any (fun l => (s.link l).asleep && s.net.any (fun m => (route s m.src m.dst).contains l))),
    [MsgKind.discovery, .snoop true, .snoop false].all (fun k => [true, false].all (fun b => [49, 50].all (fun n => let s := timeAt (sleepS k b) n
      s.net.all (fun m => !routeOpen s m && decide (m.time + 50 * usTicks ≤ s.ctl.time) == (n == 50))))),
    (up.link 17).width != 0 && (sleepS .discovery false).net.all (fun m => !(route (sleepS .discovery false) m.src m.dst).contains 17)].all id = true := by
  decide +kernel

def coll0 (op : Nat) : FColl := { ctx := 1, port := 0, op := op, ty := 6, redop := 0, group := 0, count := 1, src := 0x1000, dst := 0x2000, rank := 1, peers := [[1#8, 0#8, 0#8, 0#8]] }
def net0 : State := mapped up

/-- A load of one lane at an address has been outstanding for so many microseconds. -/
def lateS (pa us : Nat) : State := timeAt (onW (mapped up) { w0 with
  loads := [{ id := 2, dest := .vreg 3 false, lanes := [{ lane := 31, va := pa, pa := pa, w := 4 }] }] } b0) us
/-- The runs of a port's operation, reachable or not, while its page waits for nothing. -/
def portFinds (far : Bool) (need : BitVec 4) (wr : Bool) : Bool :=
  let s := (if far then { net0 with vm := { net0.vm with rtlb := [] } } else net0).updPort 0 (fun p => { p with ctx := 1 })
  match portRun s 0 0x1FFC 8 need wr with
  | (s1, .inr l) => !far && l.length == 2 && l.all (fun y => s1.idleRange (y.pa / 4096 * 4096) 4096)
  | (_, .inl _) => far

theorem met_OutsideAgents : [
    (pagesOf 0x1FF8 16).all (fun p => extPage up (p.1 / 4096)), extPage up (0x1000 / 4096) && decide (0x103F % 64 + [9#8].length ≤ 64),
    [none, some 0].all (fun t0 => ((recallS t0).pageEnt? ((recallS t0).homeOf 0) 0).any (fun e => decide (2 ≤ e.state) && e.recallAt == t0)),
    [(49999, false), (50000, true)].all (fun y => (timeAt (recallS (some 0)) y.1 |> fun s =>
      decide (0 + max 1 s.pkg.exp.ms * 1000 * usTicks ≤ s.ctl.time) == y.2)),
    [(49999, false), (50000, true)].all (fun y => (failLoads (lateS 0x800000000000 y.1) (fun pa => regionOf pa == .host) (fun _ => false) |> fun s => (s.warp? r0).isSome && (s.block? 0 0).isSome &&
      overdueAccess s r0 (some 2) (fun pa => regionOf pa == .host) == y.2)),
    [(0x800000000000, true), (0x8000, false)].all (fun (y : Nat × Bool) => let s := resL { ren 1#3 with src := BitVec.ofNat 54 y.1, length := 64#32 } false
      s.cores.length == 1 && (s.core 0).resl.length == 1 && (s.core 0).resl.all (fun l => loadHits s 0 (fun pa => regionOf pa == .host) l == y.2)),
    [(49999, false), (50000, true)].all (fun y => expOverdue (lateS 0x40000000000 y.1) 0 == y.2 && !expOverdue (lateS 0x40000000000 y.1) 1),
    decide (1 < 2) && (net0.port 1).up && portTakes net0 0 16383,
    [(needW, true), (needR, false)].all (fun y => portFinds false y.1 y.2 && portFinds true y.1 y.2),
    ((net0.updPort 0 (fun p => { p with up := false })).port 0).up == false,
    ((net0.updPort 0 (fun p => { p with ops := [{ num := 1, ctx := 0, qp := 5 }] })).port 0).ops.find? (fun o => o.num = 1) == some { num := 1, ctx := 0, qp := 5 },
    !collOk (coll0 3), (net0.pkg.collWait.find? (fun c => c.desc = coll0 0)).isNone &&
      (collHold net0 (coll0 0) 1).pkg.collWait.find? (fun c => c.desc = coll0 0) == some { num := 1, desc := coll0 0 },
    collOk (coll0 0) && !((net0.updPort 0 (fun p => { p with up := false })).port (coll0 0).port).up,
    virtIdle ((collNum (net0.updHome (net0.homeOf (0x1000 / 64)) (fun h => { h with held := [{ req := { pkt (.req .rd) 1 0 (0x1000 / 64) with id := 0 }, waits := [2] }] }))
      (coll0 0)).2) agentColl 1 0x1000 4 (engineNeed false needR) false == false,
    [0, 1].all (fun op => let x := coll0 op
      let y := (collNum net0 x).2
      collOk x && (collTy x.ty).isSome && (net0.port x.port).up && decide (x.rank ≤ x.peers.length) && decide (x.peers.length < 4096) &&
        x.peers.all (fun p => p.length == 4 * x.count) &&
        virtIdle y agentColl 1 x.src 4 (engineNeed false needR) false &&
        (match readVirt y agentColl 1 x.src 4 (engineNeed false needR) with
          | (s1, .inr l) => let out := collOut x (.int .s32) (x.peers.take x.rank ++ [l] ++ x.peers.drop x.rank)
            virtIdle s1 agentColl 1 x.dst out.length (engineNeed false needW) true && (writeVirt s1 agentColl 1 x.dst out (engineNeed false needW)).2.isNone
          | _ => false))].all id = true := by decide +kernel

def tierS (f : Tier → Tier) : State := up.updTier f
/-- Stack 7 is being retired. -/
def migS : State := retireGo up 7

theorem met_Management : [
    Tier.migrating migS.pkg.tier, !Tier.migrating up.pkg.tier && up.pkg.tier.n != 1 && up.pkg.tier.live.getLsbD 7,
    (tierS (fun t => { t with n := 1 })).pkg.tier.n == 1 && !Tier.migrating (tierS (fun t => { t with n := 1 })).pkg.tier,
    (tierS (fun t => { t with live := 0x7F#8 })).pkg.tier.n != 1 && !(tierS (fun t => { t with live := 0x7F#8 })).pkg.tier.live.getLsbD 7,
    granReady migS (migS.pkg.tier.migw - 1), !granReady migS migS.pkg.tier.migw, decide (8 ≤ 8) && decide (63 < 64),
    up.jobs && !(up.updPkg (fun p => { p with passed := 0#8 })).jobs,
    [retireRefusal migS.pkg.tier 7 == some 5, retireRefusal (tierS (fun t => { t with n := 1 })).pkg.tier 7 == some 3,
      retireRefusal (tierS (fun t => { t with live := 0x7F#8 })).pkg.tier 7 == some 4].all id,
    !preemptTakes up 0 0 && restoreTakes up 0 0x30000 == none,
    decide ((5 : Nat) ≤ min 5 up.pkg.pwr.maxstep) && decide ((2400 : Nat) ≤ up.pkg.pwr.cap) && decide (up.pkg.pwr.cap < 2401)].all id = true := by decide +kernel

/-! ### Hypotheses that can be met: pre-emption -/

/-- The small block in a phase, with the launch of two blocks. -/
def preS0 (b : Block) : State := (mapped (onW up w0 { b with slots := [0] })).setLaunch 0 launch0
def acks6 : List Engine := [.warps, .matrix, .kve, .aae, .collective]
/-- Block 0 of the launch of one warp, saved at 0x30000 with one frame at 0x32000. -/
def savS (rst : Option Nat) : State := ((mapped up).setLaunch 0 { graph [] 0 with hdr := { hdr0 with scr := 64 } }).updFed (fun f => { f with
  saved := [{ lid := 0, bid := 0#32, ctx := 1, save := 0x30000, restoring := rst, keep := [(0, {})] }] })
def rstS : State := (savS (some 0)).updCore 0 (fun c => { c with rst := { busy := true } })
def arr0 (n : Nat) : Arrival := { id := 5, sb := 1#32, sw := 0, kd := 1, lid := 0, bid := 0#32, n := n, held := true }
def arrS (s : State) (n : Nat) : State := s.updFed (fun f => { f with arrivals := [arr0 n] })
/-- A save area whose header gives one warp, one barrier and a scratchpad of 4,096 bytes; the barrier is valid. -/
def barArea : State := { arrS (savS none) 0 with mem := cells [(0x30000, 8, 1 + 2 ^ 8 + 2 ^ 16 + 4096 * 2 ^ 32), (0x310F0, 8, 2 ^ 40 + 2)] }

theorem met_Preemption : [
    (preS0 b0 |> fun s => (s.warp? r0 == some w0) && (s.block? 0 0).any (fun b => b.phase == .run && !b.abort) && !(s.core 0).pre.busy),
    [Engine.warps, .matrix, .copy, .kve, .aae, .collective, .residency].all (fun g => ackReady (preS0 { b0 with phase := .stopping }) 0 0
      { b0 with phase := .stopping, slots := [0] } g),
    (preS0 { b0 with phase := .stopping, acks := .copy :: acks6 } |> fun s => (s.block? 0 0).any (fun b =>
      ackReady s 0 0 b .residency && [Engine.warps, .matrix, .copy, .kve, .aae, .collective, .residency].all (fun e =>
        ackReady (s.setBlock 0 0 { b with acks := .residency :: b.acks }) 0 0 { b with acks := .residency :: b.acks } e) &&
      [Engine.warps, .matrix, .copy, .kve, .aae, .collective, .residency].all (fun e => (Engine.residency :: b.acks).contains e) && copiesStopped s 0 b) && netQuiet s),
    (preS0 { b0 with phase := .stopping, acks := .copy :: acks6 } |> fun s => let t := s.setWarp r0 { w0 with copies := [{ id := 7, batch := 1#32, segs := [seg0 false none] }] }
      (t.block? 0 0).any (fun b => ackReady t 0 0 b .residency && netQuiet t && !copiesStopped t 0 b)),
    (findBlock (arrS (preS0 { b0 with bid := 1#32 }) 3) 0 1).any (fun y => y.2.2.slots[0]? == some 0) && ((preS0 b0).warp? r0).isSome,
    (preS0 { b0 with phase := .stopping, acks := .copy :: acks6 } |> fun s => let t := s.setWarp r0 { busyW with level := 0 }
      (t.block? 0 0).any (fun b => ackReady t 0 0 b .residency && netQuiet t &&
        !ackReady (t.setBlock 0 0 { b with acks := .residency :: b.acks }) 0 0 { b with acks := .residency :: b.acks } .warps)),
    (restoreTakes (savS none) 0 0x30FFF).isSome,
    (rstS.core 0).rst.busy && (rstS.core 0).rst.blk.isNone && (rstS.core 0).spuNew.isNone && within (coreUsed (rstS.core 0)) (hdrNeed hdr0) (rstS.core 0).spu &&
      netQuiet rstS && (match areaRead rstS 0 1 0x30100 64 with
        | (_, .inr _) => true
        | _ => false) && (match readMasks 0 1 0x30000 [0] rstS with
        | (_, .inr _) => true
        | _ => false),
    ([Phase.run, .saving] : List Phase).all (fun p => (findBlock (preS0 { b0 with phase := p }) 0 0).any (fun y => y.2.2.phase == p) &&
      !(liveWarps (preS0 { b0 with phase := p }) 0 { b0 with slots := [0] }).any (fun x => x.2.level == 3 && x.2.stopped)),
    (liveWarps ((preS0 b0).setWarp r0 { w0 with level := 3, stopped := true }) 0 { b0 with slots := [0] }).any (fun x => x.2.level == 3 && x.2.stopped),
    launch0.groups[0]?.any (fun x => x.abort && x.valid) && !launch0.complete,
    ([3, 4] : List Nat).all (fun n => (findBlock (arrS (preS0 b0) n) 0 0).any (fun y => y.2.2.phase == .run && decide (n < y.2.2.nbar) == (n == 3))),
    (findBlock (arrS up 0) 0 0).isNone && (arrS up 0).fed.saved.isEmpty,
    ([Phase.stopping, .saving] : List Phase).all (fun p => (findBlock (arrS (preS0 { b0 with phase := p }) 3) 0 0).any (fun y => y.2.2.phase == p)),
    (findBlock (arrS (savS none) 0) 0 0).isNone && (arrS (savS none) 0).fed.saved.any (fun x => x.lid == 0 && x.bid == 0#32),
    (match readVirtN barArea agentCp 1 0x30000 8 needR with
      | (s1, .inr hdr) => decide ((0 : Nat) < bits hdr 23 16) && (match readVirtN s1 agentCp 1 (savedBarAt 0x30000 hdr 0) 8 needR with
        | (s2, .inr x) => bits x 40 40 == 1 && (writeVirt s2 agentCp 1 (savedBarAt 0x30000 hdr 0) (leBytes 8 (x + 0x10000)) needW).2.isNone
        | _ => false)
      | _ => false)].all id = true := by decide +kernel

/-! ### Hypotheses that can be met: the decoder and the step -/

/-- `IADD.z32` of two vector registers stands at the next fetch after reset. -/
def fetchS : State := State.reset.withFetchWord 64 0x000A000202031C80
def nextOf (s : State) : State := s.advance 0 []

theorem met_StepRunsDecoded : [
    fetchS.ctl.booted && fetchS.ctl.agenda == [.issue 0 0 false false] && pick (nextOf fetchS) 0 false == some r0 &&
      (fetchNext (nextOf fetchS) r0 false).2 == some (.iadd { alu2 with ty := .z32, a := .v 2 }),
    (match fetchS.warp? r0, fetchS.block? 0 0 with
      | some w, some b => w.late.isEmpty && w.pc.toNat % 4 == 0 && (match mfind (fetchS.core 0).iwin (winKey w b.ctx w.pc) with
        | some x => decide (w.pc.toNat % 32 + lenOf (winBits x w.pc) ≤ 32) && (match decode (winBits x w.pc) with
          | .ok _ => true
          | .error _ => false)
        | none => false)
      | _, _ => false),
    (match translate (mapped up) 0 1 0x1000 (fetchNeed w0) false with
      | (s1, .inr y) => (s1.mapCause y.pa false).isNone
      | _ => false) && (mfind ((mapped up).core 0).iwin (winKey w0 1 0x1000#54)).isNone,
    (up.updCtl (fun c => { c with agenda := [.kvMeets 0 .done] })).ctl.booted, up.ctl.booted && up.ctl.agenda.isEmpty].all id = true := by
  decide +kernel

theorem met_RoundTrip : (WellFormed (.iadd alu2) && (encode (.iadd alu2)).isSome) = true := by decide +kernel

theorem met_DecodingIsExact : (match decode 0x000A000202031C80#128 with
    | .ok _ => true
    | .error _ => false) = true := by decide +kernel

theorem met_StepKeepsInvariant : State.Inv fetchS ∧ (match step fetchS with
    | .next _ => true
    | _ => false) = true := by decide +kernel

/-! ### Results that the spec's rules and examples give -/

/-- Lane 0 of vector register d, or a scalar register, after an instruction. -/
def vIs (i : Instr) (s : State) (d : Nat) (x : W32) : Bool := afterW i s (fun w => w.getV d 0 == x)
def sIs (i : Instr) (s : State) (d : Fin 64) (x : W64) : Bool := afterW i s (fun w => rdReg w false 0 (.s d) == x)
/-- The small state with v1 and v2 of lane 0. -/
def v12 (a b : W32) : State := onW up { w0 with v := [(32, a), (64, b)] } b0

/-- 20, the example of `IADD`: wrap and saturation. -/
theorem test_iadd : (vIs (.iadd { alu2 with b := .imm 1#32 }) (v12 0x7FFFFFFF#32 0#32) 3 0x80000000#32 &&
    vIs (.iadd { alu2 with sat := true, b := .imm 1#32 }) (v12 0x7FFFFFFF#32 0#32) 3 0x7FFFFFFF#32) = true := by decide +kernel
/-- 20, the same example. -/
theorem test_imul : (vIs (.imul { alu2 with b := .imm 3#32 }) (v12 0x80000000#32 0#32) 3 0x80000000#32 &&
    vIs (.imulhi { alu2 with b := .imm 3#32 }) (v12 0x80000000#32 0#32) 3 0xFFFFFFFE#32) = true := by decide +kernel
/-- 20, the same example. -/
theorem test_iabs_popc : (vIs (.iabs { alu1 with sat := true }) (v12 0x80000000#32 0#32) 3 0x7FFFFFFF#32 &&
    vIs (.popc { alu1 with ty := .z32 }) (v12 0x7FFFFFFF#32 0#32) 3 31#32) = true := by decide +kernel
/-- 16 R310: 1 × 2 + (−1) × 3 + 0 + 127 × 2 + 10. -/
theorem test_idot4 : vIs (.idot4 { dot4 with c := .v 4 }) (onW up { w0 with v := [(32, 0x7F00FF01#32), (64, 0x02050302#32), (128, 10#32)] } b0) 3
    263#32 = true := by decide +kernel
/-- 21, the example of the shifts. -/
theorem test_shifts : (vIs (.shr { alu2 with ty := .z32, b := .imm 4#32 }) (v12 0xF0000010#32 0#32) 3 0x0F000001#32 &&
    vIs (.sra { alu2 with b := .imm 4#32 }) (v12 0xF0000010#32 0#32) 3 0xFF000001#32 &&
    vIs (.shl { alu2 with ty := .z32, b := .imm 40#32 }) (v12 0xF0000010#32 0#32) 3 0#32 &&
    vIs (.sra { alu2 with ty := .s8, b := .imm 1#32 }) (v12 0xF0000010#32 0#32) 3 8#32) = true := by decide +kernel
/-- 18, the example of `BFE` and `BFI`. -/
theorem test_bit_fields : (vIs (.bfe bfe0) (v12 0xF70#32 0#32) 3 0xFFFFFFF7#32 &&
    vIs (.bfi { bfi0 with ty := .z32, f := .imm 0x0408#32 }) (v12 0xFFFFFFFF#32 5#32) 3 0xFFFFF5FF#32) = true := by decide +kernel
/-- 19 R372: one rounding. -/
theorem test_ffma : (vIs (.fmul { fp2 with b := .reg (.v 1) }) (v12 0x3F800800#32 0xBF801000#32) 3 0x3F801000#32 &&
    vIs (.ffma { fp3 with b := .reg (.v 1), c := .v 2 }) (v12 0x3F800800#32 0xBF801000#32) 3 0x33800000#32 &&
    vIs (.fmul { fp2 with rm := .ru, b := .reg (.v 1) }) (v12 0x3F800800#32 0#32) 3 0x3F801001#32) = true := by decide +kernel
/-- 19 R373. -/
theorem test_fmin_fmax : (vIs (.fmin fpM) (v12 0x7FC00000#32 0x40000000#32) 3 0x40000000#32 && vIs (.fmin fpM) (v12 0x80000000#32 0#32) 3 0x80000000#32 &&
    vIs (.fmax fpM) (v12 0x80000000#32 0#32) 3 0#32) = true := by decide +kernel
/-- 19 Table 19-8. -/
theorem test_fsqrt_frsq : (vIs (.fsqrt fp1) (v12 0x40000000#32 0#32) 3 0x3FB504F3#32 && vIs (.frsq fp1) (v12 0x40800000#32 0#32) 3 0x3F000000#32) = true := by
  decide +kernel
/-- 19 Table 19-8, 04 R87: nearest under NBV 2, toward zero under NBV 1. -/
theorem test_frcp : (vIs (.frcp fp1) (v12 0x40400000#32 0#32) 3 0x3EAAAAAB#32 &&
    vIs (.frcp fp1) (onW up { w0 with v := [(32, 0x40400000#32)] } { b0 with nbv := 1 }) 3 0x3EAAAAAA#32) = true := by decide +kernel
/-- 19 Table 19-8. -/
theorem test_functions : (vIs (.fexp2 fp1) (v12 0x3F000000#32 0#32) 3 0x3FB504F3#32 && vIs (.flog2 fp1) (v12 0x41000000#32 0#32) 3 0x40400000#32 &&
    vIs (.fcos fp1) (v12 0#32 0#32) 3 0x3F800000#32 && vIs (.ftanh fp1) (v12 0xFF800000#32 0#32) 3 0xBF800000#32) = true := by decide +kernel
/-- The block of 04 Table 4-6. -/
def packS : State := onW up { w0 with
  v := [(32, 0x40400000#32), (33, 0xBDCCCCCD#32), (35, 0x42C80000#32), (36, 0x40FCCCCD#32), (37, 0x40FEB852#32), (38, 0xC2240000#32)] } b0
/-- 04 Table 4-6, 18: the packed block. -/
theorem test_bfpack : afterW (.bfpack { bfp0 with sh := 4 }) packS (fun w => w.getV 3 0 == 0xB2004118#32 && w.getV 3 1 == 0x00D4843F#32 &&
    w.getV 3 2 == 0#32 && rdReg w false 0 (.s 5) == 0x8581#64) = true := by decide +kernel
/-- 18: the block unpacked gives 3.0, −0.125 and 7.875. -/
theorem test_bfunpack : afterW (.bfunpack bfu0) (onW up { w0 with v := [(32, 0xB2004118#32), (33, 0x00D4843F#32)], s := [(5, 0x8581#64)] } b0)
    (fun w => w.getV 3 0 == 0x40400000#32 && w.getV 3 1 == 0xBE000000#32 && w.getV 3 4 == 0x40FC0000#32) = true := by decide +kernel
/-- 04 Table 4-7: one element under three settings. -/
theorem test_accumulate :
    (let z : FVal := .fin false 0 0
     let xs : List FVal := [.fin false 1 0, .fin false 3 (-19), z, z, z, z, z, z, z, z, z, z, z, z, z, z]
     [(2, 16), (2, 1), (1, 8)].map (fun y => accumulate y.1 y.2 false 0#32 xs)) = [0x3F800040#32, 0x3F800030#32, 0x3F800000#32] := by decide +kernel
/-- 21, the example of `SHFL`, lanes 7 and 15 of .rot and 4 of .sel. -/
theorem test_shfl : (let s := onW up { w0 with v := (List.range 32).map (fun l => (32 + l, BitVec.ofNat 32 l)) } b0
    afterW (.shfl { shfl0 with mode := .rot, seg := 3, b := .imm 1#32 }) s (fun w => w.getV 3 7 == 0#32 && w.getV 3 14 == 15#32 && w.getV 3 15 == 8#32) &&
    afterW (.shfl { shfl0 with mode := .bfly, seg := 5, b := .imm 16#32 }) s (fun w => w.getV 3 0 == 16#32 && w.getV 3 31 == 15#32) &&
    afterW (.shfl { shfl0 with seg := 2 }) s (fun w => w.getV 3 2 == 3#32 && w.getV 3 4 == 7#32)) = true := by decide +kernel
/-- 18, the example of `ATOM`: 32 lanes add lane + 1 to a word that holds 10. -/
theorem test_atom_old_values : (let z := aopLanes .add (.int .z32) false 10 ((List.range 32).map (fun i => (i, i + 1, 0)))
    z.2 == 538 && z.1[3]? == some (3, 16) && z.1[31]? == some (31, 506)) = true := by decide +kernel
/-- 19, the example of `CALL`: s30 takes the address after the instruction. -/
theorem test_call : afterW (.call { hd := hd0, d := .s 30, src := .imm 0x100#32 }) (onW up { w0 with pc := 0x2000#54 } b0)
    (fun w => w.pc == 0x2100#54 && rdReg w false 0 (.s 30) == 0x200C#64) = true := by decide +kernel
/-- 02 R34, R35: lanes 0 to 11 take the branch, and two entries go on the stack. -/
theorem test_brc : afterW (.brc { hd := hd0, inv := false, p := .p 1, target := 0x40#32, join := 0x80#32 })
    (onW up { w0 with pc := 0x1000#54, p := [(1, 0xFFF#32)] } b0) (fun w => w.exec == 0xFFF#32 && w.pc == 0x1040#54 &&
      w.stack.map (·.mask) == [0xFFFFF000#32, 0xFFFFFFFF#32]) = true := by decide +kernel
/-- 18 R341, 10 R245: `BKPT` enters the user handler at level 1, and `TPC` names the `BKPT`. -/
theorem test_bkpt : afterW (.bkpt { hd := hd0 }) (mapped (onW up { w0 with pc := 0x1000#54 } b0)) (fun w =>
    w.level == 1 && w.pc == 0x300#54 && w.t1.cause == 25#6 && w.t1.pc == 0x1000#54 && w.t1.mask == 0xFFFFFFFF#32) = true := by decide +kernel
/-- 10 R242, R443: an access error that a load meets later is the trap of that load, for the lane that failed. -/
theorem test_late_failure : afterW (.loadReturn 0 0 2 allLanes (.failed 19)) (onW (mapped up) { w0 with
    pc := 0x100#54
    loads := [{ id := 2, dest := .vreg 3 false, lanes := [{ lane := 31, va := 0x1000, pa := 0x1000, w := 4 }], pt := { pc := 0x80#54 } }] } b0) (fun w =>
      w.level == 2 && w.t2.pc == 0x80#54 && w.t2.rmask == 0x80000000#32 && w.exec == 0x80000000#32 && w.loads.isEmpty) = true := by decide +kernel
/-- 06 R134: a word in the scratchpad, its least significant byte first. -/
theorem test_scratchpad : (vIs (.ld ldst) (at0 up 16 |> fun s => s.setBlock 0 0 { b0 with scr := putBytes [] (bytesAt 16 [1#8, 2#8, 3#8, 4#8]) }) 3 0x04030201#32 &&
    after (.st { ldst with d := .v 4 }) (at0 up 0x124) (fun t => (t.block? 0 0).any (fun b => getBytes b.scr 0x124 4 == [0x24#8, 1#8, 0#8, 0#8]))) = true := by
  decide +kernel
/-- 02 R56, Table 2-3: `BARINIT` of 2, then one arrival leaves the phase. -/
theorem test_barrier : (after (bInit 2#32) s0 (fun t => (t.block? 0 0).any (fun b => getBar b 1 == { expect := 2, arrived := 0, phase := 0, valid := true, parked := 0#32 })) &&
    after (.bararv { hd := hd0, tile := false, d := none, n := 1#8 }) (onW up w0 (barB (live 1 0#32))) (fun t =>
      (t.block? 0 0).any (fun b => (getBar b 1).arrived == 0 && (getBar b 1).phase == 0))) = true := by decide +kernel
/-- 05 R117, 21 Table 21-3: the handle of entry 5, state 2, one quad. -/
theorem test_resq : sIs (.resq { fda6 with a := .s 1 }) (resS 2#3) 3 (BitVec.ofNat 64 (2 ^ 20 + 2 * 2 ^ 16 + 3 * 64 + 5)) = true := by decide +kernel
/-- 05 R123: status 2 where the quota is exceeded, 5 for an empty name. -/
theorem test_resalloc : (sIs (.resalloc (alloc0 2#32)) noEnt 3 0x200000000#64 &&
    sIs (.resalloc { alloc0 1#32 with a := .s 9 }) noEnt 3 0x500000000#64) = true := by decide +kernel
/-- 20 R390, 09 R231: the append takes the next block ID, and LEN becomes 65. -/
theorem test_kvapp : after (.kvapp app0) (kvS 64 0 false) (fun t => t.homeByte (0x40008 / 64) (0x40008 % 64) == 65#8 &&
    t.homeByte (0x41004 / 64) 4 == 2#8) = true := by decide +kernel
/-- 09 R209, Table 9-3: eight stacks of 64 GiB, granules in turn. -/
theorem test_homes : (up.capacity, up.homeOf (64 * 7), up.homeOf (64 * 8)) = (0x8000000000, 7, 0) := by decide +kernel
/-- Log 6: the placed word is the next instruction that the machine runs. -/
theorem test_fetch_word : (match step fetchS with
    | .next t => (t.warp? r0).any (fun w => w.pc == 8#54 && w.icount == 1#48)
    | _ => false) = true := by decide +kernel
/-- 01 R22: the first step of the machine is enumeration. -/
theorem test_first_step : (match step State.reset with
    | .next t => t.ctl.booted && t.pkg.online == 0xFF#8
    | _ => false) = true := by decide +kernel

end Sys2Proof.Tests
end

section
/-! Every step keeps memory in its canonical form (O60). For each function of the model there is one lemma: `f_mem` says that `f`
leaves the memory as it was, `f_wf` that it keeps the canonical form; for an instruction or an event `f_wf` says so by `NextWf`. A
proof splits along the branches of `f` and closes each by the lemmas of the functions that the branch calls: by `simp` where the branch
is a chain of calls, by `grind` with those lemmas named where it goes on with the state of a pair that a call has answered. -/

namespace Sys2Proof.Machine

/-! ### Folds, meanings and outcomes -/

@[simp] theorem foldl_mem {β : Type} {f : State → β → State} (hf : ∀ s x, (f s x).mem = s.mem) (l : List β) (s : State) :
    (l.foldl f s).mem = s.mem := by
  induction l generalizing s with
  | nil => rfl
  | cons a t ih => exact (ih _).trans (hf s a)

@[simp] theorem foldl_fst_mem {β γ : Type} {f : State × γ → β → State × γ} (hf : ∀ r x, (f r x).1.mem = r.1.mem) (l : List β)
    (r : State × γ) : (l.foldl f r).1.mem = r.1.mem := by
  induction l generalizing r with
  | nil => rfl
  | cons a t ih => exact (ih _).trans (hf r a)

theorem foldl_wf {β : Type} {f : State → β → State} (hf : ∀ s x, Memory.wf s.mem → Memory.wf (f s x).mem) (l : List β)
    {s : State} (hs : Memory.wf s.mem) : Memory.wf (l.foldl f s).mem := by
  induction l generalizing s with
  | nil => exact hs
  | cons a t ih => exact ih (hf s a hs)

/-- A fold that carries a result beside the state keeps the canonical form. -/
theorem foldl_fst_wf {β γ : Type} {f : State × γ → β → State × γ} (hf : ∀ r x, Memory.wf r.1.mem → Memory.wf (f r x).1.mem)
    (l : List β) {r : State × γ} (hr : Memory.wf r.1.mem) : Memory.wf (l.foldl f r).1.mem := by
  induction l generalizing r with
  | nil => exact hr
  | cons a t ih => exact ih (hf r a hr)

/-- The state of a pair that a call has answered. -/
theorem wf_of_eq {α : Type} {p : State × α} {t : State} {a : α} (hp : Memory.wf p.1.mem) (h : p = (t, a)) : Memory.wf t.mem := by
  rw [h] at hp
  exact hp

/-- The state that an instruction's meaning ends with. -/
def Res.state : Res → State
  | .done s => s
  | .jump s _ => s
  | .wait s _ => s
  | .trap s _ => s
  | .raw s => s

@[simp] theorem Res.state_done (s : State) : (Res.done s).state = s := rfl
@[simp] theorem Res.state_jump (s : State) (pc : VAddr) : (Res.jump s pc).state = s := rfl
@[simp] theorem Res.state_wait (s : State) (why : WaitR) : (Res.wait s why).state = s := rfl
@[simp] theorem Res.state_trap (s : State) (t : TrapReq) : (Res.trap s t).state = s := rfl
@[simp] theorem Res.state_raw (s : State) : (Res.raw s).state = s := rfl

/-- Memory is in its canonical form in the next state. -/
def NextWf (o : Host.Outcome State Fault Refusal) : Prop := ∀ t, o = .next t → Memory.wf t.mem

@[simp] theorem nextWf_next (s : State) : NextWf (.next s) ↔ Memory.wf s.mem :=
  ⟨fun h => h s rfl, fun h t ht => by cases ht; exact h⟩

/-! ### What the proof of `Quiet` gives -/

@[simp] theorem evictHome_wf {s : State} (hs : Memory.wf s.mem) (n line : Nat) : Memory.wf (evictHome s n line).mem :=
  (quiet_evictHome s n line).mem hs

@[simp] theorem touchHome_wf {s : State} (hs : Memory.wf s.mem) (n line cls chain : Nat) (ef : Bool) :
    Memory.wf (touchHome s n line cls chain ef).mem :=
  (quiet_touchHome s n line cls chain ef).mem hs

@[simp] theorem settleHome_wf {s : State} (hs : Memory.wf s.mem) (n line : Nat) : Memory.wf (settleHome s n line).mem :=
  (quiet_settleHome s n line).mem hs

@[simp] theorem homePut_wf {s : State} (hs : Memory.wf s.mem) (line : Nat) (bytes : SMap Byte) (p : Option Nat) (cls chain : Nat)
    (ef : Bool) : Memory.wf (homePut s line bytes p cls chain ef).1.mem :=
  (quiet_homePut s line bytes p cls chain ef).mem hs

@[simp] theorem flushHome_wf {s : State} (hs : Memory.wf s.mem) (line : Nat) : Memory.wf (flushHome s line).mem :=
  (quiet_flushHome s line).mem hs

@[simp] theorem takeEvicts_wf {s : State} (hs : Memory.wf s.mem) (p : Msg → Nat → Bool) : Memory.wf (takeEvicts s p).mem :=
  (quiet_takeEvicts s p).mem hs

@[simp] theorem ownerHome_wf {s : State} (hs : Memory.wf s.mem) (line d : Nat) : Memory.wf (ownerHome s line d).mem :=
  (quiet_ownerHome s line d).mem hs

@[simp] theorem dirRoom_wf {s : State} (hs : Memory.wf s.mem) (n line : Nat) : Memory.wf (dirRoom s n line).mem :=
  (quiet_dirRoom s n line).mem hs

@[simp] theorem rebuild_wf {s : State} (hs : Memory.wf s.mem) (n line x : Nat) : Memory.wf (rebuild s n line x).mem :=
  (quiet_rebuild s n line x).mem hs

@[simp] theorem recallAll_wf {s : State} (hs : Memory.wf s.mem) (line d : Nat) : Memory.wf (recallAll s line d).mem :=
  (quiet_recallAll s line d).mem hs

@[simp] theorem pullDirty_wf {s : State} (hs : Memory.wf s.mem) (line : Nat) : Memory.wf (pullDirty s line).mem :=
  (quiet_pullDirty s line).mem hs

@[simp] theorem pageSnoopDie_wf {s : State} (hs : Memory.wf s.mem) (page d : Nat) : Memory.wf (pageSnoopDie s page d).mem :=
  (quiet_pageSnoopDie s page d).mem hs

@[simp] theorem handover_wf {s : State} (hs : Memory.wf s.mem) (n page : Nat) : Memory.wf (handover s n page).mem :=
  (quiet_handover s n page).mem hs

@[simp] theorem pushRdc_wf {s : State} (hs : Memory.wf s.mem) (d line : Nat) : Memory.wf (pushRdc s d line).mem :=
  (quiet_pushRdc s d line).mem hs

@[simp] theorem readPhys_wf {s : State} (hs : Memory.wf s.mem) (pa n : Nat) : Memory.wf (readPhys s pa n).1.mem :=
  (quiet_readPhys s pa n).mem hs

@[simp] theorem writePhysE_wf {s : State} (hs : Memory.wf s.mem) (pa : Nat) (l : List Byte) (cls chain : Nat) (ef sy : Bool) :
    Memory.wf (writePhysE s pa l cls chain ef sy).mem :=
  (quiet_writePhysE s pa l cls chain ef sy).mem hs

@[simp] theorem writePhys_wf {s : State} (hs : Memory.wf s.mem) (pa : Nat) (l : List Byte) (cls chain : Nat) (sy : Bool) :
    Memory.wf (writePhys s pa l cls chain sy).mem :=
  (quiet_writePhys s pa l cls chain sy).mem hs

@[simp] theorem readLine_wf {s : State} (hs : Memory.wf s.mem) (line : Nat) : Memory.wf (readLine s line).mem :=
  (quiet_readLine s line).mem hs

@[simp] theorem pushClc_wf {s : State} (hs : Memory.wf s.mem) (k line : Nat) (core : Option Nat) :
    Memory.wf (pushClc s k line core).mem :=
  (quiet_pushClc s k line core).mem hs

@[simp] theorem clcRoom_wf {s : State} (hs : Memory.wf s.mem) (k line : Nat) : Memory.wf (clcRoom s k line).mem :=
  (quiet_clcRoom s k line).mem hs

@[simp] theorem clcWrite_wf {s : State} (hs : Memory.wf s.mem) (core line : Nat) (bytes : SMap Byte) (cls chain : Nat)
    (ef : Bool) : Memory.wf (clcWrite s core line bytes cls chain ef).mem :=
  (quiet_clcWrite s core line bytes cls chain ef).mem hs

@[simp] theorem drainOne_wf {s : State} (hs : Memory.wf s.mem) (core buf : Nat) : Memory.wf (drainOne s core buf).mem :=
  (quiet_drainOne s core buf).mem hs

@[simp] theorem drainAll_wf {s : State} (hs : Memory.wf s.mem) (core : Nat) : Memory.wf (drainAll s core).mem :=
  (quiet_drainAll s core).mem hs

@[simp] theorem drainLine_wf {s : State} (hs : Memory.wf s.mem) (core line : Nat) : Memory.wf (drainLine s core line).mem :=
  (quiet_drainLine s core line).mem hs

@[simp] theorem release_wf {s : State} (hs : Memory.wf s.mem) (core : Nat) (sc : Scope) : Memory.wf (release s core sc).mem :=
  (quiet_release s core sc).mem hs

@[simp] theorem heatUpdate_wf {s : State} (hs : Memory.wf s.mem) (q : HeatReq) : Memory.wf (heatUpdate s q).mem :=
  (quiet_heatUpdate s q).mem hs

@[simp] theorem serveHeat_wf {s : State} (hs : Memory.wf s.mem) : Memory.wf (serveHeat s).mem :=
  (quiet_serveHeat s).mem hs

@[simp] theorem translate_wf {s : State} (hs : Memory.wf s.mem) (agent ctx va : Nat) (need : BitVec 4) (wr : Bool) :
    Memory.wf (translate s agent ctx va need wr).1.mem :=
  (quiet_translate s agent ctx va need wr).mem hs

@[simp] theorem fenceDo_wf {s : State} (hs : Memory.wf s.mem) (core : Nat) (k : FenceKind) (q : Scope) :
    Memory.wf (fenceDo s core k q).mem :=
  (quiet_fenceDo s core k q).mem hs

/-! ### Operations over warps and blocks -/

@[simp] theorem State.updWarp_mem (s : State) (r : WRef) (f : Warp → Warp) : (s.updWarp r f).mem = s.mem := by
  unfold State.updWarp
  split <;> simp

@[simp] theorem State.updBlock_mem (s : State) (l h : Nat) (f : Block → Block) : (s.updBlock l h f).mem = s.mem := by
  unfold State.updBlock
  split <;> simp

@[simp] theorem State.updLaunch_mem (s : State) (l : Nat) (g : Launch → Launch) : (s.updLaunch l g).mem = s.mem := by
  unfold State.updLaunch
  split <;> simp

@[simp] theorem State.freshId_mem (s : State) : s.freshId.2.mem = s.mem := by rfl

@[simp] theorem State.freeByte_mem (s : State) : s.freeByte.2.mem = s.mem := by rfl

@[simp] theorem haltBlock_mem (s : State) (r : WRef) (h : Nat) (w : Warp) : (haltBlock s r h w).mem = s.mem := by
  unfold haltBlock
  split <;> simp

@[simp] theorem joinReady_mem (s : State) (r : WRef) : (joinReady s r).mem = s.mem := by
  unfold joinReady
  simp only
  repeat' split
  all_goals simp

@[simp] theorem rejoin_mem (s : State) (r : WRef) : (rejoin s r).mem = s.mem := by
  unfold rejoin
  repeat' split
  all_goals simp

@[simp] theorem resumeBlock_mem (s : State) (core h : Nat) : (resumeBlock s core h).mem = s.mem := by
  unfold resumeBlock
  split <;> simp

@[simp] theorem tokensTo_mem (s : State) (lid : Nat) (p : Nat → Bool) : (tokensTo s lid p).mem = s.mem := by rfl

@[simp] theorem sendTokens_mem (s : State) (l : Launch) (lid : Nat) (bid : W32) : (sendTokens s l lid bid).mem = s.mem := by rfl

@[simp] theorem markLaunch_mem (s : State) (l : Launch) (lid : Nat) (f : Launch → Launch) :
    (markLaunch s l lid f).mem = s.mem := by
  unfold markLaunch
  split <;> simp

@[simp] theorem fatalFault_mem (s : State) (lid : Nat) (bid : W32) : (fatalFault s lid bid).mem = s.mem := by
  unfold fatalFault
  split <;> simp

@[simp] theorem lossFault_mem (s : State) (lid : Nat) (bid : W32) : (lossFault s lid bid).mem = s.mem := by
  unfold lossFault
  split <;> simp

@[simp] theorem doubleFault_mem (s : State) (r : WRef) (w : Warp) (t : TrapReq) : (doubleFault s r w t).mem = s.mem := by
  unfold doubleFault
  repeat' split
  all_goals simp

@[simp] theorem enterTrap_mem (s : State) (r : WRef) (w : Warp) (t : TrapReq) : (enterTrap s r w t).mem = s.mem := by
  unfold enterTrap
  simp only
  repeat' split
  all_goals simp

@[simp] theorem takeTrap_mem (s : State) (r : WRef) (t : TrapReq) : (takeTrap s r t).mem = s.mem := by
  unfold takeTrap
  repeat' split
  all_goals simp

@[simp] theorem unstop_mem (s : State) (r : WRef) : (unstop s r).mem = s.mem := by
  unfold unstop
  repeat' split
  all_goals simp

@[simp] theorem lateTrap_mem (s0 : State) (r : WRef) (o : IssuePt) (t : TrapReq) : (lateTrap s0 r o t).mem = s0.mem := by
  unfold lateTrap
  simp only
  repeat' split
  all_goals simp

@[simp] theorem returnFrom_mem (s : State) (r : WRef) (w : Warp) (pc : VAddr) (rmask : Mask) :
    (returnFrom s r w pc rmask).mem = s.mem := by
  unfold returnFrom
  simp only
  repeat' split
  all_goals simp

/-! ### Issue -/

theorem finish_mem (s : State) (e : Env) (raw : Raw) (bits : BitVec 128) {x : Res} (hx : x.state.mem = s.mem) :
    (finish s e raw bits x).mem = s.mem := by
  have hi : ∀ c : Bool, (if c then s else x.state).mem = s.mem := fun c => by cases c <;> simp [hx]
  cases x with
  | done t => simpa [finish] using hx
  | jump t pc => simpa [finish] using hx
  | raw t => exact hx
  | wait t why => exact (State.updWarp_mem _ _ _).trans (hi _)
  | trap t q => exact (takeTrap_mem _ _ _).trans (hi _)

theorem issue_mem (i : Instr) (s : State) {body : Env → State → Res} (hb : ∀ e, (body e s).state.mem = s.mem) :
    (issue i s body).mem = s.mem := by
  unfold issue
  split
  · rfl
  · split
    · rfl
    · split
      · rfl
      · split
        · rfl
        · simp only
          split
          · exact finish_mem _ _ _ _ rfl
          · split
            · exact finish_mem _ _ _ _ rfl
            · split
              · exact finish_mem _ _ _ _ rfl
              · exact finish_mem _ _ _ _ (hb _)

/-- The end of an instruction keeps the canonical form where its meaning does. -/
theorem finish_wf {s : State} (hs : Memory.wf s.mem) (e : Env) (raw : Raw) (bits : BitVec 128) {x : Res}
    (hx : Memory.wf x.state.mem) : Memory.wf (finish s e raw bits x).mem := by
  have hi : ∀ c : Bool, Memory.wf (if c then s else x.state).mem := fun c => by cases c <;> simpa
  cases x with
  | done t => simpa [finish] using hx
  | jump t pc => simpa [finish] using hx
  | raw t => exact hx
  | wait t why => exact (State.updWarp_mem ..).symm ▸ hi _
  | trap t q => exact (takeTrap_mem ..).symm ▸ hi _

theorem issue_wf {s : State} (hs : Memory.wf s.mem) (i : Instr) {body : Env → State → Res}
    (hb : ∀ e, Memory.wf (body e s).state.mem) : Memory.wf (issue i s body).mem := by
  unfold issue
  split
  · exact hs
  · split
    · exact hs
    · split
      · exact hs
      · split
        · exact hs
        · simp only
          split
          · exact finish_wf hs _ _ _ hs
          · split
            · exact finish_wf hs _ _ _ hs
            · split
              · exact finish_wf hs _ _ _ hs
              · exact finish_wf hs _ _ _ (hb _)

theorem nextWf_issue {s : State} (hs : Memory.wf s.mem) {i : Instr} {body : Env → State → Res}
    (hb : ∀ e, Memory.wf (body e s).state.mem) : NextWf (.next (issue i s body)) := (nextWf_next _).2 (issue_wf hs i hb)

@[simp] theorem issueW_mem (i : Instr) (s : State) (f : Env → Warp) : (issueW i s f).mem = s.mem := by
  grind [issueW, !State.setWarp_mem, !issue_mem, !Res.state_done, Res.state]

@[simp] theorem alu2_mem (i : Instr) (x : FAlu2) (f : W64 → W64 → ℤ) (s : State) : (alu2 i x f s).mem = s.mem := by simp [alu2]

@[simp] theorem alu1_mem (i : Instr) (x : FAlu1) (f : W64 → ℤ) (s : State) : (alu1 i x f s).mem = s.mem := by simp [alu1]

@[simp] theorem alu1Count_mem (i : Instr) (x : FAlu1) (f : W64 → Nat) (s : State) : (alu1Count i x f s).mem = s.mem := by
  simp [alu1Count]

@[simp] theorem fp2_mem (i : Instr) (c : Cls) (t : FpTy) (rm : Rnd) (d a : Reg) (b : Src) (f : Rnd → FVal → FVal → FVal)
    (s : State) : (fp2 i c t rm d a b f s).mem = s.mem := by
  simp [fp2]

@[simp] theorem fp1_mem (i : Instr) (x : FFp1) (f : Env → FpFmt → FVal → Nat) (s : State) : (fp1 i x f s).mem = s.mem := by
  simp [fp1]

/-! ### Links and logs -/

@[simp] theorem State.countLost_mem (s : State) (line : Nat) : (s.countLost line).mem = s.mem := by
  unfold State.countLost
  split <;> simp

@[simp] theorem cross_mem (s : State) (a b : Nat) : (cross s a b).mem = s.mem := by
  grind [cross, !State.updLink_mem, foldl_wf, foldl_mem]

@[simp] theorem send_mem (s : State) (m : Msg) : (send s m).mem = s.mem := by
  grind [send, !State.freshId_mem, !State.updLink_mem, foldl_wf, foldl_mem]

@[simp] theorem stackError_mem (s : State) (pa kind : Nat) : (stackError s pa kind).mem = s.mem := by
  unfold stackError
  repeat' split
  all_goals simp

@[simp] theorem logOutcome_mem (s : State) (pa : Nat) (x1 : SegOutcome) : (logOutcome s pa x1).mem = s.mem := by
  unfold logOutcome
  repeat' split
  all_goals simp

@[simp] theorem lossRecord_mem (s : State) (n line kind site inc : Nat) : (lossRecord s n line kind site inc).mem = s.mem := by
  rfl

/-! ### Lines at their homes and in the RDCs -/

@[simp] theorem markStale_mem (s : State) (page : Nat) : (markStale s page).mem = s.mem := by rfl

@[simp] theorem hitHome_mem (s : State) (n line : Nat) : (hitHome s n line).mem = s.mem := by
  unfold hitHome
  split <;> simp

@[simp] theorem dropRdc_mem (s : State) (d line : Nat) : (dropRdc s d line).mem = s.mem := by
  unfold dropRdc
  split <;> simp

@[simp] theorem lessDrop_mem (s : State) (n line : Nat) : (lessDrop s n line).mem = s.mem := by rfl

@[simp] theorem retireEnt_mem (s : State) (n line d : Nat) : (retireEnt s n line d).mem = s.mem := by
  unfold retireEnt
  repeat' split
  all_goals simp

@[simp] theorem addPshr_mem (s : State) (n line d : Nat) : (addPshr s n line d).mem = s.mem := by
  unfold addPshr
  simp only
  repeat' split
  all_goals simp

@[simp] theorem dieAccess_mem (s : State) (n page : Nat) : (dieAccess s n page).mem = s.mem := by
  unfold dieAccess
  repeat' split
  all_goals simp

/-! ### A core's side of memory -/

@[simp] theorem fillL1_mem (s : State) (core line : Nat) (x : Copy) : (fillL1 s core line x).mem = s.mem := by
  unfold fillL1
  simp only
  repeat' split
  all_goals simp

@[simp] theorem clcHit_mem (s : State) (core line : Nat) (c : Cache) : (clcHit s core line c).mem = s.mem := by
  unfold clcHit
  simp only
  repeat' split
  all_goals simp

@[simp] theorem rdcWrite_mem (s : State) (d line : Nat) (x : RdcLine) (bytes : SMap Byte) (p : Option Nat) :
    (rdcWrite s d line x bytes p).1.mem = s.mem := by
  unfold rdcWrite
  split <;> simp

@[simp] theorem dropLeases_mem (s : State) (k line : Nat) : (dropLeases s k line).mem = s.mem := by rfl

@[simp] theorem acquire_mem (s : State) (core : Nat) (sc : Scope) : (acquire s core sc).mem = s.mem := by
  unfold acquire
  simp only
  repeat' split
  all_goals simp

@[simp] theorem issueNum_mem (s : State) (ctx tlid : Nat) : (issueNum s ctx tlid).2.mem = s.mem := by rfl

@[simp] theorem completeNum_mem (s : State) (ctx tlid n : Nat) : (completeNum s ctx tlid n).mem = s.mem := by rfl

/-! ### Translation -/

@[simp] theorem engineXlat_wf {s : State} (hs : Memory.wf s.mem) (agent ctx va : Nat) (need : BitVec 4) (wr : Bool) :
    Memory.wf (engineXlat s agent ctx va need wr).1.mem := by
  grind [engineXlat, !translate_wf]

@[simp] theorem readVirt_wf {s : State} (hs : Memory.wf s.mem) (agent ctx va n : Nat) (need : BitVec 4) :
    Memory.wf (readVirt s agent ctx va n need).1.mem := by
  refine foldl_fst_wf (fun r p hr => ?_) _ hs
  grind [!engineXlat_wf, !readPhys_wf]

@[simp] theorem writeVirtE_wf {s : State} (hs : Memory.wf s.mem) (agent ctx va : Nat) (l : List Byte) (need : BitVec 4)
    (chain : Nat) (ef : Bool) : Memory.wf (writeVirtE s agent ctx va l need chain ef).1.mem := by
  refine foldl_fst_wf (fun r p hr => ?_) _ hs
  grind [!engineXlat_wf, !writePhysE_wf]

@[simp] theorem writeVirtC_wf {s : State} (hs : Memory.wf s.mem) (agent ctx va : Nat) (l : List Byte) (need : BitVec 4)
    (chain : Nat) : Memory.wf (writeVirtC s agent ctx va l need chain).1.mem := by
  simp [writeVirtC, Memory.wf, hs]

@[simp] theorem writeVirt_wf {s : State} (hs : Memory.wf s.mem) (agent ctx va : Nat) (l : List Byte) (need : BitVec 4) :
    Memory.wf (writeVirt s agent ctx va l need).1.mem := by
  simp [writeVirt, Memory.wf, hs]

@[simp] theorem freeBytes_mem (n : Nat) (s : State) : (freeBytes n s).1.mem = s.mem := by
  induction n generalizing s with
  | zero => rfl
  | succ n ih => exact (ih _).trans (State.freeByte_mem s)

@[simp] theorem writeFree_wf {s : State} (hs : Memory.wf s.mem) (agent ctx va n : Nat) (need : BitVec 4) (chain : Nat) :
    Memory.wf (writeFree s agent ctx va n need chain).mem := by
  grind [writeFree, !freeBytes_mem, !writeVirtC_wf, foldl_wf, foldl_mem]

@[simp] theorem readVirtN_wf {s : State} (hs : Memory.wf s.mem) (agent ctx va n : Nat) (need : BitVec 4) :
    Memory.wf (readVirtN s agent ctx va n need).1.mem := by
  grind [readVirtN, !readVirt_wf]

@[simp] theorem askPage_mem (s : State) (ctx va : Nat) : (askPage s ctx va).mem = s.mem := by
  unfold askPage
  simp only
  split <;> simp

@[simp] theorem askRun_wf {s : State} (hs : Memory.wf s.mem) (agent ctx va n : Nat) (need : BitVec 4) (wr : Bool) :
    Memory.wf (askRun s agent ctx va n need wr).mem := by
  grind [askRun, !engineXlat_wf, !askPage_mem, foldl_wf, foldl_mem]

@[simp] theorem staleMoved_mem (s : State) : (staleMoved s).mem = s.mem := by rfl

@[simp] theorem dropWindows_mem (s : State) (p : Nat → Bool) : (dropWindows s p).mem = s.mem := by rfl

@[simp] theorem dropTlb_mem (s : State) (p : TlbEnt → Bool) : (dropTlb s p).mem = s.mem := by rfl

@[simp] theorem reloadRange_wf {s0 : State} (hs : Memory.wf s0.mem) (ctx : Nat) : Memory.wf (reloadRange s0 ctx).mem := by
  grind [reloadRange, !readLine_wf, !dropWindows_mem, foldl_wf, foldl_mem]

/-! ### Loads, stores and atomics -/

@[simp] theorem checkG_wf {s : State} (hs : Memory.wf s.mem) (r : WRef) (ctx : Nat) (need : BitVec 4) (wr : Bool)
    (lane a w : Nat) : Memory.wf (checkG s r ctx need wr lane a w).1.mem := by
  grind [checkG, !translate_wf]

@[simp] theorem checkLanes_wf {s : State} (hs : Memory.wf s.mem) (e : Env) (sp : Space) (need : BitVec 4) (wr : Bool) (w : Nat)
    (addr : Nat → Nat) (lanes : List Nat) : Memory.wf (checkLanes s e sp need wr w addr lanes).1.mem := by
  refine foldl_fst_wf (fun r i hr => ?_) _ hs
  simp only
  repeat' split
  all_goals simp [Memory.wf, hr]

@[simp] theorem endLanes_mem (s : State) (l : List LaneFault) : (endLanes s l).state.mem = s.mem := by
  unfold endLanes
  split <;> simp

@[simp] theorem leaveLanes_mem (s : State) (l : List LaneFault) : (leaveLanes s l).state.mem = s.mem := by
  unfold leaveLanes
  split <;> simp

@[simp] theorem execLd_wf {s : State} (hs : Memory.wf s.mem) (x : FLdSt) : NextWf (execLd x s) := by
  refine nextWf_issue hs fun e => ?_
  simp only
  repeat' split
  all_goals simp [Memory.wf, hs]

@[simp] theorem l1Hit_mem (s : State) (core line : Nat) : (l1Hit s core line).mem = s.mem := by
  unfold l1Hit
  split <;> simp

@[simp] theorem readFill_mem (s : State) (core pa n : Nat) (c : Cache) : (readFill s core pa n c).mem = s.mem := by
  unfold readFill
  split <;> simp

@[simp] theorem bindFrom_mem (s0 s : State) (r : WRef) (d : Dest) (c : Cache) (a : LaneAcc) :
    (bindFrom s0 s r d c a).mem = s.mem := by
  unfold bindFrom
  split <;> simp

@[simp] theorem endLoadLanes_mem (s : State) (r : WRef) (o : LoadOp) (gone : List Nat) (l : List LaneFault) :
    (endLoadLanes s r o gone l).mem = s.mem := by
  unfold endLoadLanes
  simp only
  repeat' split
  all_goals simp

@[simp] theorem execLoadReturn_wf {s : State} (hs : Memory.wf s.mem) (core slot op : Nat) (lanes : Mask) (out : SegOutcome) :
    NextWf (execLoadReturn core slot op lanes out s) := by
  unfold execLoadReturn
  simp only
  repeat' split
  all_goals simp [Memory.wf, hs]

@[simp] theorem enterWb_mem (s : State) (r : WRef) (e : Env) (op : Nat) (ef atom : Bool) (l : List LaneAcc) (m : SMap Byte) :
    (enterWb s r e op ef atom l m).mem = s.mem := by
  grind [enterWb, !State.updCore_mem, foldl_wf, foldl_mem]

@[simp] theorem execSt_wf {s : State} (hs : Memory.wf s.mem) (x : FLdSt) : NextWf (execSt x s) := by
  refine nextWf_issue hs fun e => ?_
  simp only
  repeat' split
  all_goals simp [Memory.wf, hs]

@[simp] theorem execWriteBufferDrain_wf {s : State} (hs : Memory.wf s.mem) (core buf : Nat) :
    NextWf (execWriteBufferDrain core buf s) := by
  simp [execWriteBufferDrain, Memory.wf, hs]

@[simp] theorem atomic_wf {s : State} (hs : Memory.wf s.mem) (i : Instr) (c : Cls) (op : AOp) (ty : DTy) (sc : Scope) (sp : Space)
    (d : Option Reg) (a b : Reg) (cc : Option Reg) (off : Option W32) (g : Byte) (cas : Bool) :
    Memory.wf (atomic i c op ty sc sp d a b cc off g cas s).mem := by
  refine issue_wf hs _ fun e => ?_
  have hq := checkLanes_wf hs e sp needW true (DTy.bytes ty) (laneAddr e.w sp a off) (accLanes e c)
  simp only
  generalize checkLanes s e sp needW true (DTy.bytes ty) (laneAddr e.w sp a off) (accLanes e c) = q at hq ⊢
  split
  · exact hs
  · split
    · exact hs
    · cases sp
      · simp only [if_true]
        repeat' split
        · exact hs
        all_goals simpa using hq
      · simp only [reduceCtorEq, if_false]
        split
        · exact hs
        · rw [endLanes_mem, foldl_mem (fun t x => by split <;> simp)]
          exact hq

@[simp] theorem execAtom_wf {s : State} (hs : Memory.wf s.mem) (x : FAtom) : NextWf (execAtom x s) := by
  simp [execAtom, Memory.wf, hs]

@[simp] theorem execRed_wf {s : State} (hs : Memory.wf s.mem) (x : FRed) : NextWf (execRed x s) := by
  simp [execRed, Memory.wf, hs]

@[simp] theorem atomOld_wf {s : State} (hs : Memory.wf s.mem) (r : WRef) (sc : Scope) (pa n : Nat) :
    Memory.wf (atomOld s r sc pa n).1.mem := by
  grind [atomOld, !pushClc_wf, !cross_mem, !pushRdc_wf, !readFill_mem, !dieAccess_mem, !drainLine_wf, !recallAll_wf]

@[simp] theorem atomNew_wf {s : State} (hs : Memory.wf s.mem) (r : WRef) (a : AtomOp) (q : AtomReq) (ctx chain : Nat)
    (l : List Byte) : Memory.wf (atomNew s r a q ctx chain l).mem := by
  unfold atomNew
  simp only
  repeat' split
  all_goals simp [Memory.wf, hs]

@[simp] theorem askOwner_mem (s : State) (d line cls chain : Nat) : (askOwner s d line cls chain).mem = s.mem := by
  unfold askOwner
  split <;> simp

@[simp] theorem endReq_mem (s : State) (r : WRef) (a : AtomOp) (req : Nat) (l : List LaneFault) :
    (endReq s r a req l).mem = s.mem := by
  unfold endReq
  simp only
  repeat' split
  all_goals simp

@[simp] theorem failReq_mem (s : State) (r : WRef) (a : AtomOp) (q : AtomReq) (c : Nat) : (failReq s r a q c).mem = s.mem := by
  simp [failReq]

@[simp] theorem execAtomicRequest_wf {s : State} (hs : Memory.wf s.mem) (core slot op : Nat) (x1 : Nat × SegOutcome) :
    NextWf (execAtomicRequest core slot op x1 s) := by
  obtain ⟨req, out⟩ := x1
  refine (nextWf_next _).2 ?_
  split
  · exact hs
  next w _ =>
  split
  next a b _ _ =>
    split
    · exact hs
    next q _ =>
      split
      · simpa using hs
      · have ho := atomOld_wf hs { core := core, slot := slot } a.scope q.pa (DTy.bytes a.ty)
        simp only
        generalize atomOld s { core := core, slot := slot } a.scope q.pa (DTy.bytes a.ty) = o at ho ⊢
        obtain ⟨s1, _ | v⟩ := o
        · simp only
          split <;> simpa using ho
        · simpa using atomNew_wf (by simpa using ho) ..
  · exact hs

@[simp] theorem execQld_wf {s : State} (hs : Memory.wf s.mem) (x : FQld) : NextWf (execQld x s) := by
  refine nextWf_issue hs fun e => ?_
  simp only
  repeat' split
  all_goals simp [Memory.wf, hs]

@[simp] theorem qldLane_wf {s : State} (hs : Memory.wf s.mem) (r : WRef) (w : Warp) (b : Block) (o : LoadOp) (sx : Bool)
    (a : LaneAcc) : Memory.wf (qldLane s r w b o sx a).1.mem := by
  grind [qldLane, !readFill_mem, !checkG_wf]

@[simp] theorem qldLanes_wf {s : State} (hs : Memory.wf s.mem) (r : WRef) (w : Warp) (b : Block) (o : LoadOp) (sx : Bool) :
    Memory.wf (qldLanes s r w b o sx).1.mem := by
  refine foldl_fst_wf (fun z a hz => ?_) _ hs
  grind [!qldLane_wf]

@[simp] theorem execQldFill_wf {s : State} (hs : Memory.wf s.mem) (core slot op : Nat) (out : SegOutcome) :
    NextWf (execQldFill core slot op out s) := by
  unfold execQldFill
  simp only
  repeat' split
  all_goals simp [Memory.wf, hs]

@[simp] theorem execQpop_wf {s : State} (hs : Memory.wf s.mem) (x : FDA) : NextWf (execQpop x s) := by
  refine nextWf_issue hs fun e => ?_
  simp only
  repeat' split
  all_goals simp [Memory.wf, hs]

/-! ### The package network -/

theorem receive_wf {s : State} (hs : Memory.wf s.mem) {id : Nat} {p : MsgKind → Bool} {ready : Msg → Bool}
    {f : Msg → State → State}
    (hf : ∀ m t, Memory.wf t.mem → Memory.wf (f m t).mem) : Memory.wf (receive s id p ready f).mem := by
  unfold receive
  split
  · exact hs
  next m _ =>
    simp only
    repeat' split
    · exact hs
    · exact hs
    · exact hs
    · refine hf _ _ ?_
      rw [foldl_mem (fun _ _ => State.updLink_mem ..)]
      exact hs

@[simp] theorem reply_mem (s : State) (m : Msg) (k : MsgKind) (bytes : SMap Byte) : (reply s m k bytes).mem = s.mem := by
  simp [reply]

@[simp] theorem perform_wf {s : State} (hs : Memory.wf s.mem) (k : ReqKind) (m : Msg) (still : Bool) :
    Memory.wf (perform s k m still).mem := by
  have h0 : Memory.wf (dieAccess s m.dst (m.line / 64)).mem := by simpa using hs
  unfold perform
  simp only
  generalize dieAccess s m.dst (m.line / 64) = s0 at h0 ⊢
  cases k <;> simp only
  · exact settleHome_wf (by simp [Memory.wf, h0]) ..
  · exact settleHome_wf (by split <;> simp [Memory.wf, h0]) ..
  · exact settleHome_wf (by split <;> simp [Memory.wf, h0]) ..
  · simp [Memory.wf, h0]
  · simpa using hs
  · split
    · simp [Memory.wf, hs]
    · split <;> simpa using hs

@[simp] theorem hold_mem (s : State) (m : Msg) (k : MsgKind) (l : List Nat) (disc : Bool) : (hold s m k l disc).mem = s.mem := by
  simp [hold]

@[simp] theorem serveNow_wf {s : State} (hs : Memory.wf s.mem) (k : ReqKind) (m : Msg) : Memory.wf (serveNow s k m).mem := by
  unfold serveNow
  simp only
  split <;> simp [Memory.wf, hs]

@[simp] theorem serveReq_wf {s : State} (hs : Memory.wf s.mem) (k : ReqKind) (m : Msg) : Memory.wf (serveReq s k m).mem := by
  unfold serveReq
  simp only
  repeat' split
  all_goals simp [Memory.wf, hs]

@[simp] theorem takeReq_wf {s : State} (hs : Memory.wf s.mem) (k : ReqKind) (id : Nat) : Memory.wf (takeReq k id s).mem := by
  refine receive_wf hs fun m t ht => ?_
  simp [Memory.wf, ht]

@[simp] theorem execRd_wf {s : State} (hs : Memory.wf s.mem) (id : Nat) : NextWf (execRd id s) := by simp [execRd, Memory.wf, hs]

@[simp] theorem execRfo_wf {s : State} (hs : Memory.wf s.mem) (id : Nat) : NextWf (execRfo id s) := by
  simp [execRfo, Memory.wf, hs]

@[simp] theorem execUpg_wf {s : State} (hs : Memory.wf s.mem) (id : Nat) : NextWf (execUpg id s) := by
  simp [execUpg, Memory.wf, hs]

@[simp] theorem execWb_wf {s : State} (hs : Memory.wf s.mem) (id : Nat) : NextWf (execWb id s) := by simp [execWb, Memory.wf, hs]

@[simp] theorem execEvn_wf {s : State} (hs : Memory.wf s.mem) (id : Nat) : NextWf (execEvn id s) := by
  simp [execEvn, Memory.wf, hs]

@[simp] theorem execDirtyNotice_wf {s : State} (hs : Memory.wf s.mem) (id : Nat) : NextWf (execDirtyNotice id s) := by
  simp [execDirtyNotice, Memory.wf, hs]

@[simp] theorem execPush_wf {s : State} (hs : Memory.wf s.mem) (site line : Nat) : NextWf (execPush site line s) := by
  unfold execPush
  split <;> simp [Memory.wf, hs]

@[simp] theorem winRuns_wf {s : State} (hs : Memory.wf s.mem) (win : Option Nat) (a n : Nat) (wr : Bool) :
    Memory.wf (winRuns s win a n wr).1.mem := by
  unfold winRuns
  split
  · exact hs
  · split
    · exact hs
    · refine foldl_fst_wf (fun r p hr => ?_) _ (r := (s, some [])) hs
      grind [!engineXlat_wf]

@[simp] theorem execRdnc_wf {s : State} (hs : Memory.wf s.mem) (x : Option Nat × Nat) : NextWf (execRdnc x s) := by
  unfold execRdnc
  simp only [nextWf_next]
  split
  · exact hs
  next s1 l hl =>
    have h1 := wf_of_eq (winRuns_wf hs ..) hl
    split
    · exact foldl_wf (fun t p ht => by simp [Memory.wf, ht]) _ h1
    · exact hs

@[simp] theorem execWrnc_wf {s : State} (hs : Memory.wf s.mem) (x : Option Nat × BytesAt) : NextWf (execWrnc x s) := by
  unfold execWrnc
  simp only [nextWf_next]
  split
  · exact hs
  next s1 l hl =>
    have h1 := wf_of_eq (winRuns_wf hs ..) hl
    split
    · rw [staleMoved_mem]
      exact foldl_fst_wf (fun r p hr => by simp [Memory.wf, hr]) _ h1
    · exact hs

@[simp] theorem answer_mem (s : State) (m : Msg) (held owner : Bool) (bytes : SMap Byte) :
    (answer s m held owner bytes).mem = s.mem := by
  simp [answer]

@[simp] theorem execSnoop_wf {s : State} (hs : Memory.wf s.mem) (id : Nat) : NextWf (execSnoop id s) := by
  refine (nextWf_next _).2 (receive_wf hs fun m t ht => ?_)
  simp only
  repeat' split
  all_goals simp [Memory.wf, ht]

@[simp] theorem execDiscoveryBroadcast_wf {s : State} (hs : Memory.wf s.mem) (id : Nat) :
    NextWf (execDiscoveryBroadcast id s) := by
  refine (nextWf_next _).2 (receive_wf hs fun m t ht => ?_)
  grind [!answer_mem]

@[simp] theorem heldDone_wf {s : State} (hs : Memory.wf s.mem) (n : Nat) (h : Held) (k : ReqKind) :
    Memory.wf (heldDone s n h k).mem := by
  grind [heldDone, !takeEvicts_wf, !perform_wf, !serveNow_wf, !State.updHome_mem, !homePut_wf, !rebuild_wf, foldl_wf, foldl_mem]

@[simp] theorem execSnoopAnswer_wf {s : State} (hs : Memory.wf s.mem) (id : Nat) : NextWf (execSnoopAnswer id s) := by
  refine (nextWf_next _).2 (receive_wf hs fun m t ht => ?_)
  simp only
  repeat' split
  all_goals simp [Memory.wf, ht]

@[simp] theorem releaseRdc_mem (s : State) (d line : Nat) : (releaseRdc s d line).mem = s.mem := by
  unfold releaseRdc
  split <;> simp

@[simp] theorem rdcRoom_mem (s : State) (d line : Nat) : (rdcRoom s d line).1.mem = s.mem := by
  unfold rdcRoom
  repeat' split
  all_goals simp

@[simp] theorem endWait_mem (s : State) (d line : Nat) : (endWait s d line).mem = s.mem := by rfl

@[simp] theorem execDataReply_wf {s : State} (hs : Memory.wf s.mem) (id : Nat) : NextWf (execDataReply id s) := by
  refine (nextWf_next _).2 (receive_wf hs fun m t ht => ?_)
  simp only
  repeat' split
  all_goals simp [Memory.wf, ht]

@[simp] theorem execAcknowledgement_wf {s : State} (hs : Memory.wf s.mem) (id : Nat) : NextWf (execAcknowledgement id s) := by
  refine (nextWf_next _).2 (receive_wf hs fun m t ht => ?_)
  simp only
  repeat' split
  all_goals simp [Memory.wf, ht]

@[simp] theorem execHbmReplay_wf {s : State} (hs : Memory.wf s.mem) (id : Nat) : NextWf (execHbmReplay id s) := by
  refine (nextWf_next _).2 (receive_wf hs fun m t ht => ?_)
  grind [!send_mem]

@[simp] theorem execPageSnoop_wf {s : State} (hs : Memory.wf s.mem) (site page : Nat) : NextWf (execPageSnoop site page s) := by
  unfold execPageSnoop
  simp only
  repeat' split
  all_goals simp [Memory.wf, hs]

@[simp] theorem leaseReply_mem (s : State) (core line w rts : Nat) (bytes : SMap Byte) :
    (leaseReply s core line w rts bytes).mem = s.mem := by
  simp [leaseReply]

@[simp] theorem execLeaseRequest_wf {s : State} (hs : Memory.wf s.mem) (core line : Nat) :
    NextWf (execLeaseRequest core line s) := by
  unfold execLeaseRequest
  simp only [nextWf_next]
  repeat' split
  · exact hs
  · exact hs
  · exact settleHome_wf (by simp [Memory.wf, hs]) ..
  all_goals simpa using hs

@[simp] theorem execLeaseReply_wf {s : State} (hs : Memory.wf s.mem) (id : Nat) : NextWf (execLeaseReply id s) := by
  refine (nextWf_next _).2 (receive_wf hs fun m t ht => ?_)
  simp only
  repeat' split
  all_goals simp [Memory.wf, ht]

@[simp] theorem execClcDirtyPush_wf {s : State} (hs : Memory.wf s.mem) (cluster line : Nat) :
    NextWf (execClcDirtyPush cluster line s) := by
  unfold execClcDirtyPush
  split <;> simp [Memory.wf, hs]

@[simp] theorem execPtsTick_wf {s : State} (hs : Memory.wf s.mem) (core : Nat) : NextWf (execPtsTick core s) := by
  unfold execPtsTick
  simp only
  repeat' split
  all_goals simp [Memory.wf, hs]

@[simp] theorem execLinkSleep_wf {s : State} (hs : Memory.wf s.mem) (l : Nat) : NextWf (execLinkSleep l s) := by
  unfold execLinkSleep
  simp only
  repeat' split
  all_goals simp [Memory.wf, hs]

@[simp] theorem execLinkWake_wf {s : State} (hs : Memory.wf s.mem) (l : Nat) : NextWf (execLinkWake l s) := by
  unfold execLinkWake
  split <;> simp [Memory.wf, hs]

@[simp] theorem execLinkWakeTimeout_wf {s : State} (hs : Memory.wf s.mem) (id : Nat) : NextWf (execLinkWakeTimeout id s) := by
  unfold execLinkWakeTimeout
  repeat' split
  all_goals simp [Memory.wf, hs]

@[simp] theorem execLinkFailure_wf {s : State} (hs : Memory.wf s.mem) (l : Nat) : NextWf (execLinkFailure l s) := by
  unfold execLinkFailure
  simp only [nextWf_next]
  split
  · exact hs
  · simp only [State.updPkg_mem, State.updLink_mem]
    rw [foldl_fst_mem (fun r m => by split <;> simp) _ (s, [])]
    exact hs

/-! ### Control flow and special registers -/

@[simp] theorem execNop_wf {s : State} (hs : Memory.wf s.mem) (x : FNop) : NextWf (execNop x s) := by
  refine nextWf_issue hs fun e => ?_
  simp [Memory.wf, hs]

@[simp] theorem execIll_wf {s : State} (hs : Memory.wf s.mem) (x : FIll) : NextWf (execIll x s) := by
  refine nextWf_issue hs fun e => ?_
  simp [Memory.wf, hs]

@[simp] theorem execBra_wf {s : State} (hs : Memory.wf s.mem) (x : FBra) : NextWf (execBra x s) := by
  refine nextWf_issue hs fun e => ?_
  simp [Memory.wf, hs]

@[simp] theorem jumpTo_mem (s : State) (e : Env) (t : W64) : (jumpTo s e t).state.mem = s.mem := by
  unfold jumpTo
  split <;> simp

@[simp] theorem execBrx_wf {s : State} (hs : Memory.wf s.mem) (x : FBrx) : NextWf (execBrx x s) := by
  refine nextWf_issue hs fun e => ?_
  simp [Memory.wf, hs]

@[simp] theorem execBrc_wf {s : State} (hs : Memory.wf s.mem) (x : FBrc) : NextWf (execBrc x s) := by
  refine nextWf_issue hs fun e => ?_
  simp only
  repeat' split
  all_goals simp [Memory.wf, hs]

@[simp] theorem execJoin_wf {s : State} (hs : Memory.wf s.mem) : NextWf (execJoin s) := by
  refine nextWf_issue hs fun e => ?_
  simp only
  repeat' split
  all_goals simp [Memory.wf, hs]

@[simp] theorem execCall_wf {s : State} (hs : Memory.wf s.mem) (x : FDSrc) : NextWf (execCall x s) := by
  refine nextWf_issue hs fun e => ?_
  simp only
  repeat' split
  all_goals simp [Memory.wf, hs]

@[simp] theorem execRet_wf {s : State} (hs : Memory.wf s.mem) (x : FA) : NextWf (execRet x s) := by
  refine nextWf_issue hs fun e => ?_
  simp [Memory.wf, hs]

@[simp] theorem execExit_wf {s : State} (hs : Memory.wf s.mem) (x : FExit) : NextWf (execExit x s) := by
  refine nextWf_issue hs fun e => ?_
  simp only
  repeat' split
  all_goals simp [Memory.wf, hs]

@[simp] theorem yieldRes_mem (s : State) (e : Env) : (yieldRes s e).state.mem = s.mem := by simp [yieldRes]

@[simp] theorem execYield_wf {s : State} (hs : Memory.wf s.mem) (x : FHd) : NextWf (execYield x s) := by
  refine nextWf_issue hs fun e => ?_
  simp [Memory.wf, hs]

@[simp] theorem execSleep_wf {s : State} (hs : Memory.wf s.mem) (x : FSrc) : NextWf (execSleep x s) := by
  refine nextWf_issue hs fun e => ?_
  simp only
  repeat' split
  all_goals simp [Memory.wf, hs]

@[simp] theorem execSleepExpiry_wf {s : State} (hs : Memory.wf s.mem) (core slot : Nat) :
    NextWf (execSleepExpiry core slot s) := by
  unfold execSleepExpiry
  simp only
  repeat' split
  all_goals simp [Memory.wf, hs]

@[simp] theorem execBkpt_wf {s : State} (hs : Memory.wf s.mem) (x : FHd) : NextWf (execBkpt x s) := by
  refine nextWf_issue hs fun e => ?_
  simp [Memory.wf, hs]

@[simp] theorem execTrap_wf {s : State} (hs : Memory.wf s.mem) (x : FTrap) : NextWf (execTrap x s) := by
  refine nextWf_issue hs fun e => ?_
  simp [Memory.wf, hs]

@[simp] theorem writeFmt_mem (s : State) (e : Env) (v : W64) : (writeFmt s e v).state.mem = s.mem := by
  unfold writeFmt
  split <;> simp

@[simp] theorem execSetfmt_wf {s : State} (hs : Memory.wf s.mem) (x : FSrc) : NextWf (execSetfmt x s) := by
  refine nextWf_issue hs fun e => ?_
  simp [Memory.wf, hs]

@[simp] theorem execSread_wf {s : State} (hs : Memory.wf s.mem) (x : FSread) : NextWf (execSread x s) := by
  refine nextWf_issue hs fun e => ?_
  simp [Memory.wf, hs]

@[simp] theorem execSwrite_wf {s : State} (hs : Memory.wf s.mem) (x : FSwrite) : NextWf (execSwrite x s) := by
  refine nextWf_issue hs fun e => ?_
  simp only
  repeat' split
  all_goals simp [Memory.wf, hs]

@[simp] theorem execWait_wf {s : State} (hs : Memory.wf s.mem) (x : FWait) : NextWf (execWait x s) := by
  refine nextWf_issue hs fun e => ?_
  simp only
  repeat' split
  all_goals simp [Memory.wf, hs]

/-! ### Fences, timelines and barriers -/

@[simp] theorem fence_wf {s : State} (hs : Memory.wf s.mem) (i : Instr) (k : FenceKind) (x : FFence) :
    Memory.wf (fence i k x s).mem := by
  refine issue_wf hs _ fun e => ?_
  simp only
  repeat' split
  all_goals simp [Memory.wf, hs]

@[simp] theorem execFenceAcq_wf {s : State} (hs : Memory.wf s.mem) (x : FFence) : NextWf (execFenceAcq x s) := by
  simp [execFenceAcq, Memory.wf, hs]

@[simp] theorem execFenceRel_wf {s : State} (hs : Memory.wf s.mem) (x : FFence) : NextWf (execFenceRel x s) := by
  simp [execFenceRel, Memory.wf, hs]

@[simp] theorem execFenceAr_wf {s : State} (hs : Memory.wf s.mem) (x : FFence) : NextWf (execFenceAr x s) := by
  simp [execFenceAr, Memory.wf, hs]

@[simp] theorem execFenceSc_wf {s : State} (hs : Memory.wf s.mem) (x : FFence) : NextWf (execFenceSc x s) := by
  simp [execFenceSc, Memory.wf, hs]

theorem relThen_wf {s : State} (hs : Memory.wf s.mem) {e : Env} {q : Scope} {f : State → Res}
    (hf : ∀ t, Memory.wf t.mem → Memory.wf (f t).state.mem) : Memory.wf (relThen s e q f).state.mem := by
  unfold relThen
  split
  · exact hs
  · exact hf _ (release_wf hs _ _)

theorem acqThen_wf {s : State} (hs : Memory.wf s.mem) {e : Env} {q : Scope} {f : State → Res}
    (hf : ∀ t, Memory.wf t.mem → Memory.wf (f t).state.mem) : Memory.wf (acqThen s e q f).state.mem := by
  unfold acqThen
  split
  · exact hs
  · exact hf _ (by simpa using hs)

@[simp] theorem execStep_wf {s : State} (hs : Memory.wf s.mem) (x : FSrc) : NextWf (execStep x s) := by
  refine nextWf_issue hs fun e => ?_
  grind [!relThen_wf, !State.updWarp_mem, !State.updFed_mem, Res.state, foldl_wf, foldl_mem]

@[simp] theorem raiseQtl_mem (s : State) (q : Nat) (v : W64) : (raiseQtl s q v).mem = s.mem := by rfl

@[simp] theorem execTlsig_wf {s : State} (hs : Memory.wf s.mem) (x : FAB) : NextWf (execTlsig x s) := by
  refine nextWf_issue hs fun e => ?_
  grind [!relThen_wf, !raiseQtl_mem, Res.state]

@[simp] theorem execTlwait_wf {s : State} (hs : Memory.wf s.mem) (x : FTlwait) : NextWf (execTlwait x s) := by
  refine nextWf_issue hs fun e => ?_
  grind [!acqThen_wf, Res.state]

@[simp] theorem setBar_mem (s : State) (core h n : Nat) (x : Bar) : (setBar s core h n x).mem = s.mem := by simp [setBar]

@[simp] theorem wakeParked_mem (s : State) (core h : Nat) (m : W32) : (wakeParked s core h m).mem = s.mem := by
  unfold wakeParked
  split
  · rfl
  · refine foldl_mem (fun t i => ?_) _ _
    simp only
    repeat' split
    all_goals simp

@[simp] theorem endParked_mem (s : State) (core h : Nat) (m : W32) : (endParked s core h m).mem = s.mem := by
  grind [endParked, !State.updWarp_mem, !wakeParked_mem, foldl_wf, foldl_mem]

@[simp] theorem barArrive_mem (s : State) (core h n : Nat) : (barArrive s core h n).1.mem = s.mem := by
  unfold barArrive
  simp only
  repeat' split
  all_goals simp

@[simp] theorem execBararv_wf {s : State} (hs : Memory.wf s.mem) (x : FBararv) : NextWf (execBararv x s) := by
  refine nextWf_issue hs fun e => ?_
  grind [!relThen_wf, !barArrive_mem, !State.updWarp_mem, Res.state]

@[simp] theorem execBarinit_wf {s : State} (hs : Memory.wf s.mem) (x : FBarinit) : NextWf (execBarinit x s) := by
  refine nextWf_issue hs fun e => ?_
  simp only
  repeat' split
  all_goals simp [Memory.wf, hs]

@[simp] theorem execBarinv_wf {s : State} (hs : Memory.wf s.mem) (x : FBarinv) : NextWf (execBarinv x s) := by
  refine nextWf_issue hs fun e => ?_
  simp only
  repeat' split
  all_goals simp [Memory.wf, hs]

@[simp] theorem execBarwait_wf {s : State} (hs : Memory.wf s.mem) (x : FBarwait) : NextWf (execBarwait x s) := by
  refine nextWf_issue hs fun e => ?_
  grind [!State.updWarp_mem, !acqThen_wf, !setBar_mem, Res.state]

@[simp] theorem execBarrmt_wf {s : State} (hs : Memory.wf s.mem) (x : FBarrmt) : NextWf (execBarrmt x s) := by
  refine nextWf_issue hs fun e => ?_
  grind [!relThen_wf, !State.freshId_mem, !State.updFed_mem, Res.state]

@[simp] theorem endArrival_mem (s : State) (a : Arrival) (v : Bool) : (endArrival s a v).mem = s.mem := by
  grind [endArrival, !State.updWarp_mem, !State.updFed_mem, !State.setBlock_mem]

@[simp] theorem execRemoteArrival_wf {s : State} (hs : Memory.wf s.mem) (id : Nat) : NextWf (execRemoteArrival id s) := by
  unfold execRemoteArrival
  repeat' split
  all_goals simp [Memory.wf, hs]

@[simp] theorem execBarrmtRedirect_wf {s : State} (hs : Memory.wf s.mem) (id : Nat) (out : SegOutcome) :
    NextWf (execBarrmtRedirect id out s) := by
  refine (nextWf_next _).2 ?_
  split
  · exact hs
  next a _ =>
  split
  · exact hs
  next v _ =>
  split
  · exact hs
  · have h1 := readVirtN_wf hs agentCp v.ctx v.save 8 needR
    split
    next s1 c hx =>
      replace h1 := wf_of_eq h1 hx
      split
      · exact askRun_wf h1 ..
      · simpa using h1
    next s1 hdr hx =>
      replace h1 := wf_of_eq h1 hx
      split
      · simpa using h1
      · have h2 := readVirtN_wf h1 agentCp v.ctx (savedBarAt v.save hdr a.n) 8 needR
        simp only
        split
        next s2 c hx =>
          replace h2 := wf_of_eq h2 hx
          split
          · exact askRun_wf h2 ..
          · simpa using h2
        next s2 x hx =>
          replace h2 := wf_of_eq h2 hx
          split
          · simpa using h2
          · have h3 := writeVirt_wf h2 agentCp v.ctx (savedBarAt v.save hdr a.n) (leBytes 8 (x + 0x10000)) needW
            split
            next s3 hx => simpa using wf_of_eq h3 hx
            next s3 c hx =>
              replace h3 := wf_of_eq h3 hx
              split
              · exact askRun_wf h3 ..
              · simpa using h3

@[simp] theorem execAccz_wf {s : State} (hs : Memory.wf s.mem) (x : FD) : NextWf (execAccz x s) := by
  refine nextWf_issue hs fun e => ?_
  simp only
  repeat' split
  all_goals simp [Memory.wf, hs]

@[simp] theorem execAccmovAccToVec_wf {s : State} (hs : Memory.wf s.mem) (x : FDA) : NextWf (execAccmovAccToVec x s) := by
  refine nextWf_issue hs fun e => ?_
  simp [Memory.wf, hs]

@[simp] theorem accWrite_mem (s : State) (e : Env) (i : Nat) (f : Nat → Nat → W32) : (accWrite s e i f).mem = s.mem := by rfl

@[simp] theorem execAccmovVecToAcc_wf {s : State} (hs : Memory.wf s.mem) (x : FDA) : NextWf (execAccmovVecToAcc x s) := by
  refine nextWf_issue hs fun e => ?_
  simp [Memory.wf, hs]

@[simp] theorem execAccmovAccToAcc_wf {s : State} (hs : Memory.wf s.mem) (x : FDA) : NextWf (execAccmovAccToAcc x s) := by
  refine nextWf_issue hs fun e => ?_
  simp [Memory.wf, hs]

/-! ### Copies and cache maintenance -/

@[simp] theorem copyIssue_mem (i : Instr) (x : FCpy) (sS dS : Bool) (s : State) : (copyIssue i x sS dS s).mem = s.mem := by
  grind [copyIssue, !State.freshId_mem, !State.updWarp_mem, !issue_mem, !Res.state_done, Res.state]

@[simp] theorem execCpyLd_wf {s : State} (hs : Memory.wf s.mem) (x : FCpy) : NextWf (execCpyLd x s) := by
  simp [execCpyLd, Memory.wf, hs]

@[simp] theorem execCpySt_wf {s : State} (hs : Memory.wf s.mem) (x : FCpy) : NextWf (execCpySt x s) := by
  simp [execCpySt, Memory.wf, hs]

@[simp] theorem execCpyg_wf {s : State} (hs : Memory.wf s.mem) (x : FCpy) : NextWf (execCpyg x s) := by
  simp [execCpyg, Memory.wf, hs]

@[simp] theorem tagLines_wf {s : State} (hs : Memory.wf s.mem) (x : Xlat) (n chain : Nat) (ef : Bool) :
    Memory.wf (tagLines s x n chain ef).mem := by
  grind [tagLines, !settleHome_wf, !touchHome_wf, foldl_wf, foldl_mem]

@[simp] theorem segFail_wf {s : State} (hs : Memory.wf s.mem) (core h : Nat) (b : Block) (sup : Bool) (g : Seg) :
    Memory.wf (segFail s core h b sup g).mem := by
  unfold segFail
  split <;> simp [Memory.wf, hs]

@[simp] theorem segBytes_mem (s : State) (c : CopyOp) (g : Seg) (l : List Byte) : (segBytes s c g l).1.mem = s.mem := by
  unfold segBytes
  simp only
  split
  · rfl
  · refine foldl_fst_mem (fun r i => ?_) _ (s, [])
    split <;> simp

theorem segMove_wf {s : State} (hs : Memory.wf s.mem) {core h : Nat} {b : Block} {c : CopyOp} {g : Seg} {t : State × Option Nat}
    (ht : segMove s core h b c g = some t) : Memory.wf t.1.mem := by
  grind [segMove, !State.updBlock_mem, !engineXlat_wf, !readPhys_wf, !segBytes_mem, !segFail_wf, !writeVirtE_wf, !tagLines_wf]

@[simp] theorem segAsk_wf {s : State} (hs : Memory.wf s.mem) (core : Nat) (b : Block) (c : CopyOp) (g : Seg) :
    Memory.wf (segAsk s core b c g).mem := by
  unfold segAsk
  repeat' split
  all_goals simp [Memory.wf, hs]

@[simp] theorem segLog_wf {s : State} (hs : Memory.wf s.mem) (ag : Nat) (b : Block) (c : CopyOp) (g : Seg) (dst : Bool)
    (out : SegOutcome) : Memory.wf (segLog s ag b c g dst out).mem := by
  grind [segLog, !engineXlat_wf, !logOutcome_mem]

@[simp] theorem execCopySegmentComplete_wf {s : State} (hs : Memory.wf s.mem) (core slot op seg : Nat) (x1 : Bool × SegOutcome) :
    NextWf (execCopySegmentComplete core slot op seg x1 s) := by
  obtain ⟨dst, out⟩ := x1
  refine (nextWf_next _).2 ?_
  split
  · exact hs
  next w _ =>
  split
  next c b _ _ =>
    split
    · exact hs
    next g _ =>
      split
      · exact hs
      · have h0 := segLog_wf hs (agentCopy (s.siteOf core)) b c g dst out
        simp only
        split
        · simpa using segFail_wf h0 ..
        · split
          · exact segAsk_wf hs ..
          next hm => simpa using segMove_wf h0 hm
          next hm => simpa using segMove_wf h0 hm
  · exact hs

@[simp] theorem execCbclose_wf {s : State} (hs : Memory.wf s.mem) (x : FD) : NextWf (execCbclose x s) := by
  refine nextWf_issue hs fun e => ?_
  simp only
  repeat' split
  all_goals simp [Memory.wf, hs]

@[simp] theorem execCbwait_wf {s : State} (hs : Memory.wf s.mem) (x : FSrc) : NextWf (execCbwait x s) := by
  refine nextWf_issue hs fun e => ?_
  grind [!State.setWarp_mem, !State.updWarp_mem, !acqThen_wf, Res.state]

@[simp] theorem flushLine_wf {s : State} (hs : Memory.wf s.mem) (core line : Nat) (sc : Scope) :
    Memory.wf (flushLine s core line sc).mem := by
  grind [flushLine, !pushClc_wf, !pushRdc_wf, !flushHome_wf, !drainLine_wf]

@[simp] theorem invLine_wf {s : State} (hs : Memory.wf s.mem) (core line : Nat) (sc : Scope) :
    Memory.wf (invLine s core line sc).mem := by
  unfold invLine
  simp only
  repeat' split
  all_goals simp [Memory.wf, hs]

@[simp] theorem reachLanes_fst (sc : Scope) (q : State × List LaneFault × List LaneAcc) : (reachLanes sc q).1 = q.1 := by
  unfold reachLanes
  split <;> rfl

@[simp] theorem maintain_wf {s : State} (hs : Memory.wf s.mem) (i : Instr) (x : FCm) (inv : Bool) :
    Memory.wf (maintain i x inv s).mem := by
  refine issue_wf hs _ fun e => ?_
  have hq := checkLanes_wf hs e .g needR false 1 (laneAddr e.w .g x.a x.off) (accLanes e x.cls)
  rw [← reachLanes_fst x.sc] at hq
  simp only
  generalize reachLanes x.sc (checkLanes s e .g needR false 1 (laneAddr e.w .g x.a x.off) (accLanes e x.cls)) = q at hq ⊢
  have hd : ∀ ls : List Nat, Memory.wf (ls.foldl (fun s l => flushLine s e.r.core l x.sc)
      (ls.foldl (fun s l => drainLine s e.r.core l) q.1)).mem := fun ls =>
    foldl_wf (fun t l ht => flushLine_wf ht ..) _ (foldl_wf (fun t l ht => drainLine_wf ht ..) _ hq)
  repeat' split
  · exact hs
  · exact hs
  · exact hs
  · exact hs
  · rw [endLanes_mem]
    exact foldl_wf (fun t l ht => invLine_wf ht ..) _ (hd _)
  · rw [endLanes_mem]
    exact hd _

@[simp] theorem execCflush_wf {s : State} (hs : Memory.wf s.mem) (x : FCm) : NextWf (execCflush x s) := by
  simp [execCflush, Memory.wf, hs]

@[simp] theorem execCinv_wf {s : State} (hs : Memory.wf s.mem) (x : FCm) : NextWf (execCinv x s) := by
  simp [execCinv, Memory.wf, hs]

@[simp] theorem markLine_mem (s : State) (line : Nat) : (markLine s line).mem = s.mem := by
  unfold markLine
  simp only
  repeat' split
  all_goals simp

@[simp] theorem execClv_wf {s : State} (hs : Memory.wf s.mem) (x : FClv) : NextWf (execClv x s) := by
  refine nextWf_issue hs fun e => ?_
  simp [Memory.wf, hs]

/-! ### First touch and invalidation of translations -/

@[simp] theorem poolRead_wf {s : State} (hs : Memory.wf s.mem) (pool : Nat) : Memory.wf (poolRead s pool).mem := by
  grind [poolRead, !readLine_wf, foldl_wf, foldl_mem]

@[simp] theorem pfOne_wf {s0 : State} (hs : Memory.wf s0.mem) (ctx va : Nat) : Memory.wf (pfOne s0 ctx va).1.mem := by
  have h0 : Memory.wf ((walkLines s0 va 5 (s0.ctxEnt ctx).root 1).foldl readLine s0).mem :=
    foldl_wf (fun t l ht => readLine_wf ht l) _ hs
  unfold pfOne
  simp only
  generalize (walkLines s0 va 5 (s0.ctxEnt ctx).root 1).foldl readLine s0 = s at h0 ⊢
  have h1 := poolRead_wf h0 (s0.ctxEnt ctx).pool
  repeat' split
  any_goals exact h0
  any_goals exact h1
  exact writePhys_wf (writePhys_wf (writePhys_wf h1 ..) ..) ..

@[simp] theorem execPfmap_wf {s : State} (hs : Memory.wf s.mem) (x : FPfmap) : NextWf (execPfmap x s) := by
  refine nextWf_issue hs fun e => ?_
  simp only
  repeat' split
  · exact hs
  · exact hs
  · rw [endLanes_mem, State.setWarp_mem]
    refine foldl_fst_wf (fun r p hr => ?_) _ ?_
    · exact pfOne_wf hr ..
    · exact hs

@[simp] theorem tlbDrop_wf {s : State} (hs : Memory.wf s.mem) (i : Instr) (p : Env → TlbEnt → Bool) :
    Memory.wf (tlbDrop i s p).mem := by
  refine issue_wf hs _ fun e => ?_
  grind [!relThen_wf, !dropTlb_mem, Res.state]

@[simp] theorem execTlbinvPage_wf {s : State} (hs : Memory.wf s.mem) (x : FA) : NextWf (execTlbinvPage x s) := by
  simp [execTlbinvPage, Memory.wf, hs]

@[simp] theorem execTlbinvCtx_wf {s : State} (hs : Memory.wf s.mem) (x : FHd) : NextWf (execTlbinvCtx x s) := by
  simp [execTlbinvCtx, Memory.wf, hs]

@[simp] theorem execTlbinvRange_wf {s : State} (hs : Memory.wf s.mem) (x : FHd) : NextWf (execTlbinvRange x s) := by
  refine nextWf_issue hs fun e => ?_
  grind [!relThen_wf, !reloadRange_wf, Res.state]

/-! ### Launches -/

@[simp] theorem cpRead_wf {s : State} (hs : Memory.wf s.mem) (ctx va n : Nat) : Memory.wf (cpRead s ctx va n).1.mem := by
  grind [cpRead, !readVirt_wf]

@[simp] theorem cpReadAll_wf {s : State} (hs : Memory.wf s.mem) (ctx n : Nat) (l : List Nat) :
    Memory.wf (cpReadAll s ctx n l).1.mem := by
  refine foldl_fst_wf (fun r a hr => ?_) _ hs
  grind [!cpRead_wf]

@[simp] theorem checkLaunch_wf {s : State} (hs : Memory.wf s.mem) (ctx addr : Nat) :
    Memory.wf (checkLaunch s ctx addr).1.mem := by
  unfold checkLaunch
  split
  · exact hs
  · have h1 := cpRead_wf hs ctx addr 384
    split
    next s1 hx => exact wf_of_eq h1 hx
    next s1 l hx =>
      replace h1 := wf_of_eq h1 hx
      split
      · exact h1
      · simp only
        split
        next s2 hx => exact wf_of_eq (cpReadAll_wf h1 ..) hx
        next s2 gl hx =>
          have h2 := wf_of_eq (cpReadAll_wf h1 ..) hx
          split
          next s3 hx => exact wf_of_eq (cpReadAll_wf h2 ..) hx
          next s3 nl hx =>
            have h3 := wf_of_eq (cpReadAll_wf h2 ..) hx
            split
            next s4 hx => exact wf_of_eq (cpReadAll_wf h3 ..) hx
            next s4 hl hx =>
              have h4 := wf_of_eq (cpReadAll_wf h3 ..) hx
              clear hx
              repeat' split
              all_goals exact h4

@[simp] theorem writeStatus_wf {s : State} (hs : Memory.wf s.mem) (ctx addr v num : Nat) :
    Memory.wf (writeStatus s ctx addr v num).mem := by
  grind [writeStatus, !writeVirt_wf, !State.raise_mem]

@[simp] theorem tryComplete_wf {s : State} (hs : Memory.wf s.mem) (lid : Nat) : Memory.wf (tryComplete s lid).mem := by
  grind [tryComplete, !State.setLaunch_mem, !State.updQueue_mem, !writeStatus_wf]

@[simp] theorem acceptLaunch_wf {s : State} (hs : Memory.wf s.mem) (ctx addr status : Nat) (who : Issuer) :
    Memory.wf (acceptLaunch s ctx addr status who).1.mem := by
  grind [acceptLaunch, !State.updFed_mem, !State.setLaunch_mem, !checkLaunch_wf, !writeStatus_wf, foldl_wf, foldl_mem]

@[simp] theorem enterReady_mem (s : State) (core slot : Nat) : (enterReady s core slot).mem = s.mem := by
  unfold enterReady
  repeat' split
  all_goals simp

@[simp] theorem placeBlock_mem (s : State) (lid : Nat) (l : Launch) (bid core : Nat) (recs : List Byte) (nrec : Nat) :
    (placeBlock s lid l bid core recs nrec).mem = s.mem := by
  grind [placeBlock, !State.setWarp_mem, !State.updFed_mem, !acquire_mem, !State.updCore_mem, !State.setBlock_mem,
    !State.updLaunch_mem, !enterReady_mem, foldl_wf, foldl_mem]

/-- A fold of steps that may stop keeps the canonical form where it goes through. -/
theorem foldl_bind_wf {β γ : Type} {g : State × γ → β → Option (State × γ)}
    (hg : ∀ y x z, Memory.wf y.1.mem → g y x = some z → Memory.wf z.1.mem) (l : List β) {o : Option (State × γ)} {z : State × γ}
    (ho : ∀ y, o = some y → Memory.wf y.1.mem) (hz : l.foldl (fun r x => r.bind (fun y => g y x)) o = some z) :
    Memory.wf z.1.mem := by
  induction l generalizing o with
  | nil => exact ho z hz
  | cons a l ih =>
    refine ih (fun y hy => ?_) hz
    obtain ⟨x, hx, hxy⟩ := Option.bind_eq_some_iff.1 hy
    exact hg x a y (ho x hx) hxy

theorem dealOne_wf {s : State} (hs : Memory.wf s.mem) {lid : Nat} {l : Launch} {t : State} (ht : dealOne s lid l = some t) :
    Memory.wf t.mem := by
  have hp : ∀ (t : State) x c f, Memory.wf t.mem → Memory.wf ((placeBlock t lid l x c [] 0).updLaunch lid f).mem :=
    fun t x c f h => by simpa using h
  unfold dealOne at ht
  simp only at ht
  split at ht
  · cases ht
  · split at ht
    · cases ht
      exact tryComplete_wf (by simpa using hs) _
    · split at ht
      · cases ht
        exact tryComplete_wf (by simpa using hs) _
      · split at ht
        next ids m _ =>
          split at ht
          · obtain ⟨c, -, rfl⟩ := Option.map_eq_some_iff.1 ht
            exact hp _ _ _ _ hs
          · split at ht
            · cases ht
            next s1 cur hm =>
              cases ht
              have h1 : Memory.wf s1.mem := by
                refine foldl_bind_wf (fun y x z hy hz => ?_) m (fun y hy => ?_) hm
                · obtain ⟨c, -, rfl⟩ := Option.map_eq_some_iff.1 hz
                  simpa using hy
                · cases hy
                  exact hs
              simpa using h1
        · repeat' split at ht
          all_goals
            obtain ⟨c, -, rfl⟩ := Option.map_eq_some_iff.1 ht
            exact hp _ _ _ _ hs

@[simp] theorem execBlockPlace_wf {s : State} (hs : Memory.wf s.mem) (lid : Nat) : NextWf (execBlockPlace lid s) := by
  refine (nextWf_next _).2 ?_
  repeat' split
  · exact hs
  · exact hs
  · exact hs
  · cases hd : dealOne s lid _ with
    | none => exact hs
    | some t => exact dealOne_wf hs hd

@[simp] theorem readRecs_wf {s : State} (hs : Memory.wf s.mem) (ctx : Nat) (n : NodeD) (head : Nat) (l : List (Nat × Bool))
    (out : SegOutcome) : Memory.wf (readRecs s ctx n head l out).1.mem := by
  refine foldl_fst_wf (fun r a hr => ?_) _ hs
  grind [!freeBytes_mem, !askRun_wf, !readVirt_wf]

@[simp] theorem startNode_wf {s : State} (hs : Memory.wf s.mem) (lid idx : Nat) (l : Launch) (n : NodeD) (out : SegOutcome) :
    Memory.wf (startNode s lid idx l n out).mem := by
  grind [startNode, !markLaunch_mem, !writeVirt_wf, !tryComplete_wf, !State.updLaunch_mem, !placeBlock_mem, !readRecs_wf]

@[simp] theorem execNodeBlockStart_wf {s : State} (hs : Memory.wf s.mem) (lid idx : Nat) (out : SegOutcome) :
    NextWf (execNodeBlockStart lid idx out s) := by
  unfold execNodeBlockStart
  repeat' split
  all_goals simp [Memory.wf, hs]

@[simp] theorem execNodeTimeout_wf {s : State} (hs : Memory.wf s.mem) (lid idx : Nat) (out : SegOutcome) :
    NextWf (execNodeTimeout lid idx out s) := by
  unfold execNodeTimeout
  repeat' split
  all_goals simp [Memory.wf, hs]

@[simp] theorem countSlot_wf {s : State} (hs : Memory.wf s.mem) (lid ctx : Nat) (l : Launch) (n : Nat) (d : NodeD) (ok : Bool) :
    Memory.wf (countSlot s lid ctx l n d ok).mem := by
  simp [countSlot, Memory.wf, hs]

@[simp] theorem emitFailed_wf {s : State} (hs : Memory.wf s.mem) (lid ctx : Nat) (l : Launch) (n : Nat) (d : NodeD) :
    Memory.wf (emitFailed s lid ctx l n d).mem := by
  simp [emitFailed, Memory.wf, hs]

@[simp] theorem execEmit_wf {s : State} (hs : Memory.wf s.mem) (x : FEmit) : NextWf (execEmit x s) := by
  refine nextWf_issue hs fun e => ?_
  grind [!relThen_wf, !State.updWarp_mem, !writeVirt_wf, !countSlot_wf, !askRun_wf, !emitFailed_wf, Res.state]

@[simp] theorem execLaunch_wf {s : State} (hs : Memory.wf s.mem) (x : FLaunch) : NextWf (execLaunch x s) := by
  refine nextWf_issue hs fun e => ?_
  grind [!relThen_wf, !State.updWarp_mem, !State.updFed_mem, Res.state]

@[simp] theorem acceptSubmit_wf {s : State} (hs : Memory.wf s.mem) (k : Nat) : Memory.wf (acceptSubmit s k).mem := by
  unfold acceptSubmit
  repeat' split
  all_goals simp [Memory.wf, hs]

@[simp] theorem applySplit_wf {s : State} (hs : Memory.wf s.mem) (core : Nat) : Memory.wf (applySplit s core).mem := by
  unfold applySplit
  simp only
  repeat' split
  all_goals simp [Memory.wf, hs]

@[simp] theorem dropWarp_mem (s : State) (r : WRef) : (dropWarp s r).mem = s.mem := by
  unfold dropWarp
  split <;> simp

@[simp] theorem dropArrivals_mem (s : State) (lid : Nat) (bid : W32) : (dropArrivals s lid bid).mem = s.mem := by rfl

@[simp] theorem endBlock_wf {s : State} (hs : Memory.wf s.mem) (core h : Nat) : Memory.wf (endBlock s core h).mem := by
  grind [endBlock, !dropWarp_mem, !State.updCore_mem, !tryComplete_wf, !dropArrivals_mem, !State.updLaunch_mem, !applySplit_wf,
    foldl_wf, foldl_mem]

@[simp] theorem execWarpEnd_wf {s : State} (hs : Memory.wf s.mem) (core slot : Nat) : NextWf (execWarpEnd core slot s) := by
  unfold execWarpEnd
  simp only
  repeat' split
  all_goals simp [Memory.wf, hs]

/-! ### Queues and issue slots -/

@[simp] theorem stopQueue_mem (s : State) (q code : Nat) : (stopQueue s q code).mem = s.mem := by rfl

@[simp] theorem writeTail_mem (s : State) (q : Nat) (v : W64) : (writeTail s q v).mem = s.mem := by
  grind [writeTail, !stopQueue_mem, !State.updQueue_mem]

@[simp] theorem findCmd_wf {s : State} (hs : Memory.wf s.mem) (q : Nat) : Memory.wf (findCmd s q).1.mem := by
  grind [findCmd, !cpRead_wf]

@[simp] theorem checkQueue_wf {s : State} (hs : Memory.wf s.mem) (q : Nat) : Memory.wf (checkQueue s q).mem := by
  grind [checkQueue, !findCmd_wf, !stopQueue_mem]

@[simp] theorem execQtailDoorbell_wf {s : State} (hs : Memory.wf s.mem) (q v : Nat) : NextWf (execQtailDoorbell q v s) := by
  unfold execQtailDoorbell
  split <;> simp [Memory.wf, hs]

@[simp] theorem execQueueResume_wf {s : State} (hs : Memory.wf s.mem) (q : Nat) : NextWf (execQueueResume q s) := by
  unfold execQueueResume
  split <;> simp [Memory.wf, hs]

@[simp] theorem nextCmd_wf {s : State} (hs : Memory.wf s.mem) (q : Nat) : Memory.wf (nextCmd s q).mem := by
  simp [nextCmd, Memory.wf, hs]

theorem runCmd_wf {s : State} (hs : Memory.wf s.mem) {q code : Nat} {f : State → List Byte → State}
    (hf : ∀ t l, Memory.wf t.mem → Memory.wf (f t l).mem) : Memory.wf (runCmd s q code f).mem := by
  unfold runCmd
  split
  · exact hs
  · grind [!findCmd_wf, !stopQueue_mem]

@[simp] theorem execLaunchCommand_wf {s : State} (hs : Memory.wf s.mem) (q : Nat) : NextWf (execLaunchCommand q s) := by
  refine (nextWf_next _).2 ?_
  split
  · exact acceptSubmit_wf hs _
  · refine runCmd_wf hs fun t l ht => nextCmd_wf ?_ _
    split <;> simp [Memory.wf, ht]

@[simp] theorem execChainEnd_wf {s : State} (hs : Memory.wf s.mem) (q : Nat) : NextWf (execChainEnd q s) := by
  refine (nextWf_next _).2 (runCmd_wf hs fun t l ht => ?_)
  split
  · exact ht
  · exact nextCmd_wf (by split <;> exact ht) _

@[simp] theorem execTlSignal_wf {s : State} (hs : Memory.wf s.mem) (q : Nat) : NextWf (execTlSignal q s) := by
  refine (nextWf_next _).2 (runCmd_wf hs fun t l ht => ?_)
  split <;> simp [Memory.wf, ht]

@[simp] theorem execTlWait_wf {s : State} (hs : Memory.wf s.mem) (q : Nat) : NextWf (execTlWait q s) := by
  refine (nextWf_next _).2 (runCmd_wf hs fun t l ht => ?_)
  simp only
  split <;> simp [Memory.wf, ht]

@[simp] theorem execFenceCommand_wf {s : State} (hs : Memory.wf s.mem) (q : Nat) : NextWf (execFenceCommand q s) := by
  refine (nextWf_next _).2 (runCmd_wf hs fun t l ht => ?_)
  split
  · exact ht
  · refine nextCmd_wf ?_ _
    split
    · refine foldl_wf (fun u h hu => foldl_wf (fun v e hv => ?_) _ hu) _ ht
      split
      · exact hv
      · exact flushHome_wf hv _
    · exact ht

@[simp] theorem execBarrierCommand_wf {s : State} (hs : Memory.wf s.mem) (q : Nat) : NextWf (execBarrierCommand q s) := by
  refine (nextWf_next _).2 (runCmd_wf hs fun t l ht => ?_)
  split <;> simp [Memory.wf, ht]

@[simp] theorem execSlottWrite_wf {s : State} (hs : Memory.wf s.mem) (core j : Nat) (v : W64) :
    NextWf (execSlottWrite core j v s) := by
  unfold execSlottWrite
  split <;> simp [Memory.wf, hs]

@[simp] theorem admitWarp_mem (s : State) (core : Nat) : (admitWarp s core).mem = s.mem := by
  unfold admitWarp
  split <;> simp

@[simp] theorem execWarpSwap_wf {s : State} (hs : Memory.wf s.mem) (core out : Nat) : NextWf (execWarpSwap core out s) := by
  unfold execWarpSwap
  simp only
  repeat' split
  all_goals simp [Memory.wf, hs]

@[simp] theorem execActiveSetRotate_wf {s : State} (hs : Memory.wf s.mem) (core : Nat) : NextWf (execActiveSetRotate core s) := by
  unfold execActiveSetRotate
  simp only
  repeat' split
  all_goals simp [Memory.wf, hs]

/-! ### Residencies -/

theorem evictFor_mem {core ctx n k : Nat} {s t : State} (ht : evictFor core ctx n k s = some t) : t.mem = s.mem := by
  induction k generalizing s with
  | zero => grind [evictFor]
  | succ k ih => grind [evictFor, !State.setRt_mem]

theorem takeQuads_mem {s : State} {core ctx n : Nat} {t : State × W32} (ht : takeQuads s core ctx n = some t) :
    t.1.mem = s.mem := by
  obtain ⟨u, hu, rfl⟩ := Option.map_eq_some_iff.1 ht
  exact evictFor_mem hu

@[simp] theorem clearQuads_mem (s : State) (core : Nat) (m : W32) : (clearQuads s core m).mem = s.mem := by rfl

@[simp] theorem rtRelease_mem (s : State) (core i : Nat) : (rtRelease s core i).mem = s.mem := by
  grind [rtRelease, !State.updCore_mem, !State.setRt_mem]

@[simp] theorem markSource_wf {s : State} (hs : Memory.wf s.mem) (core i ctx va : Nat) (sup : Bool) :
    Memory.wf (markSource s core i ctx va sup).mem := by
  grind [markSource, !reloadRange_wf, !writePhys_wf, !translate_wf, !State.setRt_mem, !dropTlb_mem]

@[simp] theorem startLoad_wf {s : State} (hs : Memory.wf s.mem) (core i : Nat) (l : ResLoad) :
    Memory.wf (startLoad s core i l).mem := by
  unfold startLoad
  simp only [State.updCore_mem]
  split
  · exact foldl_wf (fun t va ht => markSource_wf ht ..) _ hs
  · exact hs

theorem entryQuads_mem {s : State} {core : Nat} {e : RtEnt} {t : State × W32} (ht : entryQuads s core e = some t) :
    t.1.mem = s.mem := by
  unfold entryQuads at ht
  split at ht
  · exact takeQuads_mem ht
  · cases ht; rfl

theorem startRefill_wf {s : State} (hs : Memory.wf s.mem) {core i : Nat} {l : ResLoad} {t : State}
    (ht : startRefill s core i l = some t) :
    Memory.wf t.mem := by
  obtain ⟨u, hu, rfl⟩ := Option.map_eq_some_iff.1 ht
  exact startLoad_wf (by simpa [entryQuads_mem hu] using hs) ..

@[simp] theorem loadNumbers_wf {s : State} (hs : Memory.wf s.mem) (core : Nat) (l : ResLoad) :
    Memory.wf (loadNumbers s core l).mem := by
  grind [loadNumbers, !completeNum_mem, !State.updQueue_mem, !writeStatus_wf, foldl_wf, foldl_mem]

@[simp] theorem freeHeld_mem (s : State) (core i : Nat) : (freeHeld s core i).mem = s.mem := by
  refine foldl_mem (fun u t => ?_) _ _
  simp only
  split <;> simp

@[simp] theorem endLoad_wf {s : State} (hs : Memory.wf s.mem) (core : Nat) (l : ResLoad) (ok : Bool) :
    Memory.wf (endLoad s core l ok).mem := by
  simp [endLoad, Memory.wf, hs]

@[simp] theorem fillTiles_mem (s : State) (core : Nat) (e : RtEnt) (img : List Byte) : (fillTiles s core e img).mem = s.mem := by
  unfold fillTiles
  simp only
  rw [foldl_mem (fun t i => by split <;> simp)]
  exact clearQuads_mem _ _ _

@[simp] theorem loadLog_wf {s : State} (hs : Memory.wf s.mem) (core : Nat) (e : RtEnt) (sup : Bool) (off : Nat)
    (out : SegOutcome) : Memory.wf (loadLog s core e sup off out).mem := by
  grind [loadLog, !engineXlat_wf, !logOutcome_mem]

@[simp] theorem loadTiles_wf {s : State} (hs : Memory.wf s.mem) (core idx : Nat) (l : ResLoad) :
    Memory.wf (loadTiles s core idx l).mem := by
  grind [loadTiles, !markSource_wf, !askRun_wf, !fillTiles_mem, !endLoad_wf, !readVirt_wf, foldl_wf, foldl_mem]

@[simp] theorem execResidencyLoadComplete_wf {s : State} (hs : Memory.wf s.mem) (core : Nat) (x1 : Nat × Nat × SegOutcome) :
    NextWf (execResidencyLoadComplete core x1 s) := by
  unfold execResidencyLoadComplete
  simp only
  repeat' split
  all_goals simp [Memory.wf, hs]

@[simp] theorem execResidencyLoadFail_wf {s : State} (hs : Memory.wf s.mem) (core : Nat) (x1 : Nat × Nat × SegOutcome) :
    NextWf (execResidencyLoadFail core x1 s) := by
  unfold execResidencyLoadFail
  repeat' split
  all_goals simp [Memory.wf, hs]

@[simp] theorem execResidencyLoadStop_wf {s : State} (hs : Memory.wf s.mem) (core idx : Nat) :
    NextWf (execResidencyLoadStop core idx s) := by
  unfold execResidencyLoadStop
  repeat' split
  all_goals simp [Memory.wf, hs]

@[simp] theorem execLastuseAge_wf {s : State} (hs : Memory.wf s.mem) : NextWf (execLastuseAge s) := by
  unfold execLastuseAge
  simp only
  repeat' split
  all_goals simp [Memory.wf, hs]

@[simp] theorem resAlloc_mem (s : State) (core ctx : Nat) (name : W64) (q : Nat) :
    (resAlloc s core ctx name q).1.mem = s.mem := by
  unfold resAlloc
  simp only
  repeat' split
  any_goals rfl
  next s1 m hm =>
    have h1 : s1.mem = s.mem := takeQuads_mem hm
    simpa using h1

@[simp] theorem execResalloc_wf {s : State} (hs : Memory.wf s.mem) (x : FResalloc) : NextWf (execResalloc x s) := by
  refine nextWf_issue hs fun e => ?_
  simp [Memory.wf, hs]

theorem Res.ite_wf {c : Prop} [Decidable c] {a b : Res} (ha : Memory.wf a.state.mem) (hb : Memory.wf b.state.mem) :
    Memory.wf (if c then a else b).state.mem := by
  split
  · exact ha
  · exact hb

theorem withHandle_wf {s : State} (hs : Memory.wf s.mem) {e : Env} {r : Reg} {f : Nat → RtEnt → Res}
    (hf : ∀ i en, Memory.wf (f i en).state.mem) : Memory.wf (withHandle s e r f).state.mem := by
  unfold withHandle
  simp only
  repeat' split
  · exact hs
  · exact hs
  · exact hf _ _

@[simp] theorem resRefused_mem (s : State) (e : Env) (d : Reg) (st : Nat) : (resRefused s e d st).state.mem = s.mem := by
  simp [resRefused]

@[simp] theorem giveNum_mem (s : State) (e : Env) (d : Reg) (tlid n : Nat) : (giveNum s e d tlid n).mem = s.mem := by
  simp [giveNum]

@[simp] theorem execResload_wf {s : State} (hs : Memory.wf s.mem) (x : FResload) : NextWf (execResload x s) := by
  refine nextWf_issue hs fun e => withHandle_wf hs fun i en => ?_
  refine Res.ite_wf hs (Res.ite_wf hs (Res.ite_wf ?_ (Res.ite_wf ?_ (Res.ite_wf hs (relThen_wf hs fun t ht => ?_)))))
  · rwa [resRefused_mem]
  · rwa [resRefused_mem]
  · simp only
    split
    · rwa [resRefused_mem]
    next s1 m hq =>
      have h1 : s1.mem = t.mem := entryQuads_mem hq
      simp only [Res.state_done, giveNum_mem]
      exact startLoad_wf (by simpa [h1] using ht) ..

@[simp] theorem execRespin_wf {s : State} (hs : Memory.wf s.mem) (x : FA) : NextWf (execRespin x s) := by
  refine nextWf_issue hs fun e => withHandle_wf hs fun i en => ?_
  have h1 : ∀ c x, Memory.wf (s.setRt c i x).mem := fun _ _ => hs
  simp only
  split
  · exact h1 _ _
  · split
    · exact hs
    · refine relThen_wf (h1 _ _) fun t ht => ?_
      split
      · exact ht
      · cases hr : startRefill t e.r.core i _ with
        | none => exact ht
        | some u => exact startRefill_wf ht hr

@[simp] theorem execResunpin_wf {s : State} (hs : Memory.wf s.mem) (x : FA) : NextWf (execResunpin x s) := by
  refine nextWf_issue hs fun e => ?_
  grind [!withHandle_wf, !State.setRt_mem, Res.state]

@[simp] theorem execResq_wf {s : State} (hs : Memory.wf s.mem) (x : FDA) : NextWf (execResq x s) := by
  refine nextWf_issue hs fun e => ?_
  simp [Memory.wf, hs]

@[simp] theorem execResref_wf {s : State} (hs : Memory.wf s.mem) (x : FDA) : NextWf (execResref x s) := by
  refine nextWf_issue hs fun e => withHandle_wf hs fun i en => ?_
  simp only
  split
  · simpa using hs
  · refine relThen_wf hs fun t ht => ?_
    have hn : Memory.wf (issueNum t e.b.ctx (4096 + s.siteOf e.r.core)).2.mem := by simpa using ht
    repeat' split
    any_goals simpa using ht
    next s1 hr => simpa using startRefill_wf hn hr

@[simp] theorem execResfree_wf {s : State} (hs : Memory.wf s.mem) (x : FA) : NextWf (execResfree x s) := by
  refine nextWf_issue hs fun e => ?_
  grind [!State.updCore_mem, !withHandle_wf, !rtRelease_mem, !State.setRt_mem, Res.state]

@[simp] theorem execResPreload_wf {s : State} (hs : Memory.wf s.mem) (q : Nat) : NextWf (execResPreload q s) := by
  refine (nextWf_next _).2 (runCmd_wf hs fun t l ht => ?_)
  have hr : ∀ (u : State) (a b c d : Nat), Memory.wf u.mem → Memory.wf (nextCmd (writeStatus u a b c d) q).mem :=
    fun u a b c d h => nextCmd_wf (writeStatus_wf h ..) q
  simp only
  split
  · exact hr _ _ _ _ _ ht
  · split
    · exact hr _ _ _ _ _ ht
    · split
      · exact hr _ _ _ _ _ ht
      next fm n _ =>
        have hf : Memory.wf (if (preShapes (fieldAt l 0x18 8)).length ≤ 1 then (0#8, t) else t.freeByte).2.mem := by
          split <;> simpa using ht
        split
        next s1 h hx =>
          have h1 := wf_of_eq (by rw [resAlloc_mem]; exact hf) hx
          split
          · exact hr _ _ _ _ _ ht
          · split
            · exact ht
            · refine nextCmd_wf ?_ q
              rw [State.updQueue_mem]
              refine startLoad_wf ?_ _ _ _
              rw [issueNum_mem, State.setRt_mem]
              exact h1
        next s1 h c _ hx => exact hr _ _ _ _ _ (wf_of_eq (by rw [resAlloc_mem]; exact hf) hx)

/-! ### The matrix unit -/

@[simp] theorem runBytes_mem (s : State) (old new : List Byte) : (runBytes s old new).1.mem = s.mem := by
  refine foldl_fst_mem (fun r p => ?_) _ (s, [])
  split <;> simp

@[simp] theorem blockBytes_mem (s : State) (b : Block) (t : Tmma) (k : Nat) (use : Nat → Bool) :
    (blockBytes s b t k use).1.mem = s.mem := by
  refine foldl_fst_mem (fun r i => ?_) _ (s, [])
  simp only
  repeat' split
  all_goals simp

@[simp] theorem updTmma_mem (s : State) (core id : Nat) (f : Tmma → Tmma) : (updTmma s core id f).mem = s.mem := by rfl

@[simp] theorem tmmaAccept_mem (s : State) (e : Env) (x : FTmma) (sel : Byte) (base h : Nat) (held : Bool) :
    (tmmaAccept s e x sel base h held).mem = s.mem := by
  unfold tmmaAccept
  split <;> simp

@[simp] theorem execTmma_wf {s : State} (hs : Memory.wf s.mem) (x : FTmma) : NextWf (execTmma x s) := by
  refine nextWf_issue hs fun e => ?_
  simp only
  split
  · exact hs
  · simpa using hs
  · simpa using hs
  · split
    · exact hs
    · split
      · exact hs
      next i en _ =>
        split
        · exact hs
        · split
          · exact hs
          · split
            · refine relThen_wf hs fun t ht => ?_
              split
              · exact ht
              · split
                · exact ht
                next s1 hr =>
                  rw [Res.state_wait, tmmaAccept_mem]
                  exact startRefill_wf ht hr
            · split
              · simpa using hs
              · simpa using hs

@[simp] theorem tmmaStart_mem (s : State) (core : Nat) (t : Tmma) : (tmmaStart s core t).mem = s.mem := by
  unfold tmmaStart
  simp only
  repeat' split
  · rfl
  · exact updTmma_mem ..
  · rfl
  · exact (updTmma_mem ..).trans (State.setRt_mem ..)

@[simp] theorem tmmaNext_mem (s : State) (core : Nat) (t : Tmma) (r : TmmaRun) (el : Option Nat) :
    (tmmaNext s core t r el).mem = s.mem := by
  unfold tmmaNext
  simp only
  repeat' split
  all_goals simp

@[simp] theorem execTmmaRun_wf {s : State} (hs : Memory.wf s.mem) (core : Nat) (x1 : Nat × Option Nat) :
    NextWf (execTmmaRun core x1 s) := by
  unfold execTmmaRun
  repeat' split
  all_goals simp [Memory.wf, hs]

@[simp] theorem execTmmaComplete_wf {s : State} (hs : Memory.wf s.mem) (core id : Nat) : NextWf (execTmmaComplete core id s) := by
  unfold execTmmaComplete
  repeat' split
  all_goals simp [Memory.wf, hs]

/-! ### The key-value engine -/

@[simp] theorem kvGet_wf {s : State} (hs : Memory.wf s.mem) (pa n : Nat) : Memory.wf (kvGet s pa n).1.mem := by
  simp [kvGet, Memory.wf, hs]

@[simp] theorem kvPut_wf {s : State} (hs : Memory.wf s.mem) (pa n v : Nat) : Memory.wf (kvPut s pa n v).mem := by
  unfold kvPut
  split <;> simp [Memory.wf, hs]

@[simp] theorem kvMeet_mem (s : State) (l : List (Nat × Nat)) : (kvMeet s l).1.mem = s.mem := by
  grind [kvMeet, !logOutcome_mem, !State.updCtl_mem]

@[simp] theorem poolGet_wf {s : State} (hs : Memory.wf s.mem) (p0 p1 : Nat) : Memory.wf (poolGet s p0 p1).1.mem := by
  simp [poolGet, Memory.wf, hs]

@[simp] theorem ringWord_wf {s : State} (hs : Memory.wf s.mem) (p : KvPool) (n i : Nat) : Memory.wf (ringWord s p n i).1.mem := by
  simp [ringWord, Memory.wf, hs]

@[simp] theorem ringTake_wf {s : State} (hs : Memory.wf s.mem) (p : KvPool) (n : Nat) : Memory.wf (ringTake s p n).1.mem := by
  grind [ringTake, !kvPut_wf, !kvGet_wf, !ringWord_wf]

@[simp] theorem ringGive_wf {s : State} (hs : Memory.wf s.mem) (p : KvPool) (n v : Nat) : Memory.wf (ringGive s p n v).mem := by
  grind [ringGive, !kvPut_wf, !ringWord_wf]

@[simp] theorem entGet_wf {s : State} (hs : Memory.wf s.mem) (p : KvPool) (i : Nat) : Memory.wf (entGet s p i).1.mem := by
  simp [entGet, Memory.wf, hs]

@[simp] theorem entPut_wf {s : State} (hs : Memory.wf s.mem) (p : KvPool) (i : Nat) (e : KvEnt) :
    Memory.wf (entPut s p i e).mem := by
  simp [entPut, Memory.wf, hs]

@[simp] theorem tryFree_wf {s : State} (hs : Memory.wf s.mem) (p : KvPool) (i : Nat) : Memory.wf (tryFree s p i).mem := by
  grind [tryFree, !entGet_wf, !entPut_wf, !ringGive_wf]

@[simp] theorem doneMove_mem (s : State) (m : KvMove) : (doneMove s m).mem = s.mem := by rfl

@[simp] theorem endMove_wf {s : State} (hs : Memory.wf s.mem) (m : KvMove) (st : Nat) : Memory.wf (endMove s m st).mem := by
  grind [endMove, !doneMove_mem, !writeVirt_wf, !State.raise_mem, !askPage_mem]

@[simp] theorem dropMove_wf {s : State} (hs : Memory.wf s.mem) (p : KvPool) (m : KvMove) (st : Nat) :
    Memory.wf (dropMove s p m st).mem := by
  grind [dropMove, !entGet_wf, !entPut_wf, !endMove_wf, !ringGive_wf]

@[simp] theorem decRef_wf {s : State} (hs : Memory.wf s.mem) (p : KvPool) (i : Nat) : Memory.wf (decRef s p i).mem := by
  grind [decRef, !tryFree_wf, !entGet_wf, !entPut_wf, !dropMove_wf]

@[simp] theorem newBlk_wf {s : State} (hs : Memory.wf s.mem) (p : KvPool) : Memory.wf (newBlk s p).1.mem := by
  grind [newBlk, !entPut_wf, !ringTake_wf]

theorem cowBlk_wf {s : State} (hs : Memory.wf s.mem) (p : KvPool) (i : Nat) {put : State → Nat → State}
    (hp : ∀ t n, Memory.wf t.mem → Memory.wf (put t n).mem) : Memory.wf (cowBlk s p i put).1.mem := by
  have he := entGet_wf hs p i
  grind [cowBlk, !newBlk_wf, !readPhys_wf, !writePhys_wf, !decRef_wf]

@[simp] theorem kvFail_mem (s : State) (e : Env) (m : Mask) (c va : Nat) : (kvFail s e m c va).state.mem = s.mem := by
  unfold kvFail
  split <;> simp

@[simp] theorem kvGuard_wf {s : State} (hs : Memory.wf s.mem) (m : Mask) (va : Nat) (l : List (Option Nat)) {f : Res}
    (hf : Memory.wf f.state.mem) : Memory.wf (kvGuard s m va l f).state.mem := by
  unfold kvGuard
  split
  · exact hs
  · exact hf

theorem withPool_wf {s : State} (hs : Memory.wf s.mem) {e : Env} {m : Mask} {addrs : List (Nat × Nat)} {va : Nat}
    {f : State → KvPool → Res}
    (hf : ∀ t p, Memory.wf t.mem → Memory.wf (f t p).state.mem) : Memory.wf (withPool s e m addrs va f).state.mem := by
  unfold withPool
  split
  · exact hs
  · split
    · exact hs
    · simp only
      split
      · simpa using hs
      next s1 x hx =>
        have h1 := wf_of_eq (engineXlat_wf hs ..) hx
        split
        · simpa using hs
        next s2 y hy => exact hf _ _ (poolGet_wf (wf_of_eq (engineXlat_wf h1 ..) hy) _ _)

theorem withWord_wf {s : State} (hs : Memory.wf s.mem) {e : Env} {m : Mask} {va n : Nat} {need : BitVec 4} {f : State → Nat → Res}
    (hf : ∀ t v, Memory.wf t.mem → Memory.wf (f t v).state.mem) : Memory.wf (withWord s e m va n need f).state.mem := by
  unfold withWord
  split
  · simpa using hs
  next s1 x hx => exact hf _ _ (kvGet_wf (wf_of_eq (engineXlat_wf hs ..) hx) _ _)

theorem withSeq_wf {s : State} (hs : Memory.wf s.mem) {e : Env} {m : Mask} {va : Nat} {need : BitVec 4} {f : State → KvSeq → Res}
    (hf : ∀ t q, Memory.wf t.mem → Memory.wf (f t q).state.mem) : Memory.wf (withSeq s e m va need f).state.mem :=
  withWord_wf hs fun _ _ h => withWord_wf h fun _ _ h => hf _ _ h

theorem withTable_wf {s : State} (hs : Memory.wf s.mem) {e : Env} {m : Mask} {bt : Nat} {need : BitVec 4} {l : List Nat}
    {f : State → List Nat → Res}
    (hf : ∀ t vs, Memory.wf t.mem → Memory.wf (f t vs).state.mem) : Memory.wf (withTable e m bt need l s f).state.mem := by
  induction l generalizing s f with
  | nil => exact hf _ _ hs
  | cons i t ih => exact withWord_wf hs fun _ _ h => ih h fun _ _ h => hf _ _ h

@[simp] theorem kvStore_wf {s : State} (hs : Memory.wf s.mem) (e : Env) (va n v : Nat) : Memory.wf (kvStore s e va n v).mem := by
  simp [kvStore, Memory.wf, hs]

@[simp] theorem kvSetBte_wf {s : State} (hs : Memory.wf s.mem) (e : Env) (q : KvSeq) (ix blk : Nat) :
    Memory.wf (kvSetBte s e q ix blk).mem := by
  simp [kvSetBte, Memory.wf, hs]

@[simp] theorem kvSetLen_wf {s : State} (hs : Memory.wf s.mem) (e : Env) (q : KvSeq) (n : Nat) :
    Memory.wf (kvSetLen s e q n).mem := by
  simp [kvSetLen, Memory.wf, hs]

@[simp] theorem kvResolve_wf {s : State} (hs : Memory.wf s.mem) (p : KvPool) (q : KvSeq) (w : Nat) (ls : List KvLane)
    (tbl : Nat → Nat) : Memory.wf (kvResolve s p q w ls tbl).1.mem := by
  refine foldl_fst_wf (fun r l hr => ?_) _ hs
  grind [!entGet_wf]

theorem withLanes_wf {s : State} (hs : Memory.wf s.mem) {e : Env} {p : KvPool} {q : KvSeq} {need : BitVec 4} {w : Nat} {c : Reg}
    {f : State → List LaneFault → List KvHit → Res} (hf : ∀ t bad hits, Memory.wf t.mem → Memory.wf (f t bad hits).state.mem) :
    Memory.wf (withLanes s e p q need w c f).state.mem :=
  withTable_wf hs fun _ _ h => hf _ _ _ (kvResolve_wf h ..)

@[simp] theorem execKvld_wf {s : State} (hs : Memory.wf s.mem) (x : FKv) : NextWf (execKvld x s) := by
  refine nextWf_issue hs fun e => ?_
  grind [!State.freshId_mem, !State.updWarp_mem, !entGet_wf, !withSeq_wf, !withLanes_wf, !withPool_wf, !endLanes_mem,
    !leaveLanes_mem, Res.state]

@[simp] theorem gatherDone_wf {s : State} (hs : Memory.wf s.mem) (g : KvGather) : Memory.wf (gatherDone s g).mem := by
  grind [gatherDone, !tryFree_wf, !entGet_wf, !entPut_wf, !ringGive_wf, !poolGet_wf]

@[simp] theorem endGathers_wf {s : State} (hs : Memory.wf s.mem) (r : WRef) (op : Nat) : Memory.wf (endGathers s r op).mem := by
  grind [endGathers, !gatherDone_wf, foldl_wf, foldl_mem]

@[simp] theorem bindPts_mem (s : State) (core pa n : Nat) : (bindPts s core pa n).mem = s.mem := by rfl

@[simp] theorem execKvldGatherComplete_wf {s : State} (hs : Memory.wf s.mem) (core slot : Nat) (x1 : Nat × Mask × SegOutcome) :
    NextWf (execKvldGatherComplete core slot x1 s) := by
  obtain ⟨op, lanes, out⟩ := x1
  refine (nextWf_next _).2 ?_
  simp only
  repeat' split
  · exact hs
  · exact hs
  · exact hs
  all_goals
    simp only [lateTrap_mem, State.updWarp_mem]
    refine endGathers_wf (foldl_wf (fun t a ht => ?_) _ ?_) ..
    · simp [Memory.wf, ht]
    · rw [foldl_mem (fun _ _ => logOutcome_mem ..)]
      exact hs

theorem kvWrite_wf {s : State} (hs : Memory.wf s.mem) {p : KvPool} {blk off : Nat} {l : List Byte} {t : State}
    (ht : kvWrite s p blk off l = .inr t) :
    Memory.wf t.mem := by
  grind [kvWrite, !entGet_wf, !writePhys_wf]

@[simp] theorem kvCows_wf {s : State} (hs : Memory.wf s.mem) (e : Env) (p : KvPool) (q : KvSeq) (hits : List KvHit)
    (l : List Nat) :
    Memory.wf (kvCows e p q hits l s).1.mem := by
  induction l generalizing s with
  | nil => exact hs
  | cons b t ih =>
    have he := entGet_wf hs p b
    refine ih ?_
    split
    · exact he
    · have hk : Memory.wf (kvMeet (entGet s p b).1 (cowRuns (entGet s p b).1 p b)).1.mem := by simpa using he
      split
      next s1 c hc => exact wf_of_eq hk hc
      next s1 hc => exact cowBlk_wf (wf_of_eq hk hc) p b fun u n hu => foldl_wf (fun v ix hv => kvSetBte_wf hv ..) _ hu

@[simp] theorem kvstLane_wf {r : State × List LaneFault} (hr : Memory.wf r.1.mem) (x : FKv) (e : Env) (p : KvPool) (va : Nat)
    (subst : List (Nat × (KvErr ⊕ Nat))) (h : KvHit) :
    Memory.wf (kvstLane x e p va subst r h).1.mem := by
  grind [kvstLane, !kvMeet_mem, !kvWrite_wf]

@[simp] theorem kvstBody_wf {s : State} (hs : Memory.wf s.mem) (x : FKv) {hold : State → Res}
    (hh : ∀ t, Memory.wf t.mem → Memory.wf (hold t).state.mem)
    (e : Env) : Memory.wf (kvstBody x hold s e).state.mem := by
  unfold kvstBody
  refine withPool_wf hs fun s p hs => withSeq_wf hs fun s q hs => withLanes_wf hs fun s bad hits hs => ?_
  simp only
  split
  · exact hh _ hs
  · refine withTable_wf hs fun s _ hs => ?_
    rw [endLanes_mem]
    exact foldl_fst_wf (fun r h hr => kvstLane_wf hr ..) _ (kvCows_wf hs ..)

@[simp] theorem kvHold_mem (app : Bool) (x : FKv) (e : Env) (s : State) : (kvHold app x e s).state.mem = s.mem := by rfl

@[simp] theorem execKvst_wf {s : State} (hs : Memory.wf s.mem) (x : FKv) : NextWf (execKvst x s) := by
  refine nextWf_issue hs fun e => ?_
  grind [!kvHold_mem, !kvstBody_wf, Res.state]

@[simp] theorem kvStatus_mem (s : State) (e : Env) (d : Reg) (st : Nat) : (kvStatus s e d st).state.mem = s.mem := by
  simp [kvStatus]

/-- A fold that stops at the first cause keeps the canonical form where it goes through. -/
theorem foldl_inr_wf {β : Type} {g : State → β → Nat ⊕ State}
    (hg : ∀ t x u, Memory.wf t.mem → g t x = .inr u → Memory.wf u.mem) (l : List β) {s t : State} (hs : Memory.wf s.mem)
    (ht : l.foldl (fun (r : Nat ⊕ State) x => match r with
      | .inl k => .inl k
      | .inr s => g s x) (.inr s) = .inr t) : Memory.wf t.mem := by
  have stuck : ∀ (l : List β) (k : Nat), l.foldl (fun (r : Nat ⊕ State) x => match r with
      | .inl k => .inl k
      | .inr s => g s x) (.inl k) = .inl k := fun l k => by induction l <;> simp_all
  induction l generalizing s with
  | nil => cases ht; exact hs
  | cons a l ih =>
    rw [List.foldl_cons] at ht
    simp only at ht
    cases hx : g s a with
    | inl k => rw [hx, stuck] at ht; cases ht
    | inr u => rw [hx] at ht; exact ih (hg s a u hs hx) ht

theorem kvToken_wf {s : State} (hs : Memory.wf s.mem) {e : Env} {p : KvPool} {blk off w : Nat} {c : Reg} {t : State}
    (ht : kvToken s e p blk off w c = .inr t) : Memory.wf t.mem := by
  refine foldl_inr_wf (fun u i v hu hv => kvWrite_wf hu hv) _ hs ht

@[simp] theorem kvErr_mem (s : State) (e : Env) (d : Reg) (m : Mask) (va : Nat) (k : KvErr) :
    (kvErr s e d m va k).state.mem = s.mem := by
  unfold kvErr
  split <;> simp

@[simp] theorem kvAppend_wf {s : State} (hs : Memory.wf s.mem) (x : FKv) (e : Env) (p : KvPool) (q : KvSeq) (tbl : List Nat)
    {mk : State → State × (KvErr ⊕ Nat)}
    (hm : ∀ t, Memory.wf t.mem → Memory.wf (mk t).1.mem) (runs : State → Nat → List (Nat × Nat)) :
    Memory.wf (kvAppend x e p q tbl mk runs s).state.mem := by
  unfold kvAppend
  simp only
  split
  · simpa using hs
  next s1 b hb =>
    have hk : Memory.wf (kvMeet s (runs s1 b)).1.mem := by simpa using hs
    split
    next s2 c hc => simpa using wf_of_eq hk hc
    next s2 hc =>
      have h2 := wf_of_eq hk hc
      refine withTable_wf h2 fun s3 _ h3 => withWord_wf h3 fun s4 _ h4 => ?_
      split
      · simpa using h4
      next s5 b hb =>
        have h5 := wf_of_eq (hm s4 h4) hb
        split
        · simpa using h4
        next s6 h6 => simpa using kvSetLen_wf (kvToken_wf h5 h6) ..

@[simp] theorem kvappBody_wf {s : State} (hs : Memory.wf s.mem) (x : FKv) {hold : State → Res}
    (hh : ∀ t, Memory.wf t.mem → Memory.wf (hold t).state.mem)
    (e : Env) : Memory.wf (kvappBody x hold s e).state.mem := by
  unfold kvappBody
  refine withPool_wf hs fun s p hs => withSeq_wf hs fun s q hs => ?_
  simp only
  split
  · simpa using hs
  · refine withTable_wf hs fun s vs hs => ?_
    split
    · refine kvAppend_wf hs x e p q _ (fun t ht => ?_) _
      have hn := newBlk_wf ht p
      grind [!kvSetBte_wf]
    · split
      · simpa using hs
      · refine kvGuard_wf hs _ _ _ ?_
        have he := entGet_wf hs p (bteBlk (vs.headD 0))
        repeat' split
        · simpa using hs
        · exact kvAppend_wf he x e p q _ (fun t ht => cowBlk_wf ht p _ fun u n hu => kvSetBte_wf hu ..) _
        · exact hh _ hs
        · exact kvAppend_wf he x e p q _ (fun t ht => ht) _

@[simp] theorem execKvapp_wf {s : State} (hs : Memory.wf s.mem) (x : FKv) : NextWf (execKvapp x s) := by
  refine nextWf_issue hs fun e => ?_
  grind [!kvHold_mem, !kvappBody_wf, Res.state]

@[simp] theorem kvServe_wf {s : State} (hs : Memory.wf s.mem) (k : KvHeld) : Memory.wf (kvServe s k).mem := by
  grind [kvServe, !State.heldPage_mem, !State.dropHeld_mem, !askPage_mem, !kvstBody_wf, !kvappBody_wf, !lateTrap_mem,
    !Res.state_done, Res.state]

@[simp] theorem heldUnmapped_mem (s : State) (r : WRef) (id : Nat) : (heldUnmapped s r id).mem = s.mem := by
  unfold heldUnmapped
  repeat' split
  all_goals simp

@[simp] theorem serveHeld_wf {s : State} (hs : Memory.wf s.mem) : Memory.wf (serveHeld s).mem := by
  grind [serveHeld, !kvServe_wf, foldl_wf, foldl_mem]

@[simp] theorem addRefs_wf {s : State} (hs : Memory.wf s.mem) (p : KvPool) (l : List Nat) : Memory.wf (addRefs p l s).1.mem := by
  induction l generalizing s with
  | nil => exact hs
  | cons b t ih => grind [addRefs, !entGet_wf, !entPut_wf]

@[simp] theorem execKvfork_wf {s : State} (hs : Memory.wf s.mem) (x : FKv4) : NextWf (execKvfork x s) := by
  refine nextWf_issue hs fun e => ?_
  simp only
  split
  · exact hs
  · refine withPool_wf hs fun s p hs => withSeq_wf hs fun s qd hs => withSeq_wf hs fun s qs hs => ?_
    split
    · simpa using hs
    · refine withTable_wf hs fun s vs hs => ?_
      split
      · simpa using hs
      · have ha := addRefs_wf hs p (vs.map bteBlk)
        split
        · exact hs
        · refine withTable_wf hs fun s _ hs => withWord_wf hs fun s _ hs => ?_
          have ha := addRefs_wf hs p (vs.map bteBlk)
          split
          · exact hs
          next s1 hr =>
            rw [kvStatus_mem]
            exact kvSetLen_wf (foldl_wf (fun t i ht => kvStore_wf ht ..) _ (by simpa [hr] using ha)) ..
          · simpa using hs
        · simpa using hs

@[simp] theorem execKvrel_wf {s : State} (hs : Memory.wf s.mem) (x : FKvrel) : NextWf (execKvrel x s) := by
  refine nextWf_issue hs fun e => ?_
  simp only
  split
  · exact hs
  · refine withPool_wf hs fun s p hs => withSeq_wf hs fun s q hs => ?_
    split
    · simpa using hs
    · refine withTable_wf hs fun s vs hs => ?_
      split
      · simpa using hs
      · refine kvGuard_wf hs _ _ _ ?_
        split
        · simpa using hs
        · refine kvGuard_wf hs _ _ _ (withTable_wf hs fun s _ hs => withWord_wf hs fun s _ hs => ?_)
          rw [kvStatus_mem]
          exact kvSetLen_wf (foldl_wf (fun t y ht => kvStore_wf (decRef_wf ht ..) ..) _ hs) ..

@[simp] theorem execKvdem_wf {s : State} (hs : Memory.wf s.mem) (x : FKv4) : NextWf (execKvdem x s) := by
  refine nextWf_issue hs fun e => ?_
  grind [!kvGuard_wf, !State.freshId_mem, !entGet_wf, !entPut_wf, !giveNum_mem, !endMove_wf, !withPool_wf, !issueNum_mem,
    !ringTake_wf, Res.state]

@[simp] theorem flipMove_wf {s : State} (hs : Memory.wf s.mem) (m : KvMove) : Memory.wf (flipMove s m).mem := by
  grind [flipMove, !writePhys_wf, !entGet_wf, !entPut_wf, !endMove_wf, !readPhys_wf, !ringGive_wf, !dropMove_wf, !poolGet_wf]

@[simp] theorem moveLog_wf {s : State} (hs : Memory.wf s.mem) (m : KvMove) (off : Nat) (out : SegOutcome) :
    Memory.wf (moveLog s m off out).mem := by
  grind [moveLog, !entGet_wf, !logOutcome_mem, !poolGet_wf]

@[simp] theorem failMove_wf {s : State} (hs : Memory.wf s.mem) (m : KvMove) (off : Nat) (out : SegOutcome) :
    Memory.wf (failMove s m off out).mem := by
  grind [failMove, !moveLog_wf, !dropMove_wf, !poolGet_wf]

@[simp] theorem execKvMoveFlip_wf {s : State} (hs : Memory.wf s.mem) (x1 : Nat × Nat × SegOutcome) :
    NextWf (execKvMoveFlip x1 s) := by
  unfold execKvMoveFlip
  repeat' split
  all_goals simp [Memory.wf, hs]

@[simp] theorem execKvMoveFail_wf {s : State} (hs : Memory.wf s.mem) (x1 : Nat × Nat × SegOutcome) :
    NextWf (execKvMoveFail x1 s) := by
  unfold execKvMoveFail
  repeat' split
  all_goals simp [Memory.wf, hs]

/-! ### Fetch -/

@[simp] theorem fetchWindow_wf {s : State} (hs : Memory.wf s.mem) (core ctx : Nat) (w : Warp) (pc : VAddr) (fresh : Bool) :
    Memory.wf (fetchWindow s core ctx w pc fresh).1.mem := by
  grind [fetchWindow, !readLine_wf, !State.updCore_mem, !translate_wf]

@[simp] theorem rejectTrap_mem (s : State) (r : WRef) (w : Warp) (bits : BitVec 128) (n cause : Nat) (late : Bool) :
    (rejectTrap s r w bits n cause late).mem = s.mem := by
  unfold rejectTrap
  split <;> simp

@[simp] theorem fetchAt_wf {s : State} (hs : Memory.wf s.mem) (r : WRef) (w : Warp) (ctx : Nat) (fresh : Bool) :
    Memory.wf (fetchAt s r w ctx fresh).1.mem := by
  grind [fetchAt, !takeTrap_mem, !rejectTrap_mem, !fetchWindow_wf]

@[simp] theorem fetchNext_wf {s : State} (hs : Memory.wf s.mem) (r : WRef) (fresh : Bool) :
    Memory.wf (fetchNext s r fresh).1.mem := by
  grind [fetchNext, !takeTrap_mem, !State.updWarp_mem, !fetchAt_wf]

/-! ### Pre-emption, restore and abort -/

@[simp] theorem unpark_mem (s : State) (core h id : Nat) : (unpark s core h id).mem = s.mem := by
  grind [unpark, !setBar_mem, foldl_wf, foldl_mem]

@[simp] theorem toLevel3_mem (s : State) (r : WRef) (cause addr : Nat) : (toLevel3 s r cause addr).mem = s.mem := by
  unfold toLevel3
  repeat' split
  all_goals simp

@[simp] theorem abortWarp_mem (s : State) (core slot : Nat) (w : Warp) (save : Nat) :
    (abortWarp s core slot w save).mem = s.mem := by
  unfold abortWarp
  split <;> simp

@[simp] theorem abortBlock_mem (s : State) (core h : Nat) : (abortBlock s core h).mem = s.mem := by
  grind [abortBlock, !State.updWarp_mem, !State.setBlock_mem, !abortWarp_mem, foldl_wf, foldl_mem]

@[simp] theorem abortHere_mem (s : State) (core h : Nat) : (abortHere s core h).mem = s.mem := by
  unfold abortHere
  split
  · rfl
  · simp only
    split
    · simp
    · rw [foldl_mem (fun t x => by repeat' split
                                   all_goals simp)]
      rfl
    · rfl

@[simp] theorem execAbortg_wf {s : State} (hs : Memory.wf s.mem) (x : FHd) : NextWf (execAbortg x s) := by
  refine nextWf_issue hs fun e => ?_
  grind [!relThen_wf, !State.updWarp_mem, !abortHere_mem, !fatalFault_mem, Res.state]

@[simp] theorem failArea_mem (s : State) (core h : Nat) : (failArea s core h).mem = s.mem := by
  unfold failArea
  split <;> simp

@[simp] theorem areaWrite_wf {s : State} (hs : Memory.wf s.mem) (core ctx : Nat) (l : List (Nat × List Byte)) :
    Memory.wf (areaWrite s core ctx l).1.mem := by
  refine foldl_fst_wf (fun r x hr => ?_) _ hs
  grind [!writeVirt_wf]

@[simp] theorem areaRead_wf {s : State} (hs : Memory.wf s.mem) (core ctx va n : Nat) :
    Memory.wf (areaRead s core ctx va n).1.mem := by
  grind [areaRead, !askRun_wf, !readVirt_wf]

@[simp] theorem execPreemptGo_wf {s : State} (hs : Memory.wf s.mem) (core save slot : Nat) :
    NextWf (execPreemptGo core save slot s) := by
  unfold execPreemptGo
  repeat' split
  all_goals simp [Memory.wf, hs]

@[simp] theorem saveBlock_wf {s : State} (hs : Memory.wf s.mem) (core h : Nat) (b : Block) (out : SegOutcome) :
    Memory.wf (saveBlock s core h b out).mem := by
  grind [saveBlock, !areaWrite_wf, !State.updWarp_mem, !State.updBlock_mem, !State.updCore_mem, !rtRelease_mem, !askRun_wf,
    !failArea_mem, !toLevel3_mem, foldl_wf, foldl_mem]

@[simp] theorem execPreemptAck_wf {s : State} (hs : Memory.wf s.mem) (core blk : Nat) (eng : Engine) (out : SegOutcome) :
    NextWf (execPreemptAck core blk eng out s) := by
  unfold execPreemptAck
  simp only
  repeat' split
  all_goals simp [Memory.wf, hs]

@[simp] theorem execHandlerTimeout_wf {s : State} (hs : Memory.wf s.mem) (core slot : Nat) :
    NextWf (execHandlerTimeout core slot s) := by
  unfold execHandlerTimeout
  simp only
  repeat' split
  all_goals simp [Memory.wf, hs]

@[simp] theorem finishSave_wf {s : State} (hs : Memory.wf s.mem) (core h : Nat) : Memory.wf (finishSave s core h).mem := by
  unfold finishSave
  repeat' split
  all_goals simp [Memory.wf, hs]

@[simp] theorem execRestoreGo_wf {s : State} (hs : Memory.wf s.mem) (core save : Nat) : NextWf (execRestoreGo core save s) := by
  unfold execRestoreGo
  split <;> simp [Memory.wf, hs]

@[simp] theorem dropSaved_wf {s : State} (hs : Memory.wf s.mem) (x : SavedBlk) : Memory.wf (dropSaved s x).mem := by
  grind [dropSaved, !State.updFed_mem, !tryComplete_wf, !dropArrivals_mem, !State.updLaunch_mem]

@[simp] theorem readMasks_wf {s : State} (hs : Memory.wf s.mem) (core ctx save : Nat) (l : List Nat) :
    Memory.wf (readMasks core ctx save l s).1.mem := by
  induction l generalizing s with
  | nil => exact hs
  | cons i t ih => grind [readMasks, !areaRead_wf]

@[simp] theorem execRestoreStart_wf {s : State} (hs : Memory.wf s.mem) (core : Nat) (out : SegOutcome) :
    NextWf (execRestoreStart core out s) := by
  refine (nextWf_next _).2 ?_
  split
  · exact hs
  next x _ =>
  split
  · exact hs
  next l _ =>
  have hfail : ∀ (s1 : State) (c : Nat) (f : Core → Core), Memory.wf s1.mem → Memory.wf (if pageWait out c then s1 else
      (dropSaved (fatalFault (s1.updCore core f) x.lid x.bid) x).raise (.saveArea core)).mem := fun s1 c f h => by
    split
    · exact h
    · exact dropSaved_wf (by simpa using h) _
  simp only
  split
  · exact hs
  · split
    next s1 c hx => exact hfail _ _ _ (wf_of_eq (areaRead_wf hs ..) hx)
    next s1 img hx =>
      have h1 := wf_of_eq (areaRead_wf hs ..) hx
      split
      next s2 c hx => exact hfail _ _ _ (wf_of_eq (readMasks_wf h1 ..) hx)
      next s2 ms hx =>
        have h2 := wf_of_eq (readMasks_wf h1 ..) hx
        rw [foldl_mem (fun t y => by split <;> simp)]
        exact h2

@[simp] theorem reissue_wf {s : State} (hs : Memory.wf s.mem) (core slot h ctx lvl nbv m : Nat) (l : List Byte) :
    Memory.wf (reissue s core slot h ctx lvl nbv m l).mem := by
  grind [reissue, !State.freshId_mem, !State.updWarp_mem, !State.updCore_mem, !startRefill_wf]

@[simp] theorem finishRestore_mem (s : State) (core h : Nat) : (finishRestore s core h).mem = s.mem := by
  unfold finishRestore
  repeat' split
  all_goals simp

@[simp] theorem tretRestore_wf {s : State} (hs : Memory.wf s.mem) (e : Env) : Memory.wf (tretRestore s e).state.mem := by
  have hfail : ∀ (s1 : State) (c : Nat), Memory.wf s1.mem →
      Memory.wf (if c = 15 then Res.wait s1 .area else .raw (failArea s1 e.r.core e.w.blk)).state.mem := fun s1 c h => by
    split <;> simpa using h
  unfold tretRestore
  simp only
  split
  · exact hs
  · split
    · exact hs
    · split
      next s1 c hx => exact hfail _ _ (wf_of_eq (areaRead_wf hs ..) hx)
      next s1 l hx =>
        have h1 := wf_of_eq (areaRead_wf hs ..) hx
        split
        next s2 c hx => exact hfail _ _ (wf_of_eq (areaRead_wf h1 ..) hx)
        next s2 v hx =>
          have h2 := wf_of_eq (areaRead_wf h1 ..) hx
          split
          next s3 c hx => exact hfail _ _ (wf_of_eq (areaRead_wf h2 ..) hx)
          next s3 rec hx =>
            have h3 := wf_of_eq (areaRead_wf h2 ..) hx
            have h5 := fun (l : List Nat) (t : State) (ht : Memory.wf t.mem) (g : Nat → List Byte) (lvl : Nat) =>
              foldl_wf (fun t m ht => reissue_wf ht e.r.core e.r.slot e.w.blk e.b.ctx lvl e.b.nbv m (g m)) l ht
            generalize hf : (List.range (bits (fieldAt l 0x10 8) 34 32)).foldl _ _ = s5
            replace h5 : Memory.wf s5.mem := by
              rw [← hf]
              exact h5 _ _ (by simpa using h3) _ _
            split
            · exact hs
            · rw [Res.state_raw, acquire_mem, finishRestore_mem]
              split
              · exact h5
              · rw [foldl_mem (fun t x => by split <;> simp)]
                exact h5

@[simp] theorem tretSave_wf {s : State} (hs : Memory.wf s.mem) (e : Env) : Memory.wf (tretSave s e).state.mem := by
  unfold tretSave
  simp only
  repeat' split
  all_goals simp [Memory.wf, hs]

@[simp] theorem tretAbort_mem (s : State) (e : Env) : (tretAbort s e).state.mem = s.mem := by rfl

@[simp] theorem tretTo_mem (s : State) (e : Env) (pc : VAddr) (rmask : Mask) (count : Bool) :
    (tretTo s e pc rmask count).state.mem = s.mem := by
  grind [tretTo, !returnFrom_mem, !State.updWarp_mem, !toLevel3_mem, !Res.state_done, Res.state]

@[simp] theorem execTret_wf {s : State} (hs : Memory.wf s.mem) (x : FHd) : NextWf (execTret x s) := by
  refine nextWf_issue hs fun e => ?_
  simp only
  repeat' split
  all_goals simp [Memory.wf, hs]

@[simp] theorem execTretSkip_wf {s : State} (hs : Memory.wf s.mem) (x : FHd) : NextWf (execTretSkip x s) := by
  refine nextWf_issue hs fun e => ?_
  simp only
  repeat' split
  all_goals simp [Memory.wf, hs]

@[simp] theorem endStuck_mem (s : State) (core h : Nat) (b : Block) : (endStuck s core h b).mem = s.mem := by simp [endStuck]

@[simp] theorem peerToken_mem (s : State) (lid g : Nat) : (peerToken s lid g).mem = s.mem := by
  unfold peerToken
  repeat' split
  all_goals simp

@[simp] theorem execAbortToken_wf {s : State} (hs : Memory.wf s.mem) (lid : Nat) (x1 : W32 × Option Nat) :
    NextWf (execAbortToken lid x1 s) := by
  unfold execAbortToken
  simp only
  repeat' split
  all_goals simp [Memory.wf, hs]

@[simp] theorem unmapped_wf {s : State} (hs : Memory.wf s.mem) (r : WRef) (w : Warp) : Memory.wf (unmapped s r w).mem := by
  unfold unmapped
  repeat' split
  all_goals simp [Memory.wf, hs]

@[simp] theorem execTrapServiceRelease_wf {s : State} (hs : Memory.wf s.mem) (core slot : Nat) (v : Service) :
    NextWf (execTrapServiceRelease core slot v s) := by
  unfold execTrapServiceRelease
  simp only
  repeat' split
  all_goals simp [Memory.wf, hs]

/-! ### Resets of the package and of a die -/

@[simp] theorem packageReset_mem (x : FReset) (s : State) : (packageReset x s).mem = s.mem := by rfl

@[simp] theorem execPackageReset_wf {s : State} (hs : Memory.wf s.mem) (x : FReset) : NextWf (execPackageReset x s) := by
  simp [execPackageReset, Memory.wf, hs]

@[simp] theorem execHeartbeat_wf {s : State} (hs : Memory.wf s.mem) (site : Nat) : NextWf (execHeartbeat site s) := by
  unfold execHeartbeat
  split <;> simp [Memory.wf, hs]

@[simp] theorem forgetDie_mem (s : State) (d : Nat) : (forgetDie s d).mem = s.mem := by simp [forgetDie]

@[simp] theorem resolveHeld_wf {s : State} (hs : Memory.wf s.mem) (d : Nat) : Memory.wf (resolveHeld s d).mem := by
  refine foldl_wf (fun t h ht => foldl_wf (fun u x hu => ?_) _ ht) _ hs
  simp only
  repeat' split
  · simpa using hu
  · refine foldl_wf (fun v a hv => ?_) _ (by simpa using hu)
    split
    · exact hv
    · exact homePut_wf hv ..
  · exact hu
  · exact heldDone_wf hu ..
  · simpa using hu
  · simpa using hu

@[simp] theorem lostBlock_wf {s : State} (hs : Memory.wf s.mem) (lid : Nat) (bid : W32) :
    Memory.wf (lostBlock s lid bid).mem := by
  grind [lostBlock, !lossFault_mem, !tryComplete_wf, !State.updLaunch_mem]

@[simp] theorem stopEngines_wf {s : State} (hs : Memory.wf s.mem) (d : Nat) : Memory.wf (stopEngines s d).mem := by
  grind [stopEngines, !doneMove_mem, !dropMove_wf, !loadNumbers_wf, !State.raise_mem, !poolGet_wf, !gatherDone_wf, foldl_wf,
    foldl_mem]

theorem foldl_memPutLine_wf {m : List Host.Cell} (l : SMap HomeLine) (hm : Memory.wf m) :
    Memory.wf (l.foldl (fun m e => memPutLine m e.1 e.2.data) m) := by
  induction l generalizing m with
  | nil => exact hm
  | cons e t ih => exact ih (memPutLine_wf m _ _ hm)

@[simp] theorem dieReset_wf {s : State} (hs : Memory.wf s.mem) (d : Nat) (alive : Bool) : Memory.wf (dieReset s d alive).mem := by
  unfold dieReset
  simp only
  refine foldl_wf (fun t b ht => lostBlock_wf ht _ _) _ ?_
  rw [foldl_mem (fun t b => by split <;> simp)]
  simp only [State.updFed_mem]
  refine resolveHeld_wf ?_ d
  rw [forgetDie_mem]
  simp only [State.updHome_mem]
  have h0 := stopEngines_wf hs d
  split
  · exact foldl_memPutLine_wf _ h0
  · exact h0

@[simp] theorem execDeadDieVerdict_wf {s : State} (hs : Memory.wf s.mem) (site : Nat) : NextWf (execDeadDieVerdict site s) := by
  unfold execDeadDieVerdict
  split <;> simp [Memory.wf, hs]

@[simp] theorem execDieReset_wf {s : State} (hs : Memory.wf s.mem) (site : Nat) (alive : Bool) :
    NextWf (execDieReset site alive s) := by
  unfold execDieReset
  split <;> simp [Memory.wf, hs]

@[simp] theorem execDieRejoin_wf {s : State} (hs : Memory.wf s.mem) (site : Nat) : NextWf (execDieRejoin site s) := by
  unfold execDieRejoin
  split <;> simp [Memory.wf, hs]

/-! ### Agents outside the package -/

@[simp] theorem extMode_mem (s : State) (page : Nat) (m : HostMode) : (extMode s page m).mem = s.mem := by rfl

@[simp] theorem snoopPage_wf {s : State} (hs : Memory.wf s.mem) (page : Nat) : Memory.wf (snoopPage s page).mem := by
  unfold snoopPage
  simp only [State.updHome_mem]
  exact foldl_wf (fun t d ht => pageSnoopDie_wf ht ..) _ hs

@[simp] theorem extRead_wf {s : State} (hs : Memory.wf s.mem) (pa n : Nat) (m : HostMode) :
    Memory.wf (extRead s pa n m).1.mem := by
  unfold extRead
  simp only [extMode_mem]
  refine foldl_wf (fun t l ht => by simp [Memory.wf, ht]) _ ?_
  split <;> simp [Memory.wf, hs]

@[simp] theorem extWrite_wf {s : State} (hs : Memory.wf s.mem) (pa : Nat) (l : List Byte) (cls : Nat) (m : HostMode) :
    Memory.wf (extWrite s pa l cls m).mem := by
  unfold extWrite
  simp only [extMode_mem]
  exact foldl_wf (fun t l ht => flushHome_wf (homePut_wf (recallAll_wf ht ..) ..) _) _ (snoopPage_wf (by simp [Memory.wf, hs]) _)

@[simp] theorem execHostMemRead_wf {s : State} (hs : Memory.wf s.mem) (pa n : Nat) (m : HostMode) :
    NextWf (execHostMemRead pa n m s) := by
  unfold execHostMemRead
  simp only [nextWf_next]
  split
  · exact foldl_wf (fun t p ht => extRead_wf ht ..) _ hs
  · exact hs

@[simp] theorem execHostMemWrite_wf {s : State} (hs : Memory.wf s.mem) (x : BytesAt) (m : HostMode) :
    NextWf (execHostMemWrite x m s) := by
  unfold execHostMemWrite
  simp only [nextWf_next]
  split
  · exact foldl_wf (fun t p ht => extWrite_wf ht ..) _ hs
  · exact hs

@[simp] theorem hostSnoopDie_wf {s0 : State} (hs : Memory.wf s0.mem) (line d : Nat) (inv : Bool) :
    Memory.wf (hostSnoopDie s0 line d inv).mem := by
  grind [hostSnoopDie, !takeEvicts_wf, !cross_mem, !ownerHome_wf, !dropRdc_mem, !State.setRdc_mem, !State.putDir_mem]

@[simp] theorem execHostSnoop_wf {s : State} (hs : Memory.wf s.mem) (line : Nat) (inv : Bool) :
    NextWf (execHostSnoop line inv s) := by
  unfold execHostSnoop
  simp only [nextWf_next]
  split
  · exact hs
  · exact flushHome_wf (foldl_wf (fun t d ht => hostSnoopDie_wf ht ..) _ hs) _

@[simp] theorem recallLost_mem (s : State) (n page : Nat) : (recallLost s n page).mem = s.mem := by rfl

@[simp] theorem execPageRecallTimeout_wf {s : State} (hs : Memory.wf s.mem) (page : Nat) :
    NextWf (execPageRecallTimeout page s) := by
  unfold execPageRecallTimeout
  simp only
  repeat' split
  all_goals simp [Memory.wf, hs]

@[simp] theorem failAccess_wf {s : State} (hs : Memory.wf s.mem) (r : WRef) (only : Option Nat) (p : Nat → Bool) :
    Memory.wf (failAccess s r only p).mem := by
  unfold failAccess
  split
  · exact hs
  next w _ =>
  split
  · exact hs
  next b _ =>
    have h2 : ∀ (l : List CopyOp) (t : State), Memory.wf t.mem → Memory.wf (l.foldl (fun s c => c.segs.foldl (fun s g =>
        if segHits s r.core b c g p then
          (segFail s r.core w.blk b c.sup g).updWarp r (fun v => updSeg v c.id g.id (fun g => { g with fail := some 19 }))
        else s) s) t).mem := fun l t ht => foldl_wf (fun t c ht => foldl_wf (fun t g ht => by
          split
          · simpa using segFail_wf ht ..
          · exact ht) _ ht) _ ht
    have h3 : ∀ (l : List LoadOp) (t : State), Memory.wf t.mem → Memory.wf (l.foldl (fun s o => endGathers s r o.id) t).mem :=
      fun l t ht => foldl_wf (fun t o ht => endGathers_wf ht ..) _ ht
    simp only
    split
    · exact h3 _ _ (h2 _ _ (by simpa using hs))
    · split
      · exact h3 _ _ (h2 _ _ (by simpa using hs))
      · rw [lateTrap_mem]
        exact h3 _ _ (h2 _ _ (by simpa using hs))

@[simp] theorem setOff_mem (s : State) (n : Nat) (v : Bool) : (setOff s n v).mem = s.mem := by rfl

@[simp] theorem failLoads_wf {s : State} (hs : Memory.wf s.mem) (p : Nat → Bool) (late : ResLoad → Bool) :
    Memory.wf (failLoads s p late).mem := by
  grind [failLoads, !endLoad_wf, foldl_wf, foldl_mem]

@[simp] theorem failEngines_wf {s : State} (hs : Memory.wf s.mem) (n : Nat) : Memory.wf (failEngines s n).mem := by
  grind [failEngines, !dropMove_wf, !failLoads_wf, !poolGet_wf, foldl_wf, foldl_mem]

@[simp] theorem expOffline_wf {s : State} (hs : Memory.wf s.mem) (n : Nat) : Memory.wf (expOffline s n).mem := by
  grind [expOffline, !endWait_mem, !failEngines_wf, !failAccess_wf, !State.updHome_mem, !dropRdc_mem, !State.raise_mem,
    !flushHome_wf, !State.countLost_mem, !setOff_mem, !reply_mem, foldl_wf, foldl_mem]

@[simp] theorem execHostCompletionTimeout_wf {s : State} (hs : Memory.wf s.mem) (core slot op : Nat) :
    NextWf (execHostCompletionTimeout core slot op s) := by
  unfold execHostCompletionTimeout
  simp only
  repeat' split
  all_goals simp [Memory.wf, hs]

@[simp] theorem execHostLinkDown_wf {s : State} (hs : Memory.wf s.mem) : NextWf (execHostLinkDown s) := by
  refine (nextWf_next _).2 ?_
  rw [State.raise_mem, foldl_mem (fun _ _ => foldl_mem (fun _ _ => recallLost_mem ..) ..)]
  exact failLoads_wf (foldl_wf (fun t r ht => failAccess_wf ht ..) _ hs) ..

@[simp] theorem execExpanderLinkDown_wf {s : State} (hs : Memory.wf s.mem) (n : Nat) : NextWf (execExpanderLinkDown n s) := by
  unfold execExpanderLinkDown
  split <;> simp [Memory.wf, hs]

@[simp] theorem execExpanderTimeout_wf {s : State} (hs : Memory.wf s.mem) (n : Nat) : NextWf (execExpanderTimeout n s) := by
  unfold execExpanderTimeout
  split <;> simp [Memory.wf, hs]

@[simp] theorem execExpstOffClear_wf {s : State} (hs : Memory.wf s.mem) (n : Nat) : NextWf (execExpstOffClear n s) := by
  unfold execExpstOffClear
  split <;> simp [Memory.wf, hs]

@[simp] theorem portRun_wf {s : State} (hs : Memory.wf s.mem) (p va n : Nat) (need : BitVec 4) (wr : Bool) :
    Memory.wf (portRun s p va n need wr).1.mem := by
  refine foldl_fst_wf (fun r x hr => ?_) _ hs
  grind [!engineXlat_wf]

theorem portOp_wf {s : State} (hs : Memory.wf s.mem) {p va n : Nat} {need : BitVec 4} {wr : Bool} {out : SegOutcome}
    {f : State → PortPiece → State}
    {done : State → State} (hf : ∀ t y, Memory.wf t.mem → Memory.wf (f t y).mem)
    (hd : ∀ t, Memory.wf t.mem → Memory.wf (done t).mem) :
    Memory.wf (portOp s p va n need wr out f done).mem := by
  unfold portOp
  split
  · split
    · exact askRun_wf hs ..
    · exact hs
  next s1 l hl =>
    have h1 := wf_of_eq (portRun_wf hs ..) hl
    split
    · exact hd _ (foldl_wf hf _ h1)
    · exact hs

@[simp] theorem execRdmaWrite_wf {s : State} (hs : Memory.wf s.mem) (x1 : Nat × Nat) (x2 : BytesAt × Option W32 × SegOutcome) :
    NextWf (execRdmaWrite x1 x2 s) := by
  obtain ⟨p, qp⟩ := x1
  obtain ⟨x, imm, out⟩ := x2
  refine (nextWf_next _).2 ?_
  split
  · exact hs
  · refine portOp_wf hs (fun t y ht => extWrite_wf ht ..) fun t ht => ?_
    split
    · exact ht
    · exact ht

@[simp] theorem execRdmaRead_wf {s : State} (hs : Memory.wf s.mem) (x1 : Nat × Nat) (x2 : Nat) (x3 : Nat × SegOutcome) :
    NextWf (execRdmaRead x1 x2 x3 s) := by
  obtain ⟨p, qp⟩ := x1
  obtain ⟨n, out⟩ := x3
  refine (nextWf_next _).2 ?_
  split
  · exact hs
  · exact portOp_wf hs (fun t y ht => extRead_wf ht ..) fun t ht => ht

@[simp] theorem execRdmaSend_wf {s : State} (hs : Memory.wf s.mem) (x1 : Nat × Nat) (x2 : BytesAt) :
    NextWf (execRdmaSend x1 x2 s) := by
  unfold execRdmaSend
  repeat' split
  all_goals simp [Memory.wf, hs]

@[simp] theorem portEnd_mem (s : State) (p : Nat) (o : PortOp) (ok : Bool) : (portEnd s p o ok).mem = s.mem := by rfl

@[simp] theorem execRdmaOperationComplete_wf {s : State} (hs : Memory.wf s.mem) (x1 : Nat × RdmaStep) :
    NextWf (execRdmaOperationComplete x1 s) := by
  unfold execRdmaOperationComplete
  repeat' split
  all_goals simp [Memory.wf, hs]

@[simp] theorem collEnd_mem (s : State) (x : FColl) (n st : Nat) : (collEnd s x n st).mem = s.mem := by rfl

@[simp] theorem collAbort_mem (s : State) (ctx g : Nat) : (collAbort s ctx g).mem = s.mem := by
  grind [collAbort, !State.updFed_mem, !markLaunch_mem, !tokensTo_mem, foldl_wf, foldl_mem]

@[simp] theorem collNum_mem (s : State) (x : FColl) : (collNum s x).2.mem = s.mem := by
  unfold collNum
  split <;> simp

@[simp] theorem collHold_mem (s : State) (x : FColl) (n : Nat) : (collHold s x n).mem = s.mem := by rfl

@[simp] theorem collLost_mem (s : State) (x : FColl) (n : Nat) : (collLost s x n).mem = s.mem := by rfl

@[simp] theorem execCollectiveDescriptor_wf {s : State} (hs : Memory.wf s.mem) (x : FColl) (out : SegOutcome) :
    NextWf (execCollectiveDescriptor x out s) := by
  have hn : Memory.wf (collNum s x).2.mem := by simpa using hs
  refine (nextWf_next _).2 ?_
  simp only
  split
  · simpa using hs
  next ty _ =>
  split
  · simpa using hs
  · split
    · simpa using hs
    · split
      · exact hs
      · split
        · simpa using hs
        · split
          next s1 c hx =>
            have h1 := wf_of_eq (readVirt_wf hn ..) hx
            split
            · exact askRun_wf (by simpa using hs) ..
            · simpa using h1
          next s1 l hx =>
            have h1 := wf_of_eq (readVirt_wf hn ..) hx
            split
            · simpa using hs
            · split
              next s2 hx => simpa using wf_of_eq (writeVirt_wf h1 ..) hx
              next s2 c hx =>
                have h2 := wf_of_eq (writeVirt_wf h1 ..) hx
                split
                · exact askRun_wf (by simpa using hs) ..
                · simpa using h2

@[simp] theorem execEthernetPortDown_wf {s : State} (hs : Memory.wf s.mem) (p : Nat) : NextWf (execEthernetPortDown p s) := by
  unfold execEthernetPortDown
  split <;> simp [Memory.wf, hs]

/-! ### Retirement and the logs -/

@[simp] theorem retireGo_mem (s : State) (st : Nat) : (retireGo s st).mem = s.mem := by grind [retireGo, !State.updTier_mem]

@[simp] theorem execRetireGo_wf {s : State} (hs : Memory.wf s.mem) (stack : Nat) : NextWf (execRetireGo stack s) := by
  simp [execRetireGo, Memory.wf, hs]

@[simp] theorem migrationDone_mem (s : State) : (migrationDone s).mem = s.mem := by
  grind [migrationDone, !State.raise_mem, !State.updTier_mem]

@[simp] theorem handGranule_wf {s : State} (hs : Memory.wf s.mem) (g old new : Nat) :
    Memory.wf (handGranule s g old new).mem := by
  unfold handGranule
  simp only [State.updHome_mem]
  exact foldl_wf (fun t l ht => evictHome_wf (recallAll_wf ht ..) ..) _ hs

@[simp] theorem execGranuleMove_wf {s : State} (hs : Memory.wf s.mem) (g off : Nat) (out : SegOutcome) :
    NextWf (execGranuleMove g off out s) := by
  unfold execGranuleMove
  simp only
  repeat' split
  all_goals simp [Memory.wf, hs]

@[simp] theorem execLltailWrite_wf {s : State} (hs : Memory.wf s.mem) (node v : Nat) : NextWf (execLltailWrite node v s) := by
  unfold execLltailWrite
  split <;> simp [Memory.wf, hs]

@[simp] theorem execEltailWrite_wf {s : State} (hs : Memory.wf s.mem) (stack v : Nat) : NextWf (execEltailWrite stack v s) := by
  unfold execEltailWrite
  split <;> simp [Memory.wf, hs]

/-! ### Management -/

@[simp] theorem after_wf {s : State} (hs : Memory.wf s.mem) {f : State → Host.Outcome State Fault Refusal} (hf : NextWf (f s)) :
    Memory.wf (after f s).mem := by
  unfold after
  split
  next t ht => exact hf t ht
  · exact hs

@[simp] theorem execPowerSample_wf {s : State} (hs : Memory.wf s.mem) (draws : List Nat) (settle : Nat) :
    NextWf (execPowerSample draws settle s) := by
  unfold execPowerSample
  simp only
  repeat' split
  all_goals simp [Memory.wf, hs]

@[simp] theorem coolLeaf_wf {s : State} (hs : Memory.wf s.mem) (a e : Nat) : Memory.wf (coolLeaf s a e).mem := by
  simp [coolLeaf, Memory.wf, hs]

@[simp] theorem execHeatSweep_wf {s : State} (hs : Memory.wf s.mem) : NextWf (execHeatSweep s) := by
  unfold execHeatSweep
  simp only [nextWf_next]
  split
  · exact hs
  · exact foldl_wf (fun t c ht => foldl_wf (fun u x hu => coolLeaf_wf hu ..) _ ht) _ hs

@[simp] theorem writeVer_mem (s : State) (c v : Nat) : (writeVer s c v).mem = s.mem := by rfl

@[simp] theorem execContextVerWrite_wf {s : State} (hs : Memory.wf s.mem) (ctx v : Nat) :
    NextWf (execContextVerWrite ctx v s) := by
  unfold execContextVerWrite
  split <;> simp [Memory.wf, hs]

@[simp] theorem writeEn_mem (s : State) (c : Nat) (v : W64) : (writeEn s c v).mem = s.mem := by
  grind [writeEn, !State.updFed_mem, !State.updCtx_mem, !staleMoved_mem]

@[simp] theorem execContextEnable_wf {s : State} (hs : Memory.wf s.mem) (ctx : Nat) (v : W64) :
    NextWf (execContextEnable ctx v s) := by
  unfold execContextEnable
  split <;> simp [Memory.wf, hs]

@[simp] theorem writeLscfg_wf {s : State} (hs : Memory.wf s.mem) (core spu : Nat) : Memory.wf (writeLscfg s core spu).mem := by
  unfold writeLscfg
  split <;> simp [Memory.wf, hs]

@[simp] theorem execLscfgWrite_wf {s : State} (hs : Memory.wf s.mem) (core : Nat) (v : W64) :
    NextWf (execLscfgWrite core v s) := by
  simp [execLscfgWrite, Memory.wf, hs]

@[simp] theorem writeLease_mem (s : State) (site : Nat) (v : W64) : (writeLease s site v).mem = s.mem := by
  unfold writeLease
  split <;> simp

@[simp] theorem execLeaseConfigWrite_wf {s : State} (hs : Memory.wf s.mem) (site : Nat) (v : W64) :
    NextWf (execLeaseConfigWrite site v s) := by
  simp [execLeaseConfigWrite, Memory.wf, hs]

@[simp] theorem execSpdmRequest_wf {s : State} (hs : Memory.wf s.mem) : NextWf (execSpdmRequest s) := by
  simp [execSpdmRequest, Memory.wf, hs]

@[simp] theorem execPldmFirmwareUpdate_wf {s : State} (hs : Memory.wf s.mem) (i : Image) :
    NextWf (execPldmFirmwareUpdate i s) := by
  simp [execPldmFirmwareUpdate, Memory.wf, hs]

@[simp] theorem writeQueue_wf {s : State} (hs : Memory.wf s.mem) (q : Nat) (f : Queue → Queue) :
    Memory.wf (writeQueue s q f).mem := by
  unfold writeQueue
  split <;> simp [Memory.wf, hs]

@[simp] theorem writePrectl_wf {s : State} (hs : Memory.wf s.mem) (core : Nat) (v : W64) :
    Memory.wf (writePrectl s core v).mem := by
  unfold writePrectl
  simp only
  repeat' split
  · exact after_wf (by exact hs) (execPreemptGo_wf (by exact hs) _ _ _)
  · exact hs
  · exact hs

@[simp] theorem writeRstctl_wf {s : State} (hs : Memory.wf s.mem) (core : Nat) (v : W64) :
    Memory.wf (writeRstctl s core v).mem := by
  unfold writeRstctl
  simp only
  repeat' split
  · exact after_wf (by exact hs) (execRestoreGo_wf (by exact hs) _ _)
  · exact hs
  · exact hs

@[simp] theorem writeCtxWord_mem (s : State) (c i : Nat) (v : W64) : (writeCtxWord s c i v).mem = s.mem := by
  unfold writeCtxWord
  repeat' split
  all_goals simp

@[simp] theorem writeReg_wf {s : State} (hs : Memory.wf s.mem) (r : CfgReg) (v : W64) : Memory.wf (writeReg s r v).mem := by
  unfold writeReg
  simp only
  repeat' split
  all_goals simp [Memory.wf, hs]

@[simp] theorem execRegisterWrite_wf {s : State} (hs : Memory.wf s.mem) (r : CfgReg) (v : W64) :
    NextWf (execRegisterWrite r v s) := by
  simp [execRegisterWrite, Memory.wf, hs]

/-! ### The choice of the next warp -/

@[simp] theorem notePort_mem (s0 : State) (r : WRef) (s : State) : (notePort s0 r s).mem = s.mem := by
  unfold notePort
  split <;> simp

theorem onNext_wf {o : Host.Outcome State Fault Refusal} {f : State → State} (ho : NextWf o)
    (hf : ∀ t, Memory.wf t.mem → Memory.wf (f t).mem) : NextWf (onNext o f) := by
  cases o with
  | next s => exact (nextWf_next _).2 (hf s (ho s rfl))
  | fault e => exact fun t ht => nomatch ht
  | refused e => exact fun t ht => nomatch ht

/-! ### One step -/

@[simp] theorem wakeOne_mem (ex : Meaning) (s : State) (r : WRef) : (wakeOne ex s r).mem = s.mem := by
  unfold wakeOne
  repeat' split
  all_goals simp

@[simp] theorem settle_wf {s : State} (hs : Memory.wf s.mem) (ex : Meaning) : Memory.wf (settle ex s).mem := by
  show Memory.wf ((State.allWarps _).foldl (wakeOne ex) _).mem
  rw [foldl_mem (fun _ _ => wakeOne_mem ..)]
  exact serveHeld_wf (serveHeat_wf hs)

/-- Every instruction and every event keeps memory in its canonical form. -/
theorem exec_wf {s : State} (hs : Memory.wf s.mem) (i : Instr) : NextWf (exec i s) := by
  cases i <;> simp [exec, hs, Memory.wf, execIadd, execIsub, execImul, execImulhi, execImad, execImin, execImax, execIabs,
    execIcmp, execIdot4, execLea, execSel, execMov, execMovi, execAnd, execOr, execXor, execNot, execShl, execShr, execSra,
    execBfe, execBfi, execClz, execPopc, execBrev, execFadd, execFmul, execFfma, execFmin, execFmax, execFcmp, execFrnd,
    execFrcp, execFrsq, execFsqrt, execFexp2, execFlog2, execFsin, execFcos, execFtanh, execCvt, execBfpack, execBfunpack,
    execVote, execPlop, execShfl, execWred, execWscan, execExecrd, execExecwr]

theorem runWarp_wf {ex : Meaning} (hex : ∀ i t, Memory.wf t.mem → NextWf (ex i t)) {s : State} (hs : Memory.wf s.mem) (r : WRef)
    (fresh : Bool) : NextWf (runWarp ex s r fresh) := by
  have hf := fetchNext_wf hs r fresh
  unfold runWarp
  split
  next s1 hx => exact (nextWf_next _).2 (wf_of_eq hf hx)
  next s1 i hx =>
    have h1 := wf_of_eq hf hx
    exact onNext_wf (hex i _ (by exact h1)) fun t ht => ht

theorem issueAt_wf {ex : Meaning} (hex : ∀ i t, Memory.wf t.mem → NextWf (ex i t)) {s : State} (hs : Memory.wf s.mem) (core : Nat)
    (aae fresh : Bool) : NextWf (issueAt ex s core aae fresh) := by
  unfold issueAt
  split
  · exact (nextWf_next _).2 hs
  next r _ => exact onNext_wf (runWarp_wf hex hs r fresh) fun t ht => (notePort_mem s r t).symm ▸ ht

theorem move_wf {ex : Meaning} (hex : ∀ i t, Memory.wf t.mem → NextWf (ex i t)) {s : State} (hs : Memory.wf s.mem) :
    NextWf (move ex s) := by
  unfold move
  split
  · split
    · exact (nextWf_next _).2 hs
    · exact issueAt_wf hex (by exact hs) _ _ _
    · exact hex _ _ hs
    · exact (nextWf_next _).2 hs
  · split
    · exact hex _ _ hs
    · exact hex _ _ hs

theorem step_wf {s : State} (hs : Memory.wf s.mem) : NextWf (step s) :=
  onNext_wf (move_wf (fun i _ ht => exec_wf ht i) hs) fun _ ht => settle_wf ht exec

/-- Settles O60: the step is the choice of the next warp and its meaning (`move_wf`), then the waiting accesses (`settle_wf`). -/
theorem stepKeepsInvariant : Obligations.StepKeepsInvariant := fun _ t hs ht => step_wf hs t ht

end Sys2Proof.Machine
end

section
/-! Management (O53): what an update of one part of the state reads back, then one lemma for each clause of the statement. -/

namespace Sys2Proof.Machine

/-! ### One part of the state, read back -/

@[simp] theorem home_updHome (s : State) (n : Nat) (f : Home → Home) : (s.updHome n f).home n = f (s.home n) := by
  simp [State.home, State.updHome, mget_mupd]

@[simp] theorem die_updDie (s : State) (n : Nat) (f : Die → Die) : (s.updDie n f).die n = f (s.die n) := by
  simp [State.die, State.updDie, mget_mupd]

@[simp] theorem ctxEnt_updCtx (s : State) (c : Nat) (f : Ctx → Ctx) : (s.updCtx c f).ctxEnt c = f (s.ctxEnt c) := by
  simp [State.ctxEnt, State.updCtx, mget_mupd]

@[simp] theorem queue_updQueue (s : State) (q : Nat) (f : Queue → Queue) : (s.updQueue q f).queue q = f (s.queue q) := by
  simp [State.queue, State.updQueue, State.updFed, mget_mupd]

@[simp] theorem port_updPort (s : State) (p : Nat) (f : Port → Port) : (s.updPort p f).port p = f (s.port p) := by
  simp [State.port, State.updPort, State.updPkg, mget_mupd]

@[simp] theorem tier_updTier (s : State) (f : Tier → Tier) : (s.updTier f).pkg.tier = f s.pkg.tier := rfl

theorem Quiet.tier {s t : State} (h : Quiet s t) : t.pkg.tier = s.pkg.tier := by rw [h.pkg]

/-! ### Retirement (09 R213) -/

theorem retireGo_of_refused {s : State} {st c : Nat} (h : retireRefusal s.pkg.tier st = some c) :
    (retireGo s st).pkg.tier = { s.pkg.tier with retStatus := c } := by
  simp [retireGo, h]

theorem retireRefusal_of_migrating {t : Tier} (st : Nat) (h : Tier.migrating t = true) : retireRefusal t st = some 5 := by
  simp [retireRefusal, h]

theorem retireRefusal_of_one {t : Tier} (st : Nat) (h : Tier.migrating t = false) (hn : t.n = 1) :
    retireRefusal t st = some 3 := by
  simp [retireRefusal, h, hn]

theorem retireRefusal_of_dead {t : Tier} {st : Nat} (h : Tier.migrating t = false) (hn : t.n ≠ 1)
    (hl : t.live.getLsbD st = false) : retireRefusal t st = some 4 := by
  simp [retireRefusal, h, hn, hl]

theorem retireRefusal_of_live {t : Tier} {st : Nat} (h : Tier.migrating t = false) (hn : t.n ≠ 1)
    (hl : t.live.getLsbD st = true) : retireRefusal t st = none := by
  simp [retireRefusal, h, hn, hl]

theorem retireGo_of_accepted {s : State} {st : Nat} (h : retireRefusal s.pkg.tier st = none) :
    (retireGo s st).pkg.tier.retStatus = 1 ∧ (retireGo s st).pkg.tier.oldmap = s.pkg.tier.map ∧
      (retireGo s st).pkg.tier.nold = s.pkg.tier.n ∧ (retireGo s st).pkg.tier.n = (survWithout s.pkg.tier st).length ∧
      (retireGo s st).pkg.tier.mphase = s.pkg.tier.mphase + 1#32 ∧
      (retireGo s st).pkg.tier.migw = (survWithout s.pkg.tier st).length * 2 ^ 24 := by
  simp [retireGo, h]

/-! ### The moves of granules (09 R216 to R219) -/

/-- A granule that has left its old place is at its place of the new list. -/
theorem granSite_of_gone {t : Tier} {g : Nat} (h : granGone t g = true) : granSite t g = survStack t.map (g % max 1 t.n) := by
  rw [granSite, if_neg]
  simp only [granGone, Bool.or_eq_true, decide_eq_true_eq] at h
  simp only [Bool.and_eq_true, decide_eq_true_eq, Bool.not_eq_true']
  rintro ⟨⟨-, hg⟩, hm⟩
  rcases h with h | h
  · omega
  · rw [hm] at h
    cases h

/-- In `u` the granule `g` has left its old place, and the survivor list is that of `t`. -/
def Moved (t u : Tier) (g : Nat) : Prop := granGone u g = true ∧ u.map = t.map ∧ u.n = t.n

theorem Moved.site {t u : Tier} {g : Nat} (h : Moved t u g) : granSite u g = survStack t.map (g % max 1 t.n) := by
  obtain ⟨hg, hm, hn⟩ := h
  rw [granSite_of_gone hg, hm, hn]

/-- The watermark falls by one granule, and no granule returns to its old place. -/
theorem granGone_lower {t : Tier} {g : Nat} (h : granGone t g = true) :
    granGone { t with migw := t.migw - 1, moved := t.moved.filter (· != t.migw - 1) } g = true := by
  simp only [granGone, Bool.or_eq_true, decide_eq_true_eq, List.contains_iff_mem, List.mem_filter, bne_iff_ne] at h ⊢
  rcases h with h | h
  · omega
  · by_cases hg : g = t.migw - 1
    · omega
    · exact .inr ⟨h, hg⟩

theorem Moved.lowerMigw {t u : Tier} {g : Nat} (n : Nat) (h : Moved t u g) : Moved t (lowerMigw n u) g := by
  induction n generalizing u with
  | zero => exact h
  | succ n ih =>
    obtain ⟨hg, hm⟩ := h
    rw [Machine.lowerMigw]
    split
    · exact ⟨hg, hm⟩
    · simp only
      split
      · exact ih ⟨granGone_lower hg, hm⟩
      · exact ⟨hg, hm⟩

theorem Moved.migrationDone {t : Tier} {s : State} {g : Nat} (h : Moved t s.pkg.tier g) :
    Moved t (migrationDone s).pkg.tier g := by
  unfold Machine.migrationDone
  simp only
  split
  · exact h
  next hd =>
    have h0 : s.pkg.tier.migw = 0 := by simp_all
    exact ⟨by simp [granGone, h0], h.2⟩

theorem stackError_tier (s : State) (pa kind : Nat) : (stackError s pa kind).pkg.tier = s.pkg.tier := by
  unfold stackError
  repeat' split
  all_goals rfl

theorem logOutcome_tier (s : State) (pa : Nat) (out : SegOutcome) : (logOutcome s pa out).pkg.tier = s.pkg.tier := by
  cases out with
  | done => rfl
  | corrected => exact stackError_tier ..
  | degraded => exact stackError_tier ..
  | failed c =>
    simp only [logOutcome]
    split
    · exact stackError_tier ..
    · rfl

theorem handGranule_tier (s : State) (g old new : Nat) : (handGranule s g old new).pkg.tier = s.pkg.tier :=
  (Quiet.foldl (fun s l => (quiet_recallAll s l 99).trans (quiet_evictHome _ old l)) (linesOf (4096 * g) 4096) s).tier

theorem handed_tier {s u : State} (g old new : Nat) (hu : u.pkg.tier = s.pkg.tier) :
    (if old = new then u else handGranule u g old new).pkg.tier = s.pkg.tier := by
  split
  · exact hu
  · rw [handGranule_tier, hu]

theorem exec_granuleMove_of_ready {s : State} {g : Nat} (off : Nat) (out : SegOutcome) (h : granReady s g = true) :
    ∃ t, exec (.granuleMove g off out) s = .next t ∧
      granSite t.pkg.tier g = survStack s.pkg.tier.map (g % max 1 s.pkg.tier.n) := by
  have hmoved (u : State) (hu : u.pkg.tier = s.pkg.tier) : Moved s.pkg.tier
      (u.updTier (fun t => lowerMigw 80 { t with moved := g :: t.moved })).pkg.tier g := by
    rw [tier_updTier, hu]
    exact Moved.lowerMigw 80 ⟨by simp [granGone], rfl, rfl⟩
  refine ⟨_, rfl, ?_⟩
  rw [h]
  refine (Moved.migrationDone (hmoved _ (handed_tier g _ _ ?_))).site
  cases out with
  | failed c => exact stackError_tier ..
  | _ => exact logOutcome_tier ..

theorem exec_granuleMove_of_not_ready {s : State} {g : Nat} (off : Nat) (out : SegOutcome) (h : granReady s g = false) :
    exec (.granuleMove g off out) s = .next (migrationDone s) := by
  simp [exec, execGranuleMove, h]

/-! ### The tails of the logs (08 R207, 09 R220) -/

theorem exec_lltailWrite (s : State) {n : Nat} (v : Nat) (h : n ≤ 8) :
    exec (.lltailWrite n v) s = .next (s.updHome n (fun h => { h with loss := ringTail 256 h.loss v })) := by
  simp [exec, execLltailWrite, Nat.not_lt.2 h]

theorem exec_eltailWrite (s : State) {n : Nat} (v : Nat) (h : n ≤ 7) :
    exec (.eltailWrite n v) s = .next (s.updDie n (fun d => { d with elog := ringTail 1024 d.elog v })) := by
  simp [exec, execEltailWrite, Nat.not_lt.2 h]

/-! ### Contexts (06 R158, 07 R182) -/

theorem exec_contextVerWrite {s : State} {c : Nat} (v : Nat) (hc : c < 64) (hj : s.jobs = true) :
    exec (.contextVerWrite c v) s = .next (writeVer s c v) := by
  simp [exec, execContextVerWrite, hc, hj]

theorem exec_contextEnable {s : State} {c : Nat} (v : W64) (hc : c < 64) (hj : s.jobs = true) :
    exec (.contextEnable c v) s = .next (writeEn s c v) := by
  simp [exec, execContextEnable, hc, hj]

theorem ctxEnt_writeVer (s : State) (c v : Nat) : (writeVer s c v).ctxEnt c = { s.ctxEnt c with ver := BitVec.ofNat 10 v } :=
  ctxEnt_updCtx s c (fun x => { x with ver := BitVec.ofNat 10 v })

theorem global_of_mem_tlb_writeVer {s : State} {c v : Nat} {y : TlbEnt} (hy : y ∈ (writeVer s c v).vm.tlb) (hc : y.ctx = c) :
    y.g = true := by
  have h := (List.mem_filter.1 hy).2
  simpa [hc] using h

theorem ne_of_mem_rtlb_writeVer {s : State} {c v : Nat} {y : Nat × List RangeEnt} (hy : y ∈ (writeVer s c v).vm.rtlb) :
    y.1 % 64 ≠ c := by
  simpa using (List.mem_filter.1 hy).2

theorem ctxEnt_writeEn (s : State) (c : Nat) (v : W64) :
    (writeEn s c v).ctxEnt c = { s.ctxEnt c with root := bits v.toNat 47 9 * 512, en := v.getLsbD 0 } := by
  unfold writeEn
  simp only
  split
  · exact ctxEnt_updCtx s c _
  · exact ctxEnt_updCtx s c _

/-- Enabling a context forgets its timelines. -/
theorem ne_of_mem_tls_writeEn {s : State} {c : Nat} {v : W64} (hv : v.getLsbD 0 = true) (he : (s.ctxEnt c).en = false)
    {y : Nat × Timeline} (hy : y ∈ (writeEn s c v).fed.tls) : y.1 / 65536 ≠ c := by
  simp only [writeEn, hv, he, Bool.not_false, Bool.and_true, if_true] at hy
  simpa using (List.mem_filter.1 hy).2

theorem exec_context_of_no_jobs {s : State} (h : s.jobs = false) (c v : Nat) (w : W64) :
    exec (.contextVerWrite c v) s = .next s ∧ exec (.contextEnable c w) s = .next s := by
  simp [exec, execContextVerWrite, execContextEnable, h]

/-! ### Power and clock steps (12 R296, R297) -/

/-- The first step whose draw is within CAP, of those up to `m`. -/
def fitStep (draws : List Nat) (cap m : Nat) : Option Nat :=
  (List.range (m + 1)).find? (fun k => match draws[k]? with
    | some d => d ≤ cap
    | none => false)

theorem fitStep_eq_some {draws : List Nat} {cap m k d : Nat} (hk : k ≤ m) (hd : draws[k]? = some d) (hc : d ≤ cap)
    (hlow : ∀ j x, j < k → draws[j]? = some x → cap < x) : fitStep draws cap m = some k := by
  refine List.find?_range_eq_some.2 ⟨by simp [hd, hc], by simp; omega, fun j hj => ?_⟩
  cases hx : draws[j]? with
  | none => rfl
  | some x => simpa using hlow j x hj hx

theorem fitStep_eq_none {draws : List Nat} {cap m : Nat} (h : ∀ k d, k ≤ m → draws[k]? = some d → cap < d) :
    fitStep draws cap m = none := by
  refine List.find?_eq_none.2 fun k hk => ?_
  have hm : k ≤ m := by simpa [Nat.lt_succ_iff] using hk
  cases hx : draws[k]? with
  | none => simp
  | some d => simpa using h k d hm hx

theorem exec_powerSample_of_fit {s : State} {draws : List Nat} {k : Nat} (settle : Nat)
    (h : fitStep draws s.pkg.pwr.cap (min 5 s.pkg.pwr.maxstep) = some k) :
    ∃ t, exec (.powerSample draws settle) s = .next t ∧
      t.pkg.pwr.step = (if s.pkg.pwr.throttle ≤ 1 then k else min 5 s.pkg.pwr.maxstep) ∧
      (t.pkg.pwr.step ≠ s.pkg.pwr.step → t.pkg.pwr.settle = s.ctl.clock + min settle (10 * ccAtStep t.pkg.pwr.step)) ∧
      t.pkg.pwr.throttle = if s.pkg.pwr.throttle ≤ 1 then 0 else s.pkg.pwr.throttle - 1 := by
  refine ⟨_, rfl, ?_⟩
  generalize hf : List.find? _ _ = o
  obtain rfl : o = some k := hf.symm.trans h
  simp only
  split
  · exact ⟨rfl, fun hk => if_neg hk, rfl⟩
  · exact ⟨rfl, fun hk => if_neg hk, rfl⟩

theorem exec_powerSample_of_no_fit {s : State} {draws : List Nat} (settle : Nat)
    (h : fitStep draws s.pkg.pwr.cap (min 5 s.pkg.pwr.maxstep) = none) :
    ∃ t, exec (.powerSample draws settle) s = .next t ∧ t.pkg.pwr.step = min 5 s.pkg.pwr.maxstep ∧
      t.pkg.pwr.throttle = min 15 (s.pkg.pwr.throttle + 1) ∧ t.ctl.irqs = s.ctl.irqs ++ [.power] := by
  refine ⟨_, rfl, ?_⟩
  generalize hf : List.find? _ _ = o
  obtain rfl : o = none := hf.symm.trans h
  exact ⟨rfl, rfl, rfl⟩

/-! ### Attestation and firmware (12 R295) -/

theorem freeBytes_pkg (n : Nat) (s : State) : (freeBytes n s).1.pkg = s.pkg := by
  induction n generalizing s with
  | zero => rfl
  | succ n ih => exact ih _

theorem length_freeBytes (n : Nat) (s : State) : (freeBytes n s).2.length = n := by
  induction n generalizing s with
  | zero => rfl
  | succ n ih => exact congrArg (· + 1) (ih _)

theorem exec_spdmRequest (s : State) : ∃ t sig, exec .spdmRequest s = .next t ∧ sig.length = 64 ∧
    t.pkg.fw.reports = s.pkg.fw.reports ++ [.measurements s.pkg.fw.measure1 s.pkg.fw.minVersion
      (if s.pkg.fw.running = some 1 then s.pkg.fw.slot1 else s.pkg.fw.slot0).sig (hmap3 s)
      (s.passedSites.length * 256 + pkgLevel s) sig] := by
  refine ⟨_, (freeBytes 64 s).2, rfl, length_freeBytes 64 s, ?_⟩
  simp only [State.updPkg, freeBytes_pkg]

/-! ### Configuration registers (00 R6, R7) -/

theorem quiet_engineXlat (s : State) (agent ctx va : Nat) (need : BitVec 4) (wr : Bool) :
    Quiet s (engineXlat s agent ctx va need wr).1 := by
  have h := quiet_translate s agent ctx va need wr
  unfold engineXlat
  split
  · exact .refl s
  · split
    next s1 e hx => rwa [hx] at h
    next s1 x hx =>
      rw [hx] at h
      split
      · exact h
      · exact h

theorem Quiet.foldl_fst {β γ : Type} {f : State × γ → β → State × γ} (h : ∀ r x, Quiet r.1 (f r x).1) (l : List β)
    (r : State × γ) : Quiet r.1 (l.foldl f r).1 := by
  induction l generalizing r with
  | nil => exact .refl r.1
  | cons a t ih => exact (h r a).trans (ih _)

theorem quiet_readVirt (s : State) (agent ctx va n : Nat) (need : BitVec 4) : Quiet s (readVirt s agent ctx va n need).1 := by
  refine Quiet.foldl_fst (fun r p => ?_) _ (s, Sum.inr [])
  obtain ⟨s, e | l⟩ := r
  · exact .refl s
  · have h := quiet_engineXlat s agent ctx p.1 need false
    simp only
    split
    next s1 e hx => rwa [hx] at h
    next s1 x hx =>
      rw [hx] at h
      exact h.trans (quiet_readPhys ..)

theorem quiet_cpRead (s : State) (ctx va n : Nat) : Quiet s (cpRead s ctx va n).1 := by
  have h := quiet_readVirt s agentCp ctx va n needR
  unfold cpRead
  split
  next s1 e hx => rwa [hx] at h
  next s1 l hx => rwa [hx] at h

theorem quiet_findCmd (s : State) (q : Nat) : Quiet s (findCmd s q).1 := by
  unfold findCmd
  simp only
  split
  · exact .refl s
  · split
    · exact .refl s
    · have h := quiet_cpRead s (s.queue q).ctx ((s.queue q).base + 64 * ((s.queue q).head.toNat % 2 ^ (s.queue q).log2n)) 64
      split
      next s1 hx => rwa [hx] at h
      next s1 l hx =>
        rw [hx] at h
        repeat' split
        all_goals exact h

/-- Looking at a ring may stop the queue; it changes nothing else of it. -/
theorem queue_checkQueue (s : State) (q : Nat) : ∃ c, (checkQueue s q).queue q = { s.queue q with stop := c } := by
  have h := quiet_findCmd s q
  unfold checkQueue
  split
  next s1 c hx =>
    rw [hx] at h
    have hq : s1.queue q = s.queue q := by rw [State.queue, h.fed, State.queue]
    exact ⟨c, (queue_updQueue s1 q _).trans (by rw [hq])⟩
  · exact ⟨(s.queue q).stop, rfl⟩

theorem writeReg_qCtl {q : Nat} (s : State) (v : W64) (hq : q < 64) :
    ((writeReg s (.qCtl q) v).queue q).en = v.getLsbD 31 ∧ ((writeReg s (.qCtl q) v).queue q).ctx = bits v.toNat 13 8 := by
  simp only [writeReg, writeQueue, ge_iff_le, Nat.not_le.2 hq, if_false]
  obtain ⟨c, hc⟩ := queue_checkQueue (s.updQueue q _) q
  rw [hc, queue_updQueue]
  exact ⟨rfl, rfl⟩

theorem writeReg_uvec {c : Nat} (s : State) (v : W64) (hc : c < 64) :
    (writeReg s (.uvec c) v).ctxEnt c = { s.ctxEnt c with uvec := v.extractLsb' 0 54 } := by
  simp [writeReg, Nat.not_le.2 hc]

theorem writeReg_svec {c : Nat} (s : State) (v : W64) (hc : c < 64) :
    (writeReg s (.svec c) v).ctxEnt c = { s.ctxEnt c with svec := v.extractLsb' 0 54 } := by
  simp [writeReg, Nat.not_le.2 hc]

theorem writeReg_winCtx {m : Nat} (s : State) (v : W64) (hm : m < 16) :
    mget 0 (writeReg s (.winCtx m) v).vm.win m = bits v.toNat 5 0 := by
  simp [writeReg, Nat.not_le.2 hm]

theorem writeReg_portCtx {p : Nat} (s : State) (v : W64) (hp : p < 2) :
    ((writeReg s (.portCtx p) v).port p).ctx = bits v.toNat 5 0 := by
  simp [writeReg, Nat.not_le.2 hp]

theorem writeReg_retctl_of_refused {s : State} {v : W64} {c : Nat} (hv : v.getLsbD 31 = true)
    (h : retireRefusal s.pkg.tier (bits v.toNat 18 16) = some c) :
    (writeReg s .retctl v).pkg.tier = { s.pkg.tier with retStatus := c } := by
  rw [← retireGo_of_refused h]
  simp only [writeReg, hv, h, Bool.not_true, Bool.false_eq_true, Option.isSome_some, if_true, if_false]

theorem writeReg_prectl_of_ignored {s : State} {core : Nat} {v : W64} (hv : v.getLsbD 63 = true)
    (h : preemptTakes s core (bits v.toNat 6 0) = false) : writeReg s (.prectl core) v = s := by
  simp [writeReg, writePrectl, hv, h]

theorem writeReg_rstctl_of_ignored {s : State} {core : Nat} {v : W64} (hv : v.getLsbD 63 = true)
    (h : restoreTakes s core (bits v.toNat 53 12 * 4096) = none) : writeReg s (.rstctl core) v = s := by
  simp [writeReg, writeRstctl, hv, h]

theorem mfind_map_key {α : Type} (f : Nat → α) {l : List Nat} {k : Nat} (hk : k ∈ l) :
    mfind (l.map (fun j => (j, f j))) k = some (f k) := by
  induction l with
  | nil => cases hk
  | cons j l ih =>
    simp only [List.map_cons, mfind]
    split
    next h => rw [h]
    next h => exact ih ((List.mem_cons.1 hk).resolve_left (Ne.symm h))

theorem writeReg_l2cq {n c : Nat} (s : State) (v : W64) (hn : n ≤ 7) (hc : c < 4) :
    mfind ((writeReg s (.l2cq n) v).die n).l2cq c = some (bits v.toNat (8 * c + 5) (8 * c)) := by
  simp only [writeReg, Nat.not_lt.2 hn, if_false, die_updDie]
  exact mfind_map_key (fun c => bits v.toNat (8 * c + 5) (8 * c)) (List.mem_range.2 hc)

/-- Settles O53: each clause is a lemma above on the event or the register that it speaks of. -/
theorem management : Obligations.Management := by
  refine ⟨fun s n => ⟨fun h => ?_, fun h hn => ?_, fun h hn hl => ?_, fun h hn hl => ?_⟩,
    fun s g off out h => exec_granuleMove_of_ready off out h, fun s g off out h => exec_granuleMove_of_not_ready off out h,
    fun s n v hn => ⟨_, exec_lltailWrite s v hn, by rw [home_updHome]; rfl⟩,
    fun s n v hn => ⟨_, exec_eltailWrite s v hn, by rw [die_updDie]; rfl⟩,
    fun s c v hc hj => ⟨_, exec_contextVerWrite v hc hj, by rw [ctxEnt_writeVer],
      fun y hy hyc => global_of_mem_tlb_writeVer hy hyc, fun y hy => ne_of_mem_rtlb_writeVer hy⟩,
    fun s c v hc hj => ⟨_, exec_contextEnable v hc hj, by rw [ctxEnt_writeEn], by rw [ctxEnt_writeEn],
      fun hv he y hy => ne_of_mem_tls_writeEn hv he hy⟩,
    fun s draws settle => ⟨fun k d hk hd hc hlow _ => exec_powerSample_of_fit settle (fitStep_eq_some hk hd hc hlow),
      fun h => exec_powerSample_of_no_fit settle (fitStep_eq_none h)⟩,
    fun s h c v => ⟨(exec_context_of_no_jobs h c v 0).1, fun w => (exec_context_of_no_jobs h c v w).2⟩,
    exec_spdmRequest, fun s i => ⟨_, rfl, rfl, rfl⟩,
    fun s r v => ⟨writeReg s r v, rfl, ?_, ?_, ?_, ?_, ?_, ?_, ?_, ?_, ?_, ?_, ?_, ?_, ?_⟩⟩
  · exact ⟨_, rfl, retireGo_of_refused (retireRefusal_of_migrating _ h)⟩
  · exact ⟨_, rfl, retireGo_of_refused (retireRefusal_of_one _ h hn)⟩
  · exact ⟨_, rfl, retireGo_of_refused (retireRefusal_of_dead h hn hl)⟩
  · exact ⟨_, rfl, retireGo_of_accepted (retireRefusal_of_live h hn hl)⟩
  · rintro rfl
    exact ⟨rfl, rfl⟩
  · rintro rfl
    rfl
  · rintro rfl
    rfl
  · rintro rfl
    exact ⟨rfl, rfl⟩
  · rintro c hc rfl
    exact writeReg_uvec s v hc
  · rintro c hc rfl
    exact writeReg_svec s v hc
  · rintro q hq rfl
    exact writeReg_qCtl s v hq
  · rintro m hm rfl
    exact writeReg_winCtx s v hm
  · rintro p hp rfl
    exact writeReg_portCtx s v hp
  · rintro rfl hv c hc
    exact writeReg_retctl_of_refused hv hc
  · rintro core rfl hv h
    exact writeReg_prectl_of_ignored hv h
  · rintro core rfl hv h
    exact writeReg_rstctl_of_ignored hv h
  · rintro n hn rfl c hc
    exact writeReg_l2cq s v hn hc

end Sys2Proof.Machine
end

section
/-! What the services of memory, of the KVE and of the homes leave alone: the dies in service, their cores, warps and blocks, and an
RDC that holds nothing. -/

namespace Sys2Proof.Machine

/-! ### What leaves the dies alone -/

theorem foldl_dies {β : Type} {f : State → β → State} (hf : ∀ s x, (f s x).dies = s.dies) (l : List β) (s : State) :
    (l.foldl f s).dies = s.dies := by
  induction l generalizing s with
  | nil => rfl
  | cons a t ih => exact (ih _).trans (hf s a)

@[simp] theorem State.countLost_dies (s : State) (line : Nat) : (s.countLost line).dies = s.dies := by
  unfold State.countLost
  split <;> rfl

@[simp] theorem evictHome_dies (s : State) (n line : Nat) : (evictHome s n line).dies = s.dies := by
  unfold evictHome
  split <;> rfl

@[simp] theorem touchHome_dies (s : State) (n line cls chain : Nat) (ef : Bool) :
    (touchHome s n line cls chain ef).dies = s.dies := by
  unfold touchHome
  split
  · rfl
  · simp only [State.setHomeLine, State.updHome_dies]
    split
    · rfl
    · split
      · rfl
      · exact evictHome_dies ..

@[simp] theorem settleHome_dies (s : State) (n line : Nat) : (settleHome s n line).dies = s.dies := by
  unfold settleHome
  split
  · rfl
  · split
    · exact evictHome_dies ..
    · rfl

@[simp] theorem hitHome_dies (s : State) (n line : Nat) : (hitHome s n line).dies = s.dies := by
  unfold hitHome
  split <;> rfl

@[simp] theorem hostBack_dies (s : State) (n page : Nat) : (hostBack s n page).dies = s.dies := by
  unfold hostBack
  split
  · rfl
  · split <;> rfl

@[simp] theorem homePut_dies (s : State) (line : Nat) (bytes : SMap Byte) (p : Option Nat) (cls chain : Nat) (ef : Bool) :
    (homePut s line bytes p cls chain ef).1.dies = s.dies := by
  unfold homePut
  split
  · exact State.countLost_dies ..
  · simp [State.setHomeLine]

@[simp] theorem cross_dies (s : State) (a b : Nat) : (cross s a b).dies = s.dies :=
  foldl_dies (fun _ _ => State.updLink_dies ..) _ _

@[simp] theorem send_dies (s : State) (m : Msg) : (send s m).dies = s.dies :=
  foldl_dies (fun _ _ => State.updLink_dies ..) _ _

@[simp] theorem retireEnt_dies (s : State) (n line d : Nat) : (retireEnt s n line d).dies = s.dies := by
  unfold retireEnt
  split
  · rfl
  · split
    · rfl
    · split <;> rfl

@[simp] theorem takeEvicts_dies (s : State) (p : Msg → Nat → Bool) : (takeEvicts s p).dies = s.dies := by
  refine foldl_dies (fun t m => ?_) _ _
  rw [retireEnt_dies]
  split
  · rfl
  · rw [homePut_dies]

@[simp] theorem ownerHome_dies (s : State) (line d : Nat) : (ownerHome s line d).dies = s.dies := by
  unfold ownerHome
  split
  · rfl
  · simp only
    split
    · rfl
    · exact homePut_dies ..

@[simp] theorem addPshr_dies (s : State) (n line d : Nat) : (addPshr s n line d).dies = s.dies := by
  unfold addPshr
  simp only
  split <;> split <;> rfl

@[simp] theorem dieAccess_dies (s : State) (n page : Nat) : (dieAccess s n page).dies = s.dies := by
  unfold dieAccess
  split
  · rfl
  · split <;> rfl

/-! ### States between which no die and no core has got anything -/

/-- The dies in service, their cores, warps and blocks are the same in `s` and `t`, and an RDC that is empty in `s` is so in `t`. -/
structure Steady (s t : State) : Prop where
  passed : t.pkg.passed = s.pkg.passed
  fuses : t.pkg.fuses = s.pkg.fuses
  online : t.pkg.online = s.pkg.online
  warp : ∀ r, t.warp? r = s.warp? r
  block : ∀ l h, t.block? l h = s.block? l h
  rdc : ∀ d, (s.die d).rdc = [] → (t.die d).rdc = []

theorem Steady.refl (s : State) : Steady s s := ⟨rfl, rfl, rfl, fun _ => rfl, fun _ _ => rfl, fun _ => id⟩

theorem Steady.trans {s t u : State} (h : Steady s t) (g : Steady t u) : Steady s u :=
  ⟨g.passed.trans h.passed, g.fuses.trans h.fuses, g.online.trans h.online, fun r => (g.warp r).trans (h.warp r),
   fun l k => (g.block l k).trans (h.block l k), fun d x => g.rdc d (h.rdc d x)⟩

theorem Steady.foldl {β : Type} {f : State → β → State} (h : ∀ s x, Steady s (f s x)) (l : List β) (s : State) :
    Steady s (l.foldl f s) := by
  induction l generalizing s with
  | nil => exact .refl s
  | cons a t ih => exact (h s a).trans (ih _)

/-- A fold that carries a result beside the state. -/
theorem Steady.foldl_fst {β γ : Type} {f : State × γ → β → State × γ} (h : ∀ r x, Steady r.1 (f r x).1) (l : List β)
    (r : State × γ) : Steady r.1 (l.foldl f r).1 := by
  induction l generalizing r with
  | nil => exact .refl _
  | cons a t ih => exact (h r a).trans (ih _)

theorem Steady.siteOf {s t : State} (h : Steady s t) (l : Nat) : t.siteOf l = s.siteOf l := by
  simp only [State.siteOf, State.lpt, State.passedSites, State.fuse, h.passed, h.fuses]

theorem Steady.onlineSite {s t : State} (h : Steady s t) (d : Nat) : t.onlineSite d = s.onlineSite d := by
  simp only [State.onlineSite, h.online]

/-- What changes neither the dies, nor the cores, nor what the package says of both. -/
theorem Steady.of_eq {s t : State} (hd : t.dies = s.dies) (hc : t.cores = s.cores) (hp : t.pkg.passed = s.pkg.passed)
    (hf : t.pkg.fuses = s.pkg.fuses) (ho : t.pkg.online = s.pkg.online) : Steady s t :=
  ⟨hp, hf, ho, fun _ => by simp only [State.warp?, State.core, hc], fun _ _ => by simp only [State.block?, State.core, hc],
   fun _ h => by simpa only [State.die, hd] using h⟩

theorem Quiet.steady {s t : State} (h : Quiet s t) (hd : ∀ d, (s.die d).rdc = [] → (t.die d).rdc = []) : Steady s t :=
  ⟨by rw [h.pkg], by rw [h.pkg], by rw [h.pkg], h.warp, h.block, hd⟩

theorem Quiet.steady_of_dies {s t : State} (h : Quiet s t) (hd : t.dies = s.dies) : Steady s t :=
  h.steady fun _ hx => by simpa only [State.die, hd] using hx

theorem steady_updHome (s : State) (n : Nat) (f : Home → Home) : Steady s (s.updHome n f) := .of_eq rfl rfl rfl rfl rfl
theorem steady_updFed (s : State) (f : Fed → Fed) : Steady s (s.updFed f) := .of_eq rfl rfl rfl rfl rfl
theorem steady_raise (s : State) (i : Irq) : Steady s (s.raise i) := .of_eq rfl rfl rfl rfl rfl
theorem steady_cross (s : State) (a b : Nat) : Steady s (cross s a b) := (quiet_cross s a b).steady_of_dies (cross_dies ..)
theorem steady_send (s : State) (m : Msg) : Steady s (send s m) := (quiet_send s m).steady_of_dies (send_dies ..)

theorem steady_updDie (s : State) (n : Nat) {f : Die → Die} (hf : (s.die n).rdc = [] → (f (s.die n)).rdc = []) :
    Steady s (s.updDie n f) := by
  refine (quiet_updDie s n f).steady fun d h => ?_
  simp only [State.die, State.updDie_dies, mget_mset]
  split
  next e =>
    subst e
    exact hf h
  next => exact h

/-! ### Lines at the homes and in the RDCs -/

theorem steady_homePut (s : State) (line : Nat) (bytes : SMap Byte) (p : Option Nat) (cls chain : Nat) (ef : Bool) :
    Steady s (homePut s line bytes p cls chain ef).1 := (quiet_homePut ..).steady_of_dies (homePut_dies ..)
theorem steady_touchHome (s : State) (n line cls chain : Nat) (ef : Bool) : Steady s (touchHome s n line cls chain ef) :=
  (quiet_touchHome ..).steady_of_dies (touchHome_dies ..)
theorem steady_settleHome (s : State) (n line : Nat) : Steady s (settleHome s n line) :=
  (quiet_settleHome ..).steady_of_dies (settleHome_dies ..)
theorem steady_hitHome (s : State) (n line : Nat) : Steady s (hitHome s n line) :=
  (quiet_hitHome ..).steady_of_dies (hitHome_dies ..)
theorem steady_retireEnt (s : State) (n line d : Nat) : Steady s (retireEnt s n line d) :=
  (quiet_retireEnt ..).steady_of_dies (retireEnt_dies ..)
theorem steady_takeEvicts (s : State) (p : Msg → Nat → Bool) : Steady s (takeEvicts s p) :=
  (quiet_takeEvicts ..).steady_of_dies (takeEvicts_dies ..)
theorem steady_ownerHome (s : State) (line d : Nat) : Steady s (ownerHome s line d) :=
  (quiet_ownerHome ..).steady_of_dies (ownerHome_dies ..)
theorem steady_addPshr (s : State) (n line d : Nat) : Steady s (addPshr s n line d) :=
  (quiet_addPshr ..).steady_of_dies (addPshr_dies ..)
theorem steady_dieAccess (s : State) (n page : Nat) : Steady s (dieAccess s n page) :=
  (quiet_dieAccess ..).steady_of_dies (dieAccess_dies ..)
theorem steady_markStale (s : State) (page : Nat) : Steady s (markStale s page) := (quiet_markStale ..).steady_of_dies rfl
theorem steady_putDir (s : State) (n line : Nat) (e : DirEnt) : Steady s (s.putDir n line e) := steady_updHome ..
theorem steady_lessDrop (s : State) (n line : Nat) : Steady s (lessDrop s n line) := steady_updHome ..

theorem steady_dropRdc (s : State) (d line : Nat) : Steady s (dropRdc s d line) := by
  unfold dropRdc
  split
  · exact .refl s
  · refine (steady_updDie s d fun h => ?_).trans (steady_updHome ..)
    simp [h, mdel]

/-- A line that an RDC holds is written again in it. -/
theorem steady_setRdc {s : State} {d line : Nat} {x y : RdcLine} (h : s.rdc? d line = some x) : Steady s (s.setRdc d line y) :=
  steady_updDie s d fun he => by simp [State.rdc?, he, mfind] at h

theorem steady_recallEnt (s : State) (line d : Nat) : Steady s (recallEnt s line d) := by
  unfold recallEnt
  simp only
  split
  · split
    · exact .refl s
    · exact (((steady_ownerHome ..).trans (steady_cross ..)).trans (steady_dropRdc ..)).trans (steady_putDir ..)
  · exact (Steady.foldl (fun t x => (steady_cross ..).trans (steady_dropRdc ..)) _ _).trans (steady_putDir ..)

theorem steady_dirRoom (s : State) (n line : Nat) : Steady s (dirRoom s n line) := by
  unfold dirRoom
  simp only
  split
  · exact .refl s
  · split
    · exact steady_updHome ..
    · split
      · exact .refl s
      · exact (steady_takeEvicts ..).trans (steady_recallEnt ..)

theorem steady_rebuild (s : State) (n line x : Nat) : Steady s (rebuild s n line x) :=
  ((steady_dirRoom ..).trans (steady_putDir ..)).trans (steady_lessDrop ..)

theorem steady_discoverNow (s : State) (line d : Nat) : Steady s (discoverNow s line d) := by
  unfold discoverNow
  simp only
  split
  · exact .refl s
  · have h := Steady.foldl (fun t x => steady_cross t (s.homeOf line) x)
      ((List.range 8).filter (fun x => x != d && s.onlineSite x)) s
    split
    · exact h
    · exact h.trans (steady_rebuild ..)

theorem steady_settleLine (s : State) (line d : Nat) : Steady s (settleLine s line d) :=
  (steady_takeEvicts ..).trans (steady_discoverNow ..)

theorem steady_recallAll (s : State) (line d : Nat) : Steady s (recallAll s line d) :=
  (steady_settleLine ..).trans (steady_recallEnt ..)

theorem steady_pullDirty (s : State) (line : Nat) : Steady s (pullDirty s line) := by
  unfold pullDirty
  have h := steady_settleLine s line 99
  simp only
  split
  · exact h
  · split
    · exact h
    · split
      · exact (h.trans (steady_cross ..)).trans (steady_ownerHome ..)
      next hx => exact ((h.trans (steady_cross ..)).trans (steady_ownerHome ..)).trans (steady_setRdc hx)

/-! ### Accesses at the homes, and translation -/

theorem steady_serveRead (s : State) (line : Nat) : Steady s (serveRead s line).1 := by
  unfold serveRead
  simp only
  exact ((steady_dieAccess ..).trans (steady_pullDirty ..)).trans (steady_hitHome ..)

theorem steady_readLine (s : State) (line : Nat) : Steady s (readLine s line) := by
  unfold readLine
  split
  · exact .refl s
  · exact steady_serveRead ..

theorem steady_readPhys (s : State) (pa n : Nat) : Steady s (readPhys s pa n).1 := Steady.foldl (fun _ _ => steady_serveRead ..) _ _

theorem steady_serveWriteE (s : State) (line : Nat) (bytes : SMap Byte) (p : Option Nat) (cls chain : Nat) (ef : Bool) :
    Steady s (serveWriteE s line bytes p cls chain ef).1 :=
  (((steady_markStale ..).trans (steady_dieAccess ..)).trans (steady_recallAll ..)).trans (steady_homePut ..)

theorem steady_flushHome (s : State) (line : Nat) : Steady s (flushHome s line) := by
  refine (quiet_flushHome s line).steady_of_dies ?_
  unfold flushHome
  simp only
  split <;> rfl

theorem steady_writePhysE (s : State) (pa : Nat) (l : List Byte) (cls chain : Nat) (ef sy : Bool) :
    Steady s (writePhysE s pa l cls chain ef sy) := by
  refine Steady.foldl (fun t x => ?_) _ _
  simp only
  split
  · exact (steady_serveWriteE ..).trans (steady_flushHome ..)
  · exact steady_serveWriteE ..

theorem steady_heatUpdate (s : State) (q : HeatReq) : Steady s (heatUpdate s q) := by
  unfold heatUpdate
  split
  · exact .of_eq rfl rfl rfl rfl rfl
  · unfold heatNow
    simp only
    split
    · exact .refl s
    · exact steady_writePhysE ..

theorem steady_vm (s : State) (v : Vm) : Steady s { s with vm := v } := .of_eq rfl rfl rfl rfl rfl

theorem steady_useTlb (s : State) (t : TlbEnt) (wr : Bool) : Steady s (useTlb s t wr) := by
  unfold useTlb
  cases wr
  all_goals
    simp only [Bool.false_eq_true, if_false, if_true]
    split
    · exact (steady_vm ..).trans (steady_heatUpdate ..)
    · exact steady_vm ..

theorem steady_loadRange (s : State) (agent ctx : Nat) : Steady s (loadRange s agent ctx).1 := by
  unfold loadRange
  split
  · exact .refl s
  · split
    · exact .refl s
    · exact (Steady.foldl steady_readLine _ s).trans (steady_vm ..)

theorem steady_translate (s : State) (agent ctx va : Nat) (need : BitVec 4) (wr : Bool) :
    Steady s (translate s agent ctx va need wr).1 := by
  have h := steady_loadRange s agent ctx
  unfold translate
  simp only
  split
  · exact .refl s
  · split
    · split <;> exact h
    · split
      · exact h
      · split
        · split
          · exact h
          · exact h.trans (steady_useTlb ..)
        · have h1 := h.trans (Steady.foldl steady_readLine
            (walkLines (loadRange s agent ctx).1 va 5 (s.ctxEnt ctx).root 1) _)
          split
          · exact h1
          · split
            · exact h1
            · exact ((h1.trans (steady_vm ..)).trans (steady_heatUpdate ..)).trans (steady_useTlb ..)

theorem steady_engineXlat (s : State) (agent ctx va : Nat) (need : BitVec 4) (wr : Bool) :
    Steady s (engineXlat s agent ctx va need wr).1 := by
  have h := steady_translate s agent ctx va need wr
  unfold engineXlat
  split
  · exact .refl s
  · split
    next hx => rwa [hx] at h
    next hx =>
      rw [hx] at h
      split <;> exact h

theorem steady_writeVirt (s : State) (agent ctx va : Nat) (l : List Byte) (need : BitVec 4) :
    Steady s (writeVirt s agent ctx va l need).1 := by
  unfold writeVirt writeVirtC writeVirtE
  refine Steady.foldl_fst (fun r p => ?_) _ (s, none)
  obtain ⟨t, _ | e⟩ := r
  · have h := steady_engineXlat t agent ctx p.1 need true
    simp only
    split
    next hx => rwa [hx] at h
    next hx =>
      rw [hx] at h
      exact h.trans (steady_writePhysE ..)
  · exact .refl t

theorem steady_writeStatus (s : State) (ctx addr v num : Nat) : Steady s (writeStatus s ctx addr v num) := by
  have h := steady_writeVirt s agentCp ctx addr (leBytes 8 v) needW
  unfold writeStatus
  split
  · exact .refl s
  · split
    next hx => rwa [hx] at h
    next hx =>
      rw [hx] at h
      exact h.trans (steady_raise ..)

/-! ### The KVE, its pools, and loads of residencies -/

theorem steady_kvGet (s : State) (pa n : Nat) : Steady s (kvGet s pa n).1 := steady_readPhys ..

theorem steady_kvPut (s : State) (pa n v : Nat) : Steady s (kvPut s pa n v) := by
  unfold kvPut
  split
  · exact .refl s
  · exact steady_writePhysE ..

theorem steady_poolGet (s : State) (p0 p1 : Nat) : Steady s (poolGet s p0 p1).1 := by
  unfold poolGet
  simp only
  exact (steady_kvGet ..).trans (steady_kvGet ..)

theorem steady_entGet (s : State) (p : KvPool) (i : Nat) : Steady s (entGet s p i).1 := by
  unfold entGet
  simp only
  exact (steady_kvGet ..).trans (steady_kvGet ..)

theorem steady_entPut (s : State) (p : KvPool) (i : Nat) (e : KvEnt) : Steady s (entPut s p i e) :=
  (steady_kvPut ..).trans (steady_kvPut ..)

theorem steady_ringGive (s : State) (p : KvPool) (n v : Nat) : Steady s (ringGive s p n v) := by
  have h : Steady s (ringWord (ringWord (ringWord s p n 0).1 p n 1).1 p n 3).1 :=
    ((steady_kvGet ..).trans (steady_kvGet ..)).trans (steady_kvGet ..)
  unfold ringGive
  simp only
  split
  · exact h
  · exact (h.trans (steady_kvPut ..)).trans (steady_kvPut ..)

theorem steady_tryFree (s : State) (p : KvPool) (i : Nat) : Steady s (tryFree s p i) := by
  have h := steady_entGet s p i
  unfold tryFree
  simp only
  split
  · exact h
  · have h1 := (h.trans (steady_ringGive (entGet s p i).1 p 0 i)).trans
      (steady_ringGive _ p (entGet s p i).2.tier (entGet s p i).2.addr)
    split
    · exact h1.trans (steady_entPut ..)
    · exact (h1.trans (steady_ringGive ..)).trans (steady_entPut ..)

theorem steady_moves (s : State) (l : List KvMove) : Steady s { s with moves := l } := .of_eq rfl rfl rfl rfl rfl
theorem steady_gathers (s : State) (l : List KvGather) : Steady s { s with gathers := l } := .of_eq rfl rfl rfl rfl rfl
theorem steady_completeNum (s : State) (ctx tlid n : Nat) : Steady s (completeNum s ctx tlid n) :=
  .of_eq rfl rfl rfl rfl rfl
theorem steady_doneMove (s : State) (m : KvMove) : Steady s (doneMove s m) := (steady_moves ..).trans (steady_completeNum ..)

theorem steady_askPage (s : State) (ctx va : Nat) : Steady s (askPage s ctx va) := by
  unfold askPage
  simp only
  split
  · exact .refl s
  · exact steady_raise ..

theorem steady_endMove (s : State) (m : KvMove) (st : Nat) : Steady s (endMove s m st) := by
  have h := steady_writeVirt s (agentKve m.site) m.ctx m.status (leBytes 8 st) (engineNeed m.sup needW)
  unfold endMove
  split
  next hx =>
    rw [hx] at h
    exact h.trans (steady_doneMove ..)
  next hx =>
    rw [hx] at h
    split
    · exact (steady_moves ..).trans (steady_askPage ..)
    · exact (h.trans (steady_doneMove ..)).trans (steady_raise ..)

theorem steady_dropMove (s : State) (p : KvPool) (m : KvMove) (st : Nat) : Steady s (dropMove s p m st) :=
  (((steady_entGet ..).trans (steady_ringGive ..)).trans (steady_entPut ..)).trans (steady_endMove ..)

theorem steady_gatherDone (s : State) (g : KvGather) : Steady s (gatherDone s g) := by
  have h := (steady_poolGet s g.pool g.pool2).trans
    (steady_gathers _ ((poolGet s g.pool g.pool2).1.gathers.filter (fun x => x != g)))
  unfold gatherDone
  simp only
  split
  · exact h
  · refine (h.trans (steady_entGet _ (poolGet s g.pool g.pool2).2 g.blk)).trans (.trans ?_ (steady_tryFree ..))
    split
    · split
      · exact (steady_ringGive ..).trans (steady_entPut ..)
      · exact steady_entPut ..
    · exact .refl _

theorem steady_loadNumbers (s : State) (core : Nat) (l : ResLoad) : Steady s (loadNumbers s core l) := by
  have h := Steady.foldl (fun t n => steady_completeNum t l.ctx (4096 + s.siteOf core) n) (l.num.toList ++ l.also) s
  unfold loadNumbers
  simp only
  split <;> split
  · exact h
  · exact h.trans (steady_writeStatus ..)
  · exact h.trans (steady_updFed ..)
  · exact (h.trans (steady_writeStatus ..)).trans (steady_updFed ..)

theorem steady_stopEngines (s : State) (d : Nat) : Steady s (stopEngines s d) := by
  have h := Steady.foldl (fun t (c : Nat × Core) => Steady.foldl (fun u l => steady_loadNumbers u c.1 l) c.2.resl t)
    (s.cores.filter (fun c => s.siteOf c.1 = d)) s
  unfold stopEngines
  simp only
  refine (h.trans (Steady.foldl (fun t m => ?_) _ _)).trans (Steady.foldl steady_gatherDone _ _)
  split
  · exact (steady_doneMove ..).trans (steady_raise ..)
  · exact (steady_poolGet ..).trans (steady_dropMove ..)

/-! ### Requests in service -/

theorem steady_reply (s : State) (m : Msg) (k : MsgKind) (bytes : SMap Byte) : Steady s (reply s m k bytes) := steady_send ..

theorem steady_perform (s : State) (k : ReqKind) (m : Msg) (still : Bool) : Steady s (perform s k m still) := by
  have h0 := steady_dieAccess s m.dst (m.line / 64)
  have h1 := fun e => ((h0.trans (steady_touchHome _ m.dst m.line m.cls m.chain m.ef)).trans
    (steady_dirRoom _ m.dst m.line)).trans (steady_putDir _ m.dst m.line e)
  unfold perform
  cases k with
  | rd => exact (((h1 _).trans (steady_addPshr ..)).trans (steady_reply ..)).trans (steady_settleHome ..)
  | rfo | upg =>
    refine Steady.trans (((h1 (dirE m.src)).trans (steady_addPshr _ m.dst m.line m.src)).trans ?_) (steady_settleHome ..)
    split <;> exact steady_reply ..
  | wb => exact (h0.trans (steady_homePut ..)).trans (steady_retireEnt ..)
  | evn => exact steady_retireEnt ..
  | dirtyNotice =>
    simp only
    split
    · exact ((steady_dirRoom ..).trans (steady_lessDrop ..)).trans (steady_putDir ..)
    · split
      · exact steady_putDir ..
      · exact .refl s

theorem steady_hold (s : State) (m : Msg) (k : MsgKind) (l : List Nat) (disc : Bool) : Steady s (hold s m k l disc) :=
  (Steady.foldl (fun _ _ => steady_send ..) l s).trans (steady_updHome ..)

theorem steady_serveNow (s : State) (k : ReqKind) (m : Msg) : Steady s (serveNow s k m) := by
  unfold serveNow
  simp only
  split
  · exact steady_perform ..
  · exact steady_hold ..

theorem steady_net (s : State) (l : List Msg) : Steady s { s with net := l } := .of_eq rfl rfl rfl rfl rfl

/-- What the home does with the bytes of an answer, if any. -/
theorem steady_answerBytes (s : State) (a : Msg) :
    Steady s (if a.bytes.isEmpty then s else (homePut s a.line a.bytes none a.cls a.chain false).1) := by
  split
  · exact .refl s
  · exact steady_homePut ..

theorem steady_heldDone (s : State) (n : Nat) (h : Held) (k : ReqKind) : Steady s (heldDone s n h k) := by
  unfold heldDone
  simp only
  generalize hu : h.answers.foldl _ _ = u
  have hs : Steady s u := by
    rw [← hu]
    refine (steady_updHome s n _).trans (Steady.foldl (fun t a => ?_) h.answers _)
    split
    · exact (steady_answerBytes t a).trans (steady_takeEvicts ..)
    · exact steady_answerBytes t a
  refine hs.trans ?_
  split
  · exact steady_net ..
  · split
    · split
      · exact steady_serveNow ..
      · exact (steady_rebuild ..).trans (steady_serveNow ..)
    · exact steady_perform ..

end Sys2Proof.Machine
end

section
/-! The resets of the package and of its dies, and the links (O51); memory at reset (O59). -/

namespace Sys2Proof.Machine

/-! ### The reset of a die (08 Table 8-9) -/

theorem steady_lossRecord (s : State) (n line kind site inc : Nat) : Steady s (lossRecord s n line kind site inc) :=
  (steady_updHome ..).trans (steady_raise ..)

theorem steady_forgetDie (s : State) (d : Nat) : Steady s (forgetDie s d) :=
  Steady.foldl (fun _ _ => (steady_updHome ..).trans (Steady.foldl (fun _ _ => steady_lossRecord ..) _ _)) s.homes s

theorem steady_resolveHeld (s : State) (d : Nat) : Steady s (resolveHeld s d) := by
  refine Steady.foldl (fun t h => Steady.foldl (fun u x => ?_) h.2.held t) s.homes s
  split
  · exact steady_updHome ..
  · split
    · exact (steady_updHome ..).trans (Steady.foldl (fun _ _ => steady_answerBytes ..) x.answers _)
    · split
      · exact .refl u
      · simp only
        split
        · split
          · exact steady_heldDone ..
          · exact steady_updHome ..
        · exact steady_updHome ..

theorem steady_updLaunch (s : State) (l : Nat) (g : Launch → Launch) : Steady s (s.updLaunch l g) := by
  unfold State.updLaunch
  split
  · exact .refl s
  · exact steady_updFed ..

theorem steady_sendTokens (s : State) (l : Launch) (lid : Nat) (bid : W32) : Steady s (sendTokens s l lid bid) :=
  .of_eq rfl rfl rfl rfl rfl

theorem steady_lossFault (s : State) (lid : Nat) (bid : W32) : Steady s (lossFault s lid bid) := by
  unfold lossFault
  split
  · exact .refl s
  next l _ =>
    have h : Steady s (markLaunch s l lid (fun x => { x with lost := true })) := by
      unfold markLaunch
      simp only
      split
      · exact (steady_updLaunch ..).trans (steady_updLaunch ..)
      · exact steady_updLaunch ..
    exact (h.trans (steady_sendTokens ..)).trans (steady_raise ..)

theorem steady_tryComplete (s : State) (lid : Nat) : Steady s (tryComplete s lid) := by
  unfold tryComplete
  split
  · exact .refl s
  next l _ =>
    simp only
    split
    · exact .refl s
    · have h : ∀ v, Steady s (writeStatus (s.setLaunch lid { l with complete := true }) l.ctx l.status v lid) :=
        fun _ => .trans (steady_updFed ..) (steady_writeStatus ..)
      split
      · exact (h _).trans (steady_updFed ..)
      · exact h _

theorem steady_lostBlock (s : State) (lid : Nat) (bid : W32) : Steady s (lostBlock s lid bid) := by
  have h := ((steady_lossFault s lid bid).trans
    (steady_updLaunch _ lid (fun l => { l with running := l.running - 1, ended := l.ended + 1 }))).trans (steady_tryComplete _ lid)
  unfold lostBlock
  simp only
  split
  · exact h
  · split
    · exact h.trans (steady_tryComplete ..)
    · exact h

/-- The state of a die reset when the die is gone, before the homes and the launches take note of it. -/
def unplugged (s : State) (d : Nat) (alive : Bool) : State :=
  let s1 := s.updPkg (fun p => { p with online := p.online &&& ~~~siteBit d })
  let s2 : State := if alive then { s1 with mem := (s1.home d).lines.foldl (fun m e => memPutLine m e.1 e.2.data) s1.mem } else s1
  { s2.updHome d (fun h => { h with lines := [] }) with
    net := s2.net.filter (fun m => m.src != d && m.dst != d)
    clcs := s2.clcs.filter (fun c => c.1 / 34 != d)
    cores := s2.cores.map (fun c => if s2.siteOf c.1 = d then (c.1, resetCore c.2) else c)
    vm := { s2.vm with tlb := s2.vm.tlb.filter (fun t => !dieAgent s2 d t.agent)
                       rtlb := s2.vm.rtlb.filter (fun e => !dieAgent s2 d (e.1 / 64)) }
    dies := s2.dies.map (fun x => if x.1 = d then (x.1, { x.2 with rdc := [], waits := [] })
      else (x.1, { x.2 with waits := x.2.waits.filter (fun l => s2.homeOf l != d) })) }

theorem steady_dieReset (s : State) (d : Nat) (alive : Bool) :
    Steady (unplugged (stopEngines s d) d alive) (dieReset s d alive) := by
  unfold unplugged dieReset
  simp only
  refine Steady.trans ?_ (Steady.foldl (fun t (b : Nat × W32) => steady_lostBlock t b.1 b.2) _ _)
  refine Steady.trans ?_ (Steady.foldl (fun t b => ?_) _ _)
  · refine Steady.trans ?_ (steady_updFed ..)
    exact (steady_forgetDie ..).trans (steady_resolveHeld ..)
  · split
    · exact .refl t
    · exact steady_lossFault ..

@[simp] theorem getLsbD_siteBit {d : Nat} (e : Nat) (h : d < 8) : (siteBit d).getLsbD e = decide (e = d) := by
  simp only [siteBit, BitVec.getLsbD_shiftLeft, BitVec.getLsbD_one]
  grind

theorem unplugged_online (s : State) (d : Nat) (alive : Bool) :
    (unplugged s d alive).pkg.online = s.pkg.online &&& ~~~siteBit d := by
  cases alive <;> rfl

theorem unplugged_cores (s : State) (d : Nat) (alive : Bool) :
    (unplugged s d alive).cores = s.cores.map (fun c => if s.siteOf c.1 = d then (c.1, resetCore c.2) else c) := by
  cases alive <;> rfl

theorem unplugged_dies (s : State) (d : Nat) (alive : Bool) :
    (unplugged s d alive).dies = s.dies.map (fun x => if x.1 = d then (x.1, { x.2 with rdc := [], waits := [] })
      else (x.1, { x.2 with waits := x.2.waits.filter (fun l => s.homeOf l != d) })) := by
  cases alive <;> rfl

theorem onlineSite_unplugged (s : State) {d : Nat} (alive : Bool) (h : d < 8) : (unplugged s d alive).onlineSite d = false := by
  rw [State.onlineSite, unplugged_online, BitVec.getLsbD_and, BitVec.getLsbD_not, getLsbD_siteBit d h]
  simp

theorem rdc_unplugged (s : State) (d : Nat) (alive : Bool) : ((unplugged s d alive).die d).rdc = [] := by
  rw [State.die, mget, unplugged_dies, mfind_map _ _ (fun e => by split <;> rfl)]
  cases mfind s.dies d with
  | none => rfl
  | some x => simp

theorem core_unplugged {s : State} {d l : Nat} (alive : Bool) (h : s.siteOf l = d) :
    ((unplugged s d alive).core l).warps = [] ∧ ((unplugged s d alive).core l).blocks = [] := by
  rw [State.core, mget, unplugged_cores, mfind_map _ _ (fun c => by split <;> rfl)]
  cases mfind s.cores l with
  | none => exact ⟨rfl, rfl⟩
  | some c => simp [h, resetCore]

theorem dieReset_leaves_nothing (s : State) {d : Nat} (alive : Bool) (hd : d < 8) :
    (dieReset s d alive).onlineSite d = false ∧ ((dieReset s d alive).die d).rdc = [] ∧
      ∀ r, s.siteOf r.core = d → (dieReset s d alive).warp? r = none ∧ ∀ h, (dieReset s d alive).block? r.core h = none := by
  have hs := steady_dieReset s d alive
  refine ⟨?_, hs.rdc d (rdc_unplugged ..), fun r hr => ?_⟩
  · rw [hs.onlineSite, onlineSite_unplugged _ _ hd]
  · obtain ⟨hw, hb⟩ := core_unplugged alive (((steady_stopEngines s d).siteOf r.core).trans hr)
    refine ⟨?_, fun h => ?_⟩
    · rw [hs.warp, State.warp?, hw]
      rfl
    · rw [hs.block, State.block?, hb]
      rfl

theorem exec_dieReset_of_online {s : State} {d : Nat} (alive : Bool) (hd : d < 8) (ho : s.onlineSite d = true) :
    exec (.dieReset d alive) s = .next (dieReset s d alive) := by
  change execDieReset d alive s = _
  simp [execDieReset, hd, ho]

theorem exec_deadDieVerdict_of_silent {s : State} {d : Nat} (hd : d < 8) (ho : s.onlineSite d = true)
    (ht : (s.die d).beat + 2000 * usTicks ≤ s.ctl.time) : exec (.deadDieVerdict d) s = .next (dieReset s d false) := by
  change execDeadDieVerdict d s = _
  simp [execDeadDieVerdict, hd, ho, ht]

theorem exec_dieRejoin_of_ready {s : State} {d : Nat} (hp : s.pkg.passed.getLsbD d = true) (ho : s.onlineSite d = false) :
    ∃ t, exec (.dieRejoin d) s = .next t ∧ t.onlineSite d = true ∧ t.inc d = nextInc (s.inc d) ∧ (t.die d).beat = s.ctl.time := by
  refine ⟨_, rfl, ?_⟩
  rw [if_pos (by simp only [hp, ho, Bool.not_false, Bool.and_self]), die_updDie]
  refine ⟨?_, by simp [State.inc], rfl⟩
  simp [State.onlineSite, getLsbD_siteBit d (BitVec.lt_of_getLsbD hp), -BitVec.getLsbD_eq_getElem]

theorem exec_heartbeat_of_due {s : State} {d : Nat} (hd : d < 8) (ho : s.onlineSite d = true)
    (ht : (s.die d).beat + 100 * usTicks ≤ s.ctl.time)
    (hr : (reach (fun i => (s.link i).width != 0) 9 [8]).contains d = true) :
    ∃ t, exec (.heartbeat d) s = .next t ∧ (t.die d).beat = s.ctl.time := by
  refine ⟨_, rfl, ?_⟩
  rw [if_pos (by simp only [hd, ho, ht, hr, decide_true, Bool.and_self]), die_updDie]

/-! ### The reset of the package (01 R22) -/

theorem getLsbD_foldl_siteBit {l : List Nat} (d : Nat) (m : BitVec 8) (h : ∀ x ∈ l, x < 8) :
    (l.foldl (fun m i => m ||| siteBit i) m).getLsbD d = (m.getLsbD d || l.contains d) := by
  induction l generalizing m with
  | nil => simp
  | cons a t ih =>
    rw [List.foldl_cons, ih _ (fun x hx => h x (List.mem_cons_of_mem _ hx)), BitVec.getLsbD_or,
      getLsbD_siteBit d (h a List.mem_cons_self), List.contains_cons, Bool.or_assoc]
    rfl

theorem getLsbD_siteMask {l : List Nat} (d : Nat) (h : ∀ x ∈ l, x < 8) : (siteMask l).getLsbD d = l.contains d := by
  simp [siteMask, getLsbD_foldl_siteBit d _ h]

theorem link_packageReset (x : FReset) (s : State) {i : Nat} (hi : i < 18) :
    ((packageReset x s).link i).width = if x.down.getLsbD i then 0 else if x.half.getLsbD i then 1 else 2 := by
  have h : mfind (trainLinks x) i = some _ := mfind_map_key _ (List.mem_range.2 hi)
  change (mget { width := 0 } (trainLinks x) i).width = _
  rw [mget, h]
  rfl

theorem failed_packageReset (x : FReset) (s : State) : (packageReset x s).pkg.fw.failed = (bootFw s.pkg.fw).failed := by
  simp only [packageReset, State.updPkg_pkg]
  split <;> rfl

/-- The dies that pass are those that pass their self-test and have a path to the FED over the links that have trained. -/
theorem passed_packageReset {x : FReset} {s : State} {d : Nat} (hd : d < 8) (hf : (packageReset x s).pkg.fw.failed = false) :
    (packageReset x s).pkg.passed.getLsbD d =
      (x.selfTest.getLsbD d && (reach (fun i => ((packageReset x s).link i).width != 0) 9 [8]).contains d) := by
  rw [failed_packageReset] at hf
  change (siteMask (passOf x (trainLinks x) (bootFw s.pkg.fw).failed)).getLsbD d =
    (_ && (reach (fun i => (mget { width := 0 } (trainLinks x) i).width != 0) 9 [8]).contains d)
  rw [passOf, hf, if_neg Bool.false_ne_true, getLsbD_siteMask d (fun y hy => List.mem_range.1 (List.mem_filter.1 hy).1)]
  simp [hd]

/-! ### Links (08 R203, R205) -/

theorem link_updLink (s : State) (l k : Nat) (f : Link → Link) :
    (s.updLink l f).link k = if k = l then f (s.link l) else s.link k := by
  simp only [State.link, State.updLink_pkg, mget_mset]

theorem exec_linkSleep_of_idle {s : State} {l : Nat} (hw : (s.link l).width ≠ 0) (ha : (s.link l).asleep = false)
    (hl : (s.link l).lsleep ≠ 0) (ht : (s.link l).lastFlit + (s.link l).lsleep * usTicks ≤ s.ctl.time) :
    ∃ t, exec (.linkSleep l) s = .next t ∧ t.link l = { s.link l with asleep := true } ∧ ∀ k, k ≠ l → t.link k = s.link k := by
  refine ⟨_, rfl, ?_⟩
  rw [if_pos (by simp [hw, ha, hl, ht])]
  exact ⟨by rw [link_updLink, if_pos rfl], fun k hk => by rw [link_updLink, if_neg hk]⟩

theorem exec_linkWake_of_waited {s : State} {l : Nat} (ha : (s.link l).asleep = true)
    (hn : s.net.any (fun m => (route s m.src m.dst).contains l) = true) :
    ∃ t, exec (.linkWake l) s = .next t ∧ t.link l = { s.link l with asleep := false, lastFlit := s.ctl.time } := by
  refine ⟨_, rfl, ?_⟩
  rw [if_pos (by rw [ha, hn]; rfl), link_updLink, if_pos rfl]

/-- The snoop of a number is sent once more now. -/
def snoopAgain (s : State) (id : Nat) : State :=
  { s with net := s.net.map (fun x => if x.id = id then { x with retried := true, time := s.ctl.time } else x) }

theorem exec_linkWakeTimeout_of_snoop {s : State} {id : Nat} {m : Msg} (hm : s.net.find? (fun m => m.id = id) = some m)
    (hk : m.kind = .discovery ∨ m.kind = .snoop true ∨ m.kind = .snoop false) (hr : routeOpen s m = false) :
    exec (.linkWakeTimeout id) s = .next (if s.ctl.time < m.time + 50 * usTicks then s
      else if m.retried then (snoopAgain s id).raise (.linkWake m.line)
      else (snoopAgain s id).updHome m.src (fun h => { h with wakes := h.wakes ++ [m.line] })) := by
  change execLinkWakeTimeout id s = _
  simp only [execLinkWakeTimeout, hm]
  rcases hk with hk | hk | hk <;> simp [hk, hr, snoopAgain]

theorem retried_of_mem_snoopAgain {s : State} {id : Nat} {y : Msg} (hy : y ∈ (snoopAgain s id).net) (hi : y.id = id) :
    y.retried = true ∧ y.time = s.ctl.time := by
  obtain ⟨x, _, rfl⟩ := List.mem_map.1 hy
  by_cases h : x.id = id
  · rw [if_pos h]
    exact ⟨rfl, rfl⟩
  · rw [if_neg h] at hi
    exact absurd hi h

/-- What the failure of a link does with a packet of the network: whether one that crosses it is lost, a free value decides. -/
def failPacket (s : State) (l : Nat) (r : State × List Msg) (m : Msg) : State × List Msg :=
  if (route s m.src m.dst).contains l then
    let b := r.1.freeByte
    (b.2, if b.1.getLsbD 0 then r.2 else r.2 ++ [m])
  else (r.1, r.2 ++ [m])

/-- A packet that is left was there, and one that does not cross the link is left. -/
theorem mem_foldl_failPacket (s : State) (l : Nat) (ms : List Msg) (r : State × List Msg) :
    (∀ m ∈ (ms.foldl (failPacket s l) r).2, m ∈ r.2 ∨ m ∈ ms) ∧
      (∀ m ∈ r.2, m ∈ (ms.foldl (failPacket s l) r).2) ∧
      ∀ m ∈ ms, (route s m.src m.dst).contains l = false → m ∈ (ms.foldl (failPacket s l) r).2 := by
  induction ms generalizing r with
  | nil => simp
  | cons a t ih =>
    obtain ⟨h1, h2, h3⟩ := ih (failPacket s l r a)
    have ha : ∀ m ∈ (failPacket s l r a).2, m ∈ r.2 ∨ m = a := by grind [failPacket]
    have hk : ∀ m ∈ r.2, m ∈ (failPacket s l r a).2 := by grind [failPacket]
    have hc : (route s a.src a.dst).contains l = false → a ∈ (failPacket s l r a).2 := by grind [failPacket]
    refine ⟨fun m hm => ?_, fun m hm => h2 m (hk m hm), fun m hm hr => ?_⟩
    · rcases h1 m hm with h | h
      · exact (ha m h).imp_right (by rintro rfl; exact List.mem_cons_self)
      · exact .inr (List.mem_cons_of_mem _ h)
    · rcases List.mem_cons.1 hm with rfl | h
      · exact h2 m (hc hr)
      · exact h3 m h hr

theorem exec_linkFailure_of_up {s : State} {l : Nat} (hw : (s.link l).width ≠ 0) :
    ∃ t, exec (.linkFailure l) s = .next t ∧ (t.link l).width = 0 ∧ t.pkg.rerouted = true ∧ (∀ m ∈ t.net, m ∈ s.net) ∧
      ∀ m ∈ s.net, (route s m.src m.dst).contains l = false → m ∈ t.net := by
  obtain ⟨h1, _, h3⟩ := mem_foldl_failPacket s l s.net (s, [])
  refine ⟨_, rfl, ?_⟩
  rw [if_neg hw]
  refine ⟨?_, rfl, fun m hm => (h1 m hm).resolve_left List.not_mem_nil, h3⟩
  simp only [State.link, State.updPkg_pkg, State.updLink_pkg, mget_mset_same]

/-- Settles O51: each clause is a lemma above on the event that it speaks of. -/
theorem diesAndLinks : Obligations.DiesAndLinks := by
  refine ⟨fun s x => ⟨packageReset x s, rfl, rfl, rfl, rfl, rfl, rfl, rfl, rfl,
      fun d hd hf => passed_packageReset hd hf, fun i hi => link_packageReset x s hi⟩,
    fun s d hd ho ht hr => exec_heartbeat_of_due hd ho ht hr, ?_,
    fun s d hp ho => exec_dieRejoin_of_ready hp ho, fun s l hw ha hl ht => exec_linkSleep_of_idle hw ha hl ht,
    fun s l ha hn => exec_linkWake_of_waited ha hn, fun s id m hm hk hr => ?_, fun s l hw => exec_linkFailure_of_up hw⟩
  · rintro s d i hd ho (rfl | rfl | ⟨rfl, ht⟩)
    · exact ⟨_, exec_dieReset_of_online true hd ho, dieReset_leaves_nothing s true hd⟩
    · exact ⟨_, exec_dieReset_of_online false hd ho, dieReset_leaves_nothing s false hd⟩
    · exact ⟨_, exec_deadDieVerdict_of_silent hd ho ht, dieReset_leaves_nothing s false hd⟩
  · rw [exec_linkWakeTimeout_of_snoop hm hk hr]
    refine ⟨fun ht => by rw [if_pos ht], fun ht hn => ?_, fun ht hn => ?_⟩
    · rw [if_neg (Nat.not_lt.2 ht), hn]
      exact ⟨_, rfl, by rw [if_neg (by decide), home_updHome]; rfl, fun y hy hi => retried_of_mem_snoopAgain hy hi⟩
    · rw [if_neg (Nat.not_lt.2 ht), if_pos hn]
      exact ⟨_, rfl, rfl⟩

/-- Settles O59: memory lists nothing at reset. -/
theorem resetInvariant : Obligations.ResetInvariant := ⟨rfl, rfl⟩

end Sys2Proof.Machine
end

section
/-! Divergence of a warp and its join (O14). -/

namespace Sys2Proof.Machine

/-- A trap outside a halt's skid is taken with the cause and mask that the meaning gives; `TDOP` alone may be filled in (10 R239). -/
theorem issue_trap_cause {i : Instr} {s t : State} {e : Env} {body : Env → State → Res} {q : TrapReq} (h : ready i s = some e)
    (hs : e.w.skid = none) (hb : body e s = .trap t q) :
    ∃ q1, issue i s body = takeTrap t e.r q1 ∧ q1.cause = q.cause ∧ q1.mask = q.mask := by
  obtain ⟨raw, -, hi⟩ := issue_ready (body := body) h
  rw [hi, hb]
  have hd : ∀ l b n o v, (withDops l q b n o v).cause = q.cause ∧ (withDops l q b n o v).mask = q.mask := by
    intro l b n o v
    unfold withDops
    split <;> exact ⟨rfl, rfl⟩
  simp only [finish, hs, Option.isSome_none, Bool.false_and, Bool.false_eq_true, if_false]
  exact ⟨_, rfl, hd _ _ _ _ _⟩

/-- A jump of an instruction that changes its own warp to `w1` only. -/
theorem issue_jump_setWarp {i : Instr} {s : State} {e : Env} {body : Env → State → Res} {w1 : Warp} {pc : VAddr}
    (h : ready i s = some e) (hb : body e s = .jump (s.setWarp e.r w1) pc) : issue i s body = retiredAt s e w1 pc := by
  rw [issue_jump h hb (warp?_setWarp ..), retiredAt, setWarp_setWarp, State.setWarp_ctl]

/-! ### `BRC` (18 R344) -/

/-- The lanes of a warp for which a `BRC` over p[n] is taken. -/
def brcTaken (x : FBrc) (n : Fin 8) (w : Warp) : Mask := w.exec &&& (if x.inv then ~~~(w.getP n.val) else w.getP n.val)

/-- The other active lanes. -/
def brcOther (x : FBrc) (n : Fin 8) (w : Warp) : Mask := w.exec &&& ~~~(if x.inv then ~~~(w.getP n.val) else w.getP n.val)

/-- The join that a `BRC` pushes. -/
def brcJoin (x : FBrc) (w : Warp) : StackEnt := { pc := pcAdd (pcOff w.pc x.join) 8, mask := w.exec, fmt := w.fmt }

/-- What `BRC` does, by the lanes on its two sides. -/
def brcRes (x : FBrc) (n : Fin 8) (e : Env) (s : State) : Res :=
  let split := brcTaken x n e.w != 0#32 && brcOther x n e.w != 0#32
  if e.w.stack.length + (if split then 2 else 1) > 32 then .trap s { cause := 5, mask := e.w.exec }
  else if split then .jump (s.setWarp e.r { e.w with
      stack := { pc := pcAdd e.w.pc 16, mask := brcOther x n e.w, fmt := e.w.fmt } :: brcJoin x e.w :: e.w.stack
      exec := brcTaken x n e.w }) (pcOff e.w.pc x.target)
  else .jump (s.setWarp e.r { e.w with stack := brcJoin x e.w :: e.w.stack })
    (if brcOther x n e.w = 0#32 then pcOff e.w.pc x.target else pcAdd e.w.pc 16)

theorem execBrc_eq {x : FBrc} {n : Fin 8} (hp : x.p = .p n) (s : State) :
    execBrc x s = .next (issue (.brc x) s (brcRes x n)) := by
  unfold execBrc
  rw [hp]
  rfl

section
variable {x : FBrc} {n : Fin 8} {s : State} {e : Env} (hp : x.p = .p n) (h : ready (.brc x) s = some e)
include hp h

theorem exec_brc_split (ht : brcTaken x n e.w ≠ 0#32) (ho : brcOther x n e.w ≠ 0#32) (hl : e.w.stack.length ≤ 30) :
    exec (.brc x) s = .next (retiredAt s e { e.w with
      stack := { pc := pcAdd e.w.pc 16, mask := brcOther x n e.w, fmt := e.w.fmt } :: brcJoin x e.w :: e.w.stack
      exec := brcTaken x n e.w } (pcOff e.w.pc x.target)) := by
  refine (execBrc_eq hp s).trans (congrArg _ (issue_jump_setWarp h ?_))
  have hr : ¬ e.w.stack.length + 2 > 32 := by omega
  simp [brcRes, ht, ho, hr]

theorem exec_brc_join {pc : VAddr} (hn : brcTaken x n e.w = 0#32 ∨ brcOther x n e.w = 0#32) (hl : e.w.stack.length ≤ 31)
    (hpc : pc = if brcOther x n e.w = 0#32 then pcOff e.w.pc x.target else pcAdd e.w.pc 16) :
    exec (.brc x) s = .next (retiredAt s e { e.w with stack := brcJoin x e.w :: e.w.stack } pc) := by
  refine (execBrc_eq hp s).trans (congrArg _ (issue_jump_setWarp h ?_))
  have hr : ¬ e.w.stack.length + 1 > 32 := by omega
  have hs : (brcTaken x n e.w != 0#32 && brcOther x n e.w != 0#32) = false := by rcases hn with hn | hn <;> simp [hn]
  simp [brcRes, hs, hr, hpc]

theorem exec_brc_overflow (hs : e.w.skid = none)
    (hl : 32 < e.w.stack.length + (if brcTaken x n e.w ≠ 0#32 ∧ brcOther x n e.w ≠ 0#32 then 2 else 1)) :
    ∃ q, exec (.brc x) s = .next (takeTrap s e.r q) ∧ q.cause = 5 ∧ q.mask = e.w.exec := by
  have hb : brcRes x n e s = .trap s { cause := 5, mask := e.w.exec } := by
    have hl' : e.w.stack.length + (if brcTaken x n e.w != 0#32 && brcOther x n e.w != 0#32 then 2 else 1) > 32 := by simpa using hl
    simp only [brcRes]
    rw [if_pos hl']
  obtain ⟨q, hq, hc, hm⟩ := issue_trap_cause h hs hb
  exact ⟨q, (execBrc_eq hp s).trans (congrArg _ hq), hc, hm⟩

end

/-! ### `JOIN` (20 R386) -/

/-- What `JOIN` does, by the stack. -/
def joinRes (e : Env) (s : State) : Res :=
  match e.w.stack with
  | [] => .trap s { cause := 6, mask := e.w.exec }
  | t :: st =>
    if e.w.level > 0 && e.w.stack.length = levelDepth e.w then .trap s { cause := 6, mask := e.w.exec }
    else .jump (s.setWarp e.r ({ e.w with stack := st, fmt := t.fmt } |>.setExec t.mask)) t.pc

theorem execJoin_eq (s : State) : execJoin s = .next (issue .join s joinRes) := rfl

theorem joinRes_pop {e : Env} {top : StackEnt} {below : List StackEnt} (s : State) (hst : e.w.stack = top :: below)
    (hd : e.w.level = 0 ∨ e.w.stack.length ≠ levelDepth e.w) :
    joinRes e s = .jump (s.setWarp e.r { e.w with stack := below, fmt := top.fmt, exec := top.mask &&& ~~~e.w.exited }) top.pc := by
  rw [hst] at hd
  have hn : (decide (e.w.level > 0) && decide ((top :: below).length = levelDepth e.w)) = false := by
    rcases hd with hd | hd <;> simp only [hd, Nat.lt_irrefl, decide_false, Bool.and_false, Bool.false_and, gt_iff_lt]
  simp only [joinRes, hst, hn, Bool.false_eq_true, if_false, Warp.setExec]

theorem joinRes_underflow {e : Env} (s : State) (hd : e.w.stack = [] ∨ 0 < e.w.level ∧ e.w.stack.length = levelDepth e.w) :
    joinRes e s = .trap s { cause := 6, mask := e.w.exec } := by
  unfold joinRes
  split
  · rfl
  next t st hst =>
    obtain ⟨h0, hl⟩ := hd.resolve_left (by simp [hst])
    simp [h0, hl]

theorem exec_join_pop {s : State} {e : Env} {top : StackEnt} {below : List StackEnt} (h : ready .join s = some e)
    (hst : e.w.stack = top :: below) (hd : e.w.level = 0 ∨ e.w.stack.length ≠ levelDepth e.w) :
    exec .join s = .next (retiredAt s e { e.w with stack := below, fmt := top.fmt, exec := top.mask &&& ~~~e.w.exited } top.pc) :=
  (execJoin_eq s).trans (congrArg _ (issue_jump_setWarp h (joinRes_pop s hst hd)))

theorem exec_join_underflow {s : State} {e : Env} (h : ready .join s = some e) (hs : e.w.skid = none)
    (hd : e.w.stack = [] ∨ 0 < e.w.level ∧ e.w.stack.length = levelDepth e.w) :
    ∃ q, exec .join s = .next (takeTrap s e.r q) ∧ q.cause = 6 ∧ q.mask = e.w.exec := by
  obtain ⟨q, hq, hc, hm⟩ := issue_trap_cause h hs (joinRes_underflow s hd)
  exact ⟨q, (execJoin_eq s).trans (congrArg _ hq), hc, hm⟩

/-- Settles O14: the cases of `BRC` by the lanes on its two sides and the depth of the stack, and those of `JOIN` by the stack. -/
theorem divergence : Obligations.Divergence := by
  refine ⟨fun x n s e hp h => ⟨exec_brc_split hp h, fun ho hl => ?_, fun ht ho hl => ?_, exec_brc_overflow hp h⟩,
    fun s e top below => exec_join_pop, fun s e => exec_join_underflow⟩
  · exact exec_brc_join hp h (.inr ho) hl (if_pos ho).symm
  · exact exec_brc_join hp h (.inl ht) hl (if_neg ho).symm

end Sys2Proof.Machine
end

section
/-! What the accesses of engines and of the CP, the logs and the free values leave alone: the launches, the warps and the blocks. -/

namespace Sys2Proof.Machine

/-! ### Cores, warps and blocks read back -/

theorem core_updCore (s : State) (l k : Nat) (f : Core → Core) : (s.updCore l f).core k = if k = l then f (s.core l) else s.core k := by
  simp only [State.core, State.updCore_cores, mget_mset]

/-- An update of a core that keeps its warps. -/
theorem warp?_updCore (s : State) (l : Nat) (f : Core → Core) (r : WRef) (hf : (f (s.core l)).warps = (s.core l).warps) :
    (s.updCore l f).warp? r = s.warp? r := by
  simp only [State.warp?, core_updCore]
  split
  next h => rw [hf, h]
  next => rfl

/-- An update of a core that keeps its blocks. -/
theorem block?_updCore (s : State) (l : Nat) (f : Core → Core) (k h : Nat) (hf : (f (s.core l)).blocks = (s.core l).blocks) :
    (s.updCore l f).block? k h = s.block? k h := by
  simp only [State.block?, core_updCore]
  split
  next h => rw [hf, h]
  next => rfl

@[simp] theorem warp?_setBlock (s : State) (l h : Nat) (b : Block) (r : WRef) : (s.setBlock l h b).warp? r = s.warp? r :=
  warp?_updCore _ _ _ _ rfl

theorem block?_setBlock (s : State) (l h k j : Nat) (b : Block) :
    (s.setBlock l h b).block? k j = if k = l ∧ j = h then some b else s.block? k j := by
  simp only [State.block?, State.setBlock, core_updCore]
  by_cases hk : k = l
  · simp only [hk, if_true, true_and, mfind_mset]
  · simp only [hk, if_false, false_and]

@[simp] theorem block?_setBlock_same (s : State) (l h : Nat) (b : Block) : (s.setBlock l h b).block? l h = some b := by
  simp [block?_setBlock]

@[simp] theorem warp?_updBlock (s : State) (l h : Nat) (f : Block → Block) (r : WRef) : (s.updBlock l h f).warp? r = s.warp? r := by
  unfold State.updBlock
  split
  · rfl
  · exact warp?_setBlock ..

theorem block?_updBlock_same {s : State} {l h : Nat} {b : Block} (f : Block → Block) (hb : s.block? l h = some b) :
    (s.updBlock l h f).block? l h = some (f b) := by
  simp [State.updBlock, hb]

theorem warp?_updWarp_same {s : State} {r : WRef} {w : Warp} (f : Warp → Warp) (hw : s.warp? r = some w) :
    (s.updWarp r f).warp? r = some (f w) := by
  rw [updWarp_of _ _ _ _ hw, warp?_setWarp]

theorem warp?_updWarp_other (s : State) {r q : WRef} (f : Warp → Warp) (h : q ≠ r) : (s.updWarp r f).warp? q = s.warp? q := by
  unfold State.updWarp
  split
  · rfl
  · exact warp?_setWarp_other _ _ _ _ h

@[simp] theorem block?_updWarp (s : State) (r : WRef) (f : Warp → Warp) (l h : Nat) : (s.updWarp r f).block? l h = s.block? l h := by
  unfold State.updWarp
  split
  · rfl
  · exact block?_setWarp ..

/-! ### States with the same launches, warps and blocks -/

/-- The launches, the warps and the blocks of `t` are those of `s`. -/
structure SameWork (s t : State) : Prop where
  fed : t.fed = s.fed
  warp : ∀ r, t.warp? r = s.warp? r
  block : ∀ l h, t.block? l h = s.block? l h

theorem SameWork.refl (s : State) : SameWork s s := ⟨rfl, fun _ => rfl, fun _ _ => rfl⟩

theorem SameWork.trans {s t u : State} (h : SameWork s t) (g : SameWork t u) : SameWork s u :=
  ⟨g.fed.trans h.fed, fun r => (g.warp r).trans (h.warp r), fun l k => (g.block l k).trans (h.block l k)⟩

theorem SameWork.foldl {β : Type} {f : State → β → State} (h : ∀ s x, SameWork s (f s x)) (l : List β) (s : State) :
    SameWork s (l.foldl f s) := by
  induction l generalizing s with
  | nil => exact .refl s
  | cons a t ih => exact (h s a).trans (ih _)

/-- A fold that carries a result beside the state. -/
theorem SameWork.foldl_fst {β γ : Type} {f : State × γ → β → State × γ} (h : ∀ r x, SameWork r.1 (f r x).1) (l : List β)
    (r : State × γ) : SameWork r.1 (l.foldl f r).1 := by
  induction l generalizing r with
  | nil => exact .refl r.1
  | cons a t ih => exact (h r a).trans (ih _)

theorem Quiet.sameWork {s t : State} (h : Quiet s t) : SameWork s t := ⟨h.fed, h.warp, h.block⟩

theorem SameWork.launch? {s t : State} (h : SameWork s t) (l : Nat) : t.launch? l = s.launch? l := by
  simp only [State.launch?, h.fed]

theorem sameWork_updCtl (s : State) (f : Ctl → Ctl) : SameWork s (s.updCtl f) := ⟨rfl, fun _ => rfl, fun _ _ => rfl⟩

theorem sameWork_freeByte (s : State) : SameWork s s.freeByte.2 :=
  sameWork_updCtl s (fun c => { c with free := c.free + 1 })

theorem sameWork_freeBytes (n : Nat) (s : State) : SameWork s (freeBytes n s).1 := by
  induction n generalizing s with
  | zero => exact .refl s
  | succ n ih => exact (sameWork_freeByte s).trans (ih _)

theorem sameWork_stackError (s : State) (pa kind : Nat) : SameWork s (stackError s pa kind) := by
  unfold stackError
  split
  · split
    · exact sameWork_updCtl ..
    · exact .refl s
  · split
    · exact .refl s
    · exact (quiet_updDie ..).sameWork.trans (sameWork_updCtl ..)

theorem sameWork_logOutcome (s : State) (pa : Nat) (out : SegOutcome) : SameWork s (logOutcome s pa out) := by
  unfold logOutcome
  split
  · exact .refl s
  · exact sameWork_stackError ..
  · exact sameWork_stackError ..
  · split
    · exact sameWork_stackError ..
    · exact .refl s

/-! ### Accesses by virtual address -/

theorem quiet_writeVirtE (s : State) (agent ctx va : Nat) (l : List Byte) (need : BitVec 4) (chain : Nat) (ef : Bool) :
    Quiet s (writeVirtE s agent ctx va l need chain ef).1 := by
  refine Quiet.foldl_fst (fun r p => ?_) _ (s, none)
  obtain ⟨t, _ | e⟩ := r
  · have h := quiet_engineXlat t agent ctx p.1 need true
    simp only
    split
    next hx => rwa [hx] at h
    next hx =>
      rw [hx] at h
      exact h.trans (quiet_writePhysE ..)
  · exact .refl t

theorem quiet_writeVirt (s : State) (agent ctx va : Nat) (l : List Byte) (need : BitVec 4) :
    Quiet s (writeVirt s agent ctx va l need).1 := quiet_writeVirtE ..

theorem sameWork_writeFree (s : State) (agent ctx va n : Nat) (need : BitVec 4) (chain : Nat) :
    SameWork s (writeFree s agent ctx va n need chain) :=
  SameWork.foldl (fun _ _ => (sameWork_freeBytes ..).trans (quiet_writeVirtE ..).sameWork) _ _

end Sys2Proof.Machine
end

section
/-! The events of the queue loads and of the copy engines (O49). -/

namespace Sys2Proof.Machine

/-! ### The lanes of a queue load (20 R406) -/

theorem quiet_checkG (s : State) (r : WRef) (ctx : Nat) (need : BitVec 4) (wr : Bool) (lane a w : Nat) :
    Quiet s (checkG s r ctx need wr lane a w).1 := by
  have h := quiet_translate s r.core ctx a need wr
  unfold checkG
  split
  · exact .refl s
  · split
    · exact .refl s
    · split
      next hx => rwa [hx] at h
      next hx =>
        rw [hx] at h
        simp only
        split <;> exact h

theorem quiet_readFill (s : State) (core pa n : Nat) (c : Cache) : Quiet s (readFill s core pa n c) := by
  unfold readFill
  split
  · unfold l1Hit
    split
    · exact .refl s
    · exact quiet_setL1 ..
  · exact quiet_clcHit ..

theorem quiet_qldLane (s : State) (r : WRef) (w : Warp) (b : Block) (o : LoadOp) (sx : Bool) (a : LaneAcc) :
    Quiet s (qldLane s r w b o sx a).1 := by
  have h := quiet_checkG s r b.ctx (if o.pt.lvl ≥ 2 then needR else needR ||| needU) false a.lane a.va a.w
  unfold qldLane
  simp only
  split
  · split <;> exact .refl s
  · split
    next hx => rwa [hx] at h
    next hx =>
      rw [hx] at h
      split
      · exact h
      · split
        · exact h.trans (quiet_readFill ..)
        · exact h

theorem quiet_qldLanes (s : State) (r : WRef) (w : Warp) (b : Block) (o : LoadOp) (sx : Bool) :
    Quiet s (qldLanes s r w b o sx).1 := by
  refine Quiet.foldl_fst (fun z a => ?_) _ (s, ({} : QldLanes))
  have h := quiet_qldLane z.1 r w b o sx a
  split <;> next hx => rwa [hx] at h

/-! ### `QLD_FILL` (20 R406) -/

/-- The warp without a queue load. -/
def dropLoad (op : Nat) (v : Warp) : Warp := { v with loads := v.loads.filter (fun y => y.id != op) }

/-- The warp whose queue `q` has its reserved entry filled with what the lanes bound. -/
def fillEntry (q op : Nat) (vals : List (Nat × W32)) (v : Warp) : Warp :=
  { v with q := mput [] v.q q ((mget [] v.q q).map (fun y => if y.id = op then
      { y with filled := true, data := vals.foldl (fun m e => mset m e.1 e.2) y.data } else y)) }

/-- The fault makes a queue load wait for Tchidal. -/
def pageFault (f : LaneFault) : Bool := f.cause = 15 || f.cause = 16

theorem laneTrap_isSome {l : List LaneFault} (h : l ≠ []) (asH : Bool) : ∃ t, laneTrap l asH = some t := by
  cases l with
  | nil => exact absurd rfl h
  | cons a t => exact ⟨_, rfl⟩

section
variable {s : State} {core slot op : Nat} {out : SegOutcome} {w : Warp} {o : LoadOp} {b : Block} {t q : Nat} {sx : Bool}
  (hw : s.warp? { core := core, slot := slot } = some w) (ho : w.loads.find? (fun o => o.id = op) = some o)
  (hb : s.block? core w.blk = some b) (hd : o.dest = .queue t q sx) (hout : ∀ c, out ≠ .failed c)
include hw ho hb hd hout

theorem exec_qldFill_of_bound (hf : (qldLanes s { core := core, slot := slot } w b o sx).2.faults = [])
    (hwh : (qldLanes s { core := core, slot := slot } w b o sx).2.whole = true) :
    let z := qldLanes s { core := core, slot := slot } w b o sx
    exec (.qldFill core slot op out) s = .next
      (((z.2.pas.foldl (fun s p => logOutcome s p out) z.1).updWarp { core := core, slot := slot } (dropLoad op)).updWarp
        { core := core, slot := t } (fillEntry q op z.2.vals)) := by
  show execQldFill core slot op out s = _
  cases out with
  | failed c => exact absurd rfl (hout c)
  | _ =>
    simp only [execQldFill, hw, ho, hb, hd, hf, hwh, Bool.not_true, Bool.false_eq_true, if_false]
    rfl

theorem exec_qldFill_of_fault (hf : (qldLanes s { core := core, slot := slot } w b o sx).2.faults ≠ []) :
    let z := qldLanes s { core := core, slot := slot } w b o sx
    exec (.qldFill core slot op out) s = .next (if z.2.faults.all pageFault then z.2.faults.foldl (fun s f => askPage s b.ctx f.addr) s
      else match laneTrap (z.2.faults.filter (fun f => !pageFault f)) true with
        | none => z.1
        | some tr => lateTrap (z.1.updWarp { core := core, slot := slot } (dropLoad op)) { core := core, slot := slot } o.pt tr) := by
  show execQldFill core slot op out s = _
  obtain ⟨f, l, hl⟩ := List.exists_cons_of_ne_nil hf
  cases out with
  | failed c => exact absurd rfl (hout c)
  | _ =>
    simp only [execQldFill, hw, ho, hb, hd, hl]
    rfl

theorem exec_qldFill_of_page (hf : (qldLanes s { core := core, slot := slot } w b o sx).2.faults ≠ [])
    (hp : (qldLanes s { core := core, slot := slot } w b o sx).2.faults.all pageFault = true) :
    exec (.qldFill core slot op out) s = .next
      ((qldLanes s { core := core, slot := slot } w b o sx).2.faults.foldl (fun s f => askPage s b.ctx f.addr) s) := by
  rw [exec_qldFill_of_fault hw ho hb hd hout hf, if_pos hp]

theorem exec_qldFill_of_trap (hf : (qldLanes s { core := core, slot := slot } w b o sx).2.faults ≠ [])
    (hp : (qldLanes s { core := core, slot := slot } w b o sx).2.faults.all pageFault = false) :
    ∃ y tr, exec (.qldFill core slot op out) s = .next (lateTrap y { core := core, slot := slot } o.pt tr) ∧
      laneTrap ((qldLanes s { core := core, slot := slot } w b o sx).2.faults.filter (fun f => !pageFault f)) true = some tr := by
  obtain ⟨f, hm, hn⟩ := List.all_eq_false.1 hp
  have hne := List.ne_nil_of_mem (List.mem_filter (p := fun f => !pageFault f).2 ⟨hm, congrArg not (Bool.eq_false_iff.2 hn)⟩)
  obtain ⟨tr, htr⟩ := laneTrap_isSome hne true
  rw [exec_qldFill_of_fault hw ho hb hd hout hf, if_neg (Bool.eq_false_iff.1 hp), htr]
  exact ⟨_, tr, rfl, rfl⟩

end

/-! ### The bytes of a segment (06 R148) -/

theorem quiet_tagLines (s : State) (x : Xlat) (n chain : Nat) (ef : Bool) : Quiet s (tagLines s x n chain ef) :=
  Quiet.foldl (fun _ _ => (quiet_touchHome ..).trans (quiet_settleHome ..)) _ _

theorem sameWork_segBytes (s : State) (c : CopyOp) (g : Seg) (l : List Byte) : SameWork s (segBytes s c g l).1 := by
  unfold segBytes
  split
  · exact .refl s
  · refine SameWork.foldl_fst (fun r i => ?_) _ (s, ([] : List Byte))
    simp only
    split
    · exact sameWork_freeByte ..
    · exact .refl _

theorem warp?_segFail (s : State) (core h : Nat) (b : Block) (sup : Bool) (g : Seg) (r : WRef) :
    (segFail s core h b sup g).warp? r = s.warp? r := by
  unfold segFail
  split
  · exact (warp?_updBlock ..).trans ((sameWork_freeBytes ..).warp r)
  · exact (sameWork_writeFree ..).warp r

theorem sameWork_segLog (s : State) (ag : Nat) (b : Block) (c : CopyOp) (g : Seg) (dst : Bool) (out : SegOutcome) :
    SameWork s (segLog s ag b c g dst out) := by
  unfold segLog
  simp only
  split
  · exact .refl s
  · exact sameWork_logOutcome ..

theorem segLog_done (s : State) (ag : Nat) (b : Block) (c : CopyOp) (g : Seg) (dst : Bool) : segLog s ag b c g dst .done = s := by
  unfold segLog
  simp only
  split <;> rfl

theorem segLog_of_xlat {s s1 : State} {ag : Nat} {b : Block} {c : CopyOp} {g : Seg} {dst : Bool} {x : Xlat} (out : SegOutcome)
    (h : let w := g.srcS || dst && !g.dstS
      engineXlat s ag b.ctx (if w then g.dst else g.src) (engineNeed c.sup (if w then needW else needR)) w = (s1, .inr x)) :
    segLog s ag b c g dst out = logOutcome s x.pa out := by
  unfold segLog
  simp only at h ⊢
  cases hw : (g.srcS || dst && !g.dstS) <;> simp only [hw, Bool.false_eq_true, if_false, if_true] at h ⊢ <;> rw [h]

/-! ### The move of a segment (06 R148, R149) -/

/-- The bytes of a segment as its source gives them, or the cause that keeps them from being read. -/
def segRead (s : State) (core : Nat) (b : Block) (c : CopyOp) (g : Seg) : State × (Nat ⊕ List Byte) :=
  if g.srcS then (s, .inr (getBytes b.scr g.src g.len))
  else match engineXlat s (agentCopy (s.siteOf core)) b.ctx g.src (engineNeed c.sup needR) false with
    | (s1, .inl e) => (s1, .inl e)
    | (s1, .inr x) =>
      let q := readPhys s1 x.pa g.len
      (tagLines q.1 x g.len (chainOf s b) c.ef, .inr q.2)

theorem quiet_segRead (s : State) (core : Nat) (b : Block) (c : CopyOp) (g : Seg) : Quiet s (segRead s core b c g).1 := by
  have h := quiet_engineXlat s (agentCopy (s.siteOf core)) b.ctx g.src (engineNeed c.sup needR) false
  unfold segRead
  split
  · exact .refl s
  · split
    next hx => rwa [hx] at h
    next hx =>
      rw [hx] at h
      exact (h.trans (quiet_readPhys ..)).trans (quiet_tagLines ..)

/-- The bytes that have been read are written. -/
def segWrite (s : State) (core h : Nat) (b : Block) (c : CopyOp) (g : Seg) (chain : Nat) (ag : Nat) (l : List Byte) :
    Option (State × Option Nat) :=
  let f := segBytes s c g l
  if g.dstS then some (f.1.updBlock core h (fun b => { b with scr := putBytes b.scr (bytesAt g.dst f.2) }), none)
  else match writeVirtE f.1 ag b.ctx g.dst f.2 (engineNeed c.sup needW) chain c.ef with
    | (s2, none) => some (s2, none)
    | (s2, some e) => if e = 15 then none else some (segFail s2 core h b c.sup g, some e)

theorem segMove_eq (s : State) (core h : Nat) (b : Block) (c : CopyOp) (g : Seg) :
    segMove s core h b c g =
      if !(g.srcS || virtIdle s (agentCopy (s.siteOf core)) b.ctx g.src g.len (engineNeed c.sup needR) false) ||
          !(g.dstS || virtIdle s (agentCopy (s.siteOf core)) b.ctx g.dst g.len (engineNeed c.sup needW) true) then none
      else match segRead s core b c g with
        | (s1, .inl e) => if e = 15 then none else some (segFail s1 core h b c.sup g, some e)
        | (s1, .inr l) => segWrite s1 core h b c g (chainOf s b) (agentCopy (s.siteOf core)) l := rfl

theorem warp?_segWrite {s t : State} {core h : Nat} {b : Block} {c : CopyOp} {g : Seg} {chain ag : Nat} {l : List Byte} {e : Option Nat}
    (hm : segWrite s core h b c g chain ag l = some (t, e)) (r : WRef) : t.warp? r = s.warp? r := by
  have hf := (sameWork_segBytes s c g l).warp r
  unfold segWrite at hm
  simp only at hm
  split at hm
  · cases hm
    exact (warp?_updBlock ..).trans hf
  · have hv := (quiet_writeVirtE (segBytes s c g l).1 ag b.ctx g.dst (segBytes s c g l).2 (engineNeed c.sup needW) chain c.ef).warp r
    split at hm
    next hx =>
      cases hm
      rw [hx] at hv
      exact hv.trans hf
    next hx =>
      rw [hx] at hv
      split at hm
      · cases hm
      · cases hm
        exact (warp?_segFail ..).trans (hv.trans hf)

theorem warp?_segMove {s t : State} {core h : Nat} {b : Block} {c : CopyOp} {g : Seg} {e : Option Nat}
    (hm : segMove s core h b c g = some (t, e)) (r : WRef) : t.warp? r = s.warp? r := by
  have hr := (quiet_segRead s core b c g).warp r
  rw [segMove_eq] at hm
  split at hm
  · cases hm
  · split at hm
    next hx =>
      rw [hx] at hr
      split at hm
      · cases hm
      · cases hm
        exact (warp?_segFail ..).trans hr
    next hx =>
      rw [hx] at hr
      exact (warp?_segWrite hm r).trans hr

/-- A segment from memory into scratchpad: the block holds what the home answered. -/
theorem segMove_load {s s1 : State} {core h : Nat} {b : Block} {c : CopyOp} {g : Seg} {x : Xlat} (hb : s.block? core h = some b)
    (hs : g.srcS = false) (hd : g.dstS = true)
    (hi : virtIdle s (agentCopy (s.siteOf core)) b.ctx g.src g.len (engineNeed c.sup needR) false = true)
    (hx : engineXlat s (agentCopy (s.siteOf core)) b.ctx g.src (engineNeed c.sup needR) false = (s1, .inr x)) :
    ∃ t, segMove s core h b c g = some (t, none) ∧
      t.block? core h = some { b with scr := putBytes b.scr (bytesAt g.dst (readPhys s1 x.pa g.len).2) } := by
  have hr : segRead s core b c g = (tagLines (readPhys s1 x.pa g.len).1 x g.len (chainOf s b) c.ef, .inr (readPhys s1 x.pa g.len).2) := by
    unfold segRead
    rw [hs, hx]
    rfl
  have hq := (quiet_segRead s core b c g).block core h
  rw [hr] at hq
  rw [segMove_eq, hi, hd, hr]
  simp only [Bool.or_true, Bool.true_or, Bool.not_true, Bool.or_self, Bool.false_eq_true, if_false, segWrite, segBytes, hs, hd,
    bne_iff_ne, ne_eq, not_false_eq_true, if_true]
  exact ⟨_, rfl, block?_updBlock_same _ (hq.trans hb)⟩

/-! ### `COPY_SEGMENT_COMPLETE` -/

/-- The state after a segment's move, by what the move answered. -/
def segMoved (s : State) (core slot op seg : Nat) (b : Block) (c : CopyOp) (g : Seg) : Option (State × Option Nat) → State
  | none => segAsk s core b c g
  | some (s1, none) => s1.updWarp { core := core, slot := slot } (fun w => updSeg w op seg (fun g => { g with done := true }))
  | some (s1, some e) => s1.updWarp { core := core, slot := slot } (fun w => updSeg w op seg (fun g => { g with fail := some e }))

section
variable {s : State} {core slot op seg : Nat} {w : Warp} {c : CopyOp} {b : Block} {g : Seg}
  (hw : s.warp? { core := core, slot := slot } = some w) (hc : w.copies.find? (fun c => c.id = op) = some c)
  (hb : s.block? core w.blk = some b) (hg : c.segs.find? (fun g => g.id = seg) = some g) (hd : g.done = false)
  (hf : g.fail = none) (hp : g.parked = false)
include hw hc hb hg hd hf hp

theorem exec_copySegmentComplete_done (d : Bool) :
    exec (.copySegmentComplete core slot op seg (d, .done)) s =
      .next (segMoved s core slot op seg b c g (segMove s core w.blk b c g)) := by
  show execCopySegmentComplete core slot op seg (d, .done) s = _
  simp only [execCopySegmentComplete, hw, hc, hb, hg, hd, hf, hp, Option.isSome_none, Bool.or_self, Bool.false_eq_true, if_false,
    segLog_done]
  rfl

theorem exec_copySegmentComplete_failed (d : Bool) (e : Nat) :
    exec (.copySegmentComplete core slot op seg (d, .failed e)) s =
      .next ((segFail (segLog s (agentCopy (s.siteOf core)) b c g d (.failed e)) core w.blk b c.sup g).updWarp
        { core := core, slot := slot } (fun w => updSeg w op seg (fun g => { g with fail := some e }))) := by
  show execCopySegmentComplete core slot op seg (d, .failed e) s = _
  simp only [execCopySegmentComplete, hw, hc, hb, hg, hd, hf, hp, Option.isSome_none, Bool.or_self, Bool.false_eq_true, if_false]

end

/-- Settles O49: a queue load by what its lanes found, and a segment by what its move answered. -/
theorem engineEvents : Obligations.EngineEvents := by
  refine ⟨?_, ?_, fun s ag b c g dst out s1 x h => segLog_of_xlat out h, ?_,
    fun s core h b c g s1 x hb hs hd hi hx => segMove_load hb hs hd hi hx⟩
  · intro s core slot op out w o b t q sx v hw ho hb hd hv hne z hf hwh hout
    have hs : SameWork s (z.2.pas.foldl (fun s p => logOutcome s p out) z.1) :=
      (quiet_qldLanes ..).sameWork.trans (SameWork.foldl (fun t p => sameWork_logOutcome t p out) _ _)
    have hr : ∀ t', t' ≠ slot → (⟨core, t'⟩ : WRef) ≠ ⟨core, slot⟩ := fun t' h e => h (congrArg WRef.slot e)
    refine ⟨_, fillEntry q op z.2.vals v, exec_qldFill_of_bound hw ho hb hd hout hf hwh, ?_, ?_, rfl, ?_⟩
    · rw [warp?_updWarp_other _ _ (hr t hne).symm]
      exact warp?_updWarp_same _ ((hs.warp _).trans hw)
    · refine warp?_updWarp_same _ (w := v) ?_
      rw [warp?_updWarp_other _ _ (hr t hne)]
      exact (hs.warp _).trans hv
    · rw [fillEntry, mget_mput, if_pos rfl]
  · intro s core slot op out w o b t q sx hw ho hb hd z page hf hout
    exact ⟨exec_qldFill_of_page hw ho hb hd hout hf, exec_qldFill_of_trap hw ho hb hd hout hf⟩
  · intro s core slot op seg d w c b g hw hc hb hg hd hf hp r
    have he := exec_copySegmentComplete_done hw hc hb hg hd hf hp d
    refine ⟨fun s1 hm => ?_, fun s1 n hm => ?_, fun hm => ?_, fun n => ⟨_, exec_copySegmentComplete_failed hw hc hb hg hd hf hp d n,
      warp?_updWarp_same _ ((warp?_segFail ..).trans (((sameWork_segLog ..).warp r).trans hw))⟩⟩
    all_goals rw [he, hm]
    · exact ⟨_, rfl, warp?_updWarp_same _ ((warp?_segMove hm r).trans hw)⟩
    · exact ⟨_, rfl, warp?_updWarp_same _ ((warp?_segMove hm r).trans hw)⟩
    · rfl

end Sys2Proof.Machine
end

section
/-! What a release leaves (07 Table 7-4, R176): the write buffers of the core are empty, its CLC holds no dirty byte and its RDC holds
none; and what keeps that so. -/

namespace Sys2Proof.Machine

/-! ### States between which nothing has got dirtier -/

/-- The dies and cores in service and the write buffers are those of `s`, and a CLC copy of `t` that holds dirty bytes is one of `s`. -/
structure CleanerClc (s t : State) : Prop where
  passed : t.pkg.passed = s.pkg.passed
  fuses : t.pkg.fuses = s.pkg.fuses
  wb : ∀ k, (t.core k).wb = (s.core k).wb
  clc : ∀ k line c, mfind (t.clc k) line = some c → Copy.dirtyBytes c ≠ [] → mfind (s.clc k) line = some c

/-- Besides, an RDC copy of `t` that holds dirty bytes is one of `s`. -/
structure Cleaner (s t : State) : Prop extends CleanerClc s t where
  rdc : ∀ d line x, t.rdc? d line = some x → Copy.dirtyBytes x.copy ≠ [] → s.rdc? d line = some x

theorem CleanerClc.refl (s : State) : CleanerClc s s := ⟨rfl, rfl, fun _ => rfl, fun _ _ _ h _ => h⟩

theorem CleanerClc.trans {s t u : State} (h : CleanerClc s t) (g : CleanerClc t u) : CleanerClc s u :=
  ⟨g.passed.trans h.passed, g.fuses.trans h.fuses, fun k => (g.wb k).trans (h.wb k),
   fun k line c hc hd => h.clc k line c (g.clc k line c hc hd) hd⟩

theorem CleanerClc.foldl {β : Type} {f : State → β → State} (h : ∀ s x, CleanerClc s (f s x)) (l : List β) (s : State) :
    CleanerClc s (l.foldl f s) := by
  induction l generalizing s with
  | nil => exact .refl s
  | cons a t ih => exact (h s a).trans (ih _)

theorem CleanerClc.siteOf {s t : State} (h : CleanerClc s t) (l : Nat) : t.siteOf l = s.siteOf l := by
  simp only [State.siteOf, State.lpt, State.passedSites, State.fuse, h.passed, h.fuses]

theorem CleanerClc.clusterOf {s t : State} (h : CleanerClc s t) (l : Nat) : t.clusterOf l = s.clusterOf l := by
  simp only [State.clusterOf, State.siteOf, State.physOf, State.lpt, State.passedSites, State.fuse, h.passed, h.fuses]

theorem Cleaner.refl (s : State) : Cleaner s s := ⟨.refl s, fun _ _ _ h _ => h⟩

theorem Cleaner.trans {s t u : State} (h : Cleaner s t) (g : Cleaner t u) : Cleaner s u :=
  ⟨h.toCleanerClc.trans g.toCleanerClc, fun d line x hx hd => h.rdc d line x (g.rdc d line x hx hd) hd⟩

theorem Cleaner.foldl {β : Type} {f : State → β → State} (h : ∀ s x, Cleaner s (f s x)) (l : List β) (s : State) :
    Cleaner s (l.foldl f s) := by
  induction l generalizing s with
  | nil => exact .refl s
  | cons a t ih => exact (h s a).trans (ih _)

/-- A fold that carries a result beside the state. -/
theorem Cleaner.foldl_fst {β γ : Type} {f : State × γ → β → State × γ} (h : ∀ r x, Cleaner r.1 (f r x).1) (l : List β)
    (r : State × γ) : Cleaner r.1 (l.foldl f r).1 := by
  induction l generalizing r with
  | nil => exact .refl r.1
  | cons a t ih => exact (h r a).trans (ih _)

/-- What a release has left stays so where nothing gets dirtier. -/
theorem ReleasedAt.mono {s t : State} {core : Nat} {q : Scope} (hr : ReleasedAt s core q) (h : Cleaner s t) : ReleasedAt t core q := by
  obtain ⟨hb, hc, hx⟩ := hr
  refine ⟨fun hq b h4 => by rw [h.wb]; exact hb hq b h4, fun hq line c hm => ?_, fun hq line x hm => ?_⟩
  · by_contra hd
    rw [h.clusterOf] at hm
    exact hd (hc hq line c (h.clc _ _ _ hm hd))
  · by_contra hd
    rw [State.dieOf, h.siteOf] at hm
    exact hd (hx hq line x (h.rdc _ _ _ hm hd))

/-! ### Updates of one part -/

theorem cleaner_of_eq {s t : State} (hd : t.dies = s.dies) (hc : t.cores = s.cores) (hl : t.clcs = s.clcs)
    (hp : t.pkg.passed = s.pkg.passed) (hf : t.pkg.fuses = s.pkg.fuses) : Cleaner s t :=
  ⟨⟨hp, hf, fun k => by simp only [State.core, hc], fun k line c h _ => by simpa only [State.clc, hl] using h⟩,
   fun d line x h _ => by simpa only [State.rdc?, State.die, hd] using h⟩

theorem cleaner_updHome (s : State) (n : Nat) (f : Home → Home) : Cleaner s (s.updHome n f) := cleaner_of_eq rfl rfl rfl rfl rfl
theorem cleaner_updFed (s : State) (f : Fed → Fed) : Cleaner s (s.updFed f) := cleaner_of_eq rfl rfl rfl rfl rfl
theorem cleaner_updCtl (s : State) (f : Ctl → Ctl) : Cleaner s (s.updCtl f) := cleaner_of_eq rfl rfl rfl rfl rfl
theorem cleaner_mem (s : State) (m : List Host.Cell) : Cleaner s { s with mem := m } := cleaner_of_eq rfl rfl rfl rfl rfl
theorem cleaner_net (s : State) (l : List Msg) : Cleaner s { s with net := l } := cleaner_of_eq rfl rfl rfl rfl rfl
theorem cleaner_vm (s : State) (v : Vm) : Cleaner s { s with vm := v } := cleaner_of_eq rfl rfl rfl rfl rfl

theorem cleaner_updLink (s : State) (i : Nat) (f : Link → Link) : Cleaner s (s.updLink i f) := cleaner_of_eq rfl rfl rfl rfl rfl

theorem cleaner_cross (s : State) (a b : Nat) : Cleaner s (cross s a b) := Cleaner.foldl (fun _ _ => cleaner_updLink ..) _ _

theorem cleaner_send (s : State) (m : Msg) : Cleaner s (send s m) := by
  unfold send
  simp only
  exact Cleaner.trans (t := { s.freshId.2 with net := _ }) (cleaner_of_eq rfl rfl rfl rfl rfl)
    (Cleaner.foldl (fun _ _ => cleaner_updLink ..) _ _)

theorem cleaner_countLost (s : State) (line : Nat) : Cleaner s (s.countLost line) := by
  unfold State.countLost
  split
  · exact cleaner_of_eq rfl rfl rfl rfl rfl
  · exact cleaner_of_eq rfl rfl rfl rfl rfl
  · exact .refl s

/-- An update of a core that keeps its write buffers. -/
theorem cleaner_updCore (s : State) (l : Nat) {f : Core → Core} (hf : (f (s.core l)).wb = (s.core l).wb) : Cleaner s (s.updCore l f) := by
  refine ⟨⟨rfl, rfl, fun k => ?_, fun _ _ _ h _ => h⟩, fun _ _ _ h _ => h⟩
  rw [core_updCore]
  split
  next h => rw [hf, h]
  next => rfl

theorem cleaner_raisePts (s : State) (core t : Nat) : Cleaner s (s.raisePts core t) := cleaner_updCore s core rfl

/-- A change of every core that keeps its write buffers. -/
theorem cleaner_mapCores (s : State) (g : Nat × Core → Nat × Core) (h1 : ∀ c, (g c).1 = c.1) (h2 : ∀ c, (g c).2.wb = c.2.wb) :
    Cleaner s { s with cores := s.cores.map g } := by
  refine ⟨⟨rfl, rfl, fun k => ?_, fun _ _ _ h _ => h⟩, fun _ _ _ h _ => h⟩
  simp only [State.core, mget]
  rw [mfind_map _ _ h1]
  cases mfind s.cores k with
  | none => rfl
  | some c => exact h2 (k, c)

theorem rdc?_setRdc (s : State) (d line e ln : Nat) (x : RdcLine) :
    (s.setRdc d line x).rdc? e ln = if e = d ∧ ln = line then some x else s.rdc? e ln := by
  simp only [State.rdc?, State.die, State.setRdc, State.updDie_dies, mget_mset]
  by_cases he : e = d
  · simp only [he, if_true, true_and, mfind_mset]
  · simp only [he, if_false, false_and]

/-- An RDC copy is replaced by one without dirty bytes. -/
theorem cleaner_setRdc (s : State) (d line : Nat) {x : RdcLine} (hx : Copy.dirtyBytes x.copy = []) : Cleaner s (s.setRdc d line x) := by
  refine ⟨⟨rfl, rfl, fun _ => rfl, fun _ _ _ h _ => h⟩, fun e ln y h hd => ?_⟩
  rw [rdc?_setRdc] at h
  split at h
  · cases h
    exact absurd hx hd
  · exact h

@[simp] theorem dirtyBytes_clean (c : Copy) : Copy.dirtyBytes (Copy.clean c) = [] := by simp [Copy.dirtyBytes, Copy.clean]

theorem cleaner_dropRdc (s : State) (d line : Nat) : Cleaner s (dropRdc s d line) := by
  unfold dropRdc
  split
  · exact .refl s
  · refine .trans (t := s.updDie d _) ⟨⟨rfl, rfl, fun _ => rfl, fun _ _ _ h _ => h⟩, fun e ln y h _ => ?_⟩ (cleaner_updHome ..)
    simp only [State.rdc?, State.die, State.updDie_dies, mget_mset] at h ⊢
    split at h
    next he =>
      by_cases hl : ln = line
      · simp [hl, mfind_mdel_same] at h
      · rw [mfind_mdel_other _ hl] at h
        rw [he]
        exact h
    next => exact h

/-! ### Lines at the homes and in the RDCs -/

theorem cleaner_evictHome (s : State) (n line : Nat) : Cleaner s (evictHome s n line) := by
  unfold evictHome
  split
  · exact .refl s
  · exact (cleaner_mem ..).trans (cleaner_updHome ..)

theorem cleaner_touchHome (s : State) (n line cls chain : Nat) (ef : Bool) : Cleaner s (touchHome s n line cls chain ef) := by
  unfold touchHome
  split
  · exact cleaner_updHome ..
  · refine Cleaner.trans ?_ (cleaner_updHome ..)
    split
    · exact .refl s
    · split
      · exact .refl s
      · exact cleaner_evictHome ..

theorem cleaner_settleHome (s : State) (n line : Nat) : Cleaner s (settleHome s n line) := by
  unfold settleHome
  split
  · exact .refl s
  · split
    · exact cleaner_evictHome ..
    · exact .refl s

theorem cleaner_hitHome (s : State) (n line : Nat) : Cleaner s (hitHome s n line) := by
  unfold hitHome
  split
  · exact .refl s
  · exact cleaner_updHome ..

theorem cleaner_hostBack (s : State) (n page : Nat) : Cleaner s (hostBack s n page) := by
  unfold hostBack
  split
  · exact .refl s
  · split
    · exact cleaner_updHome ..
    · exact .refl s

theorem cleaner_homePut (s : State) (line : Nat) (bytes : SMap Byte) (p : Option Nat) (cls chain : Nat) (ef : Bool) :
    Cleaner s (homePut s line bytes p cls chain ef).1 := by
  unfold homePut
  simp only
  split
  · exact cleaner_countLost ..
  · exact ((((cleaner_hostBack ..).trans (cleaner_touchHome ..)).trans (cleaner_updHome ..)).trans (cleaner_updHome ..)).trans
      (cleaner_settleHome ..)

theorem cleaner_flushHome (s : State) (line : Nat) : Cleaner s (flushHome s line) := by
  unfold flushHome
  simp only
  split
  · exact .refl s
  · exact (cleaner_mem ..).trans (cleaner_updHome ..)

theorem cleaner_retireEnt (s : State) (n line d : Nat) : Cleaner s (retireEnt s n line d) := by
  unfold retireEnt
  split
  · exact cleaner_updHome ..
  · split
    · exact cleaner_updHome ..
    · split
      · exact cleaner_updHome ..
      · exact .refl s

theorem cleaner_takeEvicts (s : State) (p : Msg → Nat → Bool) : Cleaner s (takeEvicts s p) := by
  refine Cleaner.foldl (fun s m => ?_) _ _
  simp only
  refine Cleaner.trans ?_ (cleaner_retireEnt ..)
  split
  · exact cleaner_net ..
  · exact (cleaner_net ..).trans (cleaner_homePut ..)

theorem cleaner_ownerHome (s : State) (line d : Nat) : Cleaner s (ownerHome s line d) := by
  unfold ownerHome
  split
  · exact .refl s
  · simp only
    split
    · exact .refl s
    · exact cleaner_homePut ..

theorem cleaner_recallEnt (s : State) (line d : Nat) : Cleaner s (recallEnt s line d) := by
  unfold recallEnt
  simp only
  split
  · split
    · exact .refl s
    · exact (((cleaner_ownerHome ..).trans (cleaner_cross ..)).trans (cleaner_dropRdc ..)).trans (cleaner_updHome ..)
  · exact (Cleaner.foldl (fun _ _ => (cleaner_cross ..).trans (cleaner_dropRdc ..)) _ _).trans (cleaner_updHome ..)

theorem cleaner_dirRoom (s : State) (n line : Nat) : Cleaner s (dirRoom s n line) := by
  unfold dirRoom
  simp only
  split
  · exact .refl s
  · split
    · exact cleaner_updHome ..
    · split
      · exact .refl s
      · exact (cleaner_takeEvicts ..).trans (cleaner_recallEnt ..)

theorem cleaner_discoverNow (s : State) (line d : Nat) : Cleaner s (discoverNow s line d) := by
  unfold discoverNow
  simp only
  split
  · exact .refl s
  · have h := Cleaner.foldl (fun t x => cleaner_cross t (s.homeOf line) x)
      ((List.range 8).filter (fun x => x != d && s.onlineSite x)) s
    split
    · exact h
    · exact ((h.trans (cleaner_dirRoom ..)).trans (cleaner_updHome ..)).trans (cleaner_updHome ..)

theorem cleaner_settleLine (s : State) (line d : Nat) : Cleaner s (settleLine s line d) :=
  (cleaner_takeEvicts ..).trans (cleaner_discoverNow ..)

theorem cleaner_recallAll (s : State) (line d : Nat) : Cleaner s (recallAll s line d) :=
  (cleaner_settleLine ..).trans (cleaner_recallEnt ..)

theorem cleaner_pullDirty (s : State) (line : Nat) : Cleaner s (pullDirty s line) := by
  have h := cleaner_settleLine s line 99
  have h1 : ∀ n x, Cleaner s (ownerHome (cross (settleLine s line 99) n x) line x) := fun _ _ =>
    (h.trans (cleaner_cross ..)).trans (cleaner_ownerHome ..)
  unfold pullDirty
  simp only
  split
  · exact h
  · split
    · exact h
    · split
      · exact h1 _ _
      · exact (h1 _ _).trans (cleaner_setRdc _ _ _ (dirtyBytes_clean _))

theorem cleaner_dieAccess (s : State) (n page : Nat) : Cleaner s (dieAccess s n page) := by
  unfold dieAccess
  split
  · exact .refl s
  · split
    · exact cleaner_updHome ..
    · exact .refl s

theorem cleaner_markStale (s : State) (page : Nat) : Cleaner s (markStale s page) := by
  unfold markStale markWhere
  refine cleaner_mapCores s _ ?_ ?_ <;> intro c <;> simp only <;> split <;> rfl

/-! ### Accesses at the homes, and translation -/

theorem cleaner_serveRead (s : State) (line : Nat) : Cleaner s (serveRead s line).1 := by
  unfold serveRead
  simp only
  exact ((cleaner_dieAccess ..).trans (cleaner_pullDirty ..)).trans (cleaner_hitHome ..)

theorem cleaner_readLine (s : State) (line : Nat) : Cleaner s (readLine s line) := by
  unfold readLine
  split
  · exact .refl s
  · exact cleaner_serveRead ..

theorem cleaner_serveWriteE (s : State) (line : Nat) (bytes : SMap Byte) (p : Option Nat) (cls chain : Nat) (ef : Bool) :
    Cleaner s (serveWriteE s line bytes p cls chain ef).1 :=
  (((cleaner_markStale ..).trans (cleaner_dieAccess ..)).trans (cleaner_recallAll ..)).trans (cleaner_homePut ..)

theorem cleaner_writePhysE (s : State) (pa : Nat) (l : List Byte) (cls chain : Nat) (ef sy : Bool) :
    Cleaner s (writePhysE s pa l cls chain ef sy) := by
  refine Cleaner.foldl (fun s ln => ?_) _ _
  simp only
  split
  · exact (cleaner_serveWriteE ..).trans (cleaner_flushHome ..)
  · exact cleaner_serveWriteE ..

theorem cleaner_heatUpdate (s : State) (q : HeatReq) : Cleaner s (heatUpdate s q) := by
  unfold heatUpdate
  split
  · exact cleaner_vm ..
  · unfold heatNow
    simp only
    split
    · exact .refl s
    · exact cleaner_writePhysE ..

theorem cleaner_useTlb (s : State) (t : TlbEnt) (wr : Bool) : Cleaner s (useTlb s t wr) := by
  unfold useTlb
  cases wr
  all_goals
    simp only [Bool.false_eq_true, if_false, if_true]
    split
    · exact (cleaner_vm ..).trans (cleaner_heatUpdate ..)
    · exact cleaner_vm ..

theorem cleaner_loadRange (s : State) (agent ctx : Nat) : Cleaner s (loadRange s agent ctx).1 := by
  unfold loadRange
  split
  · exact .refl s
  · split
    · exact .refl s
    · exact (Cleaner.foldl cleaner_readLine _ s).trans (cleaner_vm ..)

theorem cleaner_translate (s : State) (agent ctx va : Nat) (need : BitVec 4) (wr : Bool) :
    Cleaner s (translate s agent ctx va need wr).1 := by
  have h := cleaner_loadRange s agent ctx
  unfold translate
  simp only
  split
  · exact .refl s
  · split
    · split <;> exact h
    · split
      · exact h
      · split
        · split
          · exact h
          · exact h.trans (cleaner_useTlb ..)
        · have h1 := h.trans (Cleaner.foldl cleaner_readLine
            (walkLines (loadRange s agent ctx).1 va 5 (s.ctxEnt ctx).root 1) _)
          split
          · exact h1
          · split
            · exact h1
            · exact ((h1.trans (cleaner_vm ..)).trans (cleaner_heatUpdate ..)).trans (cleaner_useTlb ..)

theorem cleaner_engineXlat (s : State) (agent ctx va : Nat) (need : BitVec 4) (wr : Bool) :
    Cleaner s (engineXlat s agent ctx va need wr).1 := by
  have h := cleaner_translate s agent ctx va need wr
  unfold engineXlat
  split
  · exact .refl s
  · split
    next hx => rwa [hx] at h
    next hx =>
      rw [hx] at h
      split <;> exact h

theorem cleaner_writeVirt (s : State) (agent ctx va : Nat) (l : List Byte) (need : BitVec 4) :
    Cleaner s (writeVirt s agent ctx va l need).1 := by
  refine Cleaner.foldl_fst (fun r p => ?_) _ (s, none)
  obtain ⟨t, _ | e⟩ := r
  · have h := cleaner_engineXlat t agent ctx p.1 need true
    simp only
    split
    next hx => rwa [hx] at h
    next hx =>
      rw [hx] at h
      exact h.trans (cleaner_writePhysE ..)
  · exact .refl t

theorem cleaner_writeStatus (s : State) (ctx addr v num : Nat) : Cleaner s (writeStatus s ctx addr v num) := by
  have h := cleaner_writeVirt s agentCp ctx addr (leBytes 8 v) needW
  unfold writeStatus
  split
  · exact .refl s
  · split
    next hx => rwa [hx] at h
    next hx =>
      rw [hx] at h
      exact h.trans (cleaner_updCtl ..)

/-! ### Pushes (07 R176, 08 R188) -/

/-- A step that leaves what it names in a condition that every step keeps leaves a whole list so. -/
theorem foldl_establishes {β : Type} {f : State → β → State} {P : State → β → Prop} (hk : ∀ s x y, P s x → P (f s y) x)
    (hd : ∀ s x, P (f s x) x) (l : List β) (s : State) {x : β} (hx : x ∈ l) : P (l.foldl f s) x := by
  induction l generalizing s with
  | nil => exact absurd hx List.not_mem_nil
  | cons a t ih =>
    by_cases ht : x ∈ t
    · exact ih _ ht
    · obtain rfl | h := List.mem_cons.1 hx
      · exact List.foldlRecOn t f (hd s x) fun s h y _ => hk s x y h
      · exact absurd h ht

theorem mem_of_mfind {α : Type} {m : SMap α} {k : Nat} {v : α} (h : mfind m k = some v) : (k, v) ∈ m := by
  induction m with
  | nil => simp [mfind] at h
  | cons e t ih =>
    obtain ⟨j, x⟩ := e
    simp only [mfind] at h
    split at h
    next hj =>
      cases h
      rw [← hj]
      exact List.mem_cons_self
    next => exact List.mem_cons_of_mem _ (ih h)

/-- A map without the key reads its default. -/
theorem mget_of_not_mem {α : Type} {m : SMap α} {k : Nat} (d : α) (h : k ∉ m.map (·.1)) : mget d m k = d := by
  rw [mget]
  cases hk : mfind m k with
  | none => rfl
  | some v => exact absurd (List.mem_map_of_mem (f := (·.1)) (mem_of_mfind hk)) h

theorem dirty_ne_zero {c : Copy} (h : Copy.dirtyBytes c ≠ []) : c.dirty ≠ 0#64 := by
  intro h0
  exact h (by simp [Copy.dirtyBytes, h0])

theorem cleaner_pushHome (s : State) (line d : Nat) (bytes : SMap Byte) (p : Option Nat) (cls chain : Nat) (ef : Bool) :
    Cleaner s (pushHome s line d bytes p cls chain ef).1 := by
  unfold pushHome
  simp only
  split
  · exact cleaner_countLost ..
  · split
    · exact .refl s
    · exact (((cleaner_cross ..).trans (cleaner_recallAll ..)).trans (cleaner_dieAccess ..)).trans (cleaner_homePut ..)

/-- The RDC copy of a line of a die, if any, holds no dirty byte. -/
def RdcLineClean (s : State) (d line : Nat) : Prop := ∀ x, s.rdc? d line = some x → Copy.dirtyBytes x.copy = []

theorem RdcLineClean.mono {s t : State} {d line : Nat} (hs : RdcLineClean s d line) (h : Cleaner s t) : RdcLineClean t d line := by
  intro x hx
  by_contra hd
  exact hd (hs x (h.rdc d line x hx hd))

theorem cleaner_pushRdc (s : State) (d line : Nat) : Cleaner s (pushRdc s d line) := by
  unfold pushRdc
  split
  · exact .refl s
  · simp only
    split
    · exact .refl s
    · exact (cleaner_setRdc _ _ _ (dirtyBytes_clean _)).trans (cleaner_pushHome ..)

theorem rdcLineClean_pushRdc (s : State) (d line : Nat) : RdcLineClean (pushRdc s d line) d line := by
  unfold pushRdc
  split
  next h =>
    intro x hx
    rw [h] at hx
    cases hx
  next x h =>
    simp only
    split
    next hb =>
      intro y hy
      rw [h] at hy
      cases hy
      exact List.isEmpty_iff.1 hb
    next =>
      refine RdcLineClean.mono (fun y hy => ?_) (cleaner_pushHome ..)
      rw [rdc?_setRdc, if_pos ⟨rfl, rfl⟩] at hy
      cases hy
      exact dirtyBytes_clean _

theorem cleaner_pushDie (s : State) (d : Nat) : Cleaner s (pushDie s d) := Cleaner.foldl (fun _ _ => cleaner_pushRdc ..) _ _

theorem rdcLineClean_pushDie (s : State) (d line : Nat) : RdcLineClean (pushDie s d) d line := by
  by_cases hl : line ∈ s.rdcDirtyLines d
  · exact foldl_establishes (P := fun t l => RdcLineClean t d l) (fun t _ _ h => h.mono (cleaner_pushRdc t d _))
      (fun t l => rdcLineClean_pushRdc t d l) _ s hl
  · refine RdcLineClean.mono (fun x hx => ?_) (cleaner_pushDie s d)
    by_contra hd
    exact hl (List.mem_map_of_mem (f := (·.1)) (List.mem_filter.2 ⟨mem_of_mfind hx, by simpa using dirty_ne_zero hd⟩))

theorem cleaner_pushDies (s : State) : Cleaner s ((s.dies.map (·.1)).foldl pushDie s) := Cleaner.foldl cleaner_pushDie _ s

/-- Every RDC is clean once every die has pushed. -/
theorem rdcLineClean_pushDies (s : State) (d line : Nat) : RdcLineClean ((s.dies.map (·.1)).foldl pushDie s) d line := by
  by_cases hd : d ∈ s.dies.map (·.1)
  · exact foldl_establishes (P := fun t e => RdcLineClean t e line) (fun t _ _ h => h.mono (cleaner_pushDie t _))
      (fun t e => rdcLineClean_pushDie t e line) _ s hd
  · refine RdcLineClean.mono (fun x hx => ?_) (cleaner_pushDies s)
    simp [State.rdc?, State.die, mget_of_not_mem _ hd, mfind] at hx

theorem cleanerClc_rdcWrite (s : State) (d line : Nat) (x : RdcLine) (bytes : SMap Byte) (p : Option Nat) :
    CleanerClc s (rdcWrite s d line x bytes p).1 := by
  have h : ∀ y f, CleanerClc s ((s.setRdc d line y).updHome d f) := fun _ _ => ⟨rfl, rfl, fun _ => rfl, fun _ _ _ h _ => h⟩
  unfold rdcWrite
  simp only
  split
  · exact h _ _
  · exact (h _ _).trans (cleaner_send ..).toCleanerClc

theorem cleanerClc_servePush (s : State) (line d : Nat) (bytes : SMap Byte) (p : Option Nat) (cls chain : Nat) (ef : Bool) :
    CleanerClc s (servePush s line d bytes p cls chain ef).1 := by
  have h := (cleaner_pushHome s line d bytes p cls chain ef).toCleanerClc
  unfold servePush
  simp only
  split
  · exact h
  · split
    · exact h
    · exact h.trans ⟨rfl, rfl, fun _ => rfl, fun _ _ _ h _ => h⟩

theorem cleanerClc_clcSend (s : State) (d line : Nat) (c : Copy) (p : Option Nat) : CleanerClc s (clcSend s d line c p).1 := by
  have h := (cleaner_markStale s (line / 64)).toCleanerClc
  unfold clcSend
  simp only
  split
  · split
    · exact h.trans (cleanerClc_rdcWrite ..)
    · exact h.trans (cleanerClc_servePush ..)
  · exact h.trans (cleanerClc_servePush ..)

theorem cleaner_cleanL1s (s : State) (k line : Nat) : Cleaner s (cleanL1s s k line) := by
  unfold cleanL1s
  refine cleaner_mapCores s _ ?_ ?_ <;> intro c <;> split <;> rfl

theorem mfind_setClc (s : State) (k line j ln : Nat) (c : Copy) :
    mfind ((s.setClc k line c).clc j) ln = if j = k ∧ ln = line then some c else mfind (s.clc j) ln := by
  simp only [State.clc, State.setClc, mget_mset]
  by_cases hj : j = k
  · simp only [hj, if_true, true_and, mfind_mset]
  · simp only [hj, if_false, false_and]

/-- The CLC copy of a line, if any, holds no dirty byte. -/
def ClcLineClean (s : State) (k line : Nat) : Prop := ∀ c, mfind (s.clc k) line = some c → Copy.dirtyBytes c = []

theorem ClcLineClean.mono {s t : State} {k line : Nat} (hs : ClcLineClean s k line) (h : CleanerClc s t) : ClcLineClean t k line := by
  intro c hc
  by_contra hd
  exact hd (hs c (h.clc k line c hc hd))

theorem cleanerClc_setClc (s : State) (k line : Nat) {c : Copy} (hc : Copy.dirtyBytes c = []) : CleanerClc s (s.setClc k line c) := by
  refine ⟨rfl, rfl, fun _ => rfl, fun j ln x h hd => ?_⟩
  rw [mfind_setClc] at h
  split at h
  · cases h
    exact absurd hc hd
  · exact h

/-- What a push of a CLC line does once the copy is clean. -/
def pushRest (s : State) (k line : Nat) (c : Copy) (core p : Option Nat) : State :=
  let r := clcSend (dropLeases (cleanL1s s k line) k line) (k / 34) line c p
  match core with
  | none => r.1
  | some l => r.1.raisePts l r.2

theorem cleanerClc_pushRest (s : State) (k line : Nat) (c : Copy) (core p : Option Nat) :
    CleanerClc s (pushRest s k line c core p) := by
  have h : CleanerClc s (clcSend (dropLeases (cleanL1s s k line) k line) (k / 34) line c p).1 :=
    ((cleaner_cleanL1s ..).trans (cleaner_net ..)).toCleanerClc.trans (cleanerClc_clcSend ..)
  cases core with
  | none => exact h
  | some l => exact h.trans (cleaner_raisePts ..).toCleanerClc

theorem pushClc_eq (s : State) (k line : Nat) (core : Option Nat) :
    pushClc s k line core = match mfind (s.clc k) line with
      | none => s
      | some c => if (Copy.dirtyBytes c).isEmpty then s
        else pushRest (s.setClc k line { Copy.clean c with gwts := none }) k line c core (core.map s.pts) := rfl

theorem cleanerClc_pushClc (s : State) (k line : Nat) (core : Option Nat) : CleanerClc s (pushClc s k line core) := by
  rw [pushClc_eq]
  split
  · exact .refl s
  next c _ =>
    split
    · exact .refl s
    · exact (cleanerClc_setClc s k line (c := { Copy.clean c with gwts := none }) (dirtyBytes_clean c)).trans
        (cleanerClc_pushRest ..)

theorem clcLineClean_pushClc (s : State) (k line : Nat) (core : Option Nat) : ClcLineClean (pushClc s k line core) k line := by
  rw [pushClc_eq]
  split
  next h =>
    intro x hx
    rw [h] at hx
    cases hx
  next c h =>
    split
    next hb =>
      intro y hy
      rw [h] at hy
      cases hy
      exact List.isEmpty_iff.1 hb
    next =>
      refine ClcLineClean.mono (fun y hy => ?_) (cleanerClc_pushRest ..)
      rw [mfind_setClc, if_pos ⟨rfl, rfl⟩] at hy
      cases hy
      exact dirtyBytes_clean c

theorem cleanerClc_pushCluster (s : State) (k : Nat) (core : Option Nat) : CleanerClc s (pushCluster s k core) :=
  CleanerClc.foldl (fun _ _ => cleanerClc_pushClc ..) _ _

theorem clcLineClean_pushCluster (s : State) (k line : Nat) (core : Option Nat) : ClcLineClean (pushCluster s k core) k line := by
  by_cases hl : line ∈ s.dirtyLines k
  · exact foldl_establishes (P := fun t l => ClcLineClean t k l) (fun t _ _ h => h.mono (cleanerClc_pushClc t k _ core))
      (fun t l => clcLineClean_pushClc t k l core) _ s hl
  · refine ClcLineClean.mono (fun x hx => ?_) (cleanerClc_pushCluster s k core)
    by_contra hd
    exact hl (List.mem_map_of_mem (f := (·.1)) (List.mem_filter.2 ⟨mem_of_mfind hx, by simpa using dirty_ne_zero hd⟩))

theorem cleaner_flushHomes (s : State) : Cleaner s (flushHomes s) := by
  refine Cleaner.foldl (fun _ _ => Cleaner.foldl (fun _ _ => ?_) _ _) _ _
  split
  · exact .refl _
  · exact cleaner_flushHome ..

/-! ### The release (07 R176) -/

/-- The state of a release once the write buffers have drained. -/
def releaseDrained (s : State) (core : Nat) (q : Scope) : State := (s.coresOf core q).foldl drainAll s

/-- The state of a release once the CLCs have pushed too. -/
def releasePushed (s : State) (core : Nat) (q : Scope) : State :=
  let s1 := releaseDrained s core q
  (s1.clustersOf core q).foldl (fun x k => pushCluster x k (if k = s1.clusterOf core then some core else none)) s1

theorem release_eq (s : State) (core : Nat) (q : Scope) :
    release s core q = if Scope.rank q ≤ 1 then (s.core core).wbLines.foldl (fun s l => markStale s (l / 64)) s
      else if Scope.rank q = 2 then releaseDrained s core q
      else if Scope.rank q ≤ 4 then releasePushed s core q
      else if Scope.rank q = 5 then ((releasePushed s core q).dies.map (·.1)).foldl pushDie (releasePushed s core q)
      else flushHomes (((releasePushed s core q).dies.map (·.1)).foldl pushDie (releasePushed s core q)) := rfl

theorem cleanerClc_releasePushed (s : State) (core : Nat) (q : Scope) :
    CleanerClc (releaseDrained s core q) (releasePushed s core q) := CleanerClc.foldl (fun _ _ => cleanerClc_pushCluster ..) _ _

/-- From .di on, a release goes on to push; what follows dirties nothing. -/
theorem cleaner_release_of_pushed (s : State) (core : Nat) {q : Scope} (hq : 3 ≤ Scope.rank q) :
    Cleaner (releasePushed s core q) (release s core q) := by
  rw [release_eq, if_neg (by omega), if_neg (by omega)]
  split
  · exact .refl _
  · split
    · exact cleaner_pushDies _
    · exact (cleaner_pushDies _).trans (cleaner_flushHomes _)

theorem cleanerClc_release_of_drained (s : State) (core : Nat) {q : Scope} (hq : 2 ≤ Scope.rank q) :
    CleanerClc (releaseDrained s core q) (release s core q) := by
  by_cases h2 : Scope.rank q = 2
  · rw [release_eq, if_neg (by omega), if_pos h2]
    exact .refl _
  · exact (cleanerClc_releasePushed ..).trans (cleaner_release_of_pushed s core (by omega)).toCleanerClc

theorem mem_coresOf_self (s : State) (core : Nat) (q : Scope) : core ∈ s.coresOf core q := by
  simp [State.coresOf]

theorem physOf_lt (s : State) (l : Nat) : s.physOf l < 136 := by
  unfold State.physOf State.lpt
  split
  · decide
  next site _ =>
    cases h : (s.fuse site).cores[l % 128]? with
    | none => exact (by decide : 0 < 136)
    | some p => exact List.mem_range.1 (List.mem_filter.1 (List.mem_of_getElem? h)).1

theorem clusterOf_div (s : State) (l : Nat) : s.clusterOf l / 34 = s.dieOf l := by
  have h := physOf_lt s l
  unfold State.clusterOf State.dieOf
  omega

theorem mem_clustersOf_self (s : State) (core : Nat) (q : Scope) : s.clusterOf core ∈ s.clustersOf core q := by
  simp [State.clustersOf, clusterOf_div]

/-- A release that can be done finds room for every store of the core. -/
theorem wb_releaseDrained {s : State} {core : Nat} {q : Scope} (h : releaseReady s core q = true) (hq : 2 ≤ Scope.rank q) (b : Nat) :
    mget [] ((releaseDrained s core q).core core).wb b = [] := by
  unfold releaseReady at h
  simp only [if_neg (show ¬ Scope.rank q ≤ 1 by omega), Bool.and_eq_true] at h
  have hw := List.all_eq_true.1 (List.all_eq_true.1 h.1 core (mem_coresOf_self s core q))
  rw [mget]
  cases hb : mfind ((releaseDrained s core q).core core).wb b with
  | none => rfl
  | some l => exact List.isEmpty_iff.1 (hw _ (mem_of_mfind hb))

theorem clcLineClean_releasePushed (s : State) (core : Nat) (q : Scope) (line : Nat) :
    ClcLineClean (releasePushed s core q) ((releaseDrained s core q).clusterOf core) line :=
  foldl_establishes (P := fun t k => ClcLineClean t k line) (fun _ _ _ h => h.mono (cleanerClc_pushCluster ..))
    (fun t k => clcLineClean_pushCluster t k line _) _ _ (mem_clustersOf_self ..)

/-- A release that can be done leaves what `ReleasedAt` says. -/
theorem releasedAt_release {s : State} {core : Nat} {q : Scope} (h : releaseReady s core q = true) :
    ReleasedAt (release s core q) core q := by
  refine ⟨fun hq b _ => ?_, fun hq line c hm => ?_, fun hq line x hx => ?_⟩
  · rw [(cleanerClc_release_of_drained s core hq).wb]
    exact wb_releaseDrained h hq b
  · rw [(cleanerClc_release_of_drained s core (by omega)).clusterOf] at hm
    exact (clcLineClean_releasePushed s core q line).mono (cleaner_release_of_pushed s core hq).toCleanerClc c hm
  · have hp : ∀ d, RdcLineClean (release s core q) d line := by
      intro d
      rw [release_eq, if_neg (by omega), if_neg (by omega), if_neg (by omega)]
      split
      · exact rdcLineClean_pushDies _ d line
      · exact (rdcLineClean_pushDies _ d line).mono (cleaner_flushHomes _)
    exact hp _ x hx

end Sys2Proof.Machine
end

section
/-! The end of a warp and of its block (O40). -/

namespace Sys2Proof.Machine

/-! ### States with the same launches and blocks -/

/-- The launches and the blocks of `t` are those of `s`. -/
structure SameBlocks (s t : State) : Prop where
  fed : t.fed = s.fed
  block : ∀ l h, t.block? l h = s.block? l h

theorem SameBlocks.refl (s : State) : SameBlocks s s := ⟨rfl, fun _ _ => rfl⟩

theorem SameBlocks.trans {s t u : State} (h : SameBlocks s t) (g : SameBlocks t u) : SameBlocks s u :=
  ⟨g.fed.trans h.fed, fun l k => (g.block l k).trans (h.block l k)⟩

theorem SameBlocks.foldl {β : Type} {f : State → β → State} (h : ∀ s x, SameBlocks s (f s x)) (l : List β) (s : State) :
    SameBlocks s (l.foldl f s) := by
  induction l generalizing s with
  | nil => exact .refl s
  | cons a t ih => exact (h s a).trans (ih _)

theorem SameWork.sameBlocks {s t : State} (h : SameWork s t) : SameBlocks s t := ⟨h.fed, h.block⟩

theorem sameBlocks_updWarp (s : State) (r : WRef) (f : Warp → Warp) : SameBlocks s (s.updWarp r f) := by
  refine ⟨?_, block?_updWarp s r f⟩
  unfold State.updWarp
  split <;> rfl

/-- An update of a core that keeps its warps and blocks. -/
theorem sameWork_updCore (s : State) (l : Nat) {f : Core → Core} (hw : (f (s.core l)).warps = (s.core l).warps)
    (hb : (f (s.core l)).blocks = (s.core l).blocks) : SameWork s (s.updCore l f) :=
  ⟨rfl, fun r => warp?_updCore s l f r hw, fun k h => block?_updCore s l f k h hb⟩

/-! ### Joining the queues, and the end of a halt (03 R74, 10 R246) -/

theorem sameWork_joinReady (s : State) (r : WRef) : SameWork s (joinReady s r) := by
  unfold joinReady
  split
  · exact .refl s
  · simp only
    split
    · exact .refl s
    · exact sameWork_updCore s _ rfl rfl

theorem sameWork_rejoin (s : State) (r : WRef) : SameWork s (rejoin s r) := by
  unfold rejoin
  split
  · exact .refl s
  · split
    · exact .refl s
    · exact sameWork_joinReady ..

theorem warp?_updWarp_none {s : State} {q : WRef} (hq : s.warp? q = none) (r : WRef) (f : Warp → Warp) :
    (s.updWarp r f).warp? q = none := by
  by_cases h : q = r
  · rw [← h, State.updWarp, hq]
    exact hq
  · rw [warp?_updWarp_other _ _ h, hq]

/-- One halted warp resumes. -/
def resumeWarp (core : Nat) (s : State) (x : Nat) : State :=
  rejoin (s.updWarp { core := core, slot := x } (fun w => { w with skid := none, stopped := false, inHandler := false }))
    { core := core, slot := x }

theorem resumeBlock_of {s : State} {core h : Nat} {b : Block} (hb : s.block? core h = some b) :
    resumeBlock s core h = b.slots.foldl (resumeWarp core) (s.setBlock core h { b with halt := none, haltBy := none }) := by
  unfold resumeBlock
  rw [hb]
  rfl

theorem sameBlocks_resumeWarp (core : Nat) (s : State) (x : Nat) : SameBlocks s (resumeWarp core s x) :=
  (sameBlocks_updWarp ..).trans (sameWork_rejoin ..).sameBlocks

theorem warp?_resumeBlock_none {s : State} {q : WRef} (hq : s.warp? q = none) (core h : Nat) :
    (resumeBlock s core h).warp? q = none := by
  cases hb : s.block? core h with
  | none => simpa only [resumeBlock, hb] using hq
  | some b =>
    rw [resumeBlock_of hb]
    refine List.foldlRecOn b.slots (resumeWarp core) (motive := fun t => t.warp? q = none) ?_ fun t ht x _ => ?_
    · rwa [warp?_setBlock]
    · exact ((sameWork_rejoin ..).warp q).trans (warp?_updWarp_none ht ..)

theorem fed_resumeBlock (s : State) (core h : Nat) : (resumeBlock s core h).fed = s.fed := by
  cases hb : s.block? core h with
  | none => simp only [resumeBlock, hb]
  | some b =>
    rw [resumeBlock_of hb]
    exact (SameBlocks.foldl (sameBlocks_resumeWarp core) ..).fed

theorem block?_resumeBlock {s : State} {core h : Nat} {b : Block} (hb : s.block? core h = some b) :
    (resumeBlock s core h).block? core h = some { b with halt := none, haltBy := none } := by
  rw [resumeBlock_of hb, (SameBlocks.foldl (sameBlocks_resumeWarp core) ..).block, block?_setBlock_same]

/-! ### A warp leaves its core (02 R32) -/

/-- The slots of a block without one. -/
def dropSlot (slot : Nat) (b : Block) : Block := { b with slots := b.slots.map (fun x => if x = slot then 255 else x) }

/-- A core without a warp. -/
def dropFromCore (slot : Nat) (c : Core) : Core :=
  { c.leave slot with
    warps := mdel c.warps slot
    ready := c.ready.filter (· != slot)
    mu := c.mu.filter (fun t => t.slot != slot) }

theorem dropWarp_of {s : State} {r : WRef} {w : Warp} (hw : s.warp? r = some w) :
    dropWarp s r = (s.updCore r.core (dropFromCore r.slot)).updBlock r.core w.blk (dropSlot r.slot) := by
  unfold dropWarp
  rw [hw]
  rfl

theorem fed_updBlock (s : State) (l h : Nat) (f : Block → Block) : (s.updBlock l h f).fed = s.fed := by
  unfold State.updBlock
  split <;> rfl

theorem fed_dropWarp (s : State) (r : WRef) : (dropWarp s r).fed = s.fed := by
  cases hw : s.warp? r with
  | none => simp only [dropWarp, hw]
  | some w =>
    rw [dropWarp_of hw]
    exact fed_updBlock ..

theorem warp?_dropWarp (s : State) (r q : WRef) : (dropWarp s r).warp? q = if q = r then none else s.warp? q := by
  cases hw : s.warp? r with
  | none =>
    simp only [dropWarp, hw]
    split
    next h => rw [h, hw]
    next => rfl
  | some w =>
    rw [dropWarp_of hw, warp?_updBlock]
    simp only [State.warp?, core_updCore]
    by_cases hc : q.core = r.core
    · by_cases hs : q.slot = r.slot
      · have : q = r := by cases q; cases r; simp_all
        simp [this, dropFromCore, mfind_mdel_same]
      · have : q ≠ r := fun h => hs (congrArg WRef.slot h)
        simp [this, hc, dropFromCore, mfind_mdel_other _ hs]
    · have : q ≠ r := fun h => hc (congrArg WRef.core h)
      simp [this, hc]

theorem block?_dropWarp {s : State} {r : WRef} {w : Warp} {b : Block} (hw : s.warp? r = some w)
    (hb : s.block? r.core w.blk = some b) : (dropWarp s r).block? r.core w.blk = some (dropSlot r.slot b) := by
  rw [dropWarp_of hw]
  exact block?_updBlock_same _ ((block?_updCore _ _ _ _ _ rfl).trans hb)

theorem cleaner_updBlock (s : State) (l h : Nat) (f : Block → Block) : Cleaner s (s.updBlock l h f) := by
  unfold State.updBlock
  split
  · exact .refl s
  · exact cleaner_updCore s l rfl

theorem cleaner_dropWarp (s : State) (r : WRef) : Cleaner s (dropWarp s r) := by
  cases hw : s.warp? r with
  | none =>
    simp only [dropWarp, hw]
    exact .refl s
  | some w =>
    rw [dropWarp_of hw]
    exact (cleaner_updCore s _ rfl).trans (cleaner_updBlock ..)

/-! ### Launches -/

theorem launch?_setLaunch (s : State) (l j : Nat) (x : Launch) : (s.setLaunch l x).launch? j = if j = l then some x else s.launch? j := by
  simp only [State.launch?, State.setLaunch_fed, mfind_mset]

theorem launch?_updLaunch (s : State) (l j : Nat) (g : Launch → Launch) :
    (s.updLaunch l g).launch? j = if j = l then (s.launch? l).map g else s.launch? j := by
  unfold State.updLaunch
  cases h : s.launch? l with
  | none =>
    simp only [Option.map_none]
    split
    next hj => rw [hj, h]
    next => rfl
  | some x => simp only [launch?_setLaunch, Option.map_some]

@[simp] theorem warp?_updLaunch (s : State) (l : Nat) (g : Launch → Launch) (r : WRef) : (s.updLaunch l g).warp? r = s.warp? r := by
  unfold State.updLaunch
  split <;> rfl

@[simp] theorem block?_updLaunch (s : State) (l : Nat) (g : Launch → Launch) (k h : Nat) :
    (s.updLaunch l g).block? k h = s.block? k h := by
  unfold State.updLaunch
  split <;> rfl

theorem cleaner_updLaunch (s : State) (l : Nat) (g : Launch → Launch) : Cleaner s (s.updLaunch l g) := by
  unfold State.updLaunch
  split
  · exact .refl s
  · exact cleaner_updFed ..

theorem sameWork_writeStatus (s : State) (ctx addr v num : Nat) : SameWork s (writeStatus s ctx addr v num) := by
  have h := (quiet_writeVirt s agentCp ctx addr (leBytes 8 v) needW).sameWork
  unfold writeStatus
  split
  · exact .refl s
  · split
    next hx => rwa [hx] at h
    next hx =>
      rw [hx] at h
      exact h.trans (sameWork_updCtl ..)

theorem cleaner_tryComplete (s : State) (lid : Nat) : Cleaner s (tryComplete s lid) := by
  unfold tryComplete
  split
  · exact .refl s
  next l _ =>
    simp only
    split
    · exact .refl s
    · have h : ∀ v, Cleaner s (writeStatus (s.setLaunch lid { l with complete := true }) l.ctx l.status v lid) :=
        fun _ => .trans (cleaner_updFed ..) (cleaner_writeStatus ..)
      split
      · exact (h _).trans (cleaner_updFed ..)
      · exact h _

/-- A launch that completes changes its mark alone. -/
theorem launch?_tryComplete (s : State) (lid j : Nat) {l : Launch} (hl : s.launch? j = some l) :
    ∃ c, (tryComplete s lid).launch? j = some { l with complete := c } := by
  unfold tryComplete
  split
  · exact ⟨l.complete, hl⟩
  next x hx =>
    simp only
    split
    · exact ⟨l.complete, hl⟩
    · have h : ∀ v, ∃ c, (writeStatus (s.setLaunch lid { x with complete := true }) x.ctx x.status v lid).launch? j =
          some { l with complete := c } := by
        intro v
        rw [(sameWork_writeStatus ..).launch?, launch?_setLaunch]
        split
        next hj =>
          rw [hj, hx] at hl
          cases hl
          exact ⟨true, rfl⟩
        next => exact ⟨l.complete, hl⟩
      split
      · exact h _
      · exact h _

/-! ### A block ends (19 R368, 03 R62) -/

theorem drainAll_of_empty {s : State} {core : Nat} (h : ∀ b, b < 4 → mget [] (s.core core).wb b = []) : drainAll s core = s := by
  unfold drainAll
  refine List.foldlRecOn (motive := fun t : State => t = s) (List.range 4) _ rfl fun t ht b hb => ?_
  rw [ht, h b (List.mem_range.1 hb)]
  rfl

/-- A split that applies on a core whose write buffers are empty. -/
def splitApplied (core n : Nat) (s : State) : State := s.updCore core (fun c => { c with spu := n, spuNew := none, l1 := [] })

theorem applySplit_of_empty {s : State} {core : Nat} (h : ∀ b, b < 4 → mget [] (s.core core).wb b = []) :
    applySplit s core = s ∨ ∃ n, applySplit s core = splitApplied core n s := by
  unfold applySplit
  simp only
  split
  · exact .inl rfl
  next n _ =>
    split
    · exact .inl rfl
    · exact .inr ⟨n, by rw [drainAll_of_empty h]; rfl⟩

theorem sameWork_splitApplied (core n : Nat) (s : State) : SameWork s (splitApplied core n s) := sameWork_updCore s core rfl rfl

theorem sameWork_applySplit (s : State) (core : Nat) : SameWork s (applySplit s core) := by
  unfold applySplit
  simp only
  split
  · exact .refl s
  · split
    · exact .refl s
    · exact (quiet_drainAll s core).sameWork.trans (sameWork_splitApplied ..)

theorem cleaner_applySplit {s : State} {core : Nat} (h : ∀ b, b < 4 → mget [] (s.core core).wb b = []) :
    Cleaner s (applySplit s core) := by
  obtain h | ⟨n, h⟩ := applySplit_of_empty h <;> rw [h]
  · exact .refl s
  · exact cleaner_updCore s core rfl

/-- A core that gives up a block, and the pre-emption or restore of it. -/
def freeBlock (h : Nat) (c : Core) : Core :=
  let letGo := fun (p : PreCtl) => if p.blk = some h then { p with busy := false, blk := none } else p
  { c with blocks := mdel c.blocks h, pre := letGo c.pre, rst := letGo c.rst }

/-- A launch whose block has ended. -/
def countEnded (l : Launch) : Launch := { l with running := l.running - 1, ended := l.ended + 1 }

/-- The state of a block's end before its launch may complete. -/
def blockFreed (s : State) (core h : Nat) (b : Block) : State :=
  ((dropArrivals (b.slots.foldl (fun s x => dropWarp s { core := core, slot := x }) s) b.lid b.bid).updCore core
    (freeBlock h)).updLaunch b.lid countEnded

/-- The launch of a node's block may let the launch that it belongs to complete. -/
def completeOwner (s : State) (lid : Nat) : State :=
  match s.launch? lid with
  | none => s
  | some l => match l.issuer with
    | .node p _ => tryComplete s p
    | _ => s

theorem endBlock_of {s : State} {core h : Nat} {b : Block} (hb : s.block? core h = some b) :
    endBlock s core h = completeOwner (applySplit (tryComplete (blockFreed s core h b) b.lid) core) b.lid := by
  unfold endBlock
  rw [hb]
  rfl

theorem completeOwner_cases (s : State) (lid : Nat) : completeOwner s lid = s ∨ ∃ p, completeOwner s lid = tryComplete s p := by
  unfold completeOwner
  split
  · exact .inl rfl
  · split
    · exact .inr ⟨_, rfl⟩
    · exact .inl rfl

theorem cleaner_blockFreed (s : State) (core h : Nat) (b : Block) : Cleaner s (blockFreed s core h b) :=
  (((Cleaner.foldl (fun _ _ => cleaner_dropWarp ..) b.slots s).trans (cleaner_updFed ..)).trans (cleaner_updCore _ core rfl)).trans
    (cleaner_updLaunch ..)

theorem warp?_blockFreed_none {s : State} {q : WRef} (hq : s.warp? q = none) (core h : Nat) (b : Block) :
    (blockFreed s core h b).warp? q = none := by
  rw [blockFreed, warp?_updLaunch]
  refine (warp?_updCore _ _ _ _ rfl).trans ?_
  refine List.foldlRecOn (motive := fun t : State => t.warp? q = none) b.slots _ hq fun t ht x _ => ?_
  rw [warp?_dropWarp, ht, ite_self]

theorem block?_blockFreed (s : State) (core h : Nat) (b : Block) : (blockFreed s core h b).block? core h = none := by
  rw [blockFreed, block?_updLaunch, State.block?, core_updCore, if_pos rfl]
  exact mfind_mdel_same _ _

theorem fed_foldl_dropWarp (core : Nat) (l : List Nat) (s : State) :
    (l.foldl (fun s x => dropWarp s { core := core, slot := x }) s).fed = s.fed :=
  List.foldlRecOn (motive := fun t : State => t.fed = s.fed) l _ rfl fun _ ht _ _ => (fed_dropWarp ..).trans ht

theorem launch?_blockFreed {s : State} {b : Block} {l : Launch} (hl : s.launch? b.lid = some l) (core h : Nat) :
    (blockFreed s core h b).launch? b.lid = some (countEnded l) := by
  have hf : ((dropArrivals (b.slots.foldl (fun s x => dropWarp s { core := core, slot := x }) s) b.lid b.bid).updCore core
      (freeBlock h)).launch? b.lid = some l :=
    Eq.trans (congrArg (fun f : Fed => mfind f.launches b.lid) (fed_foldl_dropWarp core b.slots s) :) hl
  rw [blockFreed, launch?_updLaunch, if_pos rfl, hf, Option.map_some]

/-- The end of a block adds no warp, takes the block from its core, counts its end, and leaves released what was released. -/
theorem endBlock_leaves {s : State} {core h : Nat} {b : Block} (hb : s.block? core h = some b) (hr : ReleasedAt s core .dv) :
    (∀ q, s.warp? q = none → (endBlock s core h).warp? q = none) ∧ (endBlock s core h).block? core h = none ∧
      ReleasedAt (endBlock s core h) core .dv ∧
      ∀ l, s.launch? b.lid = some l → ∃ l1, (endBlock s core h).launch? b.lid = some l1 ∧ l1.running = l.running - 1 ∧
        l1.ended = l.ended + 1 := by
  have h1 := steady_tryComplete (blockFreed s core h b) b.lid
  have c1 : Cleaner s (tryComplete (blockFreed s core h b) b.lid) := (cleaner_blockFreed ..).trans (cleaner_tryComplete ..)
  have h2 := sameWork_applySplit (tryComplete (blockFreed s core h b) b.lid) core
  have c2 := c1.trans (cleaner_applySplit ((hr.mono c1).buffers (by decide)))
  rw [endBlock_of hb]
  generalize applySplit (tryComplete (blockFreed s core h b) b.lid) core = t at h2 c2 ⊢
  have hw : ∀ q, s.warp? q = none → t.warp? q = none := fun q hq =>
    (h2.warp q).trans ((h1.warp q).trans (warp?_blockFreed_none hq core h b))
  have hk : t.block? core h = none := (h2.block core h).trans ((h1.block core h).trans (block?_blockFreed ..))
  have hl : ∀ l, s.launch? b.lid = some l → ∃ c, t.launch? b.lid = some { countEnded l with complete := c } := by
    intro l hl
    obtain ⟨c, hc⟩ := launch?_tryComplete (blockFreed s core h b) b.lid b.lid (launch?_blockFreed hl core h)
    exact ⟨c, (h2.launch? _).trans hc⟩
  obtain ho | ⟨p, ho⟩ := completeOwner_cases t b.lid <;> rw [ho]
  · refine ⟨hw, hk, hr.mono c2, fun l h => ?_⟩
    obtain ⟨c, hc⟩ := hl l h
    exact ⟨_, hc, rfl, rfl⟩
  · have h3 := steady_tryComplete t p
    refine ⟨fun q hq => (h3.warp q).trans (hw q hq), (h3.block core h).trans hk, hr.mono (c2.trans (cleaner_tryComplete ..)),
      fun l h => ?_⟩
    obtain ⟨c, hc⟩ := hl l h
    obtain ⟨c', hc'⟩ := launch?_tryComplete t p b.lid hc
    exact ⟨_, hc', rfl, rfl⟩

/-! ### `WARP_END` (02 R32) -/

/-- The state once a warp has left its core, and the halt that it was the primary of is over. -/
def warpGone (s : State) (core slot : Nat) (w : Warp) (b : Block) : State :=
  let s1 := dropWarp s { core := core, slot := slot }
  if b.halt = some slot then resumeBlock s1 core w.blk else s1

section
variable {s : State} {core slot : Nat} {w : Warp} {b : Block}

theorem warp?_warpGone (s : State) (core slot : Nat) (w : Warp) (b : Block) :
    (warpGone s core slot w b).warp? { core := core, slot := slot } = none := by
  have h : (dropWarp s { core := core, slot := slot }).warp? { core := core, slot := slot } = none := by
    rw [warp?_dropWarp, if_pos rfl]
  unfold warpGone
  simp only
  split
  · exact warp?_resumeBlock_none h ..
  · exact h

theorem fed_warpGone (s : State) (core slot : Nat) (w : Warp) (b : Block) : (warpGone s core slot w b).fed = s.fed := by
  unfold warpGone
  simp only
  split
  · exact (fed_resumeBlock ..).trans (fed_dropWarp ..)
  · exact fed_dropWarp ..

theorem block?_warpGone (hw : s.warp? { core := core, slot := slot } = some w) (hb : s.block? core w.blk = some b) :
    ∃ b1, (warpGone s core slot w b).block? core w.blk = some b1 ∧ b1.lid = b.lid ∧
      b1.slots = b.slots.map (fun x => if x = slot then 255 else x) := by
  have h := block?_dropWarp hw hb
  unfold warpGone
  simp only
  split
  · exact ⟨_, block?_resumeBlock h, rfl, rfl⟩
  · exact ⟨_, h, rfl, rfl⟩

/-- A warp whose lanes have exited and whose work is complete ends; where it is the last, the release at .dv must be possible. -/
theorem exec_warpEnd_of_complete (hw : s.warp? { core := core, slot := slot } = some w) (hb : s.block? core w.blk = some b)
    (hx : w.exited = allLanes)
    (h3 : w.level = 3 → w.t2.cause = 34#6 ∨ w.t2.mask ≠ 0#32 ∨ (w.stopped = true ∧ b.phase = .aborting))
    (hl : State.ldcnt w = 0) (hs : s.stcnt { core := core, slot := slot } w = 0) (hc : State.cpcnt w = 0)
    (ht : s.tlcnt { core := core, slot := slot } = 0) :
    let last := b.slots.all (fun x => x = 255 || x = slot)
    exec (.warpEnd core slot) s = .next (if last && !releaseReady (warpGone s core slot w b) core .dv then s
      else if last then endBlock (release (warpGone s core slot w b) core .dv) core w.blk else warpGone s core slot w b) := by
  have hsaved : (decide (w.level = 3) && decide (w.t2.mask = 0#32) && w.t2.cause != 34#6 &&
      !(w.stopped && decide (b.phase = .aborting))) = false := by
    by_cases hlv : w.level = 3
    · rcases h3 hlv with h | h | ⟨h, h'⟩
      · simp [h]
      · simp [h]
      · simp [h, h']
    · simp [hlv]
  show execWarpEnd core slot s = _
  simp only [execWarpEnd, hw, hb, hx, hl, hs, hc, ht, Option.map_some, Option.getD_some, hsaved, bne_self_eq_false, Bool.or_self,
    Bool.false_eq_true, if_false]
  rfl

end

end Sys2Proof.Machine
end

section
/-! Where the blocks of a launch and of its nodes start (O40). -/

namespace Sys2Proof.Machine

/-! ### The slots of a block (02 R41) -/

/-- The next warp of a block takes its slot from the free ones of its kind. -/
def takeSlot (r : List Nat × List Nat × List Nat) (a : Bool) : List Nat × List Nat × List Nat :=
  if a then (r.1 ++ r.2.2.take 1, r.2.1, r.2.2.drop 1) else (r.1 ++ r.2.1.take 1, r.2.1.drop 1, r.2.2)

theorem slotsFor_eq (c : Core) (kinds : List Bool) :
    slotsFor c kinds = (kinds.foldl takeSlot ([], freeSlots c false (kinds.filter (fun a => !a)).length,
      freeSlots c true (kinds.filter (fun a => a)).length)).1 := rfl

/-- The slots taken and those still free. -/
def allSlots (r : List Nat × List Nat × List Nat) : List Nat := r.1 ++ (r.2.1 ++ r.2.2)

theorem allSlots_takeSlot (r : List Nat × List Nat × List Nat) (a : Bool) : (allSlots (takeSlot r a)).Perm (allSlots r) := by
  obtain ⟨x, y, z⟩ := r
  cases a
  · simp only [allSlots, takeSlot, Bool.false_eq_true, if_false, List.append_assoc]
    rw [← List.append_assoc (y.take 1), List.take_append_drop]
  · simp only [allSlots, takeSlot, if_true, List.append_assoc]
    refine List.Perm.append_left x ?_
    calc z.take 1 ++ (y ++ z.drop 1) = (z.take 1 ++ y) ++ z.drop 1 := (List.append_assoc ..).symm
      _ |>.Perm ((y ++ z.take 1) ++ z.drop 1) := List.Perm.append_right _ List.perm_append_comm
      _ = y ++ z := by rw [List.append_assoc, List.take_append_drop]

theorem nodup_freeSlots (c : Core) (n m : Nat) : (freeSlots c false n ++ freeSlots c true m).Nodup := by
  have hs : ∀ (p : Nat → Bool) (l : List Nat) k, l.Nodup → ((l.filter p).take k).Nodup := fun p l k h =>
    (h.filter p).sublist (List.take_sublist ..)
  refine List.Nodup.append (hs _ _ _ List.nodup_range) (hs _ _ _ (List.nodup_range.map fun _ _ h => Nat.add_right_cancel h)) ?_
  intro x hx hy
  have h1 := (List.mem_filter.1 (List.mem_of_mem_take hx)).1
  have h2 := (List.mem_filter.1 (List.mem_of_mem_take hy)).1
  simp only [Bool.false_eq_true, if_false, if_true, List.mem_range, List.mem_map] at h1 h2
  obtain ⟨y, -, rfl⟩ := h2
  omega

/-- The warps of a block have slots of their own. -/
theorem nodup_slotsFor (c : Core) (kinds : List Bool) : (slotsFor c kinds).Nodup := by
  rw [slotsFor_eq]
  have h : (allSlots (kinds.foldl takeSlot ([], freeSlots c false (kinds.filter (fun a => !a)).length,
      freeSlots c true (kinds.filter (fun a => a)).length))).Nodup :=
    List.foldlRecOn (motive := fun r => (allSlots r).Nodup) kinds takeSlot (nodup_freeSlots ..)
      fun r hr a _ => (allSlots_takeSlot r a).nodup_iff.2 hr
  exact h.of_append_left

/-! ### A warp enters the schedule -/

theorem sameBlocks_setWarp (s : State) (r : WRef) (w : Warp) : SameBlocks s (s.setWarp r w) := ⟨rfl, block?_setWarp s r w⟩

theorem sameBlocks_enterReady (s : State) (core slot : Nat) : SameBlocks s (enterReady s core slot) := by
  unfold enterReady
  split
  · exact .refl s
  · split
    · exact (sameWork_updCore s core rfl rfl).sameBlocks.trans (sameBlocks_updWarp ..)
    · exact (sameWork_joinReady ..).sameBlocks

theorem warp?_enterReady_other (s : State) {core slot : Nat} {q : WRef} (h : q ≠ { core := core, slot := slot }) :
    (enterReady s core slot).warp? q = s.warp? q := by
  unfold enterReady
  split
  · rfl
  · split
    · rw [warp?_updWarp_other _ _ h]
      exact warp?_updCore _ _ _ _ rfl
    · exact (sameWork_joinReady ..).warp q

theorem warp?_enterReady {s : State} {core slot : Nat} {w : Warp} (hw : s.warp? { core := core, slot := slot } = some w) :
    ∃ n, (enterReady s core slot).warp? { core := core, slot := slot } = some { w with enter := n } := by
  unfold enterReady
  split
  · exact ⟨w.enter, hw⟩
  · split
    · exact ⟨_, warp?_updWarp_same _ ((warp?_updCore _ _ _ _ rfl).trans hw)⟩
    · exact ⟨w.enter, ((sameWork_joinReady ..).warp _).trans hw⟩

/-! ### A block is placed (02 R43) -/

/-- The block as it is placed. -/
def placedBlock (s : State) (lid : Nat) (l : Launch) (bid core : Nat) (recs : List Byte) : Block :=
  let slots := slotsFor (s.core core) ((warpRoles l.hdr).map (fun r => r.2.access))
  { lid := lid, bid := BitVec.ofNat 32 bid, ctx := l.ctx, nbv := l.nbvEff, size := l.hdr.scr, nbar := l.hdr.nbar,
    nshacc := l.hdr.nshacc, scr := putBytes [] (bytesAt 0 recs), slots := slots, bslot := slots.headD 0 }

/-- Warp i of a block starts in its slot. -/
def startOne (core : Nat) (slots : List Nat) (rs : List (Nat × RoleD)) (new : Nat → Nat × RoleD → Warp) (s : State) (i : Nat) :
    State :=
  match rs[i]?, slots[i]? with
  | some r, some sl => enterReady (s.setWarp { core := core, slot := sl } (new i r)) core sl
  | _, _ => s

/-- The warps of a block as they start. -/
def newWarp (s : State) (l : Launch) (bid nrec : Nat) (i : Nat) (r : Nat × RoleD) : Warp :=
  startWarp s.fed.nextBlk i r.1 r.2 l.hdr.karg (BitVec.ofNat 32 bid) nrec

/-- The state with the block placed and its warps started. -/
def warpsStarted (s : State) (lid : Nat) (l : Launch) (bid core : Nat) (recs : List Byte) (nrec : Nat) : State :=
  let b := placedBlock s lid l bid core recs
  (List.range (warpRoles l.hdr).length).foldl (startOne core b.slots (warpRoles l.hdr) (newWarp s l bid nrec))
    ((s.setBlock core s.fed.nextBlk b).updFed (fun f => { f with nextBlk := s.fed.nextBlk + 1 }))

/-- A core that gives up a tenant's windows and its mark of a pre-emption. -/
def freshCore (ctx : Nat) (c : Core) : Core :=
  { c with iwin := c.iwin.filter (fun e => e.1 / 2 ^ 54 != ctx), quota := c.quota.map (fun e =>
    if e.1 = ctx then (e.1, { e.2 with pre := false }) else e) }

/-- A launch of which one block more runs. -/
def countRunning (l : Launch) : Launch := { l with running := l.running + 1 }

theorem placeBlock_eq (s : State) (lid : Nat) (l : Launch) (bid core : Nat) (recs : List Byte) (nrec : Nat) :
    placeBlock s lid l bid core recs nrec =
      acquire (((warpsStarted s lid l bid core recs nrec).updCore core (freshCore l.ctx)).updLaunch lid countRunning) core .dv := rfl

theorem sameBlocks_startOne (core : Nat) (slots : List Nat) (rs : List (Nat × RoleD)) (new : Nat → Nat × RoleD → Warp) (s : State)
    (i : Nat) : SameBlocks s (startOne core slots rs new s i) := by
  unfold startOne
  split
  · exact (sameBlocks_setWarp ..).trans (sameBlocks_enterReady ..)
  · exact .refl s

/-- Every warp that has started holds its registers: no later one takes its slot. -/
theorem warp?_foldl_startOne {core : Nat} {slots : List Nat} {rs : List (Nat × RoleD)} (new : Nat → Nat × RoleD → Warp) (s : State)
    (hn : slots.Nodup) (n : Nat) {i sl : Nat} {r : Nat × RoleD} (hi : i < n) (hr : rs[i]? = some r) (hs : slots[i]? = some sl) :
    ∃ k, ((List.range n).foldl (startOne core slots rs new) s).warp? { core := core, slot := sl } = some { new i r with enter := k } := by
  induction n with
  | zero => omega
  | succ n ih =>
    rw [List.range_succ, List.foldl_append]
    generalize (List.range n).foldl (startOne core slots rs new) s = t at ih ⊢
    simp only [List.foldl_cons, List.foldl_nil]
    obtain h | rfl := Nat.lt_succ_iff_lt_or_eq.1 hi
    · obtain ⟨k, hk⟩ := ih h
      refine ⟨k, ?_⟩
      rw [← hk]
      unfold startOne
      split
      next r' sl' _ hs' =>
        have hne : sl ≠ sl' := fun he => by
          have := (List.getElem?_inj (List.getElem?_eq_some_iff.1 hs).1 hn).1 (hs.trans (he ▸ hs'.symm))
          omega
        have hq : (⟨core, sl⟩ : WRef) ≠ ⟨core, sl'⟩ := fun he => hne (congrArg WRef.slot he)
        rw [warp?_enterReady_other _ hq, warp?_setWarp_other _ _ _ _ hq]
      next => rfl
    · unfold startOne
      rw [hr, hs]
      exact warp?_enterReady (warp?_setWarp ..)

theorem fed_warpsStarted (s : State) (lid : Nat) (l : Launch) (bid core : Nat) (recs : List Byte) (nrec : Nat) :
    (warpsStarted s lid l bid core recs nrec).fed = { s.fed with nextBlk := s.fed.nextBlk + 1 } :=
  (SameBlocks.foldl (sameBlocks_startOne _ _ _ _) _ _).fed

theorem block?_warpsStarted (s : State) (lid : Nat) (l : Launch) (bid core : Nat) (recs : List Byte) (nrec : Nat) :
    (warpsStarted s lid l bid core recs nrec).block? core s.fed.nextBlk = some (placedBlock s lid l bid core recs) :=
  ((SameBlocks.foldl (sameBlocks_startOne _ _ _ _) _ _).block _ _).trans (block?_setBlock_same ..)

theorem block?_placeBlock (s : State) (lid : Nat) (l : Launch) (bid core : Nat) (recs : List Byte) (nrec : Nat) :
    (placeBlock s lid l bid core recs nrec).block? core s.fed.nextBlk = some (placedBlock s lid l bid core recs) := by
  rw [placeBlock_eq, (quiet_acquire ..).block, block?_updLaunch]
  exact (block?_updCore _ _ _ _ _ rfl).trans (block?_warpsStarted ..)

theorem launch?_placeBlock (s : State) (lid j : Nat) (l : Launch) (bid core : Nat) (recs : List Byte) (nrec : Nat) :
    (placeBlock s lid l bid core recs nrec).launch? j = if j = lid then (s.launch? j).map countRunning else s.launch? j := by
  have h : ∀ k, ((warpsStarted s lid l bid core recs nrec).updCore core (freshCore l.ctx)).launch? k = s.launch? k := fun k =>
    (congrArg (fun f : Fed => mfind f.launches k) (fed_warpsStarted s lid l bid core recs nrec) :)
  rw [placeBlock_eq, (quiet_acquire ..).sameWork.launch?, launch?_updLaunch, h, h]
  split
  next hj => rw [hj]
  next => rfl

theorem warp?_placeBlock (s : State) (lid : Nat) (l : Launch) (bid core : Nat) (recs : List Byte) (nrec : Nat) {i sl : Nat}
    {r : Nat × RoleD} (hr : (warpRoles l.hdr)[i]? = some r) (hs : (placedBlock s lid l bid core recs).slots[i]? = some sl) :
    ∃ k, (placeBlock s lid l bid core recs nrec).warp? { core := core, slot := sl } =
      some { newWarp s l bid nrec i r with enter := k } := by
  rw [placeBlock_eq, (quiet_acquire ..).warp, warp?_updLaunch, warp?_updCore _ _ _ _ rfl]
  exact warp?_foldl_startOne _ _ (nodup_slotsFor ..) _ (List.getElem?_eq_some_iff.1 hr).1 hr hs

theorem newWarp_registers (s : State) (l : Launch) (bid nrec i : Nat) (r : Nat × RoleD) :
    (newWarp s l bid nrec i r).getS 0 = l.hdr.karg ∧ (newWarp s l bid nrec i r).getS 1 = BitVec.ofNat 64 (bid % 2 ^ 32) ∧
      (newWarp s l bid nrec i r).getS 2 = BitVec.ofNat 64 nrec := by
  refine ⟨?_, ?_, ?_⟩
  · simp [newWarp, startWarp, Warp.getS_putS]
  · simp only [newWarp, startWarp, Warp.getS_putS]
    apply BitVec.eq_of_toNat_eq
    simp
  · simp [newWarp, startWarp, Warp.getS_putS]

end Sys2Proof.Machine
end

section
/-! Blocks and nodes start and end (O40). -/

namespace Sys2Proof.Machine

/-! ### `BLOCK_PLACE` (03 R64) -/

/-- Block `bid` of a launch stands on a core, and its warps hold the registers with which they start (02 R43). -/
def PlacedAt (s t : State) (lid : Nat) (l : Launch) (bid core nrec : Nat) : Prop :=
  ∃ b, t.block? core s.fed.nextBlk = some b ∧
    b.lid = lid ∧ b.bid = BitVec.ofNat 32 bid ∧ b.ctx = l.ctx ∧ b.nbv = l.nbvEff ∧ b.size = l.hdr.scr ∧ b.nbar = l.hdr.nbar ∧
    b.nshacc = l.hdr.nshacc ∧ ∀ i r sl, (warpRoles l.hdr)[i]? = some r → b.slots[i]? = some sl →
      ∃ w, t.warp? { core := core, slot := sl } = some w ∧ w.blk = s.fed.nextBlk ∧ w.id = i ∧ w.role = r.1 ∧
        w.access = r.2.access ∧ w.pc = BitVec.ofNat 54 r.2.entry ∧ w.exec = allLanes ∧ w.level = 0 ∧ w.getS 0 = l.hdr.karg ∧
        w.getS 1 = BitVec.ofNat 64 (bid % 2 ^ 32) ∧ w.getS 2 = BitVec.ofNat 64 nrec

theorem placedAt_placeBlock {s t : State} {lid : Nat} {l : Launch} {bid core : Nat} {recs : List Byte} {nrec : Nat}
    (hb : ∀ k h, t.block? k h = (placeBlock s lid l bid core recs nrec).block? k h)
    (hw : ∀ r, t.warp? r = (placeBlock s lid l bid core recs nrec).warp? r) : PlacedAt s t lid l bid core nrec := by
  refine ⟨_, (hb ..).trans (block?_placeBlock ..), rfl, rfl, rfl, rfl, rfl, rfl, rfl, fun i r sl hr hs => ?_⟩
  obtain ⟨k, hk⟩ := warp?_placeBlock s lid l bid core recs nrec hr hs
  exact ⟨_, (hw _).trans hk, rfl, rfl, rfl, rfl, rfl, rfl, rfl, newWarp_registers ..⟩

/-- The deal of a launch goes on at block `nx`, its cursor at `cur`. -/
def dealtTo (lid cur nx : Nat) (early : List Nat) (s : State) : State :=
  s.updLaunch lid (fun x => { x with cursor := cur, next := nx, early := early.filter (fun y => y ≥ nx) })

theorem dealtTo_placeBlock {s : State} {lid : Nat} {l : Launch} (hl : s.launch? lid = some l) (b c cur nx : Nat) (early : List Nat) :
    PlacedAt s (dealtTo lid cur nx early (placeBlock s lid l b c [] 0)) lid l b c 0 ∧
      ∃ l1, (dealtTo lid cur nx early (placeBlock s lid l b c [] 0)).launch? lid = some l1 ∧ l1.next = nx ∧ l1.cursor = cur ∧
        l1.running = l.running + 1 := by
  refine ⟨placedAt_placeBlock (fun _ _ => block?_updLaunch ..) (fun _ => warp?_updLaunch ..), ?_⟩
  rw [dealtTo, launch?_updLaunch, if_pos rfl, launch?_placeBlock, if_pos rfl, hl]
  exact ⟨_, rfl, rfl, rfl, rfl⟩

/-- The cores that hold the residency of a block, where its launch asks for one (03 R65). -/
def affHolders (s : State) (l : Launch) (b : Nat) : List Nat :=
  if l.hdr.affinity then holders s l.ctx (eligible s l.ctx l.hdr) (affName l.hdr b) else []

section
variable {s : State} {lid : Nat} {l : Launch} {b : Nat} (hb : nextBlock l.early.length l.next l.early = b) (hc : l.complete = false)
  (ha : l.aborted = false) (hn : l.next < l.hdr.nblock) (hbn : b < l.hdr.nblock) (hco : colocSet l.hdr b = none)
  (hel : eligible s l.ctx l.hdr ≠ [])
include hb hc ha hn hbn hco hel

/-- A block in no COLOC group goes to the first core that fits, or to a holder of its residency. -/
theorem dealOne_of_single :
    dealOne s lid l = if (affHolders s l b).isEmpty then
        (firstFit s (eligible s l.ctx l.hdr) l.cursor (hdrNeed l.hdr)).map (fun c =>
          dealtTo lid (c + 1) (b + 1) l.early (placeBlock s lid l b c [] 0))
      else ((affHolders s l b).find? (fun c => coreFits (s.core c) (hdrNeed l.hdr))).map (fun c =>
        dealtTo lid l.cursor (b + 1) l.early (placeBlock s lid l b c [] 0)) := by
  have hd : l.allDealt = false := by simpa [Launch.allDealt] using hn
  have he : (eligible s l.ctx l.hdr).isEmpty = false := by simpa [List.isEmpty_iff] using hel
  unfold dealOne
  simp only [hb, hc, ha, hd, he, hco, Bool.or_self, Bool.false_eq_true, if_false, if_neg (Nat.not_le.2 hbn)]
  rfl

theorem dealOne_at_cursor {c : Nat} (h0 : affHolders s l b = [])
    (hf : firstFit s (eligible s l.ctx l.hdr) l.cursor (hdrNeed l.hdr) = some c) :
    dealOne s lid l = some (dealtTo lid (c + 1) (b + 1) l.early (placeBlock s lid l b c [] 0)) := by
  rw [dealOne_of_single hb hc ha hn hbn hco hel, if_pos (List.isEmpty_iff.2 h0), hf, Option.map_some]

theorem dealOne_at_holder {c : Nat} (h0 : affHolders s l b ≠ [])
    (hf : (affHolders s l b).find? (fun c => coreFits (s.core c) (hdrNeed l.hdr)) = some c) :
    dealOne s lid l = some (dealtTo lid l.cursor (b + 1) l.early (placeBlock s lid l b c [] 0)) := by
  rw [dealOne_of_single hb hc ha hn hbn hco hel, if_neg (fun h => h0 (List.isEmpty_iff.1 h)), hf, Option.map_some]

end

theorem exec_blockPlace_of_launch {s : State} {lid : Nat} {l : Launch} (hl : s.launch? lid = some l) (hi : ∀ p k, l.issuer ≠ .node p k)
    (hd : dealBlocked s lid l = false) : exec (.blockPlace lid) s = .next ((dealOne s lid l).getD s) := by
  show execBlockPlace lid s = _
  simp only [execBlockPlace, hl]
  cases h : l.issuer with
  | node p k => exact absurd h (hi p k)
  | _ => simp only [hd, Bool.false_eq_true, if_false]

/-! ### The records of a node (02 R58) -/

theorem sameWork_askPage (s : State) (ctx va : Nat) : SameWork s (askPage s ctx va) := by
  unfold askPage
  simp only
  split
  · exact .refl s
  · exact sameWork_updCtl ..

theorem sameWork_askRun (s : State) (agent ctx va n : Nat) (need : BitVec 4) (wr : Bool) :
    SameWork s (askRun s agent ctx va n need wr) := by
  refine SameWork.foldl (fun s p => ?_) _ _
  split
  · split
    · exact sameWork_askPage ..
    · exact .refl s
  · exact .refl s

theorem sameWork_readRecs (s : State) (ctx : Nat) (n : NodeD) (head : Nat) (l : List (Nat × Bool)) (out : SegOutcome) :
    SameWork s (readRecs s ctx n head l out).1 := by
  refine SameWork.foldl_fst (fun r i => ?_) _ (s, some ([] : List Byte))
  obtain ⟨t, _ | acc⟩ := r
  · exact .refl t
  · simp only
    split
    · exact sameWork_freeBytes ..
    · have h := (quiet_readVirt t agentCp ctx (n.ring + (head + i) % max 1 n.cap * n.recsz) n.recsz needR).sameWork
      split
      next hx => rwa [hx] at h
      next hx =>
        rw [hx] at h
        split
        · exact h.trans (sameWork_askRun ..)
        · exact sameWork_freeBytes ..

/-! ### A block of a node starts (02 R58) -/

/-- The oldest records of a node, as many as a block of it takes. -/
def oldestRecs (l : Launch) (idx : Nat) (n : NodeD) : List (Nat × Bool) := (mget [] l.pending idx).take (max 1 n.thresh)

/-- The core on which the next block of a node starts. -/
def nodeCore (s : State) (x : Launch) : Option Nat :=
  let hs := affHolders s x x.next
  if hs.isEmpty then firstFit s (eligible s x.ctx x.hdr) x.cursor (hdrNeed x.hdr)
  else hs.find? (fun c => coreFits (s.core c) (hdrNeed x.hdr))

/-- The launch of a node deals its next block. -/
def dealNode (cur : Nat) (y : Launch) : Launch := { y with cursor := cur, next := y.next + 1 }

/-- A launch gives its records of a node to a block. -/
def takeRecs (l : Launch) (idx k : Nat) (drain : Bool) (y : Launch) : Launch :=
  { y with pending := mput [] y.pending idx ((mget [] l.pending idx).drop k), heads := mset y.heads idx (mget 0 l.heads idx + k)
           draining := drain }

/-- The state with the block of a node placed and its records taken, before HEAD is written to memory. -/
def nodeStarted (s1 : State) (lid idx : Nat) (l : Launch) (cid : Nat) (x : Launch) (c cur : Nat) (bytes : List Byte) (k : Nat)
    (drain : Bool) : State :=
  ((placeBlock s1 cid x x.next c bytes k).updLaunch cid (dealNode cur)).updLaunch lid (takeRecs l idx k drain)

section
variable {s : State} {lid idx : Nat} {l : Launch} {n : NodeD} {out : SegOutcome} {cid : Nat} {x : Launch}

theorem startNode_of_fit {c : Nat} {s1 : State} {bytes : List Byte} (hc : childOf s lid idx = some (cid, x))
    (hr : oldestRecs l idx n ≠ []) (ha : x.aborted = false) (hel : eligible s x.ctx x.hdr ≠ []) (hf : nodeCore s x = some c)
    (hrd : readRecs s l.ctx n (mget 0 l.heads idx) (oldestRecs l idx n) out = (s1, some bytes)) :
    ∃ cur, startNode s lid idx l n out =
      (writeVirt (nodeStarted s1 lid idx l cid x c cur bytes (oldestRecs l idx n).length (drained s lid l)) agentCp l.ctx
        (n.addr + 0x20) (leBytes 8 (mget 0 l.heads idx + (oldestRecs l idx n).length)) needW).1 := by
  have h1 : ((oldestRecs l idx n).isEmpty || x.aborted) = false := by simpa [ha, List.isEmpty_iff] using hr
  have h2 : (eligible s x.ctx x.hdr).isEmpty = false := by simpa [List.isEmpty_iff] using hel
  refine ⟨if (affHolders s x x.next).isEmpty then c + 1 else x.cursor, ?_⟩
  unfold startNode
  unfold oldestRecs at *
  unfold nodeCore affHolders at hf
  unfold affHolders
  simp only [hc, h1, h2, hf, hrd, Bool.false_eq_true, if_false]
  rfl

theorem startNode_of_aborted (hc : childOf s lid idx = some (cid, x)) (ha : x.aborted = true) : startNode s lid idx l n out = s := by
  unfold startNode
  simp only [hc, ha, Bool.or_true, if_true]

theorem startNode_of_noCore (hc : childOf s lid idx = some (cid, x)) (hr : oldestRecs l idx n ≠ []) (ha : x.aborted = false)
    (hel : eligible s x.ctx x.hdr = []) :
    startNode s lid idx l n out = tryComplete (markLaunch s x cid (fun y => { y with aborted := true })) lid := by
  have h1 : ((oldestRecs l idx n).isEmpty || x.aborted) = false := by simpa [ha, List.isEmpty_iff] using hr
  unfold startNode
  unfold oldestRecs at h1
  simp only [hc, h1, hel, List.isEmpty_nil, Bool.false_eq_true, if_false, if_true]

theorem mfind_ne_none_of_mem {α : Type} {m : SMap α} {k : Nat} {v : α} (h : (k, v) ∈ m) : mfind m k ≠ none := by
  induction m with
  | nil => exact absurd h List.not_mem_nil
  | cons e t ih =>
    obtain ⟨j, y⟩ := e
    simp only [mfind]
    split
    · exact Option.some_ne_none y
    next hj => exact ih ((List.mem_cons.1 h).resolve_left fun he => hj (congrArg Prod.fst he).symm)

/-- The launch of a node is of the node, and its number is one of a launch. -/
theorem childOf_issuer (hc : childOf s lid idx = some (cid, x)) : x.issuer = .node lid idx ∧ ∃ y, s.launch? cid = some y := by
  have hm := List.mem_of_find?_eq_some hc
  refine ⟨by simpa using List.find?_some hc, ?_⟩
  rw [State.launch?]
  cases hk : mfind s.fed.launches cid with
  | some y => exact ⟨y, rfl⟩
  | none => exact absurd hk (mfind_ne_none_of_mem hm)

/-- What the start of a node's block leaves: the launch without the records taken, and the block with them. -/
theorem nodeStarted_leaves {s s1 : State} {lid idx : Nat} {l : Launch} (hl : s.launch? lid = some l) (hs : SameWork s s1) (cid : Nat)
    (x : Launch) (c cur : Nat) (bytes : List Byte) (k : Nat) (drain : Bool) {t : State}
    (ht : SameWork (nodeStarted s1 lid idx l cid x c cur bytes k drain) t) :
    ∃ l1 b, t.launch? lid = some l1 ∧ mget [] l1.pending idx = (mget [] l.pending idx).drop k ∧
      mget 0 l1.heads idx = mget 0 l.heads idx + k ∧ t.block? c s.fed.nextBlk = some b ∧ b.lid = cid ∧
      b.scr = putBytes [] (bytesAt 0 bytes) := by
  have hy : ∃ y, ((placeBlock s1 cid x x.next c bytes k).updLaunch cid (dealNode cur)).launch? lid = some y := by
    rw [launch?_updLaunch, launch?_placeBlock, launch?_placeBlock, hs.launch?, hs.launch?, hl]
    split
    next h => rw [← h, hl, if_pos rfl]; exact ⟨_, rfl⟩
    next => exact ⟨l, rfl⟩
  obtain ⟨y, hy⟩ := hy
  refine ⟨takeRecs l idx k drain y, placedBlock s1 cid x x.next c bytes, ?_, ?_, ?_, ?_, rfl, rfl⟩
  · rw [ht.launch?, nodeStarted, launch?_updLaunch, if_pos rfl, hy, Option.map_some]
  · rw [takeRecs, mget_mput, if_pos rfl]
  · exact mget_mset_same ..
  · rw [ht.block, nodeStarted, block?_updLaunch, block?_updLaunch, ← hs.fed]
    exact block?_placeBlock ..

/-- A block of a node starts: its records leave the ring of their launch and stand in its scratchpad. -/
theorem startNode_starts (hl : s.launch? lid = some l) {c : Nat} {s1 : State} {bytes : List Byte} (hc : childOf s lid idx = some (cid, x))
    (hr : oldestRecs l idx n ≠ []) (ha : x.aborted = false) (hel : eligible s x.ctx x.hdr ≠ []) (hf : nodeCore s x = some c)
    (hrd : readRecs s l.ctx n (mget 0 l.heads idx) (oldestRecs l idx n) out = (s1, some bytes)) :
    ∃ l1 b, (startNode s lid idx l n out).launch? lid = some l1 ∧
      mget [] l1.pending idx = (mget [] l.pending idx).drop (oldestRecs l idx n).length ∧
      mget 0 l1.heads idx = mget 0 l.heads idx + (oldestRecs l idx n).length ∧
      (startNode s lid idx l n out).block? c s.fed.nextBlk = some b ∧ b.lid = cid ∧ b.scr = putBytes [] (bytesAt 0 bytes) := by
  obtain ⟨cur, hst⟩ := startNode_of_fit hc hr ha hel hf hrd
  have hs := sameWork_readRecs s l.ctx n (mget 0 l.heads idx) (oldestRecs l idx n) out
  rw [hrd] at hs
  rw [hst]
  exact nodeStarted_leaves hl hs _ _ _ _ _ _ _ (quiet_writeVirt ..).sameWork

/-- A node that no core is left for: it is aborted, and the launch that fills its ring is marked and goes on (log 56). -/
theorem startNode_aborts (hl : s.launch? lid = some l) (hc : childOf s lid idx = some (cid, x)) (hne : cid ≠ lid)
    (hr : oldestRecs l idx n ≠ []) (ha : x.aborted = false) (hel : eligible s x.ctx x.hdr = []) :
    ∃ l1 x1, (startNode s lid idx l n out).launch? lid = some l1 ∧ (startNode s lid idx l n out).launch? cid = some x1 ∧
      x1.aborted = true ∧ l1.lost = true ∧ l1.aborted = l.aborted ∧ l1.next = l.next ∧ l1.pending = l.pending := by
  obtain ⟨hi, y, hy⟩ := childOf_issuer hc
  have hm : markLaunch s x cid (fun y => { y with aborted := true }) =
      (s.updLaunch cid (fun y => { y with aborted := true })).updLaunch lid (fun y => { y with lost := true }) := by
    simp only [markLaunch, hi]
  have h1 : (markLaunch s x cid (fun y => { y with aborted := true })).launch? lid = some { l with lost := true } := by
    rw [hm, launch?_updLaunch, if_pos rfl, launch?_updLaunch, if_neg hne.symm, hl, Option.map_some]
  have h2 : (markLaunch s x cid (fun y => { y with aborted := true })).launch? cid = some { y with aborted := true } := by
    rw [hm, launch?_updLaunch, if_neg hne, launch?_updLaunch, if_pos rfl, hy, Option.map_some]
  rw [startNode_of_noCore hc hr ha hel]
  obtain ⟨c1, hc1⟩ := launch?_tryComplete _ lid lid h1
  obtain ⟨c2, hc2⟩ := launch?_tryComplete _ lid cid h2
  exact ⟨_, _, hc1, hc2, rfl, rfl, rfl, rfl, rfl⟩

theorem exec_nodeBlockStart_of_launch (hl : s.launch? lid = some l) (hn : l.hdr.nodes[idx]? = some n) :
    exec (.nodeBlockStart lid idx out) s = .next
      (if (mget [] l.pending idx).length ≥ max 1 n.thresh || drained s lid l then startNode s lid idx l n out else s) := by
  show execNodeBlockStart lid idx out s = _
  simp only [execNodeBlockStart, hl, hn]

theorem exec_nodeTimeout_of_due {p : Nat × Bool} {rest : List (Nat × Bool)} (hl : s.launch? lid = some l)
    (hn : l.hdr.nodes[idx]? = some n) (hp : mget [] l.pending idx = p :: rest)
    (ht : n.timeout ≠ 0) (hd : p.1 + n.timeout * usTicks ≤ s.ctl.time) :
    exec (.nodeTimeout lid idx out) s = .next (startNode s lid idx l n out) := by
  show execNodeTimeout lid idx out s = _
  simp only [execNodeTimeout, hl, hn, hp]
  rw [if_pos (by simp [ht, hd])]

/-- A node of an aborted launch starts nothing. -/
theorem exec_node_of_aborted (hl : s.launch? lid = some l) (hn : l.hdr.nodes[idx]? = some n) (hc : childOf s lid idx = some (cid, x))
    (ha : x.aborted = true) :
    exec (.nodeBlockStart lid idx out) s = .next s ∧ exec (.nodeTimeout lid idx out) s = .next s := by
  refine ⟨?_, ?_⟩
  · rw [exec_nodeBlockStart_of_launch hl hn, startNode_of_aborted hc ha, ite_self]
  · show execNodeTimeout lid idx out s = _
    cases hp : mget [] l.pending idx with
    | nil => simp only [execNodeTimeout, hl, hn, hp]
    | cons p rest => simp only [execNodeTimeout, hl, hn, hp, startNode_of_aborted hc ha, ite_self]

end

/-- Settles O40: the deal of a block, the start of a node's block, a node without cores, and the end of a warp are the lemmas above. -/
theorem blocksAndNodes : Obligations.BlocksAndNodes := by
  refine ⟨?_, ?_, ?_, ?_, ?_⟩
  · intro s lid l hl hi hd hc ha hn el b hs hb hco hel
    have he := exec_blockPlace_of_launch hl hi hd
    refine ⟨fun c h0 hf => ?_, fun c h0 hf => ?_⟩
    · obtain ⟨hp, l1, h⟩ := dealtTo_placeBlock hl b c (c + 1) (b + 1) l.early
      rw [he, dealOne_at_cursor rfl hc ha hn hb hco hel h0 hf]
      exact ⟨_, l1, rfl, hp, h⟩
    · obtain ⟨hp, l1, h⟩ := dealtTo_placeBlock hl b c l.cursor (b + 1) l.early
      rw [he, dealOne_at_holder rfl hc ha hn hb hco hel h0 hf]
      exact ⟨_, l1, rfl, hp, h⟩
  · intro s lid idx out l n hl hn hw cid x c s1 bytes recs el hs hc hr ha hel hf hrd
    obtain ⟨l1, b, h⟩ := startNode_starts hl hc hr ha hel hf hrd
    refine ⟨_, l1, b, (exec_nodeBlockStart_of_launch hl hn).trans ?_, h⟩
    rw [if_pos (by simpa using hw)]
  · intro s lid idx out l n p rest hl hn hp ht hd cid x c s1 bytes recs el hs hc hr ha hel hf hrd
    obtain ⟨l1, b, h⟩ := startNode_starts hl hc hr ha hel hf hrd
    exact ⟨_, l1, b, exec_nodeTimeout_of_due hl hn hp ht hd, h⟩
  · intro s lid idx out l n cid x hl hn hc hne
    refine ⟨exec_node_of_aborted hl hn hc, fun ha hel hlen => ?_⟩
    have hr : oldestRecs l idx n ≠ [] := fun h => by
      have := congrArg List.length h
      simp only [oldestRecs, List.length_take, List.length_nil] at this
      omega
    obtain ⟨l1, x1, h⟩ := startNode_aborts (out := out) hl hc hne hr ha hel
    refine ⟨_, l1, x1, (exec_nodeBlockStart_of_launch hl hn).trans ?_, h⟩
    rw [if_pos (by simp [hlen])]
  · intro s core slot w b hw hb hx h3 hl hs hc ht last
    have he := exec_warpEnd_of_complete hw hb hx h3 hl hs hc ht
    obtain ⟨b1, hb1, hlid, hsl⟩ := block?_warpGone hw hb
    have hgone := warp?_warpGone s core slot w b
    refine ⟨fun h0 => ⟨_, b1, he.trans ?_, hgone, hb1, hsl⟩, fun h0 hrel => ?_⟩
    · simp only [show b.slots.all (fun x => x = 255 || x = slot) = false from h0, Bool.false_and, Bool.false_eq_true, if_false]
    · have hq := quiet_release (warpGone s core slot w b) core .dv
      obtain ⟨hwn, hbn, hra, hln⟩ := endBlock_leaves ((hq.block ..).trans hb1) (releasedAt_release hrel)
      refine ⟨_, he.trans ?_, hwn _ ((hq.warp _).trans hgone), hbn, hra, fun l hl => ?_⟩
      · have hrel' : releaseReady (warpGone s core slot w b) core .dv = true := hrel
        simp only [show b.slots.all (fun x => x = 255 || x = slot) = true from h0, hrel', Bool.not_true, Bool.and_false,
          Bool.false_eq_true, if_false, if_true]
      · rw [← hlid]
        refine hln l ?_
        rw [hq.sameWork.launch?, hlid, ← hl]
        exact congrArg (fun f : Fed => mfind f.launches b.lid) (fed_warpGone ..)

end Sys2Proof.Machine
end

section
/-! Timelines (O26). -/

namespace Sys2Proof.Machine

/-! ### Releases and acquires inside an instruction -/

theorem Quiet.clock {s t : State} (h : Quiet s t) : t.ctl.clock = s.ctl.clock := by rw [h.ctl]

/-- A wait leaves the state as `waiting` says, inside a halt's skid and outside. -/
theorem issue_wait_same {i : Instr} {s : State} {e : Env} {body : Env → State → Res} {why : WaitR} (h : ready i s = some e)
    (hb : body e s = .wait s why) : issue i s body = waiting s e why := by
  obtain ⟨raw, -, hi⟩ := issue_ready (body := body) h
  obtain ⟨-, hw, -⟩ := ready_warp h
  rw [hi, hb]
  simp only [finish, ite_self]
  exact updWarp_of _ _ _ _ hw

theorem fenceWait_rel_none {s : State} {r : WRef} {w : Warp} {ctx : Nat} (h : fenceWait s r w ctx relKind .dv = none) :
    releaseReady s r.core .dv = true := by
  by_contra hn
  simp only [Bool.not_eq_true] at hn
  simp [fenceWait, relKind, Scope.rank, hn] at h

/-- An instruction that releases at .dv and then does `f`: where the release can be done, it is. -/
theorem relThen_of_ready {s : State} {e : Env} {q : Scope} (f : State → Res) (h : fenceWait s e.r e.w e.b.ctx relKind q = none) :
    relThen s e q f = f (release s e.r.core q) := by
  unfold relKind at h
  unfold relThen
  rw [h]

theorem acqThen_of_ready {s : State} {e : Env} {q : Scope} (f : State → Res) (h : fenceWait s e.r e.w e.b.ctx acqKind q = none) :
    acqThen s e q f = f (acquire s e.r.core q) := by
  unfold acqKind at h
  unfold acqThen
  rw [h]

/-- A change of a warp leaves caches and write buffers alone. -/
theorem cleaner_setWarp (s : State) (r : WRef) (w : Warp) : Cleaner s (s.setWarp r w) := cleaner_updCore s r.core rfl

/-- An acquire at .dv leaves the logical time of its core at DT at least. -/
theorem acquiredAt_acquire (s : State) (core : Nat) : AcquiredAt (acquire s core .dv) core .dv := by
  refine ⟨fun h => absurd h (by decide), fun _ => ?_⟩
  have ha : acquire s core .dv = s.raisePts core (s.home (s.dieOf core)).dt := rfl
  rw [ha]
  show (s.home (s.dieOf core)).dt ≤ ((s.raisePts core (s.home (s.dieOf core)).dt).core core).pts
  rw [State.raisePts, core_updCore, if_pos rfl]
  exact le_max_right ..

theorem AcquiredAt.setWarp {s : State} {core : Nat} {q : Scope} (h : AcquiredAt s core q) (r : WRef) (w : Warp) :
    AcquiredAt (s.setWarp r w) core q := by
  have hc : ∀ k, ((s.setWarp r w).core k).l1 = (s.core k).l1 ∧ ((s.setWarp r w).core k).pts = (s.core k).pts := by
    intro k
    rw [State.setWarp, core_updCore]
    split
    · next hk => exact hk ▸ ⟨rfl, rfl⟩
    · exact ⟨rfl, rfl⟩
  exact ⟨fun hq => (hc core).1.trans (h.l1 hq), fun hq => (h.time hq).trans_eq (hc core).2.symm⟩

/-! ### `TLSIG` and `TLWAIT` (21 R429, R430) -/

/-- The TLID that a register of a warp gives. -/
def tlidOf (e : Env) (a : Reg) : Nat := (rdReg e.w false 0 a).toNat % 65536

/-- What `TLSIG` does. -/
def tlsigRes (x : FAB) (e : Env) (s : State) : Res :=
  if !queueOk s e.b.ctx (tlidOf e x.a) then .trap s { cause := 3, mask := e.w.exec }
  else if s.stcnt e.r e.w ≥ 64 then .wait s .counter
  else relThen s e .dv (fun s => .done (raiseQtl s (tlidOf e x.a % 4096) (rdReg e.w false 0 x.b)))

theorem exec_tlsig (x : FAB) (s : State) : exec (.tlsig x) s = .next (issue (.tlsig x) s (tlsigRes x)) := rfl

/-- What `TLWAIT` does. -/
def tlwaitRes (x : FTlwait) (e : Env) (s : State) : Res :=
  if !tlOk s e.b.ctx (tlidOf e x.a) (srcS e.w x.src).toNat then .trap s { cause := 3, mask := e.w.exec }
  else if (srcS e.w x.src).toNat ≤ s.tlCounter e.b.ctx (tlidOf e x.a) ||
      (e.w.level = 3 && !tlActive s e.b.ctx (tlidOf e x.a) (srcS e.w x.src).toNat) then
    acqThen s e .dv (fun s => .done s)
  else .wait s .counter

theorem exec_tlwait (x : FTlwait) (s : State) : exec (.tlwait x) s = .next (issue (.tlwait x) s (tlwaitRes x)) := rfl

theorem exec_tlsig_of_queue {x : FAB} {s : State} {e : Env} (h : ready (.tlsig x) s = some e)
    (hq : queueOk s e.b.ctx (tlidOf e x.a) = true) (hc : s.stcnt e.r e.w < 64)
    (hf : fenceWait s e.r e.w e.b.ctx relKind .dv = none) :
    exec (.tlsig x) s = .next ((raiseQtl (release s e.r.core .dv) (tlidOf e x.a % 4096) (rdReg e.w false 0 x.b)).setWarp e.r
      (retireWarp e.w e.next s.ctl.clock)) := by
  obtain ⟨-, hw, -⟩ := ready_warp h
  have hr := quiet_release s e.r.core .dv
  have hb : tlsigRes x e s = .done (raiseQtl (release s e.r.core .dv) (tlidOf e x.a % 4096) (rdReg e.w false 0 x.b)) := by
    rw [tlsigRes, hq, if_neg (by decide), if_neg (by omega), relThen_of_ready _ hf]
  have hi := issue_done h hb ((hr.warp e.r).trans hw)
  rw [exec_tlsig, hi, show (raiseQtl _ _ _).ctl.clock = _ from hr.clock]

theorem exec_tlwait_of_reached {x : FTlwait} {s : State} {e : Env} (h : ready (.tlwait x) s = some e)
    (ht : tlOk s e.b.ctx (tlidOf e x.a) (srcS e.w x.src).toNat = true)
    (hn : (srcS e.w x.src).toNat ≤ s.tlCounter e.b.ctx (tlidOf e x.a))
    (hf : fenceWait s e.r e.w e.b.ctx acqKind .dv = none) :
    exec (.tlwait x) s = .next ((acquire s e.r.core .dv).setWarp e.r (retireWarp e.w e.next s.ctl.clock)) := by
  obtain ⟨-, hw, -⟩ := ready_warp h
  have ha := quiet_acquire s e.r.core .dv
  have hb : tlwaitRes x e s = .done (acquire s e.r.core .dv) := by
    rw [tlwaitRes, ht, if_neg (by decide), if_pos (by simp [hn]), acqThen_of_ready _ hf]
  rw [exec_tlwait, issue_done h hb ((ha.warp e.r).trans hw), ha.clock]

theorem exec_tlwait_of_early {x : FTlwait} {s : State} {e : Env} (h : ready (.tlwait x) s = some e)
    (ht : tlOk s e.b.ctx (tlidOf e x.a) (srcS e.w x.src).toNat = true)
    (hn : s.tlCounter e.b.ctx (tlidOf e x.a) < (srcS e.w x.src).toNat) (hl : e.w.level ≠ 3) :
    exec (.tlwait x) s = .next (waiting s e .counter) := by
  have hb : tlwaitRes x e s = .wait s .counter := by
    rw [tlwaitRes, ht, if_neg (by decide), if_neg (by simp [hl, hn])]
  rw [exec_tlwait, issue_wait_same h hb]

theorem queue_raiseQtl (s : State) (q : Nat) (v : W64) :
    ((raiseQtl s q v).queue q).tl = if (s.queue q).tl.toNat < v.toNat then v else (s.queue q).tl := by
  rw [raiseQtl, queue_updQueue]

/-- Settles O26: `TLSIG` and `TLWAIT` by what the checks of R429 and R430 answer. -/
theorem timelines : Obligations.Timelines := by
  unfold Obligations.Timelines
  refine ⟨fun x s e h => ⟨fun hq hc hf => ?_, fun hs hq => ?_⟩,
    fun x s e h => ⟨fun ht hn hf => ?_, fun ht hn hl => ?_, fun hs ht => ?_⟩⟩
  · refine ⟨_, exec_tlsig_of_queue h hq hc hf, warp?_setWarp .., ?_, queue_raiseQtl (release s e.r.core .dv) (tlidOf e x.a % 4096) _⟩
    exact (releasedAt_release (fenceWait_rel_none hf)).mono ((cleaner_updFed ..).trans (cleaner_setWarp ..))
  · have hb : tlsigRes x e s = .trap s { cause := 3, mask := e.w.exec } := by rw [tlsigRes, if_pos (by simp [tlidOf, hq])]
    obtain ⟨q, hi, hq1⟩ := issue_trap_cause h hs hb
    exact ⟨q, congrArg _ hi, hq1⟩
  · exact ⟨_, exec_tlwait_of_reached h ht hn hf, warp?_setWarp .., (acquiredAt_acquire s e.r.core).setWarp ..⟩
  · exact exec_tlwait_of_early h ht hn hl
  · have hb : tlwaitRes x e s = .trap s { cause := 3, mask := e.w.exec } := by rw [tlwaitRes, if_pos (by simp [tlidOf, ht])]
    obtain ⟨q, hi, hq1⟩ := issue_trap_cause h hs hb
    exact ⟨q, congrArg _ hi, hq1⟩

end Sys2Proof.Machine
end

section
/-! The queues of the command processor and their commands (O39). -/

namespace Sys2Proof.Machine

/-! ### Stops and resumes (03 R60, R63) -/

theorem findCmd_of_stopped {s : State} {q : Nat} (h : (s.queue q).stop ≠ 0) : findCmd s q = (s, .idle) := by
  simp [findCmd, h]

theorem findCmd_of_empty {s : State} {q : Nat} (h : (s.queue q).tail = (s.queue q).head) : findCmd s q = (s, .idle) := by
  simp only [findCmd, h, if_true, ite_self]

theorem checkQueue_of_idle {s s1 : State} {q : Nat} (h : findCmd s q = (s1, .idle)) : checkQueue s q = s := by
  rw [checkQueue, h]

theorem queue_stopQueue (s : State) (q c : Nat) : (stopQueue s q c).queue q = { s.queue q with stop := c } :=
  queue_updQueue s q _

/-- QTAIL of a queue is written. -/
def tailSet (s : State) (q : Nat) (v : W64) : State := s.updQueue q (fun x => { x with tail := v })

theorem writeTail_of_over {s : State} {q : Nat} {v : W64} (h0 : (s.queue q).stop = 0)
    (ho : 2 ^ (s.queue q).log2n < (v - (s.queue q).head).toNat) : writeTail s q v = stopQueue (tailSet s q v) q 3 := by
  simp only [writeTail, queue_updQueue, tailSet]
  rw [if_pos]
  simp only [h0, queueOver, decide_true, Bool.true_and, decide_eq_true_eq]
  exact ho

theorem writeTail_of_stopped {s : State} {q : Nat} (v : W64) (h : (s.queue q).stop ≠ 0) : writeTail s q v = tailSet s q v := by
  simp only [writeTail, queue_updQueue, tailSet]
  rw [if_neg (by simp [h])]

theorem queue_writeTail (s : State) (q : Nat) (v : W64) :
    ∃ c, (writeTail s q v).queue q = { s.queue q with tail := v, stop := c } := by
  simp only [writeTail]
  split
  · exact ⟨3, (queue_stopQueue ..).trans (by rw [queue_updQueue])⟩
  · exact ⟨(s.queue q).stop, queue_updQueue ..⟩

theorem exec_qtailDoorbell {q : Nat} (s : State) (v : Nat) (hq : q < 64) :
    exec (.qtailDoorbell q v) s = .next (checkQueue (writeTail s q (BitVec.ofNat 64 v)) q) := by
  show execQtailDoorbell q v s = _
  rw [execQtailDoorbell, if_neg (by omega)]

theorem exec_queueResume {q : Nat} (s : State) (hq : q < 64) :
    exec (.queueResume q) s = .next (checkQueue (s.updQueue q (fun x => { x with stop := 0 })) q) := by
  show execQueueResume q s = _
  rw [execQueueResume, if_neg (by omega)]

theorem queue_nextCmd (s : State) (q : Nat) :
    ∃ c, (nextCmd s q).queue q = { s.queue q with head := (s.queue q).head + 1#64, stop := c } := by
  obtain ⟨c, hc⟩ := queue_checkQueue (s.updQueue q (fun x => { x with head := x.head + 1#64 })) q
  exact ⟨c, hc.trans (by rw [queue_updQueue])⟩

/-! ### The command at QHEAD (03 R61) -/

theorem runCmd_of_cmd {s s1 : State} {q c : Nat} {l : List Byte} (f : State → List Byte → State) (hq : q < 64)
    (hf : findCmd s q = (s1, .cmd l)) (hc : fieldAt l 0 1 = c) : runCmd s q c f = f s1 l := by
  rw [runCmd, if_neg (by omega), hf]
  exact if_pos hc

theorem runCmd_of_stop {s s1 : State} {q c : Nat} (k : Nat) (f : State → List Byte → State) (hq : q < 64)
    (hf : findCmd s q = (s1, .stop c)) : runCmd s q k f = stopQueue s1 q c := by
  rw [runCmd, if_neg (by omega), hf]

/-- What LAUNCH does. -/
def launchCmd (q : Nat) (s : State) (l : List Byte) : State :=
  let a := fieldAt l 8 8
  let r := acceptLaunch s (s.queue q).ctx (if a ≥ 2 ^ 54 then 1 else a) (fieldAt l 0x10 8) (.queue q)
  let s1 := match r.2 with
    | none => r.1
    | some lid => r.1.updQueue q (fun x => { x with cmds := x.cmds ++ [{ num := x.head.toNat, lid := some lid }] })
  nextCmd s1 q

theorem exec_launchCommand {q : Nat} (s : State) (hq : q < 64) :
    exec (.launchCommand q) s = .next (runCmd s q 1 (launchCmd q)) := by
  show execLaunchCommand q s = _
  rw [execLaunchCommand, if_neg (by omega)]
  rfl

/-- The lines of a home, those of a chain eviction-first. -/
def endChain (c : Nat) (h : Home) : Home :=
  { h with lines := h.lines.map (fun e => if e.2.chain = c then (e.1, { e.2 with ef := true }) else e) }

/-- Every L2 with the lines of a chain eviction-first (06 R145). -/
def chainEnded (s : State) (c : Nat) : State :=
  if c = 0 then s
  else { s with homes := s.homes.map (fun h => if h.1 = Config.fed then h else (h.1, endChain c h.2)) }

/-- What CHAIN_END does. -/
def chainEndCmd (q : Nat) (s : State) (l : List Byte) : State :=
  if !queueIdle s q then s else nextCmd (chainEnded s (bits (fieldAt l 0 8) 13 8)) q

theorem exec_chainEnd (q : Nat) (s : State) : exec (.chainEnd q) s = .next (runCmd s q 2 (chainEndCmd q)) := rfl

/-- What TL_SIGNAL does. -/
def tlSignalCmd (q : Nat) (s : State) (l : List Byte) : State :=
  if !queueIdle s q then s else nextCmd (raiseQtl s q (BitVec.ofNat 64 (fieldAt l 8 8))) q

theorem exec_tlSignal (q : Nat) (s : State) : exec (.tlSignal q) s = .next (runCmd s q 3 (tlSignalCmd q)) := rfl

/-- What TL_WAIT does. -/
def tlWaitCmd (q : Nat) (s : State) (l : List Byte) : State :=
  let t := fieldAt l 2 2
  let c := (s.queue q).ctx
  if tlNamed s c t && fieldAt l 8 8 ≤ s.tlCounter c t then nextCmd s q else s

theorem exec_tlWaitCommand (q : Nat) (s : State) : exec (.tlWaitCommand q) s = .next (runCmd s q 4 (tlWaitCmd q)) := rfl

/-- What the FENCE command does. -/
def fenceCmd (q : Nat) (s : State) (l : List Byte) : State :=
  if !queueIdle s q then s else nextCmd (if bits (fieldAt l 0 8) 10 8 = 6 then flushHomes s else s) q

theorem exec_fenceCommand (q : Nat) (s : State) : exec (.fenceCommand q) s = .next (runCmd s q 6 (fenceCmd q)) := rfl

/-- What the BARRIER command does. -/
def barrierCmd (q : Nat) (s : State) (_ : List Byte) : State := if !queueIdle s q then s else nextCmd s q

theorem exec_barrierCommand (q : Nat) (s : State) : exec (.barrierCommand q) s = .next (runCmd s q 7 (barrierCmd q)) := rfl

/-- A queue that must stop stops at every command. -/
theorem exec_command_of_stop {s s1 : State} {q c : Nat} (hq : q < 64) (hf : findCmd s q = (s1, .stop c)) :
    ∀ i ∈ [Instr.launchCommand q, .chainEnd q, .tlSignal q, .tlWaitCommand q, .resPreload q, .fenceCommand q, .barrierCommand q],
      exec i s = .next (stopQueue s1 q c) := by
  intro i hi
  simp only [List.mem_cons, List.not_mem_nil, or_false] at hi
  have hr := fun k f => congrArg (Host.Outcome.next (φ := Fault) (ρ := Refusal)) (runCmd_of_stop k f hq hf)
  obtain rfl | rfl | rfl | rfl | rfl | rfl | rfl := hi
  · exact (exec_launchCommand s hq).trans (hr ..)
  · exact hr ..
  · exact hr ..
  · exact hr ..
  · exact hr ..
  · exact hr ..
  · exact hr ..

/-- A command that waits for every earlier one changes nothing before they are complete. -/
theorem exec_command_of_waiting {s s1 : State} {q c : Nat} {l : List Byte} {i : Instr}
    (hi : (c, i) ∈ [(2, Instr.chainEnd q), (3, .tlSignal q), (6, .fenceCommand q), (7, .barrierCommand q)]) (hq : q < 64)
    (hf : findCmd s q = (s1, .cmd l)) (hc : fieldAt l 0 1 = c) (hw : queueIdle s1 q = false) : exec i s = .next s1 := by
  have hr := fun f => congrArg (Host.Outcome.next (φ := Fault) (ρ := Refusal)) (runCmd_of_cmd f hq hf hc)
  have hn : (!queueIdle s1 q) = true := by rw [hw]; rfl
  simp only [List.mem_cons, Prod.mk.injEq, List.not_mem_nil, or_false] at hi
  obtain ⟨rfl, rfl⟩ | ⟨rfl, rfl⟩ | ⟨rfl, rfl⟩ | ⟨rfl, rfl⟩ := hi
  · exact (hr (chainEndCmd q)).trans (congrArg _ (if_pos hn))
  · exact (hr (tlSignalCmd q)).trans (congrArg _ (if_pos hn))
  · exact (hr (fenceCmd q)).trans (congrArg _ (if_pos hn))
  · exact (hr (barrierCmd q)).trans (congrArg _ (if_pos hn))

/-! ### The acceptance of a launch (03 R62) -/

theorem Quiet.of_pair {α : Type} {s t : State} {a : α} {p : State × α} (h : Quiet s p.1) (hp : p = (t, a)) : Quiet s t := by
  rwa [hp] at h

theorem quiet_cpReadAll (s : State) (ctx n : Nat) (l : List Nat) : Quiet s (cpReadAll s ctx n l).1 := by
  refine Quiet.foldl_fst (fun r a => ?_) _ (s, some [])
  obtain ⟨s, _ | acc⟩ := r
  · exact .refl s
  · have h := quiet_cpRead s ctx a n
    simp only
    split
    next hx => exact h.of_pair hx
    next hx => exact h.of_pair hx

theorem quiet_checkLaunch (s : State) (ctx addr : Nat) : Quiet s (checkLaunch s ctx addr).1 := by
  unfold checkLaunch
  split
  · exact .refl s
  · have h := quiet_cpRead s ctx addr 384
    split
    next hx => exact h.of_pair hx
    next s1 l hx =>
      replace h := h.of_pair hx
      split
      · exact h
      · simp only
        split
        next hx => exact h.trans ((quiet_cpReadAll s1 ..).of_pair hx)
        next s2 gl hx =>
          replace h := h.trans ((quiet_cpReadAll s1 ..).of_pair hx)
          split
          next hx => exact h.trans ((quiet_cpReadAll s2 ..).of_pair hx)
          next s3 nl hx =>
            replace h := h.trans ((quiet_cpReadAll s2 ..).of_pair hx)
            split
            next hx => exact h.trans ((quiet_cpReadAll s3 ..).of_pair hx)
            next s4 hl hx =>
              replace h := h.trans ((quiet_cpReadAll s3 ..).of_pair hx)
              clear hx
              repeat' split
              all_goals exact h

theorem checkLaunch_of_misaligned {s : State} {a : Nat} (ctx : Nat) (h : a % 64 ≠ 0) : checkLaunch s ctx a = (s, .inl (8, 0)) := by
  rw [checkLaunch, if_pos (by simpa using h)]

theorem acceptLaunch_of_refused {s s1 : State} {ctx a c d : Nat} (st : Nat) (who : Issuer)
    (h : checkLaunch s ctx a = (s1, .inl (c, d))) :
    acceptLaunch s ctx a st who = (writeStatus s1 ctx st (c + 256 * d) s1.fed.nextLid, none) := by
  rw [acceptLaunch, h]

/-- The launches of the successor nodes of a launch are set up. -/
def nodeLaunch (lid ctx : Nat) (subs : List (NodeD × Header)) (s : State) (i : Nat) : State :=
  match subs[i]? with
  | none => s
  | some x => s.setLaunch (lid + 1 + i) { ctx := ctx, hdr := { x.2 with nodes := [], groups := [] },
                                          issuer := .node lid i, status := 0, nbvEff := nbvOf s x.2 }

/-- An accepted launch, before its successor nodes have theirs. -/
def launchSet (s1 : State) (ctx status : Nat) (who : Issuer) (h : Header) (n : Nat) : State :=
  (s1.updFed (fun f => { f with nextLid := s1.fed.nextLid + 1 + n })).setLaunch s1.fed.nextLid
    { ctx := ctx, hdr := h, issuer := who, status := status, nbvEff := nbvOf s1 h, loose := looseGroups s1 ctx h }

theorem acceptLaunch_of_accepted {s s1 : State} {ctx a : Nat} {h : Header} {subs : List (NodeD × Header)} (st : Nat) (who : Issuer)
    (hc : checkLaunch s ctx a = (s1, .inr (h, subs))) :
    acceptLaunch s ctx a st who = ((List.range subs.length).foldl (nodeLaunch s1.fed.nextLid ctx subs)
      (launchSet s1 ctx st who h subs.length), some s1.fed.nextLid) := by
  rw [acceptLaunch, hc]
  rfl

theorem launch?_nodeLaunch (lid ctx : Nat) (subs : List (NodeD × Header)) (s : State) (i : Nat) :
    (nodeLaunch lid ctx subs s i).launch? lid = s.launch? lid := by
  unfold nodeLaunch
  split
  · rfl
  · rw [launch?_setLaunch, if_neg (by omega)]

theorem subs_nodeLaunch (lid ctx : Nat) (subs : List (NodeD × Header)) (s : State) (i : Nat) :
    (nodeLaunch lid ctx subs s i).fed.subs = s.fed.subs := by
  unfold nodeLaunch
  split <;> rfl

/-- A function that every step of a fold keeps. -/
theorem foldl_keeps {β γ : Type} {g : State → γ} {f : State → β → State} (hf : ∀ s x, g (f s x) = g s) (l : List β) (s : State) :
    g (l.foldl f s) = g s := by
  induction l generalizing s with
  | nil => rfl
  | cons a t ih => exact (ih _).trans (hf s a)

/-- Acceptance and refusal leave the launches that warps have submitted as they are. -/
theorem subs_acceptLaunch (s : State) (ctx a st : Nat) (who : Issuer) : (acceptLaunch s ctx a st who).1.fed.subs = s.fed.subs := by
  have hq := quiet_checkLaunch s ctx a
  rcases hc : checkLaunch s ctx a with ⟨s1, ⟨c, d⟩ | ⟨h, subs⟩⟩
  · rw [acceptLaunch_of_refused st who hc, (sameWork_writeStatus ..).fed, (hq.of_pair hc).fed]
  · rw [acceptLaunch_of_accepted st who hc]
    exact (foldl_keeps (g := fun s => s.fed.subs) (subs_nodeLaunch _ _ _) ..).trans (congrArg Fed.subs (hq.of_pair hc).fed :)

/-- A launch that is accepted stands with what its command gave, and none of its blocks has been dealt. -/
theorem launch?_acceptLaunch {s : State} {ctx a st lid : Nat} {who : Issuer} (h : (acceptLaunch s ctx a st who).2 = some lid) :
    ∃ n, (acceptLaunch s ctx a st who).1.launch? lid = some n ∧ n.issuer = who ∧ n.ctx = ctx ∧ n.status = st ∧
      n.running = 0 ∧ n.next = 0 ∧ n.aborted = false := by
  rcases hc : checkLaunch s ctx a with ⟨s1, ⟨c, d⟩ | ⟨hd, subs⟩⟩
  · rw [acceptLaunch_of_refused st who hc] at h
    cases h
  · rw [acceptLaunch_of_accepted st who hc] at h ⊢
    cases h
    have hf := foldl_keeps (g := fun s => s.launch? s1.fed.nextLid) (launch?_nodeLaunch s1.fed.nextLid ctx subs) (List.range subs.length)
      (launchSet s1 ctx st who hd subs.length)
    rw [launchSet, launch?_setLaunch, if_pos rfl] at hf
    exact ⟨_, hf, rfl, rfl, rfl, rfl, rfl, rfl⟩

theorem launchCmd_of_refused {s : State} {q : Nat} {l : List Byte}
    (h : (acceptLaunch s (s.queue q).ctx (if fieldAt l 8 8 ≥ 2 ^ 54 then 1 else fieldAt l 8 8) (fieldAt l 0x10 8) (.queue q)).2 = none) :
    launchCmd q s l =
      nextCmd (acceptLaunch s (s.queue q).ctx (if fieldAt l 8 8 ≥ 2 ^ 54 then 1 else fieldAt l 8 8) (fieldAt l 0x10 8) (.queue q)).1 q := by
  simp only [launchCmd, h]

theorem launchCmd_of_accepted {s : State} {q lid : Nat} {l : List Byte}
    (h : (acceptLaunch s (s.queue q).ctx (if fieldAt l 8 8 ≥ 2 ^ 54 then 1 else fieldAt l 8 8) (fieldAt l 0x10 8) (.queue q)).2 = some lid) :
    launchCmd q s l = nextCmd
      ((acceptLaunch s (s.queue q).ctx (if fieldAt l 8 8 ≥ 2 ^ 54 then 1 else fieldAt l 8 8) (fieldAt l 0x10 8) (.queue q)).1.updQueue q
        (fun x => { x with cmds := x.cmds ++ [{ num := x.head.toNat, lid := some lid }] })) q := by
  simp only [launchCmd, h]

/-- The k-th submission is judged where no earlier one of its warp waits. -/
theorem exec_launchCommand_of_submit {s : State} {k : Nat} {x : Submit} (hx : s.fed.subs[k]? = some x)
    (hf : (s.fed.subs.take k).any (fun y => y.lid = x.lid && y.bid = x.bid && y.warp = x.warp) = false) :
    exec (.launchCommand (64 + k)) s = .next (acceptLaunch (s.updFed (fun f => { f with subs := f.subs.eraseIdx k })) x.ctx x.header
      x.status (.warp x.lid x.bid x.warp)).1 := by
  show execLaunchCommand (64 + k) s = _
  rw [execLaunchCommand, if_pos (by omega), Nat.add_sub_cancel_left, acceptSubmit, hx]
  simp only [hf, Bool.false_eq_true, if_false]

/-! ### CHAIN_END and the FENCE command (06 R145, 03 Table 3-2) -/

theorem mem_chainEnded (s : State) (c : Nat) : (chainEnded s c).mem = s.mem := by
  unfold chainEnded
  split <;> rfl

/-- Once a chain has ended, its lines in the L2s are eviction-first. -/
theorem ef_chainEnded {s : State} {c site ln : Nat} {z : HomeLine} (hs : site ≠ Config.fed)
    (hz : mfind ((chainEnded s c).home site).lines ln = some z) (hc : z.chain = c) (h0 : z.chain ≠ 0) : z.ef = true := by
  have hh : mfind (chainEnded s c).homes site = (mfind s.homes site).map (endChain c) := by
    rw [chainEnded, if_neg (hc ▸ h0), mfind_map _ _ (fun e => by split <;> rfl)]
    simp only [hs, if_false]
  rw [State.home, mget, hh] at hz
  cases hm : mfind s.homes site with
  | none => rw [hm] at hz; cases hz
  | some h =>
    rw [hm] at hz
    have hl : mfind (endChain c h).lines ln = some z := hz
    rw [endChain, mfind_map _ _ (fun e => by split <;> rfl)] at hl
    obtain ⟨y, -, rfl⟩ := Option.map_eq_some_iff.1 hl
    split
    · rfl
    next hn => rw [if_neg hn] at hc; exact absurd hc hn

/-- The home holds no byte of a line that its controller has not got. -/
def LineFlushed (s : State) (ln : Nat) : Prop := ∀ z, s.homeLine? (s.homeOf ln) ln = some z → z.data = []

theorem homeOf_flushHome (s : State) (line ln : Nat) : (flushHome s line).homeOf ln = s.homeOf ln := by
  unfold flushHome
  simp only
  split <;> rfl

theorem homeLine?_setHomeLine (s : State) (n line m ln : Nat) (l : HomeLine) :
    (s.setHomeLine n line l).homeLine? m ln = if m = n ∧ ln = line then some l else s.homeLine? m ln := by
  have hh : (s.setHomeLine n line l).home m = if m = n then { s.home n with lines := mset (s.home n).lines line l } else s.home m := by
    rw [State.home, State.setHomeLine_homes, mget_mset]; rfl
  rw [State.homeLine?, hh]
  by_cases hm : m = n
  · subst hm
    rw [if_pos rfl, mfind_mset]
    simp only [true_and]
    rfl
  · rw [if_neg hm, if_neg (fun h => hm h.1)]
    rfl

/-- A flush takes the bytes of its own line and leaves every other line. -/
theorem homeLine?_flushHome (s : State) (line m ln : Nat) :
    (flushHome s line).homeLine? m ln = if m = s.homeOf line ∧ ln = line then (s.homeLine? m ln).map (fun l => { l with data := [] })
      else s.homeLine? m ln := by
  unfold flushHome
  simp only
  split
  next hn =>
    split
    next h => rw [h.1, h.2, hn]; rfl
    next h => rfl
  next l hl =>
    rw [homeLine?_setHomeLine]
    split
    next h => rw [h.1, h.2, hl]; rfl
    next h => rfl

theorem LineFlushed.flushHome {s : State} {ln : Nat} (h : LineFlushed s ln) (line : Nat) : LineFlushed (flushHome s line) ln := by
  intro z hz
  rw [homeOf_flushHome, homeLine?_flushHome] at hz
  split at hz
  · obtain ⟨l, -, rfl⟩ := Option.map_eq_some_iff.1 hz
    rfl
  · exact h z hz

theorem lineFlushed_flushHome (s : State) (line : Nat) : LineFlushed (flushHome s line) line := by
  intro z hz
  rw [homeOf_flushHome, homeLine?_flushHome, if_pos ⟨rfl, rfl⟩] at hz
  obtain ⟨l, -, rfl⟩ := Option.map_eq_some_iff.1 hz
  rfl

/-- The flush of a home's line where it holds bytes, as the FENCE command and a release at .sy make it. -/
def flushEntry (s : State) (e : Nat × HomeLine) : State := if e.2.data.isEmpty then s else flushHome s e.1

theorem flushHomes_eq (s : State) : flushHomes s = s.homes.foldl (fun s h => h.2.lines.foldl flushEntry s) s := rfl

theorem LineFlushed.flushEntry {s : State} {ln : Nat} (h : LineFlushed s ln) (e : Nat × HomeLine) : LineFlushed (flushEntry s e) ln := by
  unfold Machine.flushEntry
  split
  · exact h
  · exact h.flushHome e.1

theorem LineFlushed.foldl_flushEntry {s : State} {ln : Nat} (h : LineFlushed s ln) (l : SMap HomeLine) :
    LineFlushed (l.foldl Machine.flushEntry s) ln :=
  List.foldlRecOn (motive := fun t => LineFlushed t ln) l _ h fun _ h e _ => h.flushEntry e

/-- A step that brings about what every step keeps. -/
theorem foldl_reaches {β : Type} {f : State → β → State} {P : State → Prop} {x : β} (hk : ∀ s y, P s → P (f s y))
    (hd : ∀ s, P (f s x)) {l : List β} (hx : x ∈ l) (s : State) : P (l.foldl f s) := by
  obtain ⟨a, b, rfl⟩ := List.append_of_mem hx
  rw [List.foldl_append, List.foldl_cons]
  exact List.foldlRecOn b f (hd _) fun s h y _ => hk s y h

/-- Every line is flushed once every home has been gone through: one that holds bytes is met on the way. -/
theorem lineFlushed_flushHomes (s : State) (ln : Nat) : LineFlushed (flushHomes s) ln := by
  rw [flushHomes_eq]
  by_cases h : LineFlushed s ln
  · exact List.foldlRecOn (motive := fun t => LineFlushed t ln) s.homes _ h fun _ h y _ => h.foldl_flushEntry y.2.lines
  · obtain ⟨z, hz, hd⟩ : ∃ z, s.homeLine? (s.homeOf ln) ln = some z ∧ z.data ≠ [] := by simpa [LineFlushed] using h
    rw [State.homeLine?, State.home, mget] at hz
    cases hh : mfind s.homes (s.homeOf ln) with
    | none => rw [hh] at hz; cases hz
    | some y =>
      rw [hh] at hz
      refine foldl_reaches (P := fun t => LineFlushed t ln) (x := (s.homeOf ln, y)) (fun _ y h => h.foldl_flushEntry y.2.lines)
        (fun t => ?_) (mem_of_mfind hh) s
      refine foldl_reaches (P := fun t => LineFlushed t ln) (x := (ln, z)) (fun _ e h => h.flushEntry e) (fun t => ?_) (mem_of_mfind hz) t
      rw [flushEntry, if_neg (by simpa using hd)]
      exact lineFlushed_flushHome t ln

/-! ### The commands -/

section
variable {s s1 : State} {q : Nat} {l : List Byte} (hq : q < 64) (hf : findCmd s q = (s1, .cmd l))
include hq hf

theorem exec_chainEnd_of_idle (hc : fieldAt l 0 1 = 2) (hi : queueIdle s1 q = true) :
    exec (.chainEnd q) s = .next (nextCmd (chainEnded s1 (bits (fieldAt l 0 8) 13 8)) q) := by
  rw [exec_chainEnd, runCmd_of_cmd _ hq hf hc, chainEndCmd, if_neg (by simp [hi])]

theorem exec_tlSignal_of_idle (hc : fieldAt l 0 1 = 3) (hi : queueIdle s1 q = true) :
    exec (.tlSignal q) s = .next (nextCmd (raiseQtl s1 q (BitVec.ofNat 64 (fieldAt l 8 8))) q) := by
  rw [exec_tlSignal, runCmd_of_cmd _ hq hf hc, tlSignalCmd, if_neg (by simp [hi])]

theorem exec_fenceCommand_of_idle (hc : fieldAt l 0 1 = 6) (hi : queueIdle s1 q = true) :
    exec (.fenceCommand q) s = .next (nextCmd (if bits (fieldAt l 0 8) 10 8 = 6 then flushHomes s1 else s1) q) := by
  rw [exec_fenceCommand, runCmd_of_cmd _ hq hf hc, fenceCmd, if_neg (by simp [hi])]

theorem exec_barrierCommand_of_idle (hc : fieldAt l 0 1 = 7) (hi : queueIdle s1 q = true) :
    exec (.barrierCommand q) s = .next (nextCmd s1 q) := by
  rw [exec_barrierCommand, runCmd_of_cmd _ hq hf hc, barrierCmd, if_neg (by simp [hi])]

theorem exec_launchCommand_of_cmd (hc : fieldAt l 0 1 = 1) : exec (.launchCommand q) s = .next (launchCmd q s1 l) := by
  rw [exec_launchCommand s hq, runCmd_of_cmd _ hq hf hc]

end

/-- Settles O39: the doorbell, the resume, the stop of a queue and each command by the lemmas above. -/
theorem commandQueues : Obligations.CommandQueues := by
  unfold Obligations.CommandQueues
  refine ⟨fun q v s hq => ?_, fun q s hq => ?_, fun q s s1 c hq hf => exec_command_of_stop hq hf, fun y q => ?_,
    fun s q s1 l ⟨hq, hf, hc⟩ => ⟨fun lid hr => ?_, fun hr => ?_⟩, fun s k x hx hfirst => ?_, fun s ctx a st who => ?_,
    fun s q s1 l ⟨hq, hf, hc⟩ hi => ?_, fun s q s1 l ⟨hq, hf, hc⟩ hi => ?_, fun s q s1 l ⟨hq, hf, hc⟩ => ?_,
    fun s q s1 l ⟨hq, hf, hc⟩ hi => ⟨fun h6 => ?_, fun h6 => ?_⟩,
    fun s q s1 l ⟨hq, hf, hc⟩ hi => exec_barrierCommand_of_idle hq hf hc hi,
    fun s q s1 l c i hci ⟨hq, hf, hc⟩ hw => exec_command_of_waiting hci hq hf hc hw⟩
  case refine_1 =>
    obtain ⟨d, ht⟩ := queue_writeTail s q (BitVec.ofNat 64 v)
    obtain ⟨c, hc⟩ := queue_checkQueue (writeTail s q (BitVec.ofNat 64 v)) q
    refine ⟨_, exec_qtailDoorbell s v hq, ?_, ?_, fun hs => ?_, fun hs ho => ?_⟩
    · rw [hc, ht]
    · rw [hc, ht]
    · have hk : ((tailSet s q (BitVec.ofNat 64 v)).queue q).stop = (s.queue q).stop := by rw [tailSet, queue_updQueue]
      rw [writeTail_of_stopped _ hs, checkQueue_of_idle (findCmd_of_stopped (hk ▸ hs)), hk]
    · have h3 : ((stopQueue (tailSet s q (BitVec.ofNat 64 v)) q 3).queue q).stop = 3 := by rw [queue_stopQueue]
      rw [writeTail_of_over hs ho, checkQueue_of_idle (findCmd_of_stopped (by omega))]
      exact ⟨h3, List.mem_append_right _ (List.mem_singleton_self _)⟩
  case refine_2 =>
    obtain ⟨c, hc⟩ := queue_checkQueue (s.updQueue q (fun x => { x with stop := 0 })) q
    refine ⟨_, exec_queueResume s hq, ?_, ?_, fun he => ?_⟩
    · rw [hc, queue_updQueue]
    · rw [hc, queue_updQueue]
    · rw [checkQueue_of_idle (findCmd_of_empty (by rw [queue_updQueue]; exact he)), queue_updQueue]
  case refine_3 =>
    obtain ⟨c, hc⟩ := queue_nextCmd y q
    rw [hc]
    exact ⟨rfl, rfl, rfl⟩
  case refine_4 =>
    obtain ⟨n, hn, hfields⟩ := launch?_acceptLaunch hr
    refine ⟨_, (exec_launchCommand_of_cmd hq hf hc).trans (congrArg _ (launchCmd_of_accepted hr)), ?_, n, hn, hfields⟩
    rw [queue_updQueue]
  case refine_5 => exact (exec_launchCommand_of_cmd hq hf hc).trans (congrArg _ (launchCmd_of_refused hr))
  case refine_6 => exact ⟨_, exec_launchCommand_of_submit hx hfirst, subs_acceptLaunch .., fun lid hr => launch?_acceptLaunch hr⟩
  case refine_7 => exact ⟨checkLaunch_of_misaligned ctx, fun s1 c d h => acceptLaunch_of_refused st who h⟩
  case refine_8 =>
    exact ⟨_, exec_chainEnd_of_idle hq hf hc hi, mem_chainEnded .., fun site ln z hs hz hzc h0 => ef_chainEnded hs hz hzc h0⟩
  case refine_9 => exact ⟨_, exec_tlSignal_of_idle hq hf hc hi, queue_raiseQtl ..⟩
  case refine_10 =>
    rw [exec_tlWaitCommand, runCmd_of_cmd _ hq hf hc]
    rfl
  case refine_11 => rw [exec_fenceCommand_of_idle hq hf hc hi, if_neg h6]
  case refine_12 =>
    rw [exec_fenceCommand_of_idle hq hf hc hi, if_pos h6]
    exact ⟨_, rfl, lineFlushed_flushHomes s1⟩

end Sys2Proof.Machine
end

section
/-! What the side of memory beyond the CLCs leaves alone: the cores but for their residencies and fetched windows, the CLCs, and the
registers of the dies. The services of the homes, of the RDCs and of translation are made of a few kinds of changes, so what each kind
keeps all of them keep. -/

namespace Sys2Proof.Machine

/-! ### The kinds of changes -/

/-- `t` comes from `s` by changes of homes, RDCs, packets, links, memory bytes, translations, residencies that go stale and fetched
windows that are given up. -/
inductive HomeSide : State → State → Prop
  | refl (s : State) : HomeSide s s
  | trans {s t u : State} : HomeSide s t → HomeSide t u → HomeSide s u
  | home (s : State) (n : Nat) (f : Home → Home) : HomeSide s (s.updHome n f)
  | rdc (s : State) (d : Nat) (f : SMap RdcLine → SMap RdcLine) : HomeSide s (s.updDie d (fun i => { i with rdc := f i.rdc }))
  | net (s : State) (l : List Msg) (k : Nat) : HomeSide s { s with net := l, ctl := { s.ctl with nextId := k } }
  | link (s : State) (i : Nat) (f : Link → Link) : HomeSide s (s.updLink i f)
  | mem (s : State) (m : List Host.Cell) : HomeSide s { s with mem := m }
  | lost (s : State) (line : Nat) : HomeSide s (s.countLost line)
  | tlb (s : State) (t : List TlbEnt) (r : SMap (List RangeEnt)) (h : List HeatReq) :
      HomeSide s { s with vm := { s.vm with tlb := t, rtlb := r, heat := h } }
  | stale (s : State) (p : RtEnt → Bool) : HomeSide s (markWhere s p)
  | windows (s : State) (p : Nat → Bool) : HomeSide s (dropWindows s p)

theorem HomeSide.foldl {β : Type} {f : State → β → State} (h : ∀ s x, HomeSide s (f s x)) (l : List β) (s : State) :
    HomeSide s (l.foldl f s) :=
  List.foldlRecOn l f (.refl s) fun _ hs x _ => hs.trans (h _ x)

theorem homeSide_netOnly (s : State) (l : List Msg) : HomeSide s { s with net := l } := .net s l s.ctl.nextId
theorem homeSide_markStale (s : State) (page : Nat) : HomeSide s (markStale s page) := .stale s _
theorem homeSide_setRdc (s : State) (d line : Nat) (x : RdcLine) : HomeSide s (s.setRdc d line x) := .rdc s d fun m => mset m line x
theorem homeSide_cross (s : State) (a b : Nat) : HomeSide s (cross s a b) := .foldl (fun _ _ => .link ..) _ s

theorem homeSide_send (s : State) (m : Msg) : HomeSide s (send s m) :=
  (HomeSide.net s _ _).trans (.foldl (fun _ _ => .link ..) _ _)

/-! ### Lines at the homes and in the RDCs -/

theorem homeSide_evictHome (s : State) (n line : Nat) : HomeSide s (evictHome s n line) := by
  unfold evictHome
  split
  · exact .refl s
  · exact (HomeSide.mem ..).trans (.home ..)

theorem homeSide_touchHome (s : State) (n line cls chain : Nat) (ef : Bool) : HomeSide s (touchHome s n line cls chain ef) := by
  unfold touchHome
  split
  · exact .home ..
  · refine HomeSide.trans ?_ (.home ..)
    split
    · exact .refl s
    · split
      · exact .refl s
      · exact homeSide_evictHome ..

theorem homeSide_settleHome (s : State) (n line : Nat) : HomeSide s (settleHome s n line) := by
  unfold settleHome
  split
  · exact .refl s
  · split
    · exact homeSide_evictHome ..
    · exact .refl s

theorem homeSide_hitHome (s : State) (n line : Nat) : HomeSide s (hitHome s n line) := by
  unfold hitHome
  split
  · exact .refl s
  · exact .home ..

theorem homeSide_hostBack (s : State) (n page : Nat) : HomeSide s (hostBack s n page) := by
  unfold hostBack
  split
  · exact .refl s
  · split
    · exact .home ..
    · exact .refl s

theorem homeSide_homePut (s : State) (line : Nat) (bytes : SMap Byte) (p : Option Nat) (cls chain : Nat) (ef : Bool) :
    HomeSide s (homePut s line bytes p cls chain ef).1 := by
  unfold homePut
  simp only
  split
  · exact .lost ..
  · exact ((((homeSide_hostBack ..).trans (homeSide_touchHome ..)).trans (.home ..)).trans (.home ..)).trans (homeSide_settleHome ..)

theorem homeSide_flushHome (s : State) (line : Nat) : HomeSide s (flushHome s line) := by
  unfold flushHome
  simp only
  split
  · exact .refl s
  · exact (HomeSide.mem ..).trans (.home ..)

theorem homeSide_dropRdc (s : State) (d line : Nat) : HomeSide s (dropRdc s d line) := by
  unfold dropRdc
  split
  · exact .refl s
  · exact (HomeSide.rdc s d fun m => mdel m line).trans (.home ..)

theorem homeSide_retireEnt (s : State) (n line d : Nat) : HomeSide s (retireEnt s n line d) := by
  unfold retireEnt
  split
  · exact .home ..
  · split
    · exact .home ..
    · split
      · exact .home ..
      · exact .refl s

theorem homeSide_takeEvicts (s : State) (p : Msg → Nat → Bool) : HomeSide s (takeEvicts s p) := by
  refine .foldl (fun s m => ?_) _ s
  refine HomeSide.trans ?_ (homeSide_retireEnt ..)
  split
  · exact homeSide_netOnly ..
  · exact (homeSide_netOnly s _).trans (homeSide_homePut ..)

theorem homeSide_ownerHome (s : State) (line d : Nat) : HomeSide s (ownerHome s line d) := by
  unfold ownerHome
  split
  · exact .refl s
  · simp only
    split
    · exact .refl s
    · exact homeSide_homePut ..

theorem homeSide_recallEnt (s : State) (line d : Nat) : HomeSide s (recallEnt s line d) := by
  unfold recallEnt
  simp only
  split
  · split
    · exact .refl s
    · exact (((homeSide_ownerHome ..).trans (homeSide_cross ..)).trans (homeSide_dropRdc ..)).trans (.home ..)
  · exact (HomeSide.foldl (fun s x => (homeSide_cross s _ x).trans (homeSide_dropRdc ..)) _ s).trans (.home ..)

theorem homeSide_dirRoom (s : State) (n line : Nat) : HomeSide s (dirRoom s n line) := by
  unfold dirRoom
  simp only
  split
  · exact .refl s
  · split
    · exact .home ..
    · split
      · exact .refl s
      · exact (homeSide_takeEvicts ..).trans (homeSide_recallEnt ..)

theorem homeSide_rebuild (s : State) (n line x : Nat) : HomeSide s (rebuild s n line x) :=
  ((homeSide_dirRoom s n line).trans (.home ..)).trans (.home ..)

theorem homeSide_discoverNow (s : State) (line d : Nat) : HomeSide s (discoverNow s line d) := by
  unfold discoverNow
  simp only
  split
  · exact .refl s
  · have h := HomeSide.foldl (fun t x => homeSide_cross t (s.homeOf line) x) ((List.range 8).filter (fun x => x != d && s.onlineSite x)) s
    split
    · exact h
    · exact h.trans (homeSide_rebuild ..)

theorem homeSide_settleLine (s : State) (line d : Nat) : HomeSide s (settleLine s line d) :=
  (homeSide_takeEvicts ..).trans (homeSide_discoverNow ..)

theorem homeSide_recallAll (s : State) (line d : Nat) : HomeSide s (recallAll s line d) :=
  (homeSide_settleLine ..).trans (homeSide_recallEnt ..)

theorem homeSide_pullDirty (s : State) (line : Nat) : HomeSide s (pullDirty s line) := by
  unfold pullDirty
  simp only
  refine (homeSide_settleLine s line 99).trans ?_
  generalize settleLine s line 99 = s0
  split
  · exact .refl s0
  next x _ =>
    split
    · exact .refl s0
    · have h := (homeSide_cross s0 (s0.homeOf line) x).trans (homeSide_ownerHome _ line x)
      split
      · exact h
      · exact h.trans (homeSide_setRdc ..)

theorem homeSide_dieAccess (s : State) (n page : Nat) : HomeSide s (dieAccess s n page) := by
  unfold dieAccess
  split
  · exact .refl s
  · split
    · exact .home ..
    · exact .refl s

/-! ### Accesses at the homes, and translation -/

theorem homeSide_serveRead (s : State) (line : Nat) : HomeSide s (serveRead s line).1 := by
  unfold serveRead
  simp only
  exact ((homeSide_dieAccess ..).trans (homeSide_pullDirty ..)).trans (homeSide_hitHome ..)

theorem homeSide_readLine (s : State) (line : Nat) : HomeSide s (readLine s line) := by
  unfold readLine
  split
  · exact .refl s
  · exact homeSide_serveRead ..

theorem homeSide_serveWriteE (s : State) (line : Nat) (bytes : SMap Byte) (p : Option Nat) (cls chain : Nat) (ef : Bool) :
    HomeSide s (serveWriteE s line bytes p cls chain ef).1 := by
  unfold serveWriteE
  simp only
  exact (((homeSide_markStale ..).trans (homeSide_dieAccess ..)).trans (homeSide_recallAll ..)).trans (homeSide_homePut ..)

theorem homeSide_writePhys (s : State) (pa : Nat) (l : List Byte) (cls chain : Nat) (sy : Bool) :
    HomeSide s (writePhys s pa l cls chain sy) := by
  refine .foldl (fun s ln => ?_) _ s
  simp only
  split
  · exact (homeSide_serveWriteE ..).trans (homeSide_flushHome ..)
  · exact homeSide_serveWriteE ..

theorem homeSide_heatUpdate (s : State) (q : HeatReq) : HomeSide s (heatUpdate s q) := by
  unfold heatUpdate
  split
  · exact .tlb s s.vm.tlb s.vm.rtlb _
  · unfold heatNow
    simp only
    split
    · exact .refl s
    · exact homeSide_writePhys ..

theorem homeSide_heatRaise (s : State) (a : Nat) (e : W64) (wr : Bool) : HomeSide s (heatRaise s a e wr) :=
  homeSide_heatUpdate ..

theorem homeSide_useTlb (s : State) (t : TlbEnt) (wr : Bool) : HomeSide s (useTlb s t wr) := by
  have h := fun l => HomeSide.tlb s l s.vm.rtlb s.vm.heat
  unfold useTlb
  cases wr
  all_goals
    simp only [Bool.false_eq_true, if_false, if_true]
    split
    · exact (h _).trans (homeSide_heatRaise ..)
    · exact h _

theorem homeSide_loadRange (s : State) (agent ctx : Nat) : HomeSide s (loadRange s agent ctx).1 := by
  unfold loadRange
  simp only
  split
  · exact .refl s
  · split
    · exact .refl s
    · refine (HomeSide.foldl homeSide_readLine (linesOf (s.ctxEnt ctx).rtab (32 * min 32 (s.ctxEnt ctx).nrange)) s).trans ?_
      generalize List.foldl readLine s (linesOf (s.ctxEnt ctx).rtab (32 * min 32 (s.ctxEnt ctx).nrange)) = s1
      exact .tlb s1 s1.vm.tlb _ s1.vm.heat

theorem homeSide_translate (s : State) (agent ctx va : Nat) (need : BitVec 4) (wr : Bool) :
    HomeSide s (translate s agent ctx va need wr).1 := by
  unfold translate
  simp only
  split
  · exact .refl s
  · have h := homeSide_loadRange s agent ctx
    generalize loadRange s agent ctx = lr at h ⊢
    split
    · split
      · exact h
      · exact h
    · split
      · exact h
      · split
        · split
          · exact h
          · exact h.trans (homeSide_useTlb ..)
        · have h2 := h.trans (.foldl homeSide_readLine (walkLines lr.1 va 5 (s.ctxEnt ctx).root 1) lr.1)
          generalize (walkLines lr.1 va 5 (s.ctxEnt ctx).root 1).foldl readLine lr.1 = s1 at h2 ⊢
          split
          · exact h2
          · split
            · exact h2
            · exact ((h2.trans (.tlb s1 _ s1.vm.rtlb s1.vm.heat)).trans (homeSide_heatRaise ..)).trans (homeSide_useTlb ..)

theorem homeSide_dropTlb (s : State) (p : TlbEnt → Bool) : HomeSide s (dropTlb s p) := by
  unfold dropTlb
  simp only
  exact (HomeSide.tlb s (s.vm.tlb.filter (fun t => !p t)) s.vm.rtlb s.vm.heat).trans (.windows ..)

theorem homeSide_reloadRange (s : State) (ctx : Nat) : HomeSide s (reloadRange s ctx) := by
  unfold reloadRange
  simp only
  refine (HomeSide.windows s fun c => decide (c = ctx)).trans ?_
  generalize dropWindows s (fun c => decide (c = ctx)) = s0
  split
  · exact .tlb s0 s0.vm.tlb _ s0.vm.heat
  · refine (HomeSide.foldl homeSide_readLine (linesOf (s.ctxEnt ctx).rtab (32 * min 32 (s.ctxEnt ctx).nrange)) s0).trans ?_
    generalize List.foldl readLine s0 (linesOf (s.ctxEnt ctx).rtab (32 * min 32 (s.ctxEnt ctx).nrange)) = s1
    exact .tlb s1 s1.vm.tlb _ s1.vm.heat

/-! ### Pushes to a manager -/

theorem homeSide_pushHome (s : State) (line d : Nat) (bytes : SMap Byte) (p : Option Nat) (cls chain : Nat) (ef : Bool) :
    HomeSide s (pushHome s line d bytes p cls chain ef).1 := by
  unfold pushHome
  simp only
  split
  · exact .lost ..
  · split
    · exact .refl s
    · exact (((homeSide_cross ..).trans (homeSide_recallAll ..)).trans (homeSide_dieAccess ..)).trans (homeSide_homePut ..)

theorem homeSide_servePush (s : State) (line d : Nat) (bytes : SMap Byte) (p : Option Nat) (cls chain : Nat) (ef : Bool) :
    HomeSide s (servePush s line d bytes p cls chain ef).1 := by
  have h := homeSide_pushHome s line d bytes p cls chain ef
  unfold servePush
  simp only
  split
  · exact h
  · split
    · exact h
    · exact (h.trans (homeSide_setRdc ..)).trans (.home ..)

theorem homeSide_rdcWrite (s : State) (d line : Nat) (x : RdcLine) (bytes : SMap Byte) (p : Option Nat) :
    HomeSide s (rdcWrite s d line x bytes p).1 := by
  unfold rdcWrite
  simp only
  split
  · exact (homeSide_setRdc ..).trans (.home ..)
  · exact ((homeSide_setRdc ..).trans (.home ..)).trans (homeSide_send ..)

theorem homeSide_clcSend (s : State) (d line : Nat) (c : Copy) (p : Option Nat) : HomeSide s (clcSend s d line c p).1 := by
  unfold clcSend
  simp only
  refine (homeSide_markStale s (line / 64)).trans ?_
  split
  · split
    · exact homeSide_rdcWrite ..
    · exact homeSide_servePush ..
  · exact homeSide_servePush ..

theorem homeSide_pushRdc (s : State) (d line : Nat) : HomeSide s (pushRdc s d line) := by
  unfold pushRdc
  simp only
  split
  · exact .refl s
  · split
    · exact .refl s
    · exact (homeSide_setRdc ..).trans (homeSide_pushHome ..)

/-! ### What all of them keep -/

/-- The expanders that are off are the same. -/
def SameOff (s t : State) : Prop := t.pkg.exp.off0 = s.pkg.exp.off0 ∧ t.pkg.exp.off1 = s.pkg.exp.off1

theorem SameOff.trans {s t u : State} (h : SameOff s t) (g : SameOff t u) : SameOff s u := ⟨g.1.trans h.1, g.2.trans h.2⟩

theorem SameOff.expOff {s t : State} (h : SameOff s t) (line : Nat) : t.expOff line = s.expOff line := by
  unfold State.expOff
  rw [h.1, h.2]

theorem HomeSide.sameOff {s t : State} (h : HomeSide s t) : SameOff s t := by
  induction h with
  | trans _ _ h g => exact h.trans g
  | lost s line =>
    unfold State.countLost
    split <;> exact ⟨rfl, rfl⟩
  | _ => exact ⟨rfl, rfl⟩

theorem HomeSide.clcs {s t : State} (h : HomeSide s t) : t.clcs = s.clcs := by
  induction h with
  | trans _ _ h g => exact g.trans h
  | lost s line =>
    unfold State.countLost
    split <;> rfl
  | _ => rfl

theorem HomeSide.clc {s t : State} (h : HomeSide s t) (k : Nat) : t.clc k = s.clc k := by rw [State.clc, h.clcs, State.clc]

/-- The lease registers of a die are the same (08 R190). -/
theorem HomeSide.ticks {s t : State} (h : HomeSide s t) (d : Nat) :
    (t.die d).ticks = (s.die d).ticks ∧ (t.die d).tickcc = (s.die d).tickcc := by
  induction h with
  | trans _ _ h g => exact ⟨g.1.trans h.1, g.2.trans h.2⟩
  | lost s line =>
    unfold State.countLost
    split <;> exact ⟨rfl, rfl⟩
  | rdc s n f =>
    rw [State.die, State.updDie_dies, mget_mset]
    split
    next hd => exact hd ▸ ⟨rfl, rfl⟩
    next => exact ⟨rfl, rfl⟩
  | _ => exact ⟨rfl, rfl⟩

/-- A core is as it was, but for its residencies and its fetched windows. -/
def SameCore (c e : Core) : Prop := e = { c with rt := e.rt, resl := e.resl, iwin := e.iwin }

/-- Residency entries are as they were, but for their states. -/
def SameEntries (c e : Core) : Prop := ∀ i, ∃ st, e.rtEnt i = { c.rtEnt i with state := st }

theorem SameCore.trans {c e g : Core} (h : SameCore c e) (k : SameCore e g) : SameCore c g := by
  unfold SameCore at *
  rw [k, h]

theorem SameEntries.refl (c : Core) : SameEntries c c := fun i => ⟨(c.rtEnt i).state, rfl⟩

theorem SameEntries.trans {c e g : Core} (h : SameEntries c e) (k : SameEntries e g) : SameEntries c g := by
  intro i
  obtain ⟨a, ha⟩ := h i
  obtain ⟨b, hb⟩ := k i
  exact ⟨b, by rw [hb, ha]⟩

/-- What a change of every core does to one. -/
theorem core_mapCores {s : State} {g : Nat × Core → Nat × Core} (h1 : ∀ c, (g c).1 = c.1) {P : Core → Core → Prop} (hr : P {} {})
    (h2 : ∀ c, P c.2 (g c).2) (l : Nat) : P (s.core l) (State.core { s with cores := s.cores.map g } l) := by
  simp only [State.core, mget]
  rw [mfind_map _ _ h1]
  cases mfind s.cores l with
  | none => exact hr
  | some c => exact h2 (l, c)

/-- A residency entry once its pages are written. -/
def RtEnt.staled (p : RtEnt → Bool) (e : RtEnt) : RtEnt := if staleHit p e then { e with state := 5#3 } else e

theorem sameEntries_markWhere (s : State) (p : RtEnt → Bool) (l : Nat) : SameEntries (s.core l) ((markWhere s p).core l) := by
  unfold markWhere
  refine core_mapCores (fun c => by dsimp only; split <;> rfl) (.refl _) (fun c => ?_) l
  dsimp only
  split
  · exact .refl _
  · intro i
    simp only [Core.rtEnt, mget]
    have hm := mfind_map c.2.rt (fun e => (e.1, e.2.staled p)) (fun _ => rfl) i
    unfold RtEnt.staled at hm
    rw [hm]
    cases mfind c.2.rt i with
    | none => exact ⟨_, rfl⟩
    | some e =>
      simp only [Option.map_some, Option.getD_some]
      split
      · exact ⟨_, rfl⟩
      · exact ⟨_, rfl⟩

theorem HomeSide.core {s t : State} (h : HomeSide s t) (l : Nat) : SameCore (s.core l) (t.core l) ∧ SameEntries (s.core l) (t.core l) := by
  induction h with
  | trans _ _ h g => exact ⟨h.1.trans g.1, h.2.trans g.2⟩
  | lost s line =>
    unfold State.countLost
    split <;> exact ⟨rfl, .refl _⟩
  | stale s p =>
    refine ⟨?_, sameEntries_markWhere s p l⟩
    unfold markWhere
    refine core_mapCores (P := SameCore) (fun c => by dsimp only; split <;> rfl) rfl (fun c => ?_) l
    dsimp only
    split <;> rfl
  | windows s p =>
    refine core_mapCores (P := fun c e => SameCore c e ∧ SameEntries c e) (fun c => by split <;> rfl) ⟨rfl, .refl _⟩ (fun c => ?_) l
    split
    · exact ⟨rfl, .refl _⟩
    · exact ⟨rfl, .refl _⟩
  | _ => exact ⟨rfl, .refl _⟩

end Sys2Proof.Machine
end

section
/-! RES_PRELOAD (O44): the load that it begins, and its refusals. -/

namespace Sys2Proof.Machine

/-! ### What the residency operations leave alone -/

theorem HomeSide.fed {s t : State} (h : HomeSide s t) : t.fed = s.fed := by
  induction h with
  | trans _ _ h g => exact g.trans h
  | lost s line =>
    unfold State.countLost
    split <;> rfl
  | _ => rfl

theorem evictFor_fed {core ctx n : Nat} : ∀ {k : Nat} {s t : State}, evictFor core ctx n k s = some t → t.fed = s.fed
  | 0, s, t, ht => by
    simp only [evictFor, Option.ite_none_right_eq_some, Option.some.injEq] at ht
    exact ht.2 ▸ rfl
  | k + 1, s, t, ht => by
    unfold evictFor at ht
    split at ht
    · exact Option.some.inj ht ▸ rfl
    · split at ht
      · cases ht
      · exact (evictFor_fed ht).trans rfl

theorem takeQuads_fed {s : State} {core ctx n : Nat} {t : State × W32} (ht : takeQuads s core ctx n = some t) :
    t.1.fed = s.fed := by
  obtain ⟨u, hu, rfl⟩ := Option.map_eq_some_iff.1 ht
  exact evictFor_fed hu

theorem resAlloc_fed (s : State) (core ctx : Nat) (name : W64) (n : Nat) : (resAlloc s core ctx name n).1.fed = s.fed := by
  unfold resAlloc
  simp only
  split
  · rfl
  · split
    · rfl
    · split
      · rfl
      · split
        · rfl
        · split
          · rfl
          · split
            · rfl
            next hq => exact (takeQuads_fed hq :)

/-- One entry keeps its source, its format and its pin, and the FED is the same. -/
def KeepsEntry (core i : Nat) (s t : State) : Prop :=
  t.fed = s.fed ∧ ((t.core core).rtEnt i).src = ((s.core core).rtEnt i).src ∧
    ((t.core core).rtEnt i).lfmt = ((s.core core).rtEnt i).lfmt ∧ ((t.core core).rtEnt i).pin = ((s.core core).rtEnt i).pin

theorem KeepsEntry.trans {core i : Nat} {s t u : State} (h : KeepsEntry core i s t) (g : KeepsEntry core i t u) :
    KeepsEntry core i s u := by
  obtain ⟨h1, h2, h3, h4⟩ := h
  obtain ⟨g1, g2, g3, g4⟩ := g
  exact ⟨g1.trans h1, g2.trans h2, g3.trans h3, g4.trans h4⟩

theorem HomeSide.keepsEntry {s t : State} (h : HomeSide s t) (core i : Nat) : KeepsEntry core i s t := by
  obtain ⟨st, he⟩ := (h.core core).2 i
  exact ⟨h.fed, by rw [he], by rw [he], by rw [he]⟩

theorem rtEnt_setRt (s : State) (core i : Nat) (e : RtEnt) : ((s.setRt core i e).core core).rtEnt i = e := by
  rw [State.setRt, core_updCore, if_pos rfl, Core.rtEnt, mget_mset, if_pos rfl]

/-- The leaf or the range entry of a source page with its mark. -/
def leafMarked (s : State) (ctx va : Nat) : State :=
  let c := s.ctxEnt ctx
  let tbl := rangeTable s ctx
  match (List.range tbl.length).find? (fun k => match tbl[k]? with
      | some r => r.v && r.vbase ≤ va / 4096 && va / 4096 ≤ r.vlimit
      | none => false) with
  | some k =>
    let a := c.rtab + 32 * k + 24
    reloadRange (writePhys s a [BitVec.ofNat 8 (s.snoopNum a 1) ||| 0x80#8] 0 0 false) ctx
  | none => match walkFrom s va 5 c.root 1 with
    | .fault _ _ => s
    | .leaf a _ lvl =>
      let x := BitVec.ofNat 8 (s.snoopNum (a + 6) 1)
      dropTlb (writePhys s (a + 6) [x ||| 8#8] 0 0 false)
        (fun t => (t.ctx = ctx || t.g) && t.vpage = va / 2 ^ leafLog2 lvl)

theorem markSource_eq (s : State) (core i ctx va : Nat) (sup : Bool) : markSource s core i ctx va sup =
    match translate (leafMarked s ctx va) (agentRes (s.siteOf core)) ctx va (engineNeed sup needR) false with
    | (s2, .inl _) => s2
    | (s2, .inr x) =>
      let e := (s2.core core).rtEnt i
      if e.pages.contains (va / 4096, x.pa / 4096) then s2
      else s2.setRt core i { e with pages := e.pages ++ [(va / 4096, x.pa / 4096)] } := rfl

theorem homeSide_leafMarked (s : State) (ctx va : Nat) : HomeSide s (leafMarked s ctx va) := by
  unfold leafMarked
  simp only
  split
  · exact (homeSide_writePhys ..).trans (homeSide_reloadRange ..)
  · split
    · exact .refl s
    · exact (homeSide_writePhys ..).trans (homeSide_dropTlb ..)

theorem keepsEntry_markSource (s : State) (core i ctx va : Nat) (sup : Bool) :
    KeepsEntry core i s (markSource s core i ctx va sup) := by
  have h := ((homeSide_leafMarked s ctx va).trans
    (homeSide_translate _ (agentRes (s.siteOf core)) ctx va (engineNeed sup needR) false)).keepsEntry core i
  rw [markSource_eq]
  generalize translate (leafMarked s ctx va) (agentRes (s.siteOf core)) ctx va (engineNeed sup needR) false = p at h ⊢
  obtain ⟨s2, x | x⟩ := p
  · exact h
  · simp only
    split
    · exact h
    · exact h.trans ⟨rfl, by rw [rtEnt_setRt], by rw [rtEnt_setRt], by rw [rtEnt_setRt]⟩

/-- What a load that begins leaves of its entry, of the FED and of the loads of its core. -/
theorem startLoad_keeps (s : State) (core i : Nat) (l : ResLoad) : KeepsEntry core i s (startLoad s core i l) ∧
    { l with time := s.ctl.time } ∈ ((startLoad s core i l).core core).resl := by
  unfold startLoad
  simp only
  set e := (s.core core).rtEnt i with he
  set s1 := s.setRt core i { e with state := 1#3, pages := if e.srcv then [] else e.pages } with h1
  have hk1 : KeepsEntry core i s s1 :=
    ⟨rfl, by rw [h1, rtEnt_setRt], by rw [h1, rtEnt_setRt], by rw [h1, rtEnt_setRt]⟩
  have hk2 : KeepsEntry core i s (if e.srcv then (srcPages e).foldl (fun s va => markSource s core i e.tenant.toNat va l.sup) s1
      else s1) := by
    split
    · exact List.foldlRecOn _ _ hk1 fun _ h va _ => h.trans (keepsEntry_markSource ..)
    · exact hk1
  generalize (if e.srcv then (srcPages e).foldl (fun s va => markSource s core i e.tenant.toNat va l.sup) s1 else s1) = s2
    at hk2 ⊢
  refine ⟨hk2.trans ⟨rfl, ?_, ?_, ?_⟩, ?_⟩
  all_goals rw [core_updCore, if_pos rfl]
  · rfl
  · rfl
  · rfl
  · exact List.mem_append_right _ (List.mem_singleton_self _)

/-! ### The command -/

/-- The entry of a preload: its source, its format and its pin. -/
def preloadEnt (e : RtEnt) (l : List Byte) (fm : Nat) : RtEnt :=
  { e with src := BitVec.ofNat 54 (fieldAt l 0x10 8), length := BitVec.ofNat 32 (fieldAt l 0x18 8), lfmt := BitVec.ofNat 2 fm,
           srcv := true, pin := bits (fieldAt l 0 8) 8 8 = 1 }

/-- The load of a preload. -/
def preloadLoad (q : Nat) (s : State) (n : Nat) (l : List Byte) (h : Nat) : ResLoad :=
  let st := fieldAt l 0x20 8
  { idx := h % 64, ctx := (s.queue q).ctx, num := some n, queue := some q,
    status := if st = 0 then none else some (st, (s.queue q).head.toNat) }

/-- What RES_PRELOAD does once its shape and its quads are found: the load begins, if its source may be read. -/
def preloadBegin (q : Nat) (s s1 : State) (l : List Byte) (fm h : Nat) : State :=
  let ctx := (s.queue q).ctx
  let core := bits (fieldAt l 0 8) 25 16
  let num := (s.queue q).head.toNat
  let i := h % 64
  let tn := issueNum (s1.setRt core i (preloadEnt ((s1.core core).rtEnt i) l fm)) ctx (4096 + s1.siteOf core)
  let s2 := startLoad tn.2 core i (preloadLoad q s tn.1 l h)
  s2.updQueue q (fun x => { x with cmds := x.cmds ++ [{ num := num, pre := some (core, i) }] })

/-- RES_PRELOAD is refused with a status. -/
def preloadRefuse (q : Nat) (s z : State) (l : List Byte) (c : Nat) : State :=
  nextCmd (writeStatus z (s.queue q).ctx (fieldAt l 0x20 8) c (s.queue q).head.toNat) q

/-- What RES_PRELOAD does. -/
def preloadCmd (q : Nat) (s : State) (l : List Byte) : State :=
  let ctx := (s.queue q).ctx
  let core := bits (fieldAt l 0 8) 25 16
  let name := BitVec.ofNat 64 (fieldAt l 8 8)
  let src := fieldAt l 0x10 8
  let len := fieldAt l 0x18 8
  let sh := preShapes len
  let f := if sh.length ≤ 1 then (0#8, s) else s.freeByte
  if (s.lpt core).isNone || name = 0#64 then preloadRefuse q s s l 5
  else if (rtByName (s.core core) ctx name).isSome then preloadRefuse q s s l 1
  else match sh[f.1.toNat % max 1 sh.length]? with
  | none => preloadRefuse q s s l (if (quotaOf s core ctx).limit = 0 then 2 else 5)
  | some (fm, n) =>
    match resAlloc f.2 core ctx name n with
    | (s1, h, 0) =>
      if src % 64 != 0 || src ≥ 2 ^ 54 then preloadRefuse q s s l 5
      else if sourceBusy s ctx src len then s
      else nextCmd (preloadBegin q s s1 l fm h) q
    | (s1, _, c) => preloadRefuse q s s1 l c

theorem exec_resPreload (q : Nat) (s : State) : exec (.resPreload q) s = .next (runCmd s q 5 (preloadCmd q)) := rfl

theorem preloadCmd_of_bad (q : Nat) (s : State) (l : List Byte)
    (h : s.lpt (bits (fieldAt l 0 8) 25 16) = none ∨ BitVec.ofNat 64 (fieldAt l 8 8) = 0#64) :
    preloadCmd q s l = preloadRefuse q s s l 5 := by
  unfold preloadCmd
  exact if_pos (by simpa using h)

section
variable (q : Nat) (s : State) (l : List Byte) (hl : s.lpt (bits (fieldAt l 0 8) 25 16) ≠ none)
  (hn : BitVec.ofNat 64 (fieldAt l 8 8) ≠ 0#64)
include hl hn

theorem preloadCmd_of_live {y : Nat × RtEnt}
    (hy : rtByName (s.core (bits (fieldAt l 0 8) 25 16)) (s.queue q).ctx (BitVec.ofNat 64 (fieldAt l 8 8)) = some y) :
    preloadCmd q s l = preloadRefuse q s s l 1 := by
  unfold preloadCmd
  simp only
  rw [if_neg (by simpa using ⟨hl, hn⟩), hy]
  rfl

theorem preloadCmd_of_noShape
    (hy : rtByName (s.core (bits (fieldAt l 0 8) 25 16)) (s.queue q).ctx (BitVec.ofNat 64 (fieldAt l 8 8)) = none)
    (hs : preShapes (fieldAt l 0x18 8) = []) : preloadCmd q s l =
      preloadRefuse q s s l (if (quotaOf s (bits (fieldAt l 0 8) 25 16) (s.queue q).ctx).limit = 0 then 2 else 5) := by
  unfold preloadCmd
  simp only
  rw [if_neg (by simpa using ⟨hl, hn⟩), hy, hs]
  rfl

theorem preloadCmd_of_shape {f n h c : Nat} {z : State}
    (hy : rtByName (s.core (bits (fieldAt l 0 8) 25 16)) (s.queue q).ctx (BitVec.ofNat 64 (fieldAt l 8 8)) = none)
    (hs : preShapes (fieldAt l 0x18 8) = [(f, n)])
    (ha : resAlloc s (bits (fieldAt l 0 8) 25 16) (s.queue q).ctx (BitVec.ofNat 64 (fieldAt l 8 8)) n = (z, h, c)) :
    preloadCmd q s l = if c ≠ 0 then preloadRefuse q s z l c
      else if fieldAt l 0x10 8 % 64 != 0 || fieldAt l 0x10 8 ≥ 2 ^ 54 then preloadRefuse q s s l 5
      else if sourceBusy s (s.queue q).ctx (fieldAt l 0x10 8) (fieldAt l 0x18 8) then s
      else nextCmd (preloadBegin q s z l f h) q := by
  unfold preloadCmd
  simp only
  rw [if_neg (by simpa using ⟨hl, hn⟩), hy, hs]
  simp only [Option.isSome_none, Bool.false_eq_true, if_false, List.length_singleton, Nat.le_refl, if_true, Nat.max_self,
    Nat.mod_one, List.getElem?_cons_zero, ha]
  cases c with
  | zero => rfl
  | succ c => rfl

end

/-- What a preload that begins leaves: its load, its entry and its place in the queue. -/
theorem preloadBegin_spec (q : Nat) (s z : State) (l : List Byte) (fm h : Nat) (hz : z.fed = s.fed) :
    let core := bits (fieldAt l 0 8) 25 16
    let st := fieldAt l 0x20 8
    let num := (s.queue q).head.toNat
    let y := preloadBegin q s z l fm h
    ∃ r ∈ (y.core core).resl, r.idx = h % 64 ∧ r.queue = some q ∧ r.status = (if st = 0 then none else some (st, num)) ∧
      ((y.core core).rtEnt (h % 64)).src = BitVec.ofNat 54 (fieldAt l 0x10 8) ∧
      ((y.core core).rtEnt (h % 64)).lfmt = BitVec.ofNat 2 fm ∧
      ((y.core core).rtEnt (h % 64)).pin = decide (bits (fieldAt l 0 8) 8 8 = 1) ∧
      ∃ k, (y.queue q).cmds = (s.queue q).cmds ++ [k] ∧ k.num = num ∧ k.pre = some (core, h % 64) := by
  intro core st num y
  unfold y preloadBegin
  simp only
  set e1 := preloadEnt ((z.core core).rtEnt (h % 64)) l fm
  set tn := issueNum (z.setRt core (h % 64) e1) (s.queue q).ctx (4096 + z.siteOf core)
  obtain ⟨⟨hf, hsrc, hfm, hpin⟩, hr⟩ := startLoad_keeps tn.2 core (h % 64) (preloadLoad q s tn.1 l h)
  have he : (tn.2.core core).rtEnt (h % 64) = e1 := (rtEnt_setRt z core (h % 64) e1 :)
  have hq : (startLoad tn.2 core (h % 64) (preloadLoad q s tn.1 l h)).queue q = s.queue q := by
    rw [State.queue, hf, State.queue, ← hz]
    rfl
  refine ⟨_, hr, rfl, rfl, rfl, hsrc.trans (by rw [he]; rfl), hfm.trans (by rw [he]; rfl), hpin.trans (by rw [he]; rfl), ?_⟩
  refine ⟨{ num := num, pre := some (core, h % 64) }, ?_, rfl, rfl⟩
  rw [queue_updQueue, hq]

/-- Settles O44: RES_PRELOAD at QHEAD is its own function of the command, taken case by case; a load that begins keeps what the
command wrote into its entry, since marking a source changes the pages and the states of entries alone. -/
theorem residencyPreload : Obligations.ResidencyPreload := by
  unfold Obligations.ResidencyPreload
  intro s q s1 l hq hf hc ctx core name src len st num refused
  have ex : exec (.resPreload q) s = .next (preloadCmd q s1 l) := by
    rw [exec_resPreload, runCmd_of_cmd _ hq hf hc]
  have refuse : ∀ {z c}, preloadCmd q s1 l = preloadRefuse q s1 z l c → refused z c := fun h => ex.trans (congrArg _ h)
  refine ⟨fun h => refuse (preloadCmd_of_bad q s1 l h), fun y hl hn hy => refuse (preloadCmd_of_live q s1 l hl hn hy),
    fun hl hn hy => ⟨fun hs => refuse (preloadCmd_of_noShape q s1 l hl hn hy hs), fun f n z h c hs ha => ?_⟩⟩
  have hcmd := preloadCmd_of_shape q s1 l hl hn hy hs ha
  refine ⟨fun h0 => refuse (hcmd.trans (if_pos h0)), ?_, ?_, ?_⟩
  · rintro rfl hb
    refine refuse (hcmd.trans ?_)
    rw [if_neg (by simp), if_pos (by simpa using hb)]
  · rintro rfl ha hs hb
    refine ex.trans (congrArg _ (hcmd.trans ?_))
    rw [if_neg (by simp), if_neg (by simpa using ⟨ha, hs⟩), if_pos hb]
  · rintro rfl hal hs hb
    have hz : z.fed = s1.fed := by
      have := resAlloc_fed s1 core ctx name n
      rwa [ha] at this
    obtain ⟨r, hr, hi⟩ := preloadBegin_spec q s1 z l f h hz
    refine ⟨preloadBegin q s1 z l f h, r, ex.trans (congrArg _ (hcmd.trans ?_)), hr, hi⟩
    rw [if_neg (by simp), if_neg (by simpa using ⟨hal, hs⟩), if_neg (Bool.eq_false_iff.1 hb)]

end Sys2Proof.Machine
end

section
/-! The way of a store through the CLC and of an atomic to its home: what the CLCs and the cores hold afterwards, and the bytes that a
home holds once it is written. -/

namespace Sys2Proof.Machine

/-! ### Maps written key by key -/

theorem mem_mset {α : Type} {m : SMap α} {k : Nat} {v : α} {e : Nat × α} : e ∈ mset m k v ↔ e = (k, v) ∨ e ∈ m ∧ e.1 ≠ k := by
  rw [mset, mem_minsert, mdel, List.mem_filter, bne_iff_ne]

/-- What a map holds once entries are written one after the other: the last of a key. -/
theorem mfind_foldl_mset {α : Type} (l : SMap α) (m : SMap α) (k : Nat) :
    mfind (l.foldl (fun m e => mset m e.1 e.2) m) k = match l.reverse.find? (fun e => e.1 = k) with
      | some e => some e.2
      | none => mfind m k := by
  induction l generalizing m with
  | nil => rfl
  | cons x t ih =>
    rw [List.foldl_cons, ih, List.reverse_cons, List.find?_append]
    cases t.reverse.find? (fun e => e.1 = k) with
    | some e => rfl
    | none =>
      rw [Option.none_or, mfind_mset]
      by_cases h : x.1 = k
      · simp [h]
      · simp [h, Ne.symm h]

/-- A map has entries of a key, all of one value. -/
def Holds {α : Type} (m : SMap α) (k : Nat) (v : α) : Prop := (∃ e ∈ m, e.1 = k) ∧ ∀ e ∈ m, e.1 = k → e.2 = v

theorem holds_mset_same {α : Type} (m : SMap α) (k : Nat) (v : α) : Holds (mset m k v) k v := by
  refine ⟨⟨(k, v), mem_mset.2 (.inl rfl), rfl⟩, fun e he hk => ?_⟩
  obtain rfl | ⟨_, h⟩ := mem_mset.1 he
  · rfl
  · exact absurd hk h

theorem Holds.mset_other {α : Type} {m : SMap α} {k : Nat} {v : α} (h : Holds m k v) {j : Nat} (w : α) (hj : j ≠ k) :
    Holds (mset m j w) k v := by
  obtain ⟨⟨e, he, hk⟩, hv⟩ := h
  refine ⟨⟨e, mem_mset.2 (.inr ⟨he, by rw [hk]; exact hj.symm⟩), hk⟩, fun x hx hxk => ?_⟩
  obtain rfl | ⟨hm, _⟩ := mem_mset.1 hx
  · exact absurd hxk hj
  · exact hv x hm hxk

theorem Holds.mfind {α : Type} {m : SMap α} {k : Nat} {v : α} (h : Holds m k v) : mfind m k = some v := by
  induction m with
  | nil =>
    obtain ⟨⟨e, he, _⟩, _⟩ := h
    cases he
  | cons x t ih =>
    obtain ⟨⟨e, he, hk⟩, hv⟩ := h
    simp only [Machine.mfind]
    split
    next hx => exact congrArg some (hv x List.mem_cons_self hx)
    next hx =>
      obtain rfl | ht := List.mem_cons.1 he
      · exact absurd hk hx
      · exact ih ⟨⟨e, ht, hk⟩, fun y hy => hv y (List.mem_cons_of_mem _ hy)⟩

theorem holds_foldl_mset {α : Type} {l : SMap α} {k : Nat} {v : α} (hl : ∀ e ∈ l, e.1 = k → e.2 = v) (m : SMap α)
    (h : (∃ e ∈ l, e.1 = k) ∨ Holds m k v) : Holds (l.foldl (fun m e => mset m e.1 e.2) m) k v := by
  induction l generalizing m with
  | nil =>
    obtain ⟨e, he, _⟩ | h := h
    · cases he
    · exact h
  | cons x t ih =>
    refine ih (fun e he => hl e (List.mem_cons_of_mem _ he)) _ ?_
    by_cases hx : x.1 = k
    · subst hx
      exact .inr (hl x List.mem_cons_self rfl ▸ holds_mset_same ..)
    · obtain ⟨e, he, hk⟩ | h := h
      · obtain rfl | ht := List.mem_cons.1 he
        · exact absurd hk hx
        · exact .inl ⟨e, ht, hk⟩
      · exact .inr (h.mset_other _ hx)

/-- A line written at its memory controller. -/
theorem memByte_memPutLine {d : SMap Byte} {off : Nat} {b : Byte} (hd : ∀ e ∈ d, e.1 = off → e.2 = b) (m : List Host.Cell) (line : Nat)
    (h : (∃ e ∈ d, e.1 = off) ∨ memByte m (64 * line + off) = b) : memByte (memPutLine m line d) (64 * line + off) = b := by
  unfold memPutLine
  induction d generalizing m with
  | nil =>
    obtain ⟨e, he, _⟩ | h := h
    · cases he
    · exact h
  | cons x t ih =>
    refine ih (fun e he => hd e (List.mem_cons_of_mem _ he)) _ ?_
    rw [memByte_memPut]
    by_cases hx : x.1 = off
    · exact .inr (by rw [if_pos (by rw [hx]), hd x List.mem_cons_self hx])
    · obtain ⟨e, he, hk⟩ | h := h
      · obtain rfl | ht := List.mem_cons.1 he
        · exact absurd hk hx
        · exact .inl ⟨e, ht, hk⟩
      · exact .inr (by rw [if_neg (by omega), h])

theorem mem_bytesAt {a : Nat} {l : List Byte} {e : Nat × Byte} :
    e ∈ bytesAt a l ↔ ∃ i < l.length, e = (a + i, l.getD i 0#8) := by
  simp only [bytesAt, List.mem_map, List.mem_range, eq_comm]

@[simp] theorem length_leBytes (n w : Nat) : (leBytes n w).length = n := by
  induction n generalizing w with
  | zero => rfl
  | succ n ih => simp [leBytes, ih]

/-! ### The bytes of a line at its home -/

/-- A byte of a line as its home keeps it, in its cache or at the memory controller. -/
def HomeHolds (s : State) (line off : Nat) (b : Byte) : Prop :=
  match s.homeLine? (s.homeOf line) line with
  | none => memByte s.mem (64 * line + off) = b
  | some l => Holds l.data off b

theorem HomeHolds.homeByte {s : State} {line off : Nat} {b : Byte} (h : HomeHolds s line off b) : s.homeByte line off = b := by
  unfold HomeHolds at h
  unfold State.homeByte
  cases hl : s.homeLine? (s.homeOf line) line with
  | none => rwa [hl] at h
  | some l =>
    rw [hl] at h
    simp only [h.mfind, Option.getD_some]

/-- What the byte at its home depends on. -/
theorem HomeHolds.of_eq {s t : State} {line off : Nat} {b : Byte} (h : HomeHolds s line off b) (hh : t.homes = s.homes)
    (hm : t.mem = s.mem) (ht : t.pkg.tier = s.pkg.tier) : HomeHolds t line off b := by
  unfold HomeHolds State.homeLine? State.home State.homeOf at *
  rwa [hh, hm, ht]

theorem homeLine?_evictHome_same (s : State) (n line : Nat) : (evictHome s n line).homeLine? n line = none := by
  unfold evictHome
  split
  next h => exact h
  next =>
    rw [State.homeLine?, home_updHome]
    exact mfind_mdel_same ..

theorem homeOf_evictHome (s : State) (n line ln : Nat) : (evictHome s n line).homeOf ln = s.homeOf ln := by
  rw [State.homeOf, (quiet_evictHome s n line).tier, State.homeOf]

theorem homeHolds_settleHome {s : State} {line off n : Nat} {l : HomeLine} {b : Byte} (hn : s.homeOf line = n)
    (hl : s.homeLine? n line = some l) (h : Holds l.data off b) : HomeHolds (settleHome s n line) line off b := by
  subst hn
  unfold settleHome
  rw [hl]
  simp only
  split
  · unfold HomeHolds
    rw [homeOf_evictHome, homeLine?_evictHome_same]
    unfold evictHome
    rw [hl]
    exact memByte_memPutLine h.2 _ _ (.inl h.1)
  · unfold HomeHolds
    rw [hl]
    exact h

/-- A line written at its home. -/
def homeWritten (l : HomeLine) (w : Nat) (bytes : SMap Byte) : HomeLine :=
  { l with wts := w, rts := w, data := bytes.foldl (fun d e => mset d e.1 e.2) l.data }

theorem homeHolds_homePut {s : State} {line off : Nat} {bytes : SMap Byte} {b : Byte} (p : Option Nat) (cls chain : Nat) (ef : Bool)
    (hx : s.expOff line = false) (hb : Holds bytes off b) : HomeHolds (homePut s line bytes p cls chain ef).1 line off b := by
  unfold homePut
  simp only [hx, Bool.false_eq_true, if_false]
  have ht := ((quiet_hostBack s (s.homeOf line) (line / 64)).trans (quiet_touchHome _ (s.homeOf line) line cls chain ef)).tier
  generalize touchHome (hostBack s (s.homeOf line) (line / 64)) (s.homeOf line) line cls chain ef = s1 at ht ⊢
  set l := (s1.homeLine? (s.homeOf line) line).getD {}
  set w := max (max (p.getD 0) (s1.home (s.homeOf line)).dt) (l.rts + 1)
  refine homeHolds_settleHome (l := homeWritten l w bytes) ?_ ?_ (holds_foldl_mset hb.2 l.data (.inl hb.1))
  · exact congrArg (fun t => if regionOf (64 * line) = .hbm then granSite t (64 * line / 4096) else Config.fed) ht
  · rw [State.homeLine?, home_updHome]
    exact (homeLine?_setHomeLine ..).trans (if_pos ⟨rfl, rfl⟩)

theorem homeByte_flushHome {s : State} {line off : Nat} {b : Byte} (h : HomeHolds s line off b) :
    (flushHome s line).homeByte line off = b := by
  cases hl : s.homeLine? (s.homeOf line) line with
  | none =>
    have hf : flushHome s line = s := by simp only [flushHome, hl]
    rw [hf]
    exact h.homeByte
  | some l =>
    have hm : (flushHome s line).mem = memPutLine s.mem line l.data := by simp only [flushHome, hl, State.setHomeLine_mem]
    unfold State.homeByte
    rw [homeOf_flushHome, homeLine?_flushHome, if_pos ⟨rfl, rfl⟩, hl, hm]
    unfold HomeHolds at h
    rw [hl] at h
    exact memByte_memPutLine h.2 _ _ (.inl h.1)

theorem homeByte_of_eq {s t : State} (hh : t.homes = s.homes) (hm : t.mem = s.mem) (ht : t.pkg.tier = s.pkg.tier) (line off : Nat) :
    t.homeByte line off = s.homeByte line off := by
  unfold State.homeByte State.homeLine? State.home State.homeOf
  rw [hh, hm, ht]

/-! ### Expanders that are off -/

theorem regionOf_line (pa : Nat) : regionOf (64 * (pa / 64)) = regionOf pa := by
  have lt : ∀ k, (64 * (pa / 64) < 64 * k) = (pa < 64 * k) := fun k => propext (by omega)
  have le : ∀ k, (64 * k ≤ 64 * (pa / 64)) = (64 * k ≤ pa) := fun k => propext (by omega)
  unfold regionOf
  rw [show 0x8000000000 = 64 * 0x200000000 from rfl, show 0x10000000000 = 64 * 0x400000000 from rfl,
    show 0x1C000000000 = 64 * 0x700000000 from rfl, show 0x40000000000 = 64 * 0x1000000000 from rfl,
    show 0x80000000000 = 64 * 0x2000000000 from rfl, show 0xC0000000000 = 64 * 0x3000000000 from rfl,
    show 0x7E0000000000 = 64 * 0x1F800000000 from rfl, show 0x800000000000 = 64 * 0x20000000000 from rfl,
    show 0x1000000000000 = 64 * 0x40000000000 from rfl]
  simp only [lt, le]

/-- An access that leaves the caches and has no cause meets no expander that is off. -/
theorem expOff_of_mapCause {s : State} {pa : Nat} (h : s.mapCause pa false = none) : s.expOff (pa / 64) = false := by
  unfold State.mapCause at h
  unfold State.expOff
  rw [regionOf_line]
  cases hr : regionOf pa
  case exp0 | exp1 =>
    rw [hr] at h
    by_contra ho
    simp only [Bool.not_false, Bool.true_and, Bool.not_eq_false] at h ho
    simp [ho] at h
  all_goals rfl

theorem sameOff_updCore (s : State) (l : Nat) (f : Core → Core) : SameOff s (s.updCore l f) := ⟨rfl, rfl⟩

theorem sameOff_pushRest (s : State) (k line : Nat) (c : Copy) (core p : Option Nat) : SameOff s (pushRest s k line c core p) := by
  have h0 : SameOff s (dropLeases (cleanL1s s k line) k line) := ⟨rfl, rfl⟩
  have h := h0.trans (homeSide_clcSend (dropLeases (cleanL1s s k line) k line) (k / 34) line c p).sameOff
  cases core with
  | none => exact h
  | some l => exact h

theorem sameOff_pushClc (s : State) (k line : Nat) (core : Option Nat) : SameOff s (pushClc s k line core) := by
  rw [pushClc_eq]
  split
  · exact ⟨rfl, rfl⟩
  next c _ =>
    split
    · exact ⟨rfl, rfl⟩
    · have h0 : SameOff s (s.setClc k line { Copy.clean c with gwts := none }) := ⟨rfl, rfl⟩
      exact h0.trans (sameOff_pushRest (s.setClc k line { Copy.clean c with gwts := none }) k line c core (core.map s.pts))

theorem sameOff_clcRoom (s : State) (k line : Nat) : SameOff s (clcRoom s k line) := by
  unfold clcRoom
  split
  · exact ⟨rfl, rfl⟩
  · split
    · exact ⟨rfl, rfl⟩
    · exact sameOff_pushClc ..

theorem sameOff_clcWrite (s : State) (core line : Nat) (bytes : SMap Byte) (cls chain : Nat) (ef : Bool) :
    SameOff s (clcWrite s core line bytes cls chain ef) := by
  have h := (homeSide_markStale s (line / 64)).sameOff.trans (sameOff_clcRoom _ (s.clusterOf core) line)
  unfold clcWrite
  simp only
  split
  · exact h
  · exact h

theorem sameOff_drainOne (s : State) (core buf : Nat) : SameOff s (drainOne s core buf) := by
  unfold drainOne
  split
  · exact ⟨rfl, rfl⟩
  · simp only
    split
    · exact ⟨rfl, rfl⟩
    · split
      · exact ⟨rfl, rfl⟩
      · exact (sameOff_updCore s core _).trans (sameOff_clcWrite ..)

theorem sameOff_drainN (core buf n : Nat) (s : State) : SameOff s (drainN core buf n s) := by
  induction n generalizing s with
  | zero => exact ⟨rfl, rfl⟩
  | succ n ih => exact (sameOff_drainOne ..).trans (ih _)

theorem sameOff_drainLine (s : State) (core line : Nat) : SameOff s (drainLine s core line) := by
  unfold drainLine
  simp only
  split
  · exact ⟨rfl, rfl⟩
  · exact sameOff_drainN ..

theorem sameOff_logOutcome (s : State) (pa : Nat) (out : SegOutcome) : SameOff s (logOutcome s pa out) := by
  have h : ∀ kind, SameOff s (stackError s pa kind) := by
    intro kind
    unfold stackError
    split
    · split <;> exact ⟨rfl, rfl⟩
    · split <;> exact ⟨rfl, rfl⟩
  unfold logOutcome
  split
  · exact ⟨rfl, rfl⟩
  · exact h _
  · exact h _
  · split
    · exact h _
    · exact ⟨rfl, rfl⟩

/-! ### Pushes of a CLC and room in it -/

/-- The caches of a core but its L1 are the same: its logical time and its write buffers. -/
def SameStores (c e : Core) : Prop := e.pts = c.pts ∧ e.wb = c.wb

theorem SameStores.trans {c e g : Core} (h : SameStores c e) (k : SameStores e g) : SameStores c g := ⟨k.1.trans h.1, k.2.trans h.2⟩

theorem SameCore.sameStores {c e : Core} (h : SameCore c e) : SameStores c e := by
  rw [h]
  exact ⟨rfl, rfl⟩

theorem SameCore.l1 {c e : Core} (h : SameCore c e) : e.l1 = c.l1 := by rw [h]

/-- What a push of no release leaves of its CLC and of the cores. -/
theorem pushRest_none (s : State) (k line : Nat) (c : Copy) :
    (pushRest s k line c none none).clcs = s.clcs ∧
      ∀ l, SameCore ((cleanL1s s k line).core l) ((pushRest s k line c none none).core l) :=
  have h := homeSide_clcSend (dropLeases (cleanL1s s k line) k line) (k / 34) line c none
  ⟨h.clcs, fun l => (h.core l).1⟩

theorem sameStores_cleanL1s (s : State) (k line l : Nat) : SameStores (s.core l) ((cleanL1s s k line).core l) := by
  refine core_mapCores (P := SameStores) (fun c => by split <;> rfl) ⟨rfl, rfl⟩ (fun c => ?_) l
  split
  · exact ⟨rfl, rfl⟩
  · exact ⟨rfl, rfl⟩

theorem sameStores_pushClc (s : State) (k line l : Nat) : SameStores (s.core l) ((pushClc s k line none).core l) := by
  rw [pushClc_eq]
  split
  · exact ⟨rfl, rfl⟩
  · split
    · exact ⟨rfl, rfl⟩
    · exact (sameStores_cleanL1s (s.setClc k line _) k line l).trans ((pushRest_none ..).2 l).sameStores

/-- A push changes its own line of its own CLC. -/
theorem mfind_pushClc_other (s : State) (k line : Nat) {j ln : Nat} (h : ¬ (j = k ∧ ln = line)) :
    mfind ((pushClc s k line none).clc j) ln = mfind (s.clc j) ln := by
  rw [pushClc_eq]
  split
  · rfl
  · split
    · rfl
    · rw [State.clc, Option.map_none, (pushRest_none ..).1]
      exact (mfind_setClc ..).trans (if_neg h)

/-- Of two copies the one that was used longer ago. -/
def olderCopy (b : Option (Nat × Copy)) (e : Nat × Copy) : Option (Nat × Copy) :=
  match b with
  | none => some e
  | some x => if e.2.used < x.2.used then some e else b

theorem mem_of_foldl_olderCopy {l : SMap Copy} {b : Option (Nat × Copy)} {x : Nat × Copy} (h : l.foldl olderCopy b = some x) :
    x ∈ l ∨ b = some x := by
  induction l generalizing b with
  | nil => exact .inr h
  | cons e t ih =>
    obtain hm | hb := ih h
    · exact .inl (List.mem_cons_of_mem _ hm)
    · unfold olderCopy at hb
      split at hb
      · exact .inl (Option.some.inj hb ▸ List.mem_cons_self)
      · split at hb
        · exact .inl (Option.some.inj hb ▸ List.mem_cons_self)
        · exact .inr hb

theorem mem_of_copyVictim {l : SMap Copy} {v : Nat} (h : copyVictim l = some v) : ∃ c, (v, c) ∈ l := by
  have old : ∀ m : SMap Copy, (∀ e ∈ m, e ∈ l) → (m.foldl olderCopy none).map (·.1) = some v → ∃ c, (v, c) ∈ l := by
    intro m hm hv
    obtain ⟨x, hx, rfl⟩ := Option.map_eq_some_iff.1 hv
    obtain hx | hx := mem_of_foldl_olderCopy hx
    · exact ⟨x.2, hm x hx⟩
    · cases hx
  have he : copyVictim l = match ((l.filter (fun e => e.2.ef)).foldl olderCopy none).map (·.1) with
    | some v => some v
    | none => (l.foldl olderCopy none).map (·.1) := rfl
  rw [he] at h
  split at h
  next hv => exact old _ (fun _ he => (List.mem_filter.1 he).1) (hv.trans h)
  next => exact old l (fun _ he => he) h

/-- The copy that makes room for a line in a CLC is of another line. -/
theorem clcVictim_ne {s : State} {k line v : Nat} {p : Nat × Copy → Bool} (h : copyVictim ((s.clcSet k line).filter p) = some v) :
    v ≠ line := by
  obtain ⟨c, hc⟩ := mem_of_copyVictim h
  have hs := (List.mem_filter.1 (List.mem_filter.1 hc).1).2
  simp only [Bool.and_eq_true, bne_iff_ne] at hs
  exact hs.2

theorem mfind_delClc_other (s : State) (k v : Nat) {line : Nat} (h : line ≠ v) :
    mfind ((s.delClc k v).clc k) line = mfind (s.clc k) line := by
  rw [State.clc, State.delClc_clcs, mget_mset_same, mfind_mdel_other _ h]

theorem mfind_clcRoom (s : State) (k line : Nat) : mfind ((clcRoom s k line).clc k) line = mfind (s.clc k) line := by
  unfold clcRoom
  split
  · rfl
  · split
    · rfl
    next v hv =>
      have hne := (clcVictim_ne hv).symm
      rw [mfind_delClc_other _ k v hne, mfind_pushClc_other s k v fun h => hne h.2]

theorem sameStores_clcRoom (s : State) (k line l : Nat) : SameStores (s.core l) ((clcRoom s k line).core l) := by
  unfold clcRoom
  split
  · exact ⟨rfl, rfl⟩
  · split
    · exact ⟨rfl, rfl⟩
    · exact sameStores_pushClc ..

theorem clcRoom_of_room {s : State} {k line : Nat} (h : (mfind (s.clc k) line).isSome = true ∨ (s.clcSet k line).length < 16) :
    clcRoom s k line = s := by
  unfold clcRoom
  exact if_pos (by simpa using h)

theorem Quiet.clusterOf {s t : State} (h : Quiet s t) (l : Nat) : t.clusterOf l = s.clusterOf l := by
  unfold State.clusterOf State.siteOf State.physOf State.lpt State.passedSites State.fuse
  rw [h.pkg]

theorem Quiet.dieOf {s t : State} (h : Quiet s t) (l : Nat) : t.dieOf l = s.dieOf l := by
  unfold State.dieOf State.siteOf State.lpt State.passedSites State.fuse
  rw [h.pkg]

theorem Quiet.homeOf {s t : State} (h : Quiet s t) (line : Nat) : t.homeOf line = s.homeOf line := by
  rw [State.homeOf, h.tier, State.homeOf]

/-- The copy of a CLC that a store to a line meets, or a new one (08 Table 8-1). -/
def storeCopy (s : State) (core k line cls chain : Nat) (ef : Bool) : Copy :=
  { mget { fill := s.ctl.clock, bound := s.leaseBound (s.dieOf core), cls := cls, chain := chain, ef := ef } (s.clc k) line with
    cls := cls, chain := chain }

theorem storeCopy_data (s : State) (core k line cls chain : Nat) (ef : Bool) (off : Nat) :
    mfind (storeCopy s core k line cls chain ef).data off = (mfind (s.clc k) line).bind (fun y => mfind y.data off) := by
  unfold storeCopy mget
  cases mfind (s.clc k) line <;> rfl

/-- What a store does once its CLC has room. -/
def storeIn (s : State) (core k line : Nat) (bytes : SMap Byte) (c : Copy) : State :=
  let w := max (s.pts core) (c.rts + 1)
  let s1 := (s.setClc k line (copyWrite c w s.ctl.clock bytes)).updCore core (fun x => { x with pts := w })
  match mfind (s1.core core).l1 line with
  | none => s1
  | some y => s1.setL1 core line (copyWrite y w s1.ctl.clock bytes)

theorem clcWrite_eq (s : State) (core line : Nat) (bytes : SMap Byte) (cls chain : Nat) (ef : Bool) :
    clcWrite s core line bytes cls chain ef =
      let s0 := clcRoom (markStale s (line / 64)) (s.clusterOf core) line
      storeIn s0 core (s.clusterOf core) line bytes (storeCopy s0 core (s.clusterOf core) line cls chain ef) := rfl

theorem storeIn_spec (s : State) (core k line : Nat) (bytes : SMap Byte) (c : Copy) :
    mfind ((storeIn s core k line bytes c).clc k) line = some (copyWrite c (max (s.pts core) (c.rts + 1)) s.ctl.clock bytes) ∧
      ((storeIn s core k line bytes c).core core).pts = max (s.pts core) (c.rts + 1) ∧
      ((storeIn s core k line bytes c).core core).wb = (s.core core).wb := by
  have h := mfind_setClc s k line k line (copyWrite c (max (s.pts core) (c.rts + 1)) s.ctl.clock bytes)
  rw [if_pos ⟨rfl, rfl⟩] at h
  unfold storeIn
  simp only
  split
  · refine ⟨h, ?_, ?_⟩ <;> rw [core_updCore, if_pos rfl]
    rfl
  · refine ⟨h, ?_, ?_⟩ <;> rw [State.setL1, core_updCore, if_pos rfl, core_updCore, if_pos rfl]
    rfl

/-- A store in its CLC: the copy holds its bytes, written at the pts of the core, and its write buffers are as they were. -/
theorem clcWrite_spec (s : State) (core line : Nat) (bytes : SMap Byte) (cls chain : Nat) (ef : Bool) :
    ∃ c, mfind ((clcWrite s core line bytes cls chain ef).clc (s.clusterOf core)) line = some c ∧
      ((clcWrite s core line bytes cls chain ef).core core).pts = c.wts ∧ c.rts = c.wts ∧
      ((clcWrite s core line bytes cls chain ef).core core).wb = (s.core core).wb ∧
      ∀ off, mfind c.data off = match bytes.reverse.find? (fun b => b.1 = off) with
        | some b => some b.2
        | none => (mfind (s.clc (s.clusterOf core)) line).bind (fun y => mfind y.data off) := by
  have hm := homeSide_markStale s (line / 64)
  have hw := ((hm.core core).1.sameStores.trans (sameStores_clcRoom _ (s.clusterOf core) line core)).2
  have hc := (mfind_clcRoom (markStale s (line / 64)) (s.clusterOf core) line).trans (by rw [hm.clc])
  rw [clcWrite_eq]
  generalize clcRoom (markStale s (line / 64)) (s.clusterOf core) line = s0 at hw hc ⊢
  obtain ⟨h1, h2, h3⟩ := storeIn_spec s0 core (s.clusterOf core) line bytes
    (storeCopy s0 core (s.clusterOf core) line cls chain ef)
  refine ⟨_, h1, h2, rfl, h3.trans hw, fun off => ?_⟩
  rw [← hc, ← storeCopy_data s0 core _ line cls chain ef]
  unfold copyWrite
  refine (mfind_foldl_mset bytes (storeCopy s0 core (s.clusterOf core) line cls chain ef).data off).trans ?_
  cases bytes.reverse.find? (fun e => e.1 = off) <;> rfl

end Sys2Proof.Machine
end

section
/-! Loads, stores and atomics on their way through the memory system (O48). -/

namespace Sys2Proof.Machine

/-! ### One request of an atomic at its point (07 R178, R445) -/

/-- A die's access to a line of a home with every other copy recalled. -/
theorem quiet_accessRecall (s : State) (n page line d : Nat) : Quiet s (recallAll (dieAccess s n page) line d) :=
  (quiet_dieAccess s n page).trans (quiet_recallAll _ line d)

theorem homeSide_accessRecall (s : State) (n page line d : Nat) : HomeSide s (recallAll (dieAccess s n page) line d) :=
  (homeSide_dieAccess s n page).trans (homeSide_recallAll _ line d)

theorem quiet_atomOld (s : State) (r : WRef) (sc : Scope) (pa n : Nat) : Quiet s (atomOld s r sc pa n).1 := by
  have h1 := quiet_drainLine s r.core (pa / 64)
  unfold atomOld
  simp only
  generalize drainLine s r.core (pa / 64) = s1 at h1 ⊢
  have h2 := h1.trans (quiet_pushClc s1 (s.clusterOf r.core) (pa / 64) (some r.core))
  generalize pushClc s1 (s.clusterOf r.core) (pa / 64) (some r.core) = s2 at h2 ⊢
  split
  · exact .refl s
  · split
    · exact h1.trans (quiet_readFill ..)
    · split
      · exact h1
      · split
        · exact .refl s
        · split
          · split
            · exact h2.trans (quiet_accessRecall ..)
            · split
              · split
                · exact h2
                · exact h2
              · exact h2
          · have h3 := h2.trans (quiet_pushRdc s2 (s.dieOf r.core) (pa / 64))
            generalize pushRdc s2 (s.dieOf r.core) (pa / 64) = s3 at h3 ⊢
            have h4 := h3.trans (quiet_cross s3 (s.dieOf r.core) (s3.homeOf (pa / 64)))
            dsimp only
            exact h4.trans (quiet_accessRecall _ (s3.homeOf (pa / 64)) (pa / 64 / 64) (pa / 64) 99)

theorem sameOff_atomOld (s : State) (r : WRef) {sc : Scope} (pa n : Nat) (h : 5 ≤ Scope.rank sc) :
    SameOff s (atomOld s r sc pa n).1 := by
  have h1 := sameOff_drainLine s r.core (pa / 64)
  unfold atomOld
  simp only
  generalize drainLine s r.core (pa / 64) = s1 at h1 ⊢
  have h2 := h1.trans (sameOff_pushClc s1 (s.clusterOf r.core) (pa / 64) (some r.core))
  generalize pushClc s1 (s.clusterOf r.core) (pa / 64) (some r.core) = s2 at h2 ⊢
  rw [if_neg (show ¬ Scope.rank sc ≤ 1 by omega), if_neg (show ¬ Scope.rank sc = 2 by omega),
    if_neg (show ¬ Scope.rank sc = 4 by omega)]
  split
  · exact ⟨rfl, rfl⟩
  · split
    · exact ⟨rfl, rfl⟩
    · have h3 := h2.trans (homeSide_pushRdc s2 (s.dieOf r.core) (pa / 64)).sameOff
      generalize pushRdc s2 (s.dieOf r.core) (pa / 64) = s3 at h3 ⊢
      have h4 := h3.trans (homeSide_cross s3 (s.dieOf r.core) (s3.homeOf (pa / 64))).sameOff
      dsimp only
      exact h4.trans (homeSide_accessRecall _ (s3.homeOf (pa / 64)) (pa / 64 / 64) (pa / 64) 99).sameOff

/-- What an atomic drops once its bytes are written beyond the CLC, and what its core learns. -/
def atomBeyond (s0 : State) (r : WRef) (k d line : Nat) (x : State × Nat) : State :=
  let s1 := (x.1.raisePts r.core x.2).raisePts r.core (if s0.homeOf line = d then 0 else (x.1.home d).dt)
  dropLeases ((s1.delL1 r.core line).delClc k line) k line

theorem quiet_atomBeyond (s0 : State) (r : WRef) (k d line : Nat) (x : State × Nat) : Quiet x.1 (atomBeyond s0 r k d line x) :=
  ((((quiet_raisePts x.1 r.core x.2).trans (quiet_raisePts ..)).trans (quiet_delL1 _ r.core line)).trans
    (quiet_delClc _ k line)).trans (quiet_dropLeases _ k line)

theorem homeHolds_atomBeyond (s0 : State) (r : WRef) (k d : Nat) {line off : Nat} {b : Byte} {x : State × Nat}
    (h : HomeHolds x.1 line off b) : HomeHolds (atomBeyond s0 r k d line x) line off b :=
  h.of_eq rfl rfl rfl

theorem quiet_atomNew (s : State) (r : WRef) (a : AtomOp) (q : AtomReq) (ctx chain : Nat) (l : List Byte) :
    Quiet s (atomNew s r a q ctx chain l) := by
  have h0 := quiet_markStale s (q.pa / 64 / 64)
  unfold atomNew
  simp only
  generalize markStale s (q.pa / 64 / 64) = s0 at h0 ⊢
  split
  · exact h0.trans ((quiet_updCore _ _ _ rfl rfl).trans (quiet_delL1 ..))
  · split
    · exact h0.trans ((quiet_clcWrite ..).trans (quiet_delL1 ..))
    · have hx : ∀ x : State × Nat, Quiet s0 x.1 → Quiet s (if a.scope = .sy then
          flushHome (atomBeyond s0 r (s.clusterOf r.core) (s.dieOf r.core) (q.pa / 64) x) (q.pa / 64)
          else atomBeyond s0 r (s.clusterOf r.core) (s.dieOf r.core) (q.pa / 64) x) := by
        intro x h
        have h3 := (h0.trans h).trans (quiet_atomBeyond s0 r (s.clusterOf r.core) (s.dieOf r.core) (q.pa / 64) x)
        split
        · exact h3.trans (quiet_flushHome ..)
        · exact h3
      refine hx _ ?_
      split
      · split
        · exact quiet_rdcWrite ..
        · exact .refl s0
      · exact quiet_homePut ..

/-- An atomic at device or system scope leaves its bytes at the home of its line. -/
theorem homeByte_atomNew {s : State} {r : WRef} {a : AtomOp} {q : AtomReq} {l : List Byte} (ctx chain : Nat)
    (ha : 5 ≤ Scope.rank a.scope) (hx : s.expOff (q.pa / 64) = false) {i : Nat} (hi : i < l.length) :
    (atomNew s r a q ctx chain l).homeByte (q.pa / 64) (q.pa % 64 + i) = l.getD i 0#8 := by
  have h0 : (markStale s (q.pa / 64 / 64)).expOff (q.pa / 64) = false := by
    rwa [(homeSide_markStale ..).sameOff.expOff]
  have hb : Holds (bytesAt (q.pa % 64) l) (q.pa % 64 + i) (l.getD i 0#8) := by
    refine ⟨⟨_, mem_bytesAt.2 ⟨i, hi, rfl⟩, rfl⟩, fun e he hk => ?_⟩
    obtain ⟨j, _, rfl⟩ := mem_bytesAt.1 he
    have : j = i := by simpa using hk
    rw [this]
  unfold atomNew
  simp only
  generalize markStale s (q.pa / 64 / 64) = s0 at h0 ⊢
  rw [if_neg (show ¬ Scope.rank a.scope ≤ 1 by omega), if_neg (show ¬ Scope.rank a.scope = 2 by omega),
    if_neg (show ¬ (Scope.rank a.scope = 4 && s0.homeOf (q.pa / 64) != s.dieOf r.core) = true by
      simp only [Bool.and_eq_true, decide_eq_true_eq]; omega)]
  have hh := homeHolds_atomBeyond s0 r (s.clusterOf r.core) (s.dieOf r.core) (homeHolds_homePut
    (if s0.homeOf (q.pa / 64) = s.dieOf r.core then some (s.pts r.core) else none) q.cls chain false h0 hb)
  split
  · exact homeByte_flushHome hh
  · exact hh.homeByte

/-! ### The end of a request and of a load's lanes -/

theorem byLane_singleton {f : LaneFault} (h : f.lane < 32) : byLane [f] = [f] := by
  have one : ∀ l : List Nat, l.Nodup → l.flatMap (fun i => [f].filter (fun g => g.lane = i)) = if f.lane ∈ l then [f] else [] := by
    intro l hl
    induction l with
    | nil => rfl
    | cons i t ih =>
      obtain ⟨hi, ht⟩ := List.nodup_cons.1 hl
      rw [List.flatMap_cons, ih ht]
      by_cases he : f.lane = i
      · subst he
        simp [hi]
      · simp [he]
  exact (one _ List.nodup_range).trans (if_pos (List.mem_range.2 h))

theorem endReq_more {a : AtomOp} {req : Nat} (s : State) (r : WRef) (l : List LaneFault) (h : ∃ y ∈ a.reqs, y.id ≠ req) :
    endReq s r a req l = s.updWarp r (fun w => dropReq w a.id req (byLane (a.fails ++ l))) := by
  unfold endReq
  exact if_pos (by simpa using h)

theorem endReq_last {a : AtomOp} {req : Nat} (s : State) (r : WRef) (l : List LaneFault) (h : ∀ y ∈ a.reqs, y.id = req) :
    endReq s r a req l = match laneTrap (byLane (a.fails ++ l)) false with
      | none => s.updWarp r (fun w => dropReq w a.id req (byLane (a.fails ++ l)))
      | some t => lateTrap (s.updWarp r (fun w => dropReq w a.id req (byLane (a.fails ++ l)))) r a.pt t := by
  unfold endReq
  exact if_neg (by simpa using h)

theorem endReq_clean {a : AtomOp} {req : Nat} (s : State) (r : WRef) (h : a.fails = [] ∨ ∃ y ∈ a.reqs, y.id ≠ req) :
    endReq s r a req [] = s.updWarp r (fun w => dropReq w a.id req (byLane a.fails)) := by
  by_cases hm : ∃ y ∈ a.reqs, y.id ≠ req
  · rw [endReq_more s r [] hm, List.append_nil]
  · have hf := h.resolve_right hm
    push Not at hm
    rw [endReq_last s r [] hm, List.append_nil, hf]
    rfl

theorem dropReq_reqs {w : Warp} {op req : Nat} {l : List LaneFault} {o : AtomOp} (ho : o ∈ (dropReq w op req l).atoms)
    (hid : o.id = op) : ∀ y ∈ o.reqs, y.id ≠ req := by
  obtain ⟨p, _, rfl⟩ := List.mem_map.1 (List.mem_filter.1 ho).1
  split at hid
  next h =>
    rw [if_pos h]
    intro y hy
    simpa using (List.mem_filter.1 hy).2
  next h => exact absurd hid h

theorem endLoadLanes_more {o : LoadOp} {gone : List Nat} (s : State) (r : WRef) (l : List LaneFault) (h : ∃ y ∈ o.lanes, y.lane ∉ gone) :
    endLoadLanes s r o gone l = s.updWarp r (fun v => dropLanes v o.id gone (byLane (o.fails ++ l))) := by
  unfold endLoadLanes
  exact if_pos (by simpa using h)

theorem endLoadLanes_last {o : LoadOp} {gone : List Nat} (s : State) (r : WRef) (l : List LaneFault) (h : ∀ y ∈ o.lanes, y.lane ∈ gone) :
    endLoadLanes s r o gone l = match laneTrap (byLane (o.fails ++ l)) false with
      | none => s.updWarp r (fun v => dropLanes v o.id gone (byLane (o.fails ++ l)))
      | some t => lateTrap (s.updWarp r (fun v => dropLanes v o.id gone (byLane (o.fails ++ l)))) r o.pt t := by
  unfold endLoadLanes
  exact if_neg (by simpa using h)

theorem endLoadLanes_clean {o : LoadOp} (s : State) (r : WRef) (gone : List Nat) (h : o.fails = []) :
    endLoadLanes s r o gone [] = s.updWarp r (fun v => dropLanes v o.id gone []) := by
  by_cases hm : ∃ y ∈ o.lanes, y.lane ∉ gone
  · rw [endLoadLanes_more s r [] hm, h]
    rfl
  · push Not at hm
    rw [endLoadLanes_last s r [] hm, h]
    rfl

/-! ### A late trap (10 R242, R443) -/

/-- A warp that a pre-emption has stopped runs the handler of its late trap: its level, its skid and its block stay. -/
theorem unstop_spec {s : State} {r : WRef} {w : Warp} (hw : s.warp? r = some w) :
    ∃ b n, (unstop s r).warp? r = some { w with stopped := b, handlerSince := n } ∧ ∀ l h, (unstop s r).block? l h = s.block? l h := by
  unfold unstop
  rw [hw]
  simp only
  split
  · exact ⟨false, s.ctl.clock, warp?_setWarp .., fun _ _ => block?_setWarp ..⟩
  · exact ⟨w.stopped, w.handlerSince, hw, fun _ _ => rfl⟩

theorem mfind_toTail_other {c : Core} {out slot : Nat} (h : slot ≠ out) : mfind (c.toTail out).warps slot = mfind c.warps slot := by
  unfold Core.toTail
  split
  · rfl
  · split
    · simp only
      split
      · exact mfind_mset_other _ _ h
      · exact mfind_mset_other _ _ h
    · split <;> rfl

/-- Of two slots the one whose warp entered the active set earlier. -/
def earlierSlot (c : Core) (b : Option Nat) (x : Nat) : Option Nat :=
  match b with
  | none => some x
  | some y => if c.entered x < c.entered y then some x else some y

theorem mem_of_foldl_earlierSlot {c : Core} {l : List Nat} {b : Option Nat} {x : Nat} (h : l.foldl (earlierSlot c) b = some x) :
    x ∈ l ∨ b = some x := by
  induction l generalizing b with
  | nil => exact .inr h
  | cons e t ih =>
    obtain hm | hb := ih h
    · exact .inl (List.mem_cons_of_mem _ hm)
    · unfold earlierSlot at hb
      split at hb
      · exact .inl (Option.some.inj hb ▸ List.mem_cons_self)
      · split at hb
        · exact .inl (Option.some.inj hb ▸ List.mem_cons_self)
        · exact .inr hb

/-- The warp that entered earliest is active, and at level 0. -/
theorem mem_of_earliest {c : Core} {x : Nat} (h : c.earliest = some x) :
    x ∈ c.active ∧ ∃ w, mfind c.warps x = some w ∧ w.level = 0 := by
  have he : c.earliest = (c.active.filter (fun x => match mfind c.warps x with
      | none => false
      | some w => w.level = 0)).foldl (earlierSlot c) none := rfl
  rw [he] at h
  obtain hm | hb := mem_of_foldl_earlierSlot h
  · obtain ⟨hm, hw⟩ := List.mem_filter.1 hm
    refine ⟨hm, ?_⟩
    split at hw
    · cases hw
    next w hx => exact ⟨w, hx, by simpa using hw⟩
  · cases hb

/-- The promotion of a warp changes of it the clock of its entry alone. -/
theorem mfind_promote {c : Core} {slot : Nat} {w : Warp} (now : Nat) (hw : mfind c.warps slot = some w) :
    ∃ n, mfind (promote c slot now).warps slot = some { w with enter := n } := by
  unfold promote
  split
  · exact ⟨w.enter, hw⟩
  next ha =>
    simp only [hw]
    refine ⟨now + 2, ?_⟩
    have hs : mfind (mset c.warps slot { w with enter := now + 2 }) slot = some { w with enter := now + 2 } := mfind_mset_same ..
    split
    · exact hs
    · split
      · exact hs
      next out ho =>
        have hne : slot ≠ out := by
          rintro rfl
          simp only [Bool.or_eq_true, List.contains_iff_mem, not_or] at ha
          exact ha.2 (mem_of_earliest ho).1
        exact (mfind_toTail_other hne).trans hs

theorem warp?_haltBlock_same (s : State) (r : WRef) (h : Nat) (w : Warp) : (haltBlock s r h w).warp? r = s.warp? r := by
  unfold haltBlock
  split
  · rfl
  next b _ =>
    simp only
    have hb : ∀ l : List Nat, (∀ x ∈ l, x ≠ r.slot) → ∀ t : State,
        (l.foldl (fun s x => s.updWarp { core := r.core, slot := x } haltWarp) t).warp? r = t.warp? r := by
      intro l hl
      induction l with
      | nil => exact fun _ => rfl
      | cons x l ih =>
        intro t
        rw [List.foldl_cons, ih (fun y hy => hl y (List.mem_cons_of_mem _ hy)),
          warp?_updWarp_other _ _ (fun h => hl x List.mem_cons_self (congrArg WRef.slot h).symm)]
    rw [hb _ (fun x hx => by simpa using (List.mem_filter.1 hx).2), warp?_setBlock]

/-- An access error of a level-0 warp enters its supervisor handler at level 2 (10 R238, R245). -/
theorem enterTrap_access {s : State} {r : WRef} {w : Warp} {t : TrapReq} {b : Block} (hl : w.level = 0) (hc : t.cause = 19)
    (hb : s.block? r.core w.blk = some b) : ∃ vec prim n,
      (enterTrap s r w t).warp? r = some { enterHandler w 2 vec t prim with enter := n } := by
  have hcls : trapClass t = .h := by simp [trapClass, hc]
  have hv : trapVector (s.ctxEnt b.ctx) t = (2, (s.ctxEnt b.ctx).svec) := by simp [trapVector, trapUser, hc]
  unfold enterTrap
  rw [if_neg (by omega), if_neg (by omega), if_neg (by simp [hcls]), hb]
  simp only [hl, if_true, hv]
  refine ⟨(s.ctxEnt b.ctx).svec, trapClass t == .h || decide (b.halt = some r.slot), ?_⟩
  set w1 := enterHandler w 2 (s.ctxEnt b.ctx).svec t (trapClass t == .h || decide (b.halt = some r.slot))
  have hw : mfind ((s.setWarp r w1).core r.core).warps r.slot = some w1 := warp?_setWarp ..
  obtain ⟨n, hn⟩ := mfind_promote s.ctl.clock hw
  have h2 : ((s.setWarp r w1).updCore r.core (fun c => promote c r.slot s.ctl.clock)).warp? r = some { w1 with enter := n } := by
    rw [State.warp?, core_updCore, if_pos rfl]
    exact hn
  refine ⟨n, ?_⟩
  split
  · rw [warp?_haltBlock_same]
    exact h2
  · exact h2

/-- A late access error of a level-0 warp outside a skid (10 R242, R443; log 15). -/
theorem lateTrap_access {s : State} {r : WRef} {w : Warp} {o : IssuePt} {t : TrapReq} {b : Block} (hw : s.warp? r = some w)
    (hl : w.level = 0) (ho : o.lvl = 0) (hs : w.skid = none) (hc : t.cause = 19) (hb : s.block? r.core w.blk = some b) :
    ∃ w1, (lateTrap s r o t).warp? r = some w1 ∧ w1.level = 2 ∧ w1.t2.cause = 19#6 ∧ w1.t2.pc = o.pc ∧ w1.t2.icount = o.icount ∧
      w1.t2.rmask = t.rmask ∧ w1.exec = t.mask := by
  obtain ⟨p, m, hu, hblk⟩ := unstop_spec hw
  have ht : lateTrap s r o t = takeTrap ((unstop s r).setWarp r
      { w with stopped := p, handlerSince := m, pc := o.pc, icount := o.icount, rmask := t.rmask }) r t := by
    simp only [lateTrap, hu, hl, ho, if_true]
  rw [ht]
  set w2 : Warp := { w with stopped := p, handlerSince := m, pc := o.pc, icount := o.icount, rmask := t.rmask }
  set u := (unstop s r).setWarp r w2
  have hw2 : u.warp? r = some w2 := warp?_setWarp ..
  have hb2 : u.block? r.core w2.blk = some b := (block?_setWarp ..).trans ((hblk ..).trans hb)
  have hk : w2.skid = none := hs
  have htk : takeTrap u r t = enterTrap u r w2 t := by
    have hn : takesOver u r t = none := by
      unfold takesOver
      rw [hw2]
      simp only [hb2]
      split
      · rw [if_neg (by simp [hk])]
      · rfl
    simp only [takeTrap, hw2, hn, hk, Option.isSome_none, Bool.false_eq_true, if_false]
  obtain ⟨vec, prim, n, h⟩ := enterTrap_access (w := w2) hl hc hb2
  rw [htk]
  exact ⟨_, h, rfl, by rw [← hc]; rfl, rfl, rfl, rfl, rfl⟩

end Sys2Proof.Machine
end

section
/-! The events of the memory system (O48): loads, write buffers, CLCs, leases and atomics. -/

namespace Sys2Proof.Machine

/-! ### Loads (03 R78) -/

theorem logOutcome_failed (s : State) (pa : Nat) {c : Nat} (h : c ≠ 19) : logOutcome s pa (.failed c) = s := by
  simp [logOutcome, h]

theorem foldl_logOutcome_failed (l : List LaneAcc) (s : State) {c : Nat} (h : c ≠ 19) :
    l.foldl (fun s a => logOutcome s a.pa (.failed c)) s = s := by
  induction l with
  | nil => rfl
  | cons a t ih => rw [List.foldl_cons, logOutcome_failed _ _ h, ih]

/-- The lanes of a load that fault with the cause of a failure. -/
def failLane (c : Nat) (a : LaneAcc) : LaneFault := LaneFault.mk a.lane c 0 a.va

/-- Lanes of a load that bind, in order. -/
def bindLanes (s : State) (r : WRef) (o : LoadOp) (l : List LaneAcc) : State :=
  l.foldl (fun t a => bindFrom s t r o.dest o.cache a) s

section
variable {s : State} {core slot op : Nat} {w : Warp} {o : LoadOp} (hw : s.warp? { core := core, slot := slot } = some w)
  (ho : w.loads.find? (fun o => o.id = op) = some o) (hd : ∀ t q sx, o.dest ≠ .queue t q sx) (hg : o.gather = [])
include hw ho hd hg

theorem exec_loadReturn_done (lanes : Mask) : exec (.loadReturn core slot op lanes .done) s =
    let r : WRef := { core := core, slot := slot }
    let p := loadSplit s r w o lanes
    .next (endLoadLanes (bindLanes s r o p.1) r o ((p.1 ++ p.2).map (·.lane))
      (p.2.map (fun a => LaneFault.mk a.lane ((s.mapCause a.pa false).getD 19) 0 a.va))) := by
  show execLoadReturn core slot op lanes .done s = _
  unfold execLoadReturn
  simp only [hw, ho, hg]
  rfl

theorem exec_loadReturn_failed (lanes : Mask) (c : Nat) : exec (.loadReturn core slot op lanes (.failed c)) s =
    let l := o.lanes.filter (fun a => lanes.getLsbD a.lane)
    .next (endLoadLanes (l.foldl (fun s a => logOutcome s a.pa (.failed c)) s) { core := core, slot := slot } o (l.map (·.lane))
      (l.map (failLane c))) := by
  show execLoadReturn core slot op lanes (.failed c) s = _
  unfold execLoadReturn
  simp only [hw, ho, hg]
  rfl

/-- Lanes that all bind leave their load. -/
theorem exec_loadReturn_bind (lanes : Mask) (hp : (loadSplit s { core := core, slot := slot } w o lanes).2 = []) (hf : o.fails = []) :
    exec (.loadReturn core slot op lanes .done) s =
      let r : WRef := { core := core, slot := slot }
      let p := loadSplit s r w o lanes
      .next ((bindLanes s r o p.1).updWarp r (fun v => dropLanes v op (p.1.map (·.lane)) [])) := by
  have hid : o.id = op := by simpa using List.find?_some ho
  rw [exec_loadReturn_done hw ho hd hg]
  simp only [hp, List.append_nil, List.map_nil]
  rw [endLoadLanes_clean _ _ _ hf, hid]

theorem exec_loadReturn_one (lanes : Mask) {a : LaneAcc} {l : List Byte}
    (hp : (loadSplit s { core := core, slot := slot } w o lanes).2 = []) (hf : o.fails = [])
    (ha : (loadSplit s { core := core, slot := slot } w o lanes).1 = [a]) (hl : s.loadBytes core a.pa a.w = some l) :
    ∃ t, exec (.loadReturn core slot op lanes .done) s = .next t ∧
      t.warp? { core := core, slot := slot } = some (dropLanes (bindLane w o.dest a.lane l) op [a.lane] []) := by
  refine ⟨_, exec_loadReturn_bind hw ho hd hg lanes hp hf, ?_⟩
  have hb : (bindLanes s { core := core, slot := slot } o [a]).warp? { core := core, slot := slot } =
      some (bindLane w o.dest a.lane l) := by
    show State.warp? (bindFrom s s _ o.dest o.cache a) _ = _
    unfold bindFrom
    rw [hl]
    exact warp?_updWarp_same _ (((quiet_readFill ..).warp _).trans hw)
  rw [ha]
  exact warp?_updWarp_same _ hb

/-- Lanes that fail while others are out are kept with the load. -/
theorem exec_loadReturn_kept {lanes : Mask} {c : Nat} (hc : c ≠ 19) (hm : ∃ y ∈ o.lanes, lanes.getLsbD y.lane = false) :
    exec (.loadReturn core slot op lanes (.failed c)) s =
      let l := o.lanes.filter (fun y => lanes.getLsbD y.lane)
      .next (s.updWarp { core := core, slot := slot }
        (fun v => dropLanes v op (l.map (·.lane)) (byLane (o.fails ++ l.map (failLane c))))) := by
  have hid : o.id = op := by simpa using List.find?_some ho
  obtain ⟨y, hy, hb⟩ := hm
  rw [exec_loadReturn_failed hw ho hd hg]
  simp only
  rw [foldl_logOutcome_failed _ _ hc, endLoadLanes_more _ _ _ ⟨y, hy, ?_⟩, hid]
  rintro hg
  obtain ⟨z, hz, he⟩ := List.mem_map.1 hg
  have := (List.mem_filter.1 hz).2
  rw [he, hb] at this
  cases this

/-- Once the last lane is over, the faults of the load are one late trap. -/
theorem exec_loadReturn_last {lanes : Mask} (hm : ∀ y ∈ o.lanes, lanes.getLsbD y.lane = true) {c : Nat} {q : TrapReq}
    (hq : laneTrap (byLane (o.fails ++ o.lanes.map (failLane c))) false = some q) :
    exec (.loadReturn core slot op lanes (.failed c)) s = .next (lateTrap
      ((o.lanes.foldl (fun s a => logOutcome s a.pa (.failed c)) s).updWarp { core := core, slot := slot }
        (fun v => dropLanes v op (o.lanes.map (·.lane)) (byLane (o.fails ++ o.lanes.map (failLane c)))))
      { core := core, slot := slot } o.pt q) := by
  have hid : o.id = op := by simpa using List.find?_some ho
  rw [exec_loadReturn_failed hw ho hd hg, List.filter_eq_self.2 hm]
  simp only
  rw [endLoadLanes_last _ _ _ (fun y hy => List.mem_map.2 ⟨y, hy, rfl⟩), hq, hid]

/-- A load of one lane that a controller cannot read traps at its own instruction (log 15). -/
theorem exec_loadReturn_trap {lanes : Mask} {a : LaneAcc} {b : Block} (hl : o.lanes = [a]) (ha : lanes.getLsbD a.lane = true)
    (hf : o.fails = []) (h0 : w.level = 0) (hp : o.pt.lvl = 0) (hk : w.skid = none) (hb : s.block? core w.blk = some b) :
    ∃ t w1, exec (.loadReturn core slot op lanes (.failed 19)) s = .next t ∧ t.warp? { core := core, slot := slot } = some w1 ∧
      w1.level = 2 ∧ w1.t2.cause = 19#6 ∧ w1.t2.pc = o.pt.pc ∧ w1.t2.icount = o.pt.icount ∧ w1.t2.rmask = maskOf [a.lane] ∧
      w1.exec = maskOf [a.lane] := by
  have h32 : a.lane < 32 := BitVec.lt_of_getLsbD ha
  have hby : byLane (o.fails ++ o.lanes.map (failLane 19)) = [failLane 19 a] := by
    rw [hf, hl]
    exact byLane_singleton h32
  obtain ⟨q, hq⟩ := laneTrap_isSome (List.cons_ne_nil (failLane 19 a) []) false
  have hqe := Option.some.inj hq
  have he := exec_loadReturn_last hw ho hd hg (lanes := lanes) (by rw [hl]; simpa using ha) (q := q) (by rw [hby]; exact hq)
  have hlog : SameWork s (o.lanes.foldl (fun s a => logOutcome s a.pa (.failed 19)) s) :=
    .foldl (fun _ _ => sameWork_logOutcome ..) _ _
  generalize o.lanes.foldl (fun s a => logOutcome s a.pa (.failed 19)) s = z at he hlog
  set f : Warp → Warp := fun v => dropLanes v op (o.lanes.map (·.lane)) (byLane (o.fails ++ o.lanes.map (failLane 19)))
  have hw2 : (z.updWarp { core := core, slot := slot } f).warp? { core := core, slot := slot } = some (f w) :=
    warp?_updWarp_same f ((hlog.warp _).trans hw)
  have hb2 : (z.updWarp { core := core, slot := slot } f).block? core w.blk = some b :=
    (block?_updWarp ..).trans ((hlog.block core w.blk).trans hb)
  obtain ⟨w1, hw1, h1, h2, h3, h4, h5, h6⟩ := lateTrap_access hw2 h0 hp hk (t := q) (by rw [← hqe]; rfl) hb2
  refine ⟨_, w1, he, hw1, h1, h2, h3, h4, ?_, ?_⟩
  · rw [h5, ← hqe]
    simp [failLane]
  · rw [h6, ← hqe]
    simp [failLane]

end

/-! ### Write buffers and CLCs (07 R168) -/

theorem drainOne_of_full {s : State} {core buf : Nat} {e : WbEnt} {rest : List WbEnt} (hb : mget [] (s.core core).wb buf = e :: rest)
    (h : ∃ y ∈ e.bytes, s.clcFull (s.clusterOf core) (y.1 / 64) = true) : drainOne s core buf = s := by
  unfold drainOne
  rw [hb]
  exact if_pos (List.any_eq_true.2 h)

theorem drainOne_of_room {s : State} {core buf : Nat} {e : WbEnt} {rest : List WbEnt} {x : Nat × Byte} {xs : SMap Byte}
    (hb : mget [] (s.core core).wb buf = e :: rest) (hx : e.bytes = x :: xs)
    (h : ∀ y ∈ e.bytes, s.clcFull (s.clusterOf core) (y.1 / 64) = false) : drainOne s core buf =
      clcWrite (s.updCore core (fun c => { c with wb := mput [] c.wb buf rest })) core (x.1 / 64)
        (e.bytes.map (fun b => (b.1 % 64, b.2))) e.cls e.chain e.ef := by
  unfold drainOne
  rw [hb]
  simp only
  rw [if_neg, hx]
  rw [List.any_eq_true]
  rintro ⟨y, hy, hf⟩
  exact Bool.false_ne_true ((h y hy).symm.trans hf)

theorem drainOne_spec {s : State} {core buf : Nat} {e : WbEnt} {rest : List WbEnt} {x : Nat × Byte} {xs : SMap Byte}
    (hb : mget [] (s.core core).wb buf = e :: rest) (hx : e.bytes = x :: xs)
    (h : ∀ y ∈ e.bytes, s.clcFull (s.clusterOf core) (y.1 / 64) = false) :
    ∃ c, mget [] ((drainOne s core buf).core core).wb buf = rest ∧
      mfind ((drainOne s core buf).clc (s.clusterOf core)) (x.1 / 64) = some c ∧ ((drainOne s core buf).core core).pts = c.wts ∧
      c.rts = c.wts ∧ ∀ off, mfind c.data off = match e.bytes.reverse.find? (fun b => b.1 % 64 = off) with
        | some b => some b.2
        | none => (mfind (s.clc (s.clusterOf core)) (x.1 / 64)).bind (fun y => mfind y.data off) := by
  rw [drainOne_of_room hb hx h]
  obtain ⟨c, hc, hp, hr, hw, hd⟩ := clcWrite_spec (s.updCore core (fun c => { c with wb := mput [] c.wb buf rest })) core (x.1 / 64)
    (e.bytes.map (fun b => (b.1 % 64, b.2))) e.cls e.chain e.ef
  refine ⟨c, ?_, hc, hp, hr, fun off => (hd off).trans ?_⟩
  · rw [hw, core_updCore, if_pos rfl, mget_mput, if_pos rfl]
  · rw [← List.map_reverse, List.find?_map]
    have hf : e.bytes.reverse.find? ((fun b => decide (b.1 = off)) ∘ fun b => (b.1 % 64, b.2)) =
      e.bytes.reverse.find? (fun b => b.1 % 64 = off) := rfl
    rw [hf]
    cases e.bytes.reverse.find? (fun b => b.1 % 64 = off) <;> rfl

theorem core_cleanL1s (s : State) (k line l : Nat) : (cleanL1s s k line).core l =
    if s.clusterOf l = k && (mfind (s.core l).l1 line).isSome then
      { s.core l with l1 := mupd {} (s.core l).l1 line Copy.clean } else s.core l := by
  unfold cleanL1s
  simp only [State.core, mget]
  rw [mfind_map _ _ (fun c => by split <;> rfl)]
  obtain h | ⟨c, h⟩ := (mfind s.cores l).eq_none_or_eq_some
  · simp [h, mfind]
  · simp only [h, Option.map_some, Option.getD_some]
    split <;> rfl

theorem l1_cleanL1s {s : State} {k line core : Nat} {y : Copy} (hk : s.clusterOf core = k)
    (hy : mfind ((cleanL1s s k line).core core).l1 line = some y) : Copy.dirtyBytes y = [] := by
  rw [core_cleanL1s] at hy
  by_cases hs : (mfind (s.core core).l1 line).isSome = true
  · rw [if_pos (Bool.and_eq_true_iff.2 ⟨decide_eq_true hk, hs⟩), mupd, mfind_mset_same] at hy
    exact Option.some.inj hy ▸ dirtyBytes_clean _
  · rw [if_neg (fun h => hs (Bool.and_eq_true_iff.1 h).2)] at hy
    exact absurd (hy ▸ rfl) hs

/-- A line's dirty bytes go on: its copies in the CLC and in the L1s of the cluster are clean. -/
theorem pushClc_cleans {s : State} {k line : Nat} {c : Copy} (hc : mfind (s.clc k) line = some c) (hd : Copy.dirtyBytes c ≠ []) :
    mfind ((pushClc s k line none).clc k) line = some { Copy.clean c with gwts := none } ∧
      ∀ core y, s.clusterOf core = k → mfind ((pushClc s k line none).core core).l1 line = some y → Copy.dirtyBytes y = [] := by
  have he : pushClc s k line none = pushRest (s.setClc k line { Copy.clean c with gwts := none }) k line c none none := by
    rw [pushClc_eq, hc]
    exact if_neg (by simpa using hd)
  obtain ⟨h1, h2⟩ := pushRest_none (s.setClc k line { Copy.clean c with gwts := none }) k line c
  refine ⟨?_, fun core y hk hy => ?_⟩
  · rw [he, State.clc, h1]
    exact (mfind_setClc ..).trans (if_pos ⟨rfl, rfl⟩)
  · rw [he, (h2 core).l1] at hy
    exact l1_cleanL1s hk hy

theorem exec_clcDirtyPush {s : State} {k line : Nat} (hb : s.lineBusy line = false) (hr : s.reaches (k / 34) (s.homeOf line) = true) :
    exec (.clcDirtyPush k line) s = .next (pushClc s k line none) := by
  show execClcDirtyPush k line s = _
  unfold execClcDirtyPush
  rw [if_neg (by simp [hb, hr])]

/-! ### Logical time and leases (08 R187 to R191) -/

theorem exec_ptsTick {s : State} {core : Nat} (h : (s.core core).ptsAt + (s.die (s.dieOf core)).tickcc ≤ s.ctl.clock) :
    ∃ t, exec (.ptsTick core) s = .next t ∧ (t.core core).pts = (s.core core).pts + 1 ∧
      (t.core core).ptsAt = (s.core core).ptsAt + (s.die (s.dieOf core)).tickcc ∧ ∀ l, l ≠ core → t.core l = s.core l := by
  refine ⟨s.updCore core (fun c => { c with pts := c.pts + 1, ptsAt := c.ptsAt + (s.die (s.dieOf core)).tickcc }), ?_, ?_, ?_,
    fun l hl => ?_⟩
  · show execPtsTick core s = _
    unfold execPtsTick
    simp only
    rw [if_neg (by omega)]
  · rw [core_updCore, if_pos rfl]
  · rw [core_updCore, if_pos rfl]
  · rw [core_updCore, if_neg hl]

theorem exec_leaseConfigWrite {site : Nat} (s : State) (v : W64) (h : site ≤ 7) :
    ∃ t, exec (.leaseConfigWrite site v) s = .next t ∧ (t.die site).ticks = max 1 (bits v.toNat 15 0) ∧
      (t.die site).tickcc = max 16 (bits v.toNat 31 16) := by
  refine ⟨s.updDie site (fun d => { d with ticks := max 1 (bits v.toNat 15 0), tickcc := max 16 (bits v.toNat 31 16) }), ?_, ?_, ?_⟩
  · show execLeaseConfigWrite site v s = _
    unfold execLeaseConfigWrite writeLease
    rw [if_neg (by omega)]
  · rw [die_updDie]
  · rw [die_updDie]

/-- The links of a route with a packet on its way. -/
def linkFlits (l : List Nat) (s : State) : State :=
  l.foldl (fun s i => s.updLink i (fun l => { l with lastFlit := s.ctl.time })) s

theorem linkFlits_keeps {β : Type} {g : State → β} (h : ∀ s i f, g (s.updLink i f) = g s) (l : List Nat) (s : State) :
    g (linkFlits l s) = g s :=
  foldl_keeps (g := g) (fun _ _ => h ..) l s

/-- A packet is sent: it is the last of the network. -/
theorem send_net (s : State) (m : Msg) : ∃ m1, (send s m).net = s.net ++ [m1] ∧
    m1 = { m with id := m1.id, inc := m1.inc, ph := m1.ph, time := s.ctl.time, clock := s.ctl.clock } := by
  refine ⟨_, (linkFlits_keeps (g := State.net) (fun _ _ _ => rfl) _ _).trans rfl, rfl⟩

theorem rdc?_send (s : State) (m : Msg) (d line : Nat) : (send s m).rdc? d line = s.rdc? d line := by
  rw [State.rdc?, State.die, send_dies, State.rdc?, State.die]

/-- The packet of a lease. -/
def leaseMsg (s : State) (core line w rts : Nat) (bytes : SMap Byte) (renew : Bool) : Msg :=
  { id := 0, kind := .lease renew, src := s.dieOf core, dst := s.dieOf core, line := line, bytes := if renew then [] else bytes,
    pts := (w, rts), core := core, bound := s.leaseBound (s.dieOf core) }

/-- The packet by which an RDC asks for a line that a core waits for. -/
def readMsg (s : State) (core line : Nat) : Msg :=
  let g := waitTags s core line
  { id := 0, kind := .req .rd, src := s.dieOf core, dst := s.homeOf line, line := line, cls := g.cls, chain := g.chain,
    ef := g.cache = .ef }

/-- The reply of a manager: a packet to the core's own die, which renews the lease of a CLC or carries the bytes. -/
theorem leaseReply_net (s : State) (core line w rts : Nat) (bytes : SMap Byte) :
    ∃ m, (leaseReply s core line w rts bytes).net = s.net ++ [m] ∧
      (m.kind = .lease true ∨ m.kind = .lease false ∧ m.bytes = bytes) ∧ m.line = line ∧ m.core = core ∧ m.pts = (w, rts) ∧
      m.bound = s.leaseBound (s.dieOf core) ∧ m.clock = s.ctl.clock := by
  obtain ⟨renew, he⟩ : ∃ renew, leaseReply s core line w rts bytes = send s (leaseMsg s core line w rts bytes renew) := ⟨_, rfl⟩
  obtain ⟨m1, hn, hm⟩ := send_net s (leaseMsg s core line w rts bytes renew)
  rw [he]
  refine ⟨m1, hn, ?_⟩
  rw [hm]
  refine ⟨?_, rfl, rfl, rfl, rfl, rfl⟩
  cases renew
  · exact .inr ⟨rfl, rfl⟩
  · exact .inl rfl

theorem settleHome_net (s : State) (n line : Nat) : (settleHome s n line).net = s.net := by
  unfold settleHome evictHome
  repeat' split
  all_goals rfl

section
variable {s : State} {core line : Nat} (hm : s.mapCause (64 * line) false = none)
include hm

theorem exec_leaseRequest_rdc {x : RdcLine} (hh : s.homeOf line ≠ s.dieOf core) (hx : s.rdc? (s.dieOf core) line = some x) :
    let d := s.dieOf core
    ∃ t m y, exec (.leaseRequest core line) s = .next t ∧ t.net = s.net ++ [m] ∧
      (m.kind = .lease true ∨ m.kind = .lease false ∧ m.bytes = x.copy.data) ∧ m.line = line ∧ m.core = core ∧
      m.pts = (x.copy.wts, max x.copy.rts (s.pts core + (s.die d).ticks)) ∧ m.bound = s.leaseBound d ∧ m.clock = s.ctl.clock ∧
      t.rdc? d line = some y ∧ y.copy.rts = m.pts.2 ∧ y.st = x.st ∧ y.copy.data = x.copy.data := by
  intro d
  set rts := max x.copy.rts (s.pts core + (s.die d).ticks)
  set y : RdcLine := { x with used := s.ctl.clock, copy := { x.copy with rts := rts, ef := false } }
  obtain ⟨m, hn, hk, hl, hc, hp, hb, hcl⟩ := leaseReply_net (s.setRdc d line y) core line x.copy.wts rts x.copy.data
  have hbound : (s.setRdc d line y).leaseBound d = s.leaseBound d := by
    simp only [State.leaseBound, State.setRdc, die_updDie]
  refine ⟨_, m, y, ?_, hn, hk, hl, hc, hp, hb.trans hbound, hcl, ?_, ?_, rfl, rfl⟩
  · show execLeaseRequest core line s = _
    unfold execLeaseRequest
    simp only [hm, hx, Option.isSome_none, Bool.false_eq_true, if_false]
    rw [if_neg hh]
  · exact (rdc?_send ..).trans ((rdc?_setRdc ..).trans (if_pos ⟨rfl, rfl⟩))
  · rw [hp]

theorem exec_leaseRequest_ask (hh : s.homeOf line ≠ s.dieOf core) (hx : s.rdc? (s.dieOf core) line = none)
    (hw : line ∉ (s.die (s.dieOf core)).waits) (he : evictionInFlight s (s.dieOf core) line = false)
    (hr : s.reaches (s.dieOf core) (s.homeOf line) = true) :
    ∃ t m, exec (.leaseRequest core line) s = .next t ∧ t.net = s.net ++ [m] ∧ m.kind = .req .rd ∧ m.src = s.dieOf core ∧
      m.dst = s.homeOf line ∧ m.line = line ∧ line ∈ (t.die (s.dieOf core)).waits := by
  obtain ⟨m, hn, hme⟩ := send_net s (readMsg s core line)
  refine ⟨(send s (readMsg s core line)).updDie (s.dieOf core) (fun i => { i with waits := line :: i.waits }), m, ?_, hn,
    by rw [hme]; rfl, by rw [hme]; rfl, by rw [hme]; rfl, by rw [hme]; rfl, ?_⟩
  · show execLeaseRequest core line s = _
    unfold execLeaseRequest
    simp only [hm, hx, Option.isSome_none, Bool.false_eq_true, if_false]
    rw [if_neg hh, if_neg (by simp [hw, he, hr])]
    rfl
  · rw [die_updDie]
    exact List.mem_cons_self

theorem exec_leaseRequest_home (hh : s.homeOf line = s.dieOf core) (hb : s.lineBusy line = false) :
    ∃ t m, exec (.leaseRequest core line) s = .next t ∧ m ∈ t.net ∧
      (m.kind = .lease true ∨ m.kind = .lease false) ∧ m.line = line ∧
      m.core = core ∧ s.pts core + (s.die (s.dieOf core)).ticks ≤ m.pts.2 ∧ m.bound = s.leaseBound (s.dieOf core) ∧
      m.clock = s.ctl.clock := by
  set d := s.dieOf core with hd
  set g := waitTags s core line
  have h1 := ((homeSide_dieAccess s d (line / 64)).trans (homeSide_pullDirty _ line)).trans
    (homeSide_touchHome _ d line g.cls g.chain (g.cache = .ef))
  have q1 := ((quiet_dieAccess s d (line / 64)).trans (quiet_pullDirty _ line)).trans
    (quiet_touchHome _ d line g.cls g.chain (g.cache = .ef))
  set s1 := touchHome (pullDirty (dieAccess s d (line / 64)) line) d line g.cls g.chain (g.cache = .ef) with hs1
  set l : HomeLine := (s1.homeLine? d line).getD {}
  set rts := max l.rts (s1.pts core + (s.die d).ticks)
  set s2 := s1.setHomeLine d line { l with rts := rts } with hs2
  have h2 : HomeSide s s2 := h1.trans (.home ..)
  have q2 : Quiet s s2 := q1.trans (quiet_setHomeLine ..)
  obtain ⟨m, hn, hk, hl, hc, hp, hbd, hcl⟩ := leaseReply_net s2 core line l.wts rts (s2.homeBytes line)
  refine ⟨settleHome (leaseReply s2 core line l.wts rts (s2.homeBytes line)) d line, m, ?_, ?_, ?_, hl, hc, ?_, ?_, hcl.trans q2.clock⟩
  · show execLeaseRequest core line s = _
    unfold execLeaseRequest
    simp only [hm, Option.isSome_none, Bool.false_eq_true, if_false]
    rw [if_pos hh, if_neg (by simp [hb])]
  · rw [settleHome_net, hn]
    exact List.mem_append_right _ (List.mem_singleton_self _)
  · exact hk.imp_right And.left
  · rw [hp]
    have hpts : s1.pts core = s.pts core := ((h1.core core).1.sameStores).1
    show _ ≤ max _ _
    rw [hpts]
    exact le_max_right ..
  · rw [hbd, q2.dieOf, State.leaseBound, (h2.ticks _).1, (h2.ticks _).2, State.leaseBound]

end

end Sys2Proof.Machine
end

section
/-! Lease replies and atomic requests, and the events of the memory system as a whole (O48). -/

namespace Sys2Proof.Machine

/-! ### A lease reply (08 Table 8-1) -/

/-- What a lease reply does once it has arrived. -/
def leaseArrive (s : State) (m : Msg) : State :=
  let k := s.clusterOf m.core
  let g := waitTags s m.core m.line
  let s0 := s.raisePts m.core m.pts.1
  let c := mget { cls := g.cls, chain := g.chain, ef := g.cache = .ef } (s0.clc k) m.line
  if leaseLate c m then s0
  else
    let s1 := clcRoom s0 k m.line
    let c1 := leased c m s1.ctl.clock
    let s2 := s1.setClc k m.line c1
    if g.cache = .cg then s2.delL1 m.core m.line else fillL1 s2 m.core m.line c1

theorem taken_eq (s : State) (id : Nat) (m : Msg) :
    taken s id m = linkFlits (route s m.src m.dst) { s with net := s.net.filter (fun x => x.id != id) } := rfl

theorem quiet_taken (s : State) (id : Nat) (m : Msg) : Quiet s (taken s id m) :=
  (quiet_netOnly s _).trans (Quiet.foldl (fun _ _ => quiet_updLink ..) _ _)

theorem cores_taken (s : State) (id : Nat) (m : Msg) : (taken s id m).cores = s.cores := by
  rw [taken_eq]
  exact linkFlits_keeps (g := State.cores) (fun _ _ _ => rfl) ..

theorem clcs_taken (s : State) (id : Nat) (m : Msg) : (taken s id m).clcs = s.clcs := by
  rw [taken_eq]
  exact linkFlits_keeps (g := State.clcs) (fun _ _ _ => rfl) ..

theorem net_taken (s : State) (id : Nat) (m : Msg) : (taken s id m).net = s.net.filter (fun x => x.id != id) := by
  rw [taken_eq]
  exact linkFlits_keeps (g := State.net) (fun _ _ _ => rfl) ..

theorem exec_leaseReply {s : State} {id : Nat} {m : Msg} (ha : arrives s id m) (hk : m.kind = .lease true ∨ m.kind = .lease false)
    (hf : s.clcFull (s.clusterOf m.core) m.line = false) : exec (.leaseReply id) s = .next (leaseArrive (taken s id m) m) := by
  obtain ⟨hfind, hr, hi, ho⟩ := ha
  show execLeaseReply id s = _
  unfold execLeaseReply receive
  rw [hfind]
  simp only
  obtain hk | hk := hk
  all_goals
    rw [hk]
    simp only [hr, hi, ho, hf, Bool.not_true, Bool.not_false, Bool.or_self, Bool.false_eq_true, if_false]
    rfl

theorem leaseLate_congr {c e : Copy} (h : c.gwts = e.gwts) (m : Msg) : leaseLate c m = leaseLate e m := by
  unfold leaseLate
  rw [h]

/-- The bytes of a reply in a copy: dirty bytes stay. -/
theorem mfind_leased_data (c : Copy) (m : Msg) (now off : Nat) : mfind (leased c m now).data off =
    if c.dirty.getLsbD off then mfind c.data off else
      match m.bytes.reverse.find? (fun b => b.1 = off) with
      | some b => some b.2
      | none => mfind c.data off := by
  have key : ∀ (l d : SMap Byte), mfind (l.foldl (fun d e => if c.dirty.getLsbD e.1 then d else mset d e.1 e.2) d) off =
      if c.dirty.getLsbD off then mfind d off else mfind (l.foldl (fun d e => mset d e.1 e.2) d) off := by
    intro l
    induction l with
    | nil => exact fun d => (ite_self _).symm
    | cons x t ih =>
      intro d
      rw [List.foldl_cons, ih, List.foldl_cons]
      by_cases hx : c.dirty.getLsbD off = true
      · rw [if_pos hx, if_pos hx]
        split
        · rfl
        next h => exact mfind_mset_other _ _ (fun he : off = x.1 => h (he ▸ hx))
      · rw [if_neg hx, if_neg hx, mfind_foldl_mset, mfind_foldl_mset]
        cases t.reverse.find? (fun e => e.1 = off) with
        | some e => rfl
        | none =>
          simp only
          split
          next h => exact (mfind_mset_other _ _ (fun he : off = x.1 => hx (he ▸ h))).symm
          · rfl
  refine (key m.bytes c.data).trans ?_
  split
  · rfl
  · rw [mfind_foldl_mset]
    cases m.bytes.reverse.find? (fun e => e.1 = off) <;> rfl

theorem core_fillL1 (s : State) (core line : Nat) (x : Copy) : SameStores (s.core core) ((fillL1 s core line x).core core) ∧
    mfind ((fillL1 s core line x).core core).l1 line = some { x with used := s.ctl.clock } := by
  unfold fillL1
  simp only [State.setL1, core_updCore, if_true]
  refine ⟨?_, mfind_mset_same ..⟩
  split
  · exact ⟨rfl, rfl⟩
  · split
    · exact ⟨rfl, rfl⟩
    · rw [State.delL1, core_updCore, if_pos rfl]
      exact ⟨rfl, rfl⟩

theorem clcs_fillL1 (s : State) (core line : Nat) (x : Copy) : (fillL1 s core line x).clcs = s.clcs ∧ (fillL1 s core line x).net = s.net := by
  unfold fillL1
  simp only
  split
  · exact ⟨rfl, rfl⟩
  · split
    · exact ⟨rfl, rfl⟩
    · exact ⟨rfl, rfl⟩

/-- A lease in the CLC and the L1 of its core, where the CLC has room. -/
def leaseFill (s : State) (k core line : Nat) (c : Copy) (cg : Bool) : State :=
  let s2 := s.setClc k line c
  if cg then s2.delL1 core line else fillL1 s2 core line c

theorem leaseFill_spec (s : State) (k core line : Nat) (c : Copy) (cg : Bool) (hc : c.used = s.ctl.clock) :
    mfind ((leaseFill s k core line c cg).clc k) line = some c ∧ ((leaseFill s k core line c cg).core core).pts = (s.core core).pts ∧
      mfind ((leaseFill s k core line c cg).core core).l1 line = (if cg then none else some c) ∧
      (leaseFill s k core line c cg).net = s.net := by
  have h := (mfind_setClc s k line k line c).trans (if_pos ⟨rfl, rfl⟩)
  unfold leaseFill
  cases cg
  · obtain ⟨h1, h2⟩ := core_fillL1 (s.setClc k line c) core line c
    obtain ⟨h3, h4⟩ := clcs_fillL1 (s.setClc k line c) core line c
    refine ⟨?_, h1.1, h2.trans ?_, h4⟩
    · simp only [Bool.false_eq_true, if_false]
      rw [State.clc, h3]
      exact h
    · simp only [Bool.false_eq_true, if_false, State.setClc_ctl, ← hc]
  · refine ⟨h, ?_, ?_, rfl⟩
    · simp only [if_true, State.delL1, core_updCore]
      rfl
    · simp only [if_true, State.delL1, core_updCore]
      exact mfind_mdel_same ..

theorem leaseArrive_late {s : State} {m : Msg} (h : leaseLate ((mfind (s.clc (s.clusterOf m.core)) m.line).getD {}) m = true) :
    leaseArrive s m = s.raisePts m.core m.pts.1 := by
  unfold leaseArrive
  simp only
  rw [if_pos]
  refine (leaseLate_congr ?_ m).trans h
  show (mget _ (s.clc (s.clusterOf m.core)) m.line).gwts = _
  unfold mget
  cases mfind (s.clc (s.clusterOf m.core)) m.line <;> rfl

/-- The lease that a reply grants to a CLC's copy of a line, an empty one where it has none. -/
theorem leaseArrive_fill {s : State} {m : Msg} (h : leaseLate ((mfind (s.clc (s.clusterOf m.core)) m.line).getD {}) m = false) :
    let k := s.clusterOf m.core
    let old : Copy := (mfind (s.clc k) m.line).getD {}
    let up := fun (a b : Nat) => if old.dirty = 0#64 then b else max a b
    ∃ c, ((leaseArrive s m).core m.core).pts = max (s.core m.core).pts m.pts.1 ∧
      mfind ((leaseArrive s m).clc k) m.line = some c ∧ c.wts = up old.wts m.pts.1 ∧ c.rts = up old.rts m.pts.2 ∧ c.grts = m.pts.2 ∧
      c.gwts = some m.pts.1 ∧ c.fill = m.clock ∧ c.bound = m.bound ∧ c.dirty = old.dirty ∧
      (∀ off, mfind c.data off = if old.dirty.getLsbD off then mfind old.data off else
        match m.bytes.reverse.find? (fun b => b.1 = off) with
        | some b => some b.2
        | none => mfind old.data off) ∧
      mfind ((leaseArrive s m).core m.core).l1 m.line = (if (waitTags s m.core m.line).cache = .cg then none else some c) ∧
      ((mfind (s.clc k) m.line).isSome = true ∨ (s.clcSet k m.line).length < 16 → (leaseArrive s m).net = s.net) := by
  intro k old up
  set g := waitTags s m.core m.line
  set c0 : Copy := mget { cls := g.cls, chain := g.chain, ef := g.cache = .ef } (s.clc k) m.line with hc0
  set s1 := clcRoom (s.raisePts m.core m.pts.1) k m.line with hs1
  have hsame : c0 = { old with cls := c0.cls, chain := c0.chain, ef := c0.ef } := by
    rw [hc0]
    simp only [old, mget]
    cases mfind (s.clc k) m.line <;> rfl
  have he : leaseArrive s m = leaseFill s1 k m.core m.line (leased c0 m s1.ctl.clock) (g.cache = .cg) := by
    unfold leaseArrive
    simp only
    rw [if_neg]
    · simp only [leaseFill, decide_eq_true_eq]
      rfl
    · exact Bool.eq_false_iff.1 ((leaseLate_congr (c := c0) (e := old) (by rw [hsame]) m).trans h)
  obtain ⟨h1, h2, h3, h4⟩ := leaseFill_spec s1 k m.core m.line (leased c0 m s1.ctl.clock) (g.cache = .cg) rfl
  have hp : (s1.core m.core).pts = max (s.core m.core).pts m.pts.1 := by
    rw [hs1, (sameStores_clcRoom ..).1, State.raisePts, core_updCore, if_pos rfl]
  rw [he]
  generalize s1.ctl.clock = now at *
  refine ⟨leased c0 m now, h2.trans hp, h1, ?_, ?_, rfl, rfl, rfl, rfl, ?_, fun off => ?_, ?_, fun hr => h4.trans ?_⟩
  · rw [hsame]; rfl
  · rw [hsame]; rfl
  · rw [hsame]; rfl
  · rw [mfind_leased_data, hsame]
  · rw [h3]
    simp only [decide_eq_true_eq]
  · rw [hs1, clcRoom_of_room (s := s.raisePts m.core m.pts.1) hr]
    rfl

/-! ### One atomic request (07 R178, R179) -/

section
variable {s : State} {core slot op req : Nat} {out : SegOutcome} {w : Warp} {a : AtomOp} {b : Block} {q : AtomReq}
  (hw : s.warp? { core := core, slot := slot } = some w) (hh : w.atoms.head? = some a) (ha : a.id = op)
  (hb : s.block? core w.blk = some b) (hq : a.reqs.find? (fun q => q.id = req) = some q)
include hw hh ha hb hq

theorem exec_atomicRequest_fail {c : Nat} (hc : reqCause s a q out = some c) :
    exec (.atomicRequest core slot op (req, out)) s =
      .next (failReq (logOutcome s q.pa out) { core := core, slot := slot } a q c) := by
  show execAtomicRequest core slot op (req, out) s = _
  simp only [execAtomicRequest, hw, hh, hb, ha, if_true, hq, hc]

/-- A request performed: its bytes are written at its point and its lanes take the old values. -/
theorem exec_atomicRequest_done {s1 : State} {v : Nat} (hc : reqCause s a q out = none)
    (ho : atomOld s { core := core, slot := slot } a.scope q.pa (DTy.bytes a.ty) = (s1, some v)) :
    let r : WRef := { core := core, slot := slot }
    let x := aopLanes a.op a.ty a.ftz v q.lanes
    exec (.atomicRequest core slot op (req, out)) s = .next (endReq
      ((atomNew (logOutcome s1 q.pa out) r a q b.ctx (chainOf s1 b) (leBytes (DTy.bytes a.ty) x.2)).updWarp r (fun v =>
        x.1.foldl (fun v y => bindOld v a.dest a.ty y.1 y.2) v)) r a req []) := by
  show execAtomicRequest core slot op (req, out) s = _
  simp only [execAtomicRequest, hw, hh, hb, ha, if_true, hq, hc, ho]

/-- A request that its point cannot serve yet leaves its warp as it is. -/
theorem exec_atomicRequest_stay {s1 : State} (hc : reqCause s a q out = none)
    (ho : atomOld s { core := core, slot := slot } a.scope q.pa (DTy.bytes a.ty) = (s1, none)) :
    ∃ t, exec (.atomicRequest core slot op (req, out)) s = .next t ∧ t.warp? { core := core, slot := slot } = some w := by
  have h1 : Quiet s s1 := (quiet_atomOld ..).of_pair ho
  have hask : ∀ d line cls chain, Quiet s1 (askOwner s1 d line cls chain) := by
    intro d line cls chain
    unfold askOwner
    split
    · exact .refl s1
    · exact (quiet_send ..).trans (quiet_updDie ..)
  refine ⟨if a.scope = .di && s.homeOf (q.pa / 64) != s.dieOf core then
    askOwner s1 (s.dieOf core) (q.pa / 64) q.cls (chainOf s1 b) else s1, ?_, ?_⟩
  · show execAtomicRequest core slot op (req, out) s = _
    simp only [execAtomicRequest, hw, hh, hb, ha, if_true, hq, hc, ho]
  · split
    · exact ((h1.trans (hask ..)).warp _).trans hw
    · exact (h1.warp _).trans hw

end

theorem mapCause_of_reqCause {s : State} {a : AtomOp} {q : AtomReq} {out : SegOutcome} (h : reqCause s a q out = none)
    (ha : 5 ≤ Scope.rank a.scope) : s.mapCause q.pa false = none := by
  unfold reqCause at h
  rw [decide_eq_false (by omega)] at h
  split at h
  · cases h
  next hm => exact hm

/-- What a performed request leaves: its warp with the old values, and at device scope its bytes at the home. -/
theorem atomic_performed {s s1 : State} {r : WRef} {out : SegOutcome} {w : Warp} {a : AtomOp} {q : AtomReq} {v : Nat} {req : Nat}
    (ctx chain : Nat) (hw : s.warp? r = some w) (hf : a.fails = [] ∨ ∃ y ∈ a.reqs, y.id ≠ req) (hc : reqCause s a q out = none)
    (ho : atomOld s r a.scope q.pa (DTy.bytes a.ty) = (s1, some v)) :
    let z := aopLanes a.op a.ty a.ftz v q.lanes
    let t := endReq ((atomNew (logOutcome s1 q.pa out) r a q ctx chain (leBytes (DTy.bytes a.ty) z.2)).updWarp r (fun v =>
      z.1.foldl (fun v y => bindOld v a.dest a.ty y.1 y.2) v)) r a req []
    ∃ w1, t.warp? r = some w1 ∧ w1 = { z.1.foldl (fun v y => bindOld v a.dest a.ty y.1 y.2) w with atoms := w1.atoms } ∧
      (∀ o ∈ w1.atoms, o.id = a.id → ∀ y ∈ o.reqs, y.id ≠ req) ∧
      (5 ≤ Scope.rank a.scope → q.pa % 64 + DTy.bytes a.ty ≤ 64 → ∀ i, i < DTy.bytes a.ty →
        t.homeByte (q.pa / 64) (q.pa % 64 + i) = (leBytes (DTy.bytes a.ty) z.2).getD i 0#8) := by
  intro z t
  set l := leBytes (DTy.bytes a.ty) z.2
  set s2 := logOutcome s1 q.pa out
  set s3 := atomNew s2 r a q ctx chain l
  set f : Warp → Warp := fun v => z.1.foldl (fun v y => bindOld v a.dest a.ty y.1 y.2) v
  set g : Warp → Warp := fun w => dropReq w a.id req (byLane a.fails)
  have ht : t = (s3.updWarp r f).updWarp r g := endReq_clean _ _ hf
  have hq1 : Quiet s s1 := (quiet_atomOld ..).of_pair ho
  have hsw : SameWork s s3 := hq1.sameWork.trans ((sameWork_logOutcome ..).trans (quiet_atomNew ..).sameWork)
  have h3 : s3.warp? r = some w := (hsw.warp r).trans hw
  refine ⟨g (f w), ?_, rfl, fun o ho hid => dropReq_reqs ho hid, fun h5 _ i hi => ?_⟩
  · rw [ht]
    exact warp?_updWarp_same _ (warp?_updWarp_same _ h3)
  · have hoff : SameOff s s1 := by
      have := sameOff_atomOld s r q.pa (DTy.bytes a.ty) h5
      rwa [ho] at this
    have hx : s2.expOff (q.pa / 64) = false := by
      rw [(hoff.trans (sameOff_logOutcome ..)).expOff]
      exact expOff_of_mapCause (mapCause_of_reqCause hc h5)
    rw [ht, updWarp_of _ _ _ _ (warp?_updWarp_same f h3), updWarp_of _ _ _ _ h3]
    refine (homeByte_of_eq rfl rfl rfl _ _).trans ?_
    exact homeByte_atomNew ctx chain h5 hx (by rw [length_leBytes]; exact hi)

/-! ### The events -/

/-- Settles O48, event by event. -/
theorem memoryEvents : Obligations.MemoryEvents := by
  unfold Obligations.MemoryEvents
  refine ⟨?_, ?_, ?_, ?_, fun s core h => exec_ptsTick h, fun s site v h => exec_leaseConfigWrite s v h, ?_, ?_, ?_⟩
  · intro s core slot op lanes w o hw ho hd hg r p fault
    refine ⟨fun hp hf => exec_loadReturn_bind hw ho hd hg lanes hp hf,
      fun a l hp hf ha hl => exec_loadReturn_one hw ho hd hg lanes hp hf ha hl,
      fun c hc hm => exec_loadReturn_kept hw ho hd hg hc hm, fun c f rest hc hm hf => ?_,
      fun a b hl ha hf h0 hp hk hb => exec_loadReturn_trap hw ho hd hg hl ha hf h0 hp hk hb⟩
    obtain ⟨q, hq⟩ := laneTrap_isSome (List.cons_ne_nil f rest) false
    have he := Option.some.inj hq
    refine ⟨_, q, exec_loadReturn_last hw ho hd hg hm (hf ▸ hq :), ?_⟩
    rw [← he]
    exact ⟨rfl, rfl, rfl, rfl⟩
  · intro s core buf e rest hb h
    exact congrArg Host.Outcome.next (drainOne_of_full hb h)
  · intro s core buf e rest x xs hb hx h
    obtain ⟨c, h1, h2, h3, h4, h5⟩ := drainOne_spec hb hx h
    exact ⟨_, c, rfl, h1, h2, h3, h4, h5⟩
  · intro s k line c hb hr hc hd
    obtain ⟨h1, h2⟩ := pushClc_cleans hc hd
    exact ⟨_, exec_clcDirtyPush hb hr, h1, h2⟩
  · intro s core line hm d
    exact ⟨fun x hh hx => exec_leaseRequest_rdc hm hh hx, fun hh hx hw he hr => exec_leaseRequest_ask hm hh hx hw he hr,
      fun hh hb => exec_leaseRequest_home hm hh hb⟩
  · intro s id m ha hk hf k old up
    have hkz : (taken s id m).clusterOf m.core = k := (quiet_taken s id m).clusterOf _
    have hclc : ∀ j, (taken s id m).clc j = s.clc j := fun j => by rw [State.clc, clcs_taken, State.clc]
    have hcore : ∀ l, (taken s id m).core l = s.core l := fun l => by rw [State.core, cores_taken, State.core]
    have hset : (taken s id m).clcSet k m.line = s.clcSet k m.line := by
      unfold State.clcSet clcSets State.fuse
      rw [hclc, (quiet_taken s id m).pkg]
    have hex := exec_leaseReply ha hk hf
    refine ⟨fun hl => ?_, fun hl => ?_⟩
    · have hz := leaseArrive_late (s := taken s id m) (m := m) (by rw [hkz, hclc]; exact hl)
      refine ⟨_, hex, ?_⟩
      rw [hz, State.raisePts, core_updCore, if_pos rfl, hcore]
      exact ⟨rfl, hclc k, rfl⟩
    · have hz := leaseArrive_fill (s := taken s id m) (m := m) (by rw [hkz, hclc]; exact hl)
      simp only [hkz, hclc, hcore, hset, net_taken] at hz
      obtain ⟨c, hc⟩ := hz
      exact ⟨_, c, hex, hc⟩
  · intro s core slot op req out w a b q hw hh ha hb hq r
    have hid : q.id = req := by simpa using List.find?_some hq
    refine ⟨fun c hc => exec_atomicRequest_fail hw hh ha hb hq hc, fun c hm => ?_, fun c hm tr ht => ?_, fun s1 v hf hc ho => ?_,
      fun s1 hc ho => exec_atomicRequest_stay hw hh ha hb hq hc ho⟩
    · rw [failReq, hid, endReq_more _ _ _ hm, ha]
    · refine ⟨s.updWarp r (fun w => dropReq w a.id req (byLane (a.fails ++ q.lanes.map (fun y => LaneFault.mk y.1 c 0 q.va)))), ?_⟩
      rw [failReq, hid, endReq_last _ _ _ hm, ht]
    · obtain ⟨w1, h1, h2, h3, h4⟩ := atomic_performed b.ctx (chainOf s1 b) hw hf hc ho
      exact ⟨_, w1, exec_atomicRequest_done hw hh ha hb hq hc ho, h1, h2, fun o ho hi => h3 o ho (hi.trans ha.symm), h4⟩

end Sys2Proof.Machine
end

section
/-! The slot tables, the active set, and what ends the waits of warps (O41). -/

namespace Sys2Proof.Machine

/-! ### The slot table and the split (03 R68, 06 R140) -/

/-- A core whose slot table is written at a clock. -/
def slotWritten (now j : Nat) (v : W64) (c : Core) : Core :=
  { c with
    slott := if now ≥ c.slottAt then c.slottNew.foldl (fun m e => mset m e.1 e.2) c.slott else c.slott
    slottNew := (List.range 4).foldl (fun m i => mset m (4 * j + i) (v.extractLsb' (16 * i) 16 &&& 0x80FF#16))
      (if now ≥ c.slottAt then [] else c.slottNew)
    slottAt := (now / 64 + 1) * 64 }

theorem exec_slottWrite {s : State} {core j : Nat} (v : W64) (hj : j < 16) (hl : (s.lpt core).isSome = true) :
    exec (.slottWrite core j v) s = .next (s.updCore core (slotWritten s.ctl.clock j v)) := by
  show execSlottWrite core j v s = _
  unfold execSlottWrite
  rw [if_neg (by simp [Option.isSome_iff_ne_none.1 hl]; omega)]
  rfl

/-- Four entries set in a map. -/
theorem mfind_foldl_range4 {α : Type} (m : SMap α) (b : Nat) (g : Nat → α) {i : Nat} (hi : i < 4) :
    mfind ((List.range 4).foldl (fun m i => mset m (b + i) (g i)) m) (b + i) = some (g i) := by
  have h4 : List.range 4 = [0, 1, 2, 3] := rfl
  rw [h4]
  simp only [List.foldl_cons, List.foldl_nil, mfind_mset, Nat.add_left_cancel_iff]
  obtain rfl | rfl | rfl | rfl : i = 0 ∨ i = 1 ∨ i = 2 ∨ i = 3 := by omega
  all_goals rfl

/-- A written entry is in effect from the next cycle that is 0 mod 64. -/
theorem slotAt_slotWritten_new (now j : Nat) (v : W64) (c : Core) {i n : Nat} (hi : i < 4) (hn : (now / 64 + 1) * 64 ≤ n) :
    (slotWritten now j v c).slotAt n (4 * j + i) =
      let x := v.extractLsb' (16 * i) 16 &&& 0x80FF#16
      if (4 * j + i) % 8 = 0 then x ||| 0xC0#16 else x := by
  unfold Core.slotAt slotWritten
  simp only
  rw [if_pos hn, mfind_foldl_range4 _ (4 * j) (fun i => v.extractLsb' (16 * i) 16 &&& 0x80FF#16) hi]
  rfl

/-- Until then every entry is as it was. -/
theorem slotAt_slotWritten_now (now j : Nat) (v : W64) (c : Core) (h : c.slottNew = [] ∨ now < c.slottAt) (i : Nat) :
    (slotWritten now j v c).slotAt now i = c.slotAt now i := by
  have hlt : ¬ now ≥ (now / 64 + 1) * 64 := by omega
  unfold Core.slotAt slotWritten
  simp only
  rw [if_neg hlt]
  obtain h | h := h
  · rw [h]
    simp only [List.foldl_nil, ite_self, mfind, Option.getD_none]
  · simp only [show ¬ now ≥ c.slottAt by omega, if_false]

/-- A core with a split chosen that waits. -/
def splitChosen (s : State) (core n : Nat) : State := s.updCore core (fun c => { c with spuNew := some n })

theorem exec_lscfgWrite {s : State} {core : Nat} {v : W64} (hv : bits v.toNat 3 0 ≤ 10) (hl : (s.lpt core).isSome = true) :
    exec (.lscfgWrite core v) s = .next (applySplit (splitChosen s core (bits v.toNat 3 0)) core) := by
  show execLscfgWrite core v s = _
  unfold execLscfgWrite writeLscfg
  rw [if_neg (by simp [Option.isSome_iff_ne_none.1 hl]; omega)]
  rfl

/-- The split applies at once to a core without blocks, and waits on any other. -/
theorem applySplit_splitChosen (s : State) (core n : Nat) :
    if (s.core core).blocks = [] then ((applySplit (splitChosen s core n) core).core core).spu = n ∧
        ((applySplit (splitChosen s core n) core).core core).spuNew = none ∧ ((applySplit (splitChosen s core n) core).core core).l1 = []
    else ((applySplit (splitChosen s core n) core).core core).spu = (s.core core).spu ∧
      ((applySplit (splitChosen s core n) core).core core).spuNew = some n := by
  have hc : (splitChosen s core n).core core = { s.core core with spuNew := some n } := by
    rw [splitChosen, core_updCore, if_pos rfl]
  unfold applySplit
  simp only [hc]
  by_cases hb : (s.core core).blocks = []
  · simp only [hb, if_true, List.isEmpty_nil, Bool.not_true, Bool.false_eq_true, if_false, core_updCore, and_self]
  · rw [if_neg hb, if_pos (by simpa using hb), hc]
    exact ⟨rfl, rfl⟩

/-! ### The active set (03 R73 to R76) -/

/-- A warp that could go on at its next issue opportunity but for its wait. -/
def canGo (w : Warp) : Bool := !w.stopped && !w.held && (!w.aborting && w.exited != allLanes || w.level = 3)

/-- The slot of a warp that joins the tail of the ready queue when it leaves the active set (log 55). -/
def tailOf (c : Core) (slot : Nat) : List Nat :=
  if (mfind c.warps slot).any (fun w => (w.wait.isNone || w.wait == some .yielded) && canGo w) then [slot] else []

theorem ableSlot_of {c : Core} {slot : Nat} {w : Warp} (hw : mfind c.warps slot = some w) :
    c.ableSlot slot = (w.wait.isNone && canGo w) := by
  unfold Core.ableSlot canGo
  rw [hw]
  simp only [Bool.and_assoc]

/-- A core with the yield of one warp over. -/
def unyielded (c : Core) (slot : Nat) (w : Warp) : Core := { c with warps := mset c.warps slot { w with wait := none } }

theorem ableSlot_unyielded (c : Core) (slot : Nat) (w : Warp) : (unyielded c slot w).ableSlot slot = canGo w :=
  ableSlot_of (w := { w with wait := none }) (mfind_mset_same ..)

theorem toTail_of_none {c : Core} {slot : Nat} (h : mfind c.warps slot = none) : c.toTail slot = c := by
  unfold Core.toTail
  rw [h]

theorem toTail_of_yielded {c : Core} {slot : Nat} {w : Warp} (hw : mfind c.warps slot = some w) (hy : w.wait = some .yielded) :
    c.toTail slot = { unyielded c slot w with ready := c.ready ++ tailOf c slot } := by
  have ht : tailOf c slot = if canGo w then [slot] else [] := by simp [tailOf, hw, hy]
  unfold Core.toTail
  rw [hw]
  simp only [hy, if_true]
  rw [ht]
  have ha := ableSlot_unyielded c slot w
  unfold unyielded at ha
  rw [ha]
  split
  · rfl
  · rw [List.append_nil]
    rfl

theorem toTail_of_other {c : Core} {slot : Nat} {w : Warp} (hw : mfind c.warps slot = some w) (hy : w.wait ≠ some .yielded) :
    c.toTail slot = { c with ready := c.ready ++ tailOf c slot } := by
  have ht : tailOf c slot = if w.wait.isNone && canGo w then [slot] else [] := by
    simp [tailOf, hw, hy]
  unfold Core.toTail
  rw [hw]
  simp only [hy, if_false]
  rw [ht, ableSlot_of hw]
  split
  · rfl
  · rw [List.append_nil]

/-- What the way to the tail of the ready queue leaves: the active set, and every warp, but that a yield is over. -/
theorem toTail_spec (c : Core) (slot : Nat) : (c.toTail slot).active = c.active ∧ (c.toTail slot).ready = c.ready ++ tailOf c slot ∧
    ∀ x w, mfind c.warps x = some w → ∃ w1, mfind (c.toTail slot).warps x = some w1 ∧
      (x = slot → w.wait = some .yielded → w1.wait = none) := by
  cases hw : mfind c.warps slot with
  | none =>
    rw [toTail_of_none hw, tailOf, hw]
    refine ⟨rfl, (List.append_nil _).symm, fun x w hx => ⟨w, hx, ?_⟩⟩
    rintro rfl
    exact absurd (hw.symm.trans hx) (by simp)
  | some w =>
    by_cases hy : w.wait = some .yielded
    · rw [toTail_of_yielded hw hy]
      refine ⟨rfl, rfl, fun x v hx => ?_⟩
      by_cases he : x = slot
      · subst he
        exact ⟨_, mfind_mset_same .., fun _ _ => rfl⟩
      · exact ⟨v, (mfind_mset_other _ _ he).trans hx, fun h => absurd h he⟩
    · rw [toTail_of_other hw hy]
      refine ⟨rfl, rfl, fun x v hx => ⟨v, hx, ?_⟩⟩
      rintro rfl hv
      exact absurd (Option.some.inj (hw.symm.trans hx) ▸ hv) hy

/-- A warp changed: the active set and the ready queue of its core stay. -/
theorem queues_updWarp (s : State) (r : WRef) (f : Warp → Warp) (l : Nat) :
    ((s.updWarp r f).core l).active = (s.core l).active ∧ ((s.updWarp r f).core l).ready = (s.core l).ready := by
  unfold State.updWarp
  split
  · exact ⟨rfl, rfl⟩
  · rw [State.setWarp, core_updCore]
    split
    next h => exact h ▸ ⟨rfl, rfl⟩
    next => exact ⟨rfl, rfl⟩

/-- The first warp of a ready queue takes a place, and issues 2 cc later. -/
theorem admitWarp_spec {s : State} {core : Nat} {h : Nat} {rest : List Nat} (hr : (s.core core).ready = h :: rest) :
    ((admitWarp s core).core core).ready = rest ∧
      ((admitWarp s core).core core).active = (if (s.core core).active.contains vacant then (s.core core).active.replace vacant h
        else (s.core core).active ++ [h]) ∧
      ∀ x w, s.warp? { core := core, slot := x } = some w → ∃ w1, (admitWarp s core).warp? { core := core, slot := x } = some w1 ∧
        w1.wait = w.wait ∧ (x = h → w1.enter = s.ctl.clock + 2) := by
  have he : admitWarp s core = (s.updCore core (fun c => ({ c with ready := rest } : Core).takePlace h)).updWarp
      { core := core, slot := h } (fun w => { w with enter := s.ctl.clock + 2 }) := by
    unfold admitWarp
    rw [hr]
  obtain ⟨ha, hq⟩ := queues_updWarp (s.updCore core (fun c => ({ c with ready := rest } : Core).takePlace h))
    { core := core, slot := h } (fun w => { w with enter := s.ctl.clock + 2 }) core
  rw [core_updCore, if_pos rfl] at ha hq
  rw [he]
  refine ⟨hq.trans rfl, ha.trans rfl, fun x w hx => ?_⟩
  have h1 : (s.updCore core (fun c => ({ c with ready := rest } : Core).takePlace h)).warp? { core := core, slot := x } = some w :=
    (warp?_updCore s core _ { core := core, slot := x } rfl).trans hx
  by_cases hxh : x = h
  · subst hxh
    exact ⟨_, warp?_updWarp_same _ h1, rfl, fun _ => rfl⟩
  · exact ⟨w, (warp?_updWarp_other _ _ (fun h => hxh (congrArg WRef.slot h))).trans h1, rfl, fun h => absurd h hxh⟩

/-- An active warp gives up its place to the first ready one. -/
def giveWay (s : State) (core out : Nat) : State := admitWarp (s.updCore core (fun c => (c.leave out).toTail out)) core

theorem giveWay_spec {s : State} {core out : Nat} (ho : out ∈ (s.core core).active) :
    let q := (s.core core).ready ++ tailOf (s.core core) out
    let a := (s.core core).active.map (fun x => if x = out then vacant else x)
    ((giveWay s core out).core core).ready = q.drop 1 ∧
      ((giveWay s core out).core core).active = (match q with
        | [] => a
        | h :: _ => a.replace vacant h) ∧
      ∀ x w, s.warp? { core := core, slot := x } = some w → ∃ w1, (giveWay s core out).warp? { core := core, slot := x } = some w1 ∧
        (x = out → w.wait = some .yielded → w1.wait = none) ∧ (q.head? = some x → w1.enter = s.ctl.clock + 2) := by
  intro q a
  obtain ⟨h1, h2, h3⟩ := toTail_spec ((s.core core).leave out) out
  set s1 := s.updCore core (fun c => (c.leave out).toTail out) with hs1
  have hc : s1.core core = ((s.core core).leave out).toTail out := by rw [hs1, core_updCore, if_pos rfl]
  have hr : (s1.core core).ready = q := by rw [hc, h2]; rfl
  have ha : (s1.core core).active = a := by rw [hc, h1]; rfl
  have hw : ∀ x w, s.warp? { core := core, slot := x } = some w → ∃ w1, s1.warp? { core := core, slot := x } = some w1 ∧
      (x = out → w.wait = some .yielded → w1.wait = none) := by
    intro x w hx
    obtain ⟨w1, hw1, hy⟩ := h3 x w hx
    exact ⟨w1, (congrArg (fun c : Core => mfind c.warps x) hc).trans hw1, hy⟩
  have hv : a.contains vacant = true := List.contains_iff_mem.2 (List.mem_map.2 ⟨out, ho, if_pos rfl⟩)
  unfold giveWay
  rw [← hs1]
  cases hq : q with
  | nil =>
    rw [hq] at hr
    have he : admitWarp s1 core = s1 := by
      unfold admitWarp
      rw [hr]
    rw [he]
    refine ⟨hr, ha, fun x w hx => ?_⟩
    obtain ⟨w1, hw1, hy⟩ := hw x w hx
    exact ⟨w1, hw1, hy, fun h => by cases h⟩
  | cons h rest =>
    rw [hq] at hr
    obtain ⟨g1, g2, g3⟩ := admitWarp_spec hr
    rw [ha, if_pos hv] at g2
    refine ⟨g1, g2, fun x w hx => ?_⟩
    obtain ⟨w1, hw1, hy⟩ := hw x w hx
    obtain ⟨w2, hw2, he, hn⟩ := g3 x w1 hw1
    exact ⟨w2, hw2, fun h hyl => he.trans (hy h hyl), fun h => hn (Option.some.inj h).symm⟩

theorem exec_warpSwap_out {s : State} {core out : Nat} (hv : out ≠ vacant) (ho : out ∈ (s.core core).active)
    (hw : vacates (s.core core) out = true) : exec (.warpSwap core out) s = .next (giveWay s core out) := by
  show execWarpSwap core out s = _
  unfold execWarpSwap
  simp only
  rw [if_pos (by simpa using ⟨hv, ho⟩), if_neg (by simp [hw])]
  rfl

theorem exec_warpSwap_fill {s : State} {core out : Nat} (ho : out = vacant ∨ out ∉ (s.core core).active)
    (hp : (s.core core).hasPlace = true) : exec (.warpSwap core out) s = .next (admitWarp s core) := by
  show execWarpSwap core out s = _
  unfold execWarpSwap
  simp only
  rw [if_neg, if_pos hp]
  simp only [Bool.and_eq_true, bne_iff_ne, List.contains_iff_mem, not_and]
  exact fun hv => ho.resolve_left hv

/-- A warp that leaves its place while it waits joins the queue only where it yielded. -/
theorem tailOf_of_vacates {s : State} {core out : Nat} (hv : vacates (s.core core) out = true) :
    tailOf (s.core core) out =
      if (s.warp? { core := core, slot := out }).any (fun w => w.wait == some .yielded && canGo w) then [out] else [] := by
  unfold tailOf vacates at *
  show _ = if (mfind (s.core core).warps out).any _ = true then _ else _
  cases hw : mfind (s.core core).warps out with
  | none => rfl
  | some w =>
    rw [hw] at hv
    have hn : w.wait.isNone = false := by
      cases hx : w.wait with
      | none => simp [hx, swapWait] at hv
      | some _ => rfl
    simp only [Option.any_some, hn, Bool.false_or]

theorem foldl_earlierSlot_le {c : Core} {l : List Nat} {b : Option Nat} {x : Nat} (h : l.foldl (earlierSlot c) b = some x) :
    (∀ y ∈ l, c.entered x ≤ c.entered y) ∧ ∀ y, b = some y → c.entered x ≤ c.entered y := by
  induction l generalizing b with
  | nil => exact ⟨fun _ hy => absurd hy List.not_mem_nil, fun y hy => le_of_eq (congrArg _ (Option.some.inj (h.symm.trans hy)))⟩
  | cons e t ih =>
    obtain ⟨h1, h2⟩ := ih h
    cases b with
    | none => exact ⟨List.forall_mem_cons.2 ⟨h2 e rfl, h1⟩, fun _ hy => by cases hy⟩
    | some z =>
      simp only [earlierSlot] at h2
      by_cases hlt : c.entered e < c.entered z
      · have := h2 e (if_pos hlt)
        exact ⟨List.forall_mem_cons.2 ⟨this, h1⟩, fun y hy => by rw [← Option.some.inj hy]; omega⟩
      · have := h2 z (if_neg hlt)
        exact ⟨List.forall_mem_cons.2 ⟨by omega, h1⟩, fun y hy => by rw [← Option.some.inj hy]; exact this⟩

theorem foldl_earlierSlot_isSome {c : Core} {l : List Nat} {b : Option Nat} (h : l ≠ [] ∨ b.isSome = true) :
    (l.foldl (earlierSlot c) b).isSome = true := by
  induction l generalizing b with
  | nil => exact h.resolve_left fun h => h rfl
  | cons e t ih =>
    refine ih (.inr ?_)
    unfold earlierSlot
    split
    · rfl
    · split <;> rfl

/-- A level-0 warp of the active set, as the rotation may take it. -/
def MayRotate (c : Core) (x : Nat) (w : Warp) : Prop := x ∈ c.active ∧ mfind c.warps x = some w ∧ w.level = 0

/-- The rotation finds the level-0 warp that entered earliest wherever there is one. -/
theorem earliest_spec {c : Core} (h : ∃ x w, MayRotate c x w) :
    ∃ out w, c.earliest = some out ∧ MayRotate c out w ∧ ∀ x v, MayRotate c x v → w.enter ≤ v.enter := by
  have he : c.earliest = (c.active.filter (fun x => match mfind c.warps x with
      | none => false
      | some w => w.level = 0)).foldl (earlierSlot c) none := rfl
  have hmem : ∀ x v, MayRotate c x v → x ∈ c.active.filter (fun x => match mfind c.warps x with
      | none => false
      | some w => w.level = 0) := by
    rintro x v ⟨hx, hv, hl⟩
    refine List.mem_filter.2 ⟨hx, ?_⟩
    simp only [hv, hl, decide_true]
  obtain ⟨x, w, hxw⟩ := h
  obtain ⟨out, ho⟩ := Option.isSome_iff_exists.1 (foldl_earlierSlot_isSome (c := c) (b := none)
    (.inl (List.ne_nil_of_mem (hmem x w hxw))))
  obtain ⟨hin, v, hv, hl⟩ := mem_of_earliest (he.trans ho)
  refine ⟨out, v, he.trans ho, ⟨hin, hv, hl⟩, fun y u hu => ?_⟩
  have := (foldl_earlierSlot_le ho).1 y (hmem y u hu)
  unfold Core.entered at this
  rwa [hv, hu.2.1] at this

theorem exec_activeSetRotate {s : State} {core out : Nat} (hr : (s.core core).ready ≠ []) (ho : (s.core core).earliest = some out) :
    exec (.activeSetRotate core) s = .next (giveWay s core out) := by
  show execActiveSetRotate core s = _
  unfold execActiveSetRotate
  simp only
  rw [if_neg (by simpa using hr), ho]
  rfl

end Sys2Proof.Machine
end

section
/-! What ends the waits of warps, and the schedule of warps as a whole (O41). -/

namespace Sys2Proof.Machine

/-! ### Sleeps and the services of Tchidal (03 R74, 10 R238, 21 R422, R435) -/

/-- A warp goes on: it has a new state and is ready. -/
def wakes (s : State) (r : WRef) (w : Warp) : State := joinReady (s.setWarp r w) r

theorem warp?_wakes (s : State) (r : WRef) (w : Warp) : (wakes s r w).warp? r = some w :=
  ((sameWork_joinReady ..).warp r).trans (warp?_setWarp ..)

section
variable {s : State} {core slot : Nat} {w : Warp} (hw : s.warp? { core := core, slot := slot } = some w)
include hw

theorem exec_sleepExpiry {u : Nat} {p : VAddr} (hs : w.wait = some (.sleep u p)) (hu : u ≤ s.ctl.clock) :
    exec (.sleepExpiry core slot) s = .next (wakes s { core := core, slot := slot } (retireWarp w p (w.issued.getD 0))) := by
  show execSleepExpiry core slot s = _
  simp only [execSleepExpiry, hw, hs, show ¬ s.ctl.clock < u by omega, if_false]
  rfl

section
variable {c n : Nat} {p : VAddr} (hs : w.wait = some (.service c n p))
include hs

theorem exec_service_past (hc : c = 26) (hn : n ≠ 1) : exec (.trapServiceRelease core slot .release) s =
    .next (wakes s { core := core, slot := slot } (retireWarp w p (w.issued.getD 0))) := by
  show execTrapServiceRelease core slot .release s = _
  simp only [execTrapServiceRelease, hw, hs]
  rw [if_neg (by simp [hn]), if_pos hc]
  rfl

theorem exec_service_again (hc : c ≠ 26) : exec (.trapServiceRelease core slot .release) s =
    .next (wakes s { core := core, slot := slot } { w with wait := none }) := by
  show execTrapServiceRelease core slot .release s = _
  simp only [execTrapServiceRelease, hw, hs]
  rw [if_neg (by simp [hc]), if_neg hc]
  rfl

theorem exec_service_end {v : Service} (hv : v = .fatal ∨ v = .release ∧ c = 26 ∧ n = 1) {b : Block} (hb : s.block? core w.blk = some b) :
    exec (.trapServiceRelease core slot v) s = .next (fatalFault
      (s.setWarp { core := core, slot := slot } { w with stopped := true, aborting := true, wait := none }) b.lid b.bid) := by
  show execTrapServiceRelease core slot v s = _
  obtain rfl | ⟨rfl, rfl, rfl⟩ := hv
  · simp only [execTrapServiceRelease, hw, hs, hb]
    rfl
  · simp only [execTrapServiceRelease, hw, hs, hb]
    rfl

end

/-- A warp that waits for a page, for a slot of a ring or for a save area. -/
def pageWaits (w : Warp) : Prop := (∃ a m, w.wait = some (.page a m)) ∨ (∃ n, w.wait = some (.ring n)) ∨ w.wait = some .area

theorem exec_page_release (hs : pageWaits w) : exec (.trapServiceRelease core slot .release) s =
    .next (wakes s { core := core, slot := slot } { w with wait := none }) := by
  show execTrapServiceRelease core slot .release s = _
  obtain ⟨a, m, hs⟩ | ⟨n, hs⟩ | hs := hs
  all_goals
    simp only [execTrapServiceRelease, hw, hs]
    rfl

theorem exec_page_fatal (hs : pageWaits w) : exec (.trapServiceRelease core slot .fatal) s =
    .next (unmapped s { core := core, slot := slot } w) := by
  show execTrapServiceRelease core slot .fatal s = _
  obtain ⟨a, m, hs⟩ | ⟨n, hs⟩ | hs := hs
  all_goals
    simp only [execTrapServiceRelease, hw, hs]
    rfl

end

theorem time_freeBytes (n : Nat) (s : State) : (freeBytes n s).1.ctl.time = s.ctl.time := by
  induction n generalizing s with
  | zero => rfl
  | succ n ih => exact (ih _).trans rfl

theorem time_writeFree (s : State) (agent ctx va n : Nat) (need : BitVec 4) (chain : Nat) :
    (writeFree s agent ctx va n need chain).ctl.time = s.ctl.time :=
  foldl_keeps (g := fun s : State => s.ctl.time)
    (fun _ _ => (congrArg Ctl.time (quiet_writeVirtE ..).ctl).trans (time_freeBytes ..)) _ s

/-- A launch with one more slot of a node's ring counted. -/
def slotCounted (l : Launch) (n tail time : Nat) (ok : Bool) : Launch :=
  { l with tails := mset l.tails n (tail + 1), pending := mput [] l.pending n (mget [] l.pending n ++ [(time, ok)]) }

theorem launch?_countSlot {s : State} {lid : Nat} {l : Launch} (ctx n : Nat) (d : NodeD) (ok : Bool) (hl : s.launch? lid = some l) :
    (countSlot s lid ctx l n d ok).launch? lid = some (slotCounted l n (mget 0 l.tails n) s.ctl.time ok) := by
  unfold countSlot
  simp only
  rw [(quiet_writeVirt ..).sameWork.launch?, launch?_updLaunch, if_pos rfl, hl]
  rfl

/-- A ring write that failed counts its slot, not well written (19 R365). -/
theorem launch?_emitFailed {s : State} {lid : Nat} {l : Launch} (ctx n : Nat) (d : NodeD) (hl : s.launch? lid = some l) :
    ∃ l1, (emitFailed s lid ctx l n d).launch? lid = some l1 ∧ mget 0 l1.tails n = mget 0 l.tails n + 1 ∧
      mget [] l1.pending n = mget [] l.pending n ++ [(s.ctl.time, false)] := by
  have hz := (sameWork_writeFree s agentCp ctx (ringSlot l n d) d.recsz needW 0).launch? lid
  refine ⟨_, launch?_countSlot ctx n d false (hz.trans hl), mget_mset_same .., ?_⟩
  unfold slotCounted
  rw [mget_mput, if_pos rfl, time_writeFree]

/-! ### The timeout of a handler (10 R249) -/

/-- A warp enters level 3 at SVEC with a cause. -/
theorem warp?_toLevel3 {s : State} {r : WRef} {w : Warp} {b : Block} (cause addr : Nat) (hw : s.warp? r = some w)
    (hb : s.block? r.core w.blk = some b) : ∃ n, (toLevel3 s r cause addr).warp? r =
      some { enterLevel3 w cause (BitVec.ofNat 64 addr) (s.ctxEnt b.ctx).svec with enter := n } := by
  unfold toLevel3
  rw [hw]
  simp only [hb]
  set w1 := enterLevel3 w cause (BitVec.ofNat 64 addr) (s.ctxEnt b.ctx).svec
  rw [State.warp?, core_updCore, if_pos rfl]
  exact mfind_promote _ (warp?_setWarp (unpark s r.core w.blk w.id) r w1)

theorem exec_handlerTimeout {s : State} {core slot : Nat} {w : Warp} {b : Block} (hw : s.warp? { core := core, slot := slot } = some w)
    (hb : s.block? core w.blk = some b) (hl : w.level = 1 ∨ w.level = 2) (hh : w.held = false)
    (ht : w.handlerSince + 65536 ≤ s.ctl.clock) : exec (.handlerTimeout core slot) s = .next
      (if b.phase = .aborting then toLevel3 s { core := core, slot := slot } 34 b.save
        else if b.phase = .stopping then s.setWarp { core := core, slot := slot } { w with held := true, wait := none } else s) := by
  show execHandlerTimeout core slot s = _
  simp only [execHandlerTimeout, hw, hb]
  rw [if_neg (by simp [hh]; omega)]

/-! ### The schedule -/

/-- Settles O41, event by event. -/
theorem warpSchedule : Obligations.WarpSchedule := by
  unfold Obligations.WarpSchedule
  intro able enters
  refine ⟨?_, ?_, ?_, ?_, ?_, ?_, ?_, ?_, ?_, ?_, ?_, ?_, ?_⟩
  · intro s core j v hj hl
    have hc := core_updCore s core core (slotWritten s.ctl.clock j v)
    rw [if_pos rfl] at hc
    refine ⟨_, exec_slottWrite v hj hl, ?_⟩
    rw [hc]
    exact ⟨rfl, fun i n hi hn => slotAt_slotWritten_new _ j v _ hi hn, fun h i => slotAt_slotWritten_now _ j v _ h i⟩
  · intro s core v hv hl
    exact ⟨_, exec_lscfgWrite hv hl, applySplit_splitChosen ..⟩
  · intro s core v hv
    show execLscfgWrite core v s = _
    rw [execLscfgWrite, writeLscfg, if_pos (by simp; omega)]
  · intro s core out hv ho hw q a
    have hq : (s.core core).ready ++ tailOf (s.core core) out = q := congrArg _ (tailOf_of_vacates hw)
    obtain ⟨h1, h2, h3⟩ := giveWay_spec ho
    rw [hq] at h1 h2 h3
    refine ⟨_, exec_warpSwap_out hv ho hw, h1, h2.trans ?_, fun h w hh hx => ?_⟩
    · cases q <;> rfl
    · obtain ⟨w1, hw1, _, hn⟩ := h3 h w hx
      exact ⟨w1, hw1, hn hh⟩
  · intro s core out ho hp
    cases hr : (s.core core).ready with
    | nil =>
      have he : admitWarp s core = s := by
        unfold admitWarp
        rw [hr]
      exact ⟨s, (exec_warpSwap_fill ho hp).trans (congrArg _ he), hr, rfl, fun h w hh => by cases hh⟩
    | cons h rest =>
      obtain ⟨h1, h2, h3⟩ := admitWarp_spec hr
      refine ⟨_, exec_warpSwap_fill ho hp, h1, h2, fun x w hh hx => ?_⟩
      obtain ⟨w1, hw1, _, hn⟩ := h3 x w hx
      exact ⟨w1, hw1, hn (Option.some.inj hh).symm⟩
  · intro s core h rest hr may hm
    obtain ⟨out, w, ho, hmay, hmin⟩ := earliest_spec hm
    obtain ⟨hin, hw, hl⟩ := id hmay
    obtain ⟨h1, h2, h3⟩ := giveWay_spec hin
    have ht : tailOf (s.core core) out = if (w.wait = none ∨ w.wait = some .yielded) ∧ able w = true then [out] else [] := by
      unfold tailOf
      rw [hw]
      simp only [Option.any_some, Bool.and_eq_true, Bool.or_eq_true, Option.isNone_iff_eq_none, beq_iff_eq]
      rfl
    rw [hr] at h1 h2 h3
    rw [hr]
    refine ⟨out, w, _, hmay, hmin, exec_activeSetRotate (by rw [hr]; exact List.cons_ne_nil h rest) ho, h2, h1.trans ?_, fun hy => ?_,
      fun x v hh hx => ?_⟩
    · rw [← ht]
      rfl
    · obtain ⟨w1, hw1, hn, _⟩ := h3 out w hw
      exact ⟨w1, hw1, hn rfl hy⟩
    · obtain ⟨w1, hw1, _, hn⟩ := h3 x v hx
      exact ⟨w1, hw1, hn hh⟩
  · intro s core slot w u p hw hs hu
    exact ⟨_, exec_sleepExpiry hw hs hu, warp?_wakes ..⟩
  · intro s core slot w c n p hw hs r ends
    exact ⟨fun hc hn => ⟨_, exec_service_past hw hs hc hn, warp?_wakes ..⟩,
      fun hc => ⟨_, exec_service_again hw hs hc, warp?_wakes ..⟩,
      fun b hb => exec_service_end hw hs (.inl rfl) hb, fun hc hn b hb => exec_service_end hw hs (.inr ⟨rfl, hc, hn⟩) hb⟩
  · intro s core slot w a m n hw hs
    refine ⟨_, exec_page_release hw ?_, warp?_wakes ..⟩
    obtain hs | hs | hs := hs
    · exact .inl ⟨a, m, hs⟩
    · exact .inr (.inl ⟨n, hs⟩)
    · exact .inr (.inr hs)
  · intro s core slot w a m hw hs
    rw [exec_page_fatal hw (.inl ⟨a, m, hs⟩)]
    simp only [unmapped, hs]
  · intro s core slot w b l n d hw hb hs hl hd
    have hy := launch?_emitFailed b.ctx n d hl
    refine ⟨emitFailed s b.lid b.ctx l n d, ?_, hy⟩
    rw [exec_page_fatal hw (.inr (.inl ⟨n, hs⟩))]
    simp only [unmapped, hs, hb, hl, hd]
    rfl
  · intro s core slot w hw hs
    rw [exec_page_fatal hw (.inr (.inr hs))]
    simp only [unmapped, hs]
  · intro s core slot w b hw hb hl hh ht
    have he := exec_handlerTimeout hw hb hl hh ht
    refine ⟨fun hp => ?_, fun hp => ?_⟩
    · rw [he, if_neg (by simp [hp]), if_pos hp]
    · obtain ⟨n, hn⟩ := warp?_toLevel3 34 b.save hw hb
      rw [if_pos hp] at he
      exact ⟨_, _, he, hn, rfl, rfl, rfl, rfl⟩

end Sys2Proof.Machine
end

section
/-! Packing and unpacking (O8): an encoding is its three fields, and a significand that already stands at its exponent is packed as it is. -/

namespace Sys2Proof.Machine

/-! ### The fields of an encoding (04 R80) -/

/-- Whether the sign bit is 1. -/
def FpFmt.signOf (f : FpFmt) (x : Nat) : Bool := decide ((x / 2 ^ (f.eb + f.fb)) % 2 = 1)
/-- The exponent field. -/
def FpFmt.expOf (f : FpFmt) (x : Nat) : Nat := (x / 2 ^ f.fb) % 2 ^ f.eb
/-- The fraction field. -/
def FpFmt.fracOf (f : FpFmt) (x : Nat) : Nat := x % 2 ^ f.fb

theorem fracOf_lt (f : FpFmt) (x : Nat) : f.fracOf x < 2 ^ f.fb := Nat.mod_lt _ (Nat.two_pow_pos _)

theorem expOf_lt (f : FpFmt) (x : Nat) : f.expOf x < 2 ^ f.eb := Nat.mod_lt _ (Nat.two_pow_pos _)

theorem mod_eq_fields (f : FpFmt) (x : Nat) : x % 2 ^ (f.eb + f.fb) = f.expOf x * 2 ^ f.fb + f.fracOf x := by
  rw [Nat.add_comm f.eb, pow_add, Nat.mod_mul, Nat.add_comm, Nat.mul_comm]
  rfl

theorem signBit_signOf {f : FpFmt} {x : Nat} (hx : x < 2 ^ f.width) :
    signBit f (f.signOf x) = 2 ^ (f.eb + f.fb) * (x / 2 ^ (f.eb + f.fb)) := by
  have hs : x / 2 ^ (f.eb + f.fb) < 2 := by
    apply Nat.div_lt_of_lt_mul
    rwa [FpFmt.width, Nat.add_assoc, Nat.add_comm 1, pow_succ] at hx
  unfold signBit FpFmt.signOf
  obtain h | h := Nat.le_one_iff_eq_zero_or_eq_one.1 (Nat.le_of_lt_succ hs)
  · simp [h]
  · simp [h]

theorem signBit_add_fields {f : FpFmt} {x : Nat} (hx : x < 2 ^ f.width) :
    signBit f (f.signOf x) + (f.expOf x * 2 ^ f.fb + f.fracOf x) = x := by
  rw [signBit_signOf hx, ← mod_eq_fields, Nat.div_add_mod]

/-- Below the all-ones exponent the encoding lies below that of infinity. -/
theorem fields_lt_infBits {f : FpFmt} {x : Nat} (h : f.expOf x ≠ 2 ^ f.eb - 1) : f.expOf x * 2 ^ f.fb + f.fracOf x < f.infBits := by
  have he : f.expOf x + 1 ≤ 2 ^ f.eb - 1 := by have := expOf_lt f x; omega
  calc f.expOf x * 2 ^ f.fb + f.fracOf x < f.expOf x * 2 ^ f.fb + 2 ^ f.fb := Nat.add_lt_add_left (fracOf_lt f x) _
    _ = (f.expOf x + 1) * 2 ^ f.fb := (Nat.succ_mul ..).symm
    _ ≤ f.infBits := Nat.mul_le_mul_right _ he

/-! ### The value of an encoding, by its exponent field -/

theorem unpackFp_special {f : FpFmt} {x : Nat} (ftz : Bool) (h : f.expOf x = 2 ^ f.eb - 1) :
    unpackFp f ftz x = if f.fracOf x = 0 then .inf (f.signOf x) else .nan := if_pos h

theorem unpackFp_subnormal {f : FpFmt} {x : Nat} (hi : f.expOf x ≠ 2 ^ f.eb - 1) (h : f.expOf x = 0) :
    unpackFp f false x = .fin (f.signOf x) (f.fracOf x) f.emin := (if_neg hi).trans (if_pos h)

theorem unpackFp_normal {f : FpFmt} {x : Nat} (ftz : Bool) (hi : f.expOf x ≠ 2 ^ f.eb - 1) (h : f.expOf x ≠ 0) :
    unpackFp f ftz x = .fin (f.signOf x) (2 ^ f.fb + f.fracOf x) (f.emin + (f.expOf x - 1 : Nat)) := (if_neg hi).trans (if_neg h)

/-! ### Packing without rounding -/

/-- The last place of a significand that is normalised, or stands at the least exponent, is the one it has. -/
theorem lastPlace_eq {f : FpFmt} {m k : Nat} (hm0 : m ≠ 0) (hm : m < 2 ^ (f.fb + 1)) (hk : k = 0 ∨ 2 ^ f.fb ≤ m) :
    max (f.emin + k + Nat.log2 m - f.fb) f.emin = f.emin + k := by
  have hlog : Nat.log2 m < f.fb + 1 := (Nat.log2_lt hm0).2 hm
  obtain rfl | hn := hk
  · omega
  · have : f.fb ≤ Nat.log2 m := (Nat.le_log2 hm0).2 hn
    omega

/-- A magnitude that the format holds is packed as it stands, in every rounding mode (04 R83). -/
theorem packFp_exact {f : FpFmt} {m k : Nat} (rm : Rnd) (neg : Bool) (hm : m < 2 ^ (f.fb + 1)) (hk : k = 0 ∨ 2 ^ f.fb ≤ m)
    (hfin : k * 2 ^ f.fb + m < f.infBits) : packFp f rm false neg m (f.emin + k) false = signBit f neg + (k * 2 ^ f.fb + m) := by
  by_cases hm0 : m = 0
  · have hk0 : k = 0 := hk.resolve_right (by have := Nat.two_pow_pos f.fb; omega)
    simp [packFp, hm0, hk0]
  · have hround : roundInt rm neg m 0 false = m := by simp [roundInt]
    unfold packFp
    rw [if_neg (by simp [hm0])]
    simp [lastPlace_eq hm0 hm hk, hround, Nat.not_le.2 hfin]

/-- 04 R85, R86: packing what was unpacked gives the canonical NaN for a NaN and the encoding itself for everything else. -/
theorem packVal_unpackFp {f : FpFmt} {x : Nat} (rm : Rnd) (hx : x < 2 ^ f.width) :
    packVal f rm false (unpackFp f false x) = if unpackFp f false x = .nan then f.nanBits else x := by
  have hfields := signBit_add_fields hx
  have hfrac := fracOf_lt f x
  by_cases hi : f.expOf x = 2 ^ f.eb - 1
  · rw [unpackFp_special false hi]
    by_cases h0 : f.fracOf x = 0
    · rw [hi, h0] at hfields
      simpa [h0, packVal, FpFmt.infBits] using hfields
    · simp [h0, packVal]
  have hfin := fields_lt_infBits hi
  by_cases h0 : f.expOf x = 0
  · rw [unpackFp_subnormal hi h0, if_neg nofun]
    rw [h0, Nat.zero_mul, Nat.zero_add] at hfields hfin
    have hpack := packFp_exact (k := 0) rm (f.signOf x) (hfrac.trans (Nat.pow_lt_pow_succ one_lt_two)) (.inl rfl) (by simpa using hfin)
    simpa [packVal, hfields] using hpack
  · rw [unpackFp_normal false hi h0, if_neg nofun]
    have henc : (f.expOf x - 1) * 2 ^ f.fb + (2 ^ f.fb + f.fracOf x) = f.expOf x * 2 ^ f.fb + f.fracOf x := by
      rw [← Nat.add_assoc, ← Nat.succ_mul, Nat.succ_eq_add_one, Nat.sub_add_cancel (Nat.pos_of_ne_zero h0)]
    rw [packVal, packFp_exact rm _ (by rw [pow_succ]; omega) (.inr (Nat.le_add_right ..)) (henc ▸ hfin), henc, hfields]

/-- Settles O8: it holds of every format and mode (`packVal_unpackFp`). -/
theorem roundingKeepsRepresentable : Obligations.RoundingKeepsRepresentable := fun _ m _ _ hx => packVal_unpackFp m hx

end Sys2Proof.Machine
end

section
/-! Residency handles and the residency table (O42). -/

namespace Sys2Proof.Machine

/-! ### Entries read back -/

theorem issue_afterDone {i : Instr} {s t : State} {e : Env} {body : Env → State → Res} (h : ready i s = some e)
    (hb : body e s = .done t) : issue i s body = afterDone t e := by
  obtain ⟨raw, -, hi⟩ := issue_ready (body := body) h
  rw [hi, hb]
  rfl

theorem warp?_afterDone {t : State} {e : Env} {w : Warp} (hw : t.warp? e.r = some w) :
    (afterDone t e).warp? e.r = some (retireWarp w e.next t.ctl.clock) := warp?_updWarp_same _ hw

/-- A change of a warp leaves its core's residencies alone. -/
theorem core_updWarp_resid (s : State) (r : WRef) (f : Warp → Warp) (l : Nat) :
    ((s.updWarp r f).core l).rt = (s.core l).rt ∧ ((s.updWarp r f).core l).resl = (s.core l).resl := by
  unfold State.updWarp
  split
  · exact ⟨rfl, rfl⟩
  · rw [State.setWarp, core_updCore]
    split
    next h => exact h ▸ ⟨rfl, rfl⟩
    next => exact ⟨rfl, rfl⟩

theorem rtEnt_updWarp (s : State) (r : WRef) (f : Warp → Warp) (l i : Nat) :
    ((s.updWarp r f).core l).rtEnt i = (s.core l).rtEnt i := by
  rw [Core.rtEnt, (core_updWarp_resid s r f l).1, Core.rtEnt]

theorem warp?_setRt (s : State) (core i : Nat) (en : RtEnt) (r : WRef) : (s.setRt core i en).warp? r = s.warp? r :=
  warp?_updCore _ _ _ _ rfl

/-- A valid handle reaches the entry of its index (05 R118). -/
theorem rtValid_some {c : Core} {ctx h i : Nat} {en : RtEnt} (hv : rtValid c ctx h = some (i, en)) :
    i = h % 64 ∧ en = c.rtEnt (h % 64) := by
  obtain ⟨-, heq⟩ := Option.ite_none_right_eq_some.1 hv
  cases heq
  exact ⟨rfl, rfl⟩

theorem rtValid_of_dead {c : Core} {h : Nat} (ctx : Nat) (hd : rtLive (c.rtEnt (h % 64)) = false) : rtValid c ctx h = none :=
  if_neg (by simp [hd])

/-- The handle of a live entry is valid for its tenant. -/
theorem rtValid_rtHandle {c : Core} {ctx i : Nat} {en : RtEnt} (hi : i < 64) (he : c.rtEnt i = en) (hl : rtLive en = true)
    (ht : en.tenant.toNat = ctx) : rtValid c ctx (rtHandle i en) = some (rtHandle i en % 64, en) := by
  have hm : rtHandle i en % 64 = i := by unfold rtHandle; omega
  have hd : rtHandle i en / 64 = en.gen.toNat := by unfold rtHandle; omega
  unfold rtValid
  rw [hm, he, hd]
  exact if_pos (by simp [hl, ht])

/-! ### The handle operand (21 R411) -/

theorem withHandle_of_valid {s : State} {e : Env} {r : Reg} {i : Nat} {en : RtEnt} (f : Nat → RtEnt → Res)
    (hr : (rdReg e.w false 0 r).toNat < 65536)
    (hv : rtValid (s.core e.r.core) e.b.ctx (rdReg e.w false 0 r).toNat = some (i, en)) : withHandle s e r f = f i en := by
  unfold withHandle
  simp only [ge_iff_le, if_neg (Nat.not_le.2 hr), hv]

theorem withHandle_of_invalid {s : State} {e : Env} {r : Reg} (f : Nat → RtEnt → Res)
    (hr : (rdReg e.w false 0 r).toNat < 65536)
    (hv : rtValid (s.core e.r.core) e.b.ctx (rdReg e.w false 0 r).toNat = none) :
    withHandle s e r f = .trap s { cause := 21, mask := e.w.exec, addr := BitVec.ofNat 64 (rdReg e.w false 0 r).toNat } := by
  unfold withHandle
  simp only [ge_iff_le, if_neg (Nat.not_le.2 hr), hv]

/-- What `RESPIN` does with the entry of its handle. -/
def respinRes (e : Env) (s : State) (i : Nat) (en : RtEnt) : Res :=
  let s1 := s.setRt e.r.core i { en with pin := true, state := if en.state.toNat = 2 then 3#3 else en.state }
  if en.state.toNat != 4 then .done s1
  else if sourceBusy s e.b.ctx en.src.toNat en.length.toNat then .wait s .other
  else relThen s1 e .dv (fun s =>
    if ((s.core e.r.core).rtEnt i).state != 4#3 then .done s
    else .done ((startRefill s e.r.core i { idx := i, ctx := e.b.ctx, num := none, sup := decide (e.w.level ≥ 2) }).getD s))

/-- What `RESUNPIN` does with the entry of its handle. -/
def resunpinRes (e : Env) (s : State) (i : Nat) (en : RtEnt) : Res :=
  .done (s.setRt e.r.core i { en with pin := false, state := if en.state = 3#3 then 2#3 else en.state })

/-- The entry is revoked and its load stops. -/
def revoked (s : State) (core i : Nat) (en : RtEnt) : State :=
  (s.setRt core i { en with state := 6#3 }).updCore core (fun c =>
    { c with resl := c.resl.map (fun r => if r.idx = i then { r with stopping := true } else r) })

/-- What `RESFREE` does with the entry of its handle. -/
def resfreeRes (e : Env) (s : State) (i : Nat) (en : RtEnt) : Res := .done (rtRelease (revoked s e.r.core i en) e.r.core i)

/-- The load that an instruction of a warp begins. -/
def warpLoad (e : Env) (i n : Nat) : ResLoad :=
  { idx := i, ctx := e.b.ctx, num := some n, owner := some (e.b.lid, e.b.bid.toNat), sup := decide (e.w.level ≥ 2) }

/-- What `RESREF` does with an entry that has lost its quads or gone stale: `s` is the state after the release. -/
def resrefRefill (d : Reg) (e : Env) (tl i : Nat) (s : State) : Res :=
  let n := issueNum s e.b.ctx tl
  match startRefill n.2 e.r.core i (warpLoad e i n.1) with
  | none => resRefused s e d 3
  | some s1 => .done (giveNum s1 e d tl n.1)

/-- What `RESREF` does with the entry of its handle once the release is done: `s` is the state after it, `tl` the die's timeline. -/
def resrefReleased (d : Reg) (e : Env) (tl i : Nat) (en : RtEnt) (s : State) : Res :=
  let st := ((s.core e.r.core).rtEnt i).state.toNat
  let n := issueNum s e.b.ctx tl
  if st = 5 && (s.core e.r.core).resl.any (fun r => r.idx = i) then .wait s .other
  else if (st = 4 || st = 5) && sourceBusy s e.b.ctx en.src.toNat en.length.toNat then .wait s .other
  else if st = 1 then
    .done (giveNum (n.2.updCore e.r.core (fun c => { c with resl := c.resl.map (fun r =>
      if r.idx = i then { r with also := r.also ++ [n.1] } else r) })) e d tl n.1)
  else if st = 4 || st = 5 then resrefRefill d e tl i s
  else .done (giveNum (completeNum n.2 e.b.ctx tl n.1) e d tl n.1)

/-- What `RESREF` does with the entry of its handle. -/
def resrefRes (d : Reg) (e : Env) (s : State) (i : Nat) (en : RtEnt) : Res :=
  if en.state = 5#3 && !en.srcv then resRefused s e d 7
  else relThen s e .dv (resrefReleased d e (4096 + s.siteOf e.r.core) i en)

/-- The format that a `RESLOAD` names (05 Table 5-7). -/
def loadFmt (x : FResload) : Nat :=
  match x.ty with
  | .bfp8 => 0
  | .bfp6 => 1
  | .bfp4 => 2

/-- The entry of a load that begins: its source, its format and its quads. -/
def loadEnt (en : RtEnt) (src len f : Nat) (m : W32) : RtEnt :=
  { en with src := BitVec.ofNat 54 src, length := BitVec.ofNat 32 len, lfmt := BitVec.ofNat 2 f,
            srcv := true, qmask := m, failed := if en.state = 5#3 then false else en.failed }

/-- What `RESLOAD` does once the release is done. -/
def resloadReleased (d : Reg) (src len f : Nat) (e : Env) (i : Nat) (s : State) : Res :=
  let tl := 4096 + s.siteOf e.r.core
  match entryQuads s e.r.core ((s.core e.r.core).rtEnt i) with
  | none => resRefused s e d 3
  | some (s1, m) =>
    let n := issueNum s1 e.b.ctx tl
    let s2 := n.2.setRt e.r.core i (loadEnt ((s.core e.r.core).rtEnt i) src len f m)
    .done (giveNum (startLoad s2 e.r.core i (warpLoad e i n.1)) e d tl n.1)

/-- What `RESLOAD` does with the entry of its handle. -/
def resloadRes (x : FResload) (e : Env) (s : State) (i : Nat) (en : RtEnt) : Res :=
  let src := (rdReg e.w false 0 x.b).toNat
  let len := (rdReg e.w false 0 x.c).toNat
  let t := fun (c : Nat) => Res.trap s { cause := c, mask := e.w.exec, addr := BitVec.ofNat 64 src }
  if src % 64 != 0 then t 8
  else if src ≥ 2 ^ 54 then t 9
  else if len != en.nquad.toNat * imageLen (loadFmt x) then resRefused s e x.d 5
  else if en.state = 1#3 then resRefused s e x.d 6
  else if (s.core e.r.core).resl.any (fun r => r.idx = i) || sourceBusy s e.b.ctx src len then .wait s .other
  else relThen s e .dv (resloadReleased x.d src len (loadFmt x) e i)

/-- An instruction with a residency handle in `a` does `f` with the entry of that handle. -/
def HandleOp (i : Instr) (a : Reg) (f : Env → State → Nat → RtEnt → Res) : Prop :=
  ∀ s, exec i s = .next (issue i s fun e s => withHandle s e a (f e s))

theorem handleOp_respin (x : FA) : HandleOp (.respin x) x.a respinRes := fun _ => rfl
theorem handleOp_resunpin (x : FA) : HandleOp (.resunpin x) x.a resunpinRes := fun _ => rfl
theorem handleOp_resfree (x : FA) : HandleOp (.resfree x) x.a resfreeRes := fun _ => rfl
theorem handleOp_resref (x : FDA) : HandleOp (.resref x) x.a (resrefRes x.d) := fun _ => rfl
theorem handleOp_resload (x : FResload) : HandleOp (.resload x) x.a (resloadRes x) := fun _ => rfl

section
variable {i : Instr} {a : Reg} {f : Env → State → Nat → RtEnt → Res} {s : State} {e : Env} (hi : HandleOp i a f)
  (h : ready i s = some e) (hr : (rdReg e.w false 0 a).toNat < 65536)
include hi h hr

theorem HandleOp.exec_of_invalid (hs : e.w.skid = none)
    (hv : rtValid (s.core e.r.core) e.b.ctx (rdReg e.w false 0 a).toNat = none) : exec i s = .next (takeTrap s e.r
      { cause := 21, mask := e.w.exec, addr := BitVec.ofNat 64 (rdReg e.w false 0 a).toNat }) :=
  (hi s).trans (congrArg _ (issue_trap h hs (withHandle_of_invalid _ hr hv) (.inr (by decide : 8 ≤ 21))))

variable {k : Nat} {en : RtEnt} (hv : rtValid (s.core e.r.core) e.b.ctx (rdReg e.w false 0 a).toNat = some (k, en))
include hv

theorem HandleOp.exec_done {t : State} (hf : f e s k en = .done t) : exec i s = .next (afterDone t e) :=
  (hi s).trans (congrArg _ (issue_afterDone h ((withHandle_of_valid _ hr hv).trans hf)))

theorem HandleOp.exec_trap {q : TrapReq} (hs : e.w.skid = none) (hf : f e s k en = .trap s q) (hq : 8 ≤ q.cause) :
    exec i s = .next (takeTrap s e.r q) :=
  (hi s).trans (congrArg _ (issue_trap h hs ((withHandle_of_valid _ hr hv).trans hf) (.inr hq)))

end

/-! ### `RESPIN` (05 Table 5-8, 21 R415) -/

theorem respinRes_of_present {e : Env} {s : State} {i : Nat} {en : RtEnt} (h4 : en.state ≠ 4#3) : respinRes e s i en =
    .done (s.setRt e.r.core i { en with pin := true, state := if en.state = 2#3 then 3#3 else en.state }) := by
  have h : (en.state.toNat != 4) = true := by simpa [BitVec.toNat_eq] using h4
  simp only [respinRes, h, if_true, BitVec.toNat_eq]
  rfl

theorem respinRes_of_evicted {e : Env} {s : State} {i : Nat} {en : RtEnt} (h4 : en.state = 4#3)
    (hb : sourceBusy s e.b.ctx en.src.toNat en.length.toNat = false) :
    let y := s.setRt e.r.core i { en with pin := true, state := if en.state = 2#3 then 3#3 else en.state }
    fenceWait y e.r e.w e.b.ctx relKind .dv = none →
    let z := release y e.r.core .dv
    respinRes e s i en = .done (if ((z.core e.r.core).rtEnt i).state = 4#3 then
      (startRefill z e.r.core i { idx := i, ctx := e.b.ctx, num := none, sup := decide (e.w.level ≥ 2) }).getD z else z) := by
  intro y hf z
  have hy : s.setRt e.r.core i { en with pin := true, state := if en.state.toNat = 2 then 3#3 else en.state } = y := by
    simp only [y, h4]
    rfl
  unfold respinRes
  simp only [hy]
  rw [if_neg (by simp [h4]), hb, if_neg (by decide), relThen_of_ready _ hf]
  simp only [bne_iff_ne, ne_eq, ite_not]
  split
  · rfl
  · rfl

/-! ### `RESFREE` (05 R124) -/

theorem rtRelease_keeps (s : State) (core i : Nat) :
    (rtRelease s core i).ctl = s.ctl ∧ ∀ r, (rtRelease s core i).warp? r = s.warp? r := by
  unfold rtRelease
  simp only
  split
  · exact ⟨rfl, fun _ => rfl⟩
  · exact ⟨rfl, fun r => (warp?_updCore _ _ _ _ rfl).trans (warp?_setRt ..)⟩

/-- A revoked entry stays out of reach, free or not. -/
theorem rtLive_rtRelease {s : State} {core i : Nat} (h6 : ((s.core core).rtEnt i).state = 6#3) :
    rtLive (((rtRelease s core i).core core).rtEnt i) = false := by
  unfold rtRelease
  simp only
  split
  · simp [rtLive, h6]
  · rw [core_updCore, if_pos rfl]
    have hr := rtEnt_setRt s core i { gen := ((s.core core).rtEnt i).gen + 1#10 }
    rw [Core.rtEnt] at hr ⊢
    rw [hr]
    rfl

theorem state_revoked (s : State) (core i : Nat) (en : RtEnt) : (((revoked s core i en).core core).rtEnt i).state = 6#3 := by
  have hr := rtEnt_setRt s core i { en with state := 6#3 }
  rw [revoked, core_updCore, if_pos rfl]
  rw [Core.rtEnt] at hr ⊢
  rw [hr]

theorem exec_resfree {x : FA} {s : State} {e : Env} {i : Nat} {en : RtEnt} (h : ready (.resfree x) s = some e)
    (hr : (rdReg e.w false 0 x.a).toNat < 65536)
    (hv : rtValid (s.core e.r.core) e.b.ctx (rdReg e.w false 0 x.a).toNat = some (i, en)) : ∃ t, exec (.resfree x) s = .next t ∧
    t.warp? e.r = some (retireWarp e.w e.next s.ctl.clock) ∧
    rtValid (t.core e.r.core) e.b.ctx (rdReg e.w false 0 x.a).toNat = none := by
  obtain ⟨-, hw, -⟩ := ready_warp h
  obtain ⟨hctl, hwarp⟩ := rtRelease_keeps (revoked s e.r.core i en) e.r.core i
  refine ⟨_, (handleOp_resfree x).exec_done h hr hv rfl, ?_, rtValid_of_dead _ ?_⟩
  · have hw1 : (revoked s e.r.core i en).warp? e.r = some e.w :=
      ((warp?_updCore _ _ _ _ rfl).trans (warp?_setRt ..)).trans hw
    rw [warp?_afterDone ((hwarp e.r).trans hw1), hctl]
    rfl
  · obtain ⟨rfl, -⟩ := rtValid_some hv
    rw [afterDone, rtEnt_updWarp]
    exact rtLive_rtRelease (state_revoked ..)

/-! ### `RESQ` (21 Table 21-3) -/

/-- What `RESQ` answers for a name. -/
def resqWord (c : Core) (ctx : Nat) (name : W64) : W64 :=
  match rtByName c ctx name with
  | none => BitVec.ofNat 64 (8 * 2 ^ 32)
  | some (i, en) =>
    BitVec.ofNat 64 (en.nquad.toNat * 2 ^ 20 + en.pin.toNat * 2 ^ 19 + en.state.toNat * 2 ^ 16 + rtHandle i en)

/-- A scalar destination takes its value and nothing else of the warp changes. -/
theorem scalarResult_wrReg {w : Warp} {n : Nat} {d : Reg} (v : W64) (hd : useOk w n (uS d) = true) :
    ScalarResult w d v (wrReg w false 0 d v) := by
  have hreg : ∃ n, d = .s n := uVk_reg (c := .scl) (b := false) hd
  obtain ⟨k, rfl⟩ := hreg
  exact ⟨rfl, fun m => Warp.getS_putS _ _ _ _⟩

theorem exec_resq {x : FDA} {s : State} {e : Env} (h : ready (.resq x) s = some e) : exec (.resq x) s =
    .next (retired s e (wrReg e.w false 0 x.d (resqWord (s.core e.r.core) e.b.ctx (rdReg e.w false 0 x.a)))) := by
  obtain ⟨-, hw, -⟩ := ready_warp h
  refine congrArg _ ((issue_afterDone h rfl).trans ?_)
  rw [afterDone, updWarp_of _ _ _ _ hw, updWarp_setWarp]
  simp only [resqWord, retired, retiredAt, State.setWarp_ctl]
  cases rtByName (s.core e.r.core) e.b.ctx (rdReg e.w false 0 x.a) with
  | none => rfl
  | some p => rfl

/-! ### The quads of an allocation (05 R123) -/

theorem quiet_setRt (s : State) (core i : Nat) (en : RtEnt) : Quiet s (s.setRt core i en) := quiet_updCore _ _ _ rfl rfl

theorem sameCore_setRt (s : State) (core i : Nat) (en : RtEnt) : SameCore (s.core core) ((s.setRt core i en).core core) := by
  rw [State.setRt, core_updCore, if_pos rfl]
  rfl

/-- Evictions change residency entries alone, and leave the quads free that they were made for. -/
theorem evictFor_spec {core ctx n k : Nat} {s t : State} (ht : evictFor core ctx n k s = some t) :
    Quiet s t ∧ SameCore (s.core core) (t.core core) ∧ n ≤ (freeQuads t core).length := by
  induction k generalizing s with
  | zero =>
    obtain ⟨hn, heq⟩ := Option.ite_none_right_eq_some.1 ht
    cases heq
    exact ⟨.refl _, rfl, hn⟩
  | succ k ih =>
    unfold evictFor at ht
    split at ht
    next hn =>
      cases ht
      exact ⟨.refl _, rfl, hn⟩
    next =>
      split at ht
      · cases ht
      · obtain ⟨hq, hc, hn⟩ := ih ht
        exact ⟨(quiet_setRt ..).trans hq, (sameCore_setRt ..).trans hc, hn⟩

theorem quadsOf_le (s : State) (core : Nat) : quadsOf s core ≤ 32 := by
  unfold quadsOf
  split <;> omega

theorem lt_of_mem_freeQuads {s : State} {core q : Nat} (h : q ∈ freeQuads s core) : q < 32 :=
  (List.mem_range.1 (List.mem_filter.1 h).1).trans_le (quadsOf_le s core)

theorem length_quadList_quadMask {l : List Nat} (hn : l.Nodup) (hl : ∀ q ∈ l, q < 32) : (quadList (quadMask l)).length = l.length := by
  refine ((List.perm_ext_iff_of_nodup (lanesOf_nodup (maskOf l)) hn).2 fun q => ?_).length_eq
  rw [mem_lanesOf]
  exact ⟨fun ⟨hq, hb⟩ => (maskOf_bit l q hq).1 hb, fun hq => ⟨hl q hq, (maskOf_bit l q (hl q hq)).2 hq⟩⟩

/-- The quads that a tenant takes are as many as it asked for. -/
theorem takeQuads_spec {s t : State} {core ctx n : Nat} {m : W32} (ht : takeQuads s core ctx n = some (t, m)) :
    Quiet s t ∧ SameCore (s.core core) (t.core core) ∧ (quadList m).length = n := by
  obtain ⟨u, hu, heq⟩ := Option.map_eq_some_iff.1 ht
  cases heq
  obtain ⟨hq, hc, hn⟩ := evictFor_spec hu
  have hnd : (freeQuads t core).Nodup := List.nodup_range.filter _
  refine ⟨hq, hc, ?_⟩
  rw [length_quadList_quadMask (hnd.sublist (List.take_sublist ..)) fun q h => lt_of_mem_freeQuads (List.mem_of_mem_take h),
    List.length_take_of_le hn]

/-- The cells of cleared quads read 0. -/
theorem cells_clearQuads (s : State) (core : Nat) {m : W32} {a : Nat} (ha : m.getLsbD (a / 32768) = true) :
    mget 0#8 ((clearQuads s core m).core core).cells a = 0#8 := by
  rw [clearQuads, core_updCore, if_pos rfl]
  refine mget_of_not_mem _ fun hmem => ?_
  obtain ⟨c, hc, rfl⟩ := List.mem_map.1 hmem
  simpa [ha] using (List.mem_filter.1 hc).2

/-! ### `RESALLOC` (05 R123, 21 R412) -/

/-- The entry that an allocation sets up. -/
def allocEnt (s : State) (core ctx i : Nat) (name : W64) (q : Nat) (m : W32) : RtEnt :=
  { name := name, gen := ((s.core core).rtEnt i).gen, state := 2#3, tenant := BitVec.ofNat 6 ctx,
    nquad := BitVec.ofNat 6 q, qmask := m, lastuse := BitVec.ofNat 32 (rtNow s) }

/-- The state of an allocation that has its quads `m` in `s1`. -/
def allocated (s1 : State) (core ctx i q : Nat) (en : RtEnt) : State :=
  ((clearQuads s1 core en.qmask).setRt core i en).updCore core (fun c =>
    { c with quota := mupd {} c.quota ctx (fun x => { x with used := x.used + 4 * q }) })

theorem resAlloc_eq (s : State) (core ctx : Nat) (name : W64) (q : Nat) : resAlloc s core ctx name q =
    if name = 0#64 then (s, 0, 5)
    else match rtByName (s.core core) ctx name with
      | some (i, e) => (s, rtHandle i e, 1)
      | none =>
        if q = 0 || q > 32 || q > quadsOf s core then (s, 0, 5)
        else if (quotaOf s core ctx).used + 4 * q > (quotaOf s core ctx).limit then (s, 0, 2)
        else match (List.range 64).find? (fun i => ((s.core core).rtEnt i).state = 0#3) with
          | none => (s, 0, 4)
          | some i => match takeQuads s core ctx q with
            | none => (s, 0, 3)
            | some (s1, m) =>
              (allocated s1 core ctx i q (allocEnt s core ctx i name q m), rtHandle i (allocEnt s core ctx i name q m), 0) := rfl

section
variable {s : State} {core ctx q : Nat} {name : W64}

theorem resAlloc_of_noName : resAlloc s core ctx 0#64 q = (s, 0, 5) := by rw [resAlloc_eq, if_pos rfl]

theorem resAlloc_of_held {i : Nat} {en : RtEnt} (h0 : name ≠ 0#64) (hn : rtByName (s.core core) ctx name = some (i, en)) :
    resAlloc s core ctx name q = (s, rtHandle i en, 1) := by rw [resAlloc_eq, if_neg h0, hn]

theorem resAlloc_of_badCount (hn : rtByName (s.core core) ctx name = none) (hq : q = 0 ∨ quadsOf s core < q) :
    resAlloc s core ctx name q = (s, 0, 5) := by
  rw [resAlloc_eq]
  split
  · rfl
  · rw [hn]
    exact if_pos (by simp only [Bool.or_eq_true, decide_eq_true_eq]; omega)

theorem resAlloc_of_overQuota (h0 : name ≠ 0#64) (hn : rtByName (s.core core) ctx name = none) (hp : 0 < q)
    (hq : q ≤ quadsOf s core) (hl : (quotaOf s core ctx).limit < (quotaOf s core ctx).used + 4 * q) :
    resAlloc s core ctx name q = (s, 0, 2) := by
  have h32 := quadsOf_le s core
  rw [resAlloc_eq, if_neg h0, hn]
  simp only
  rw [if_neg (by simp only [Bool.or_eq_true, decide_eq_true_eq]; omega), if_pos hl]

/-- An allocation that succeeds has found a free entry and its quads. -/
theorem resAlloc_done {t : State} {h : Nat} (ha : resAlloc s core ctx name q = (t, h, 0)) : ∃ i s1 m, i < 64 ∧
    q ≤ 32 ∧ takeQuads s core ctx q = some (s1, m) ∧ t = allocated s1 core ctx i q (allocEnt s core ctx i name q m) ∧
    h = rtHandle i (allocEnt s core ctx i name q m) := by
  rw [resAlloc_eq] at ha
  split at ha
  · cases ha
  · split at ha
    · cases ha
    · split at ha
      · cases ha
      next hq =>
        split at ha
        · cases ha
        · split at ha
          · cases ha
          next i hi =>
            split at ha
            · cases ha
            next s1 m hm =>
              cases ha
              simp only [Bool.or_eq_true, decide_eq_true_eq, not_or] at hq
              exact ⟨i, s1, m, List.mem_range.1 (List.mem_of_find?_eq_some hi), by omega, hm, rfl, rfl⟩

end

/-- What an allocation that succeeds leaves: its entry, its quads, their cells and the tenant's USED. -/
theorem allocated_spec (s1 : State) (core ctx i q : Nat) (en : RtEnt) :
    let t := allocated s1 core ctx i q en
    (t.core core).rtEnt i = en ∧ (mget {} (t.core core).quota ctx).used = (mget {} (s1.core core).quota ctx).used + 4 * q ∧
      ∀ a, en.qmask.getLsbD (a / 32768) = true → mget 0#8 (t.core core).cells a = 0#8 := by
  have hc : ((clearQuads s1 core en.qmask).core core).quota = (s1.core core).quota := by
    rw [clearQuads, core_updCore, if_pos rfl]
  have hs := sameCore_setRt (clearQuads s1 core en.qmask) core i en
  have hr := rtEnt_setRt (clearQuads s1 core en.qmask) core i en
  simp only [allocated, core_updCore, if_true]
  refine ⟨hr, ?_, fun a ha => ?_⟩
  · rw [mget_mupd, if_pos rfl, hs, hc]
  · rw [hs]
    exact cells_clearQuads s1 core ha

theorem resAlloc_done_spec {s t : State} {core ctx q h : Nat} {name : W64} (hc : ctx < 64)
    (ha : resAlloc s core ctx name q = (t, h, 0)) : ∃ en, rtValid (t.core core) ctx h = some (h % 64, en) ∧
      en.name = name ∧ en.state = 2#3 ∧ en.nquad.toNat = q ∧ (quadList en.qmask).length = q ∧
      (mget {} (t.core core).quota ctx).used = (mget {} (s.core core).quota ctx).used + 4 * q ∧
      ∀ a, en.qmask.getLsbD (a / 32768) = true → mget 0#8 (t.core core).cells a = 0#8 := by
  obtain ⟨i, s1, m, hi, hq, hm, rfl, rfl⟩ := resAlloc_done ha
  obtain ⟨-, hs, hl⟩ := takeQuads_spec hm
  obtain ⟨he, hu, hz⟩ := allocated_spec s1 core ctx i q (allocEnt s core ctx i name q m)
  refine ⟨_, rtValid_rtHandle hi he rfl ?_, rfl, rfl, ?_, hl, hu.trans (by rw [hs]), hz⟩
  · exact Nat.mod_eq_of_lt hc
  · exact Nat.mod_eq_of_lt (by omega)

/-- What `RESALLOC` does. -/
theorem exec_resalloc {x : FResalloc} {s : State} {e : Env} (h : ready (.resalloc x) s = some e) :
    let r := resAlloc s e.r.core e.b.ctx (rdReg e.w false 0 x.a) (srcS e.w x.src).toNat
    exec (.resalloc x) s =
      .next (afterDone (r.1.updWarp e.r (fun w => wrReg w false 0 x.d (BitVec.ofNat 64 (r.2.1 + r.2.2 * 2 ^ 32)))) e) :=
  congrArg _ (issue_afterDone h rfl)

/-- Settles O42: the five instructions that take a handle act on its entry or trap (`HandleOp`), and an allocation that succeeds
has evicted until its quads were free. -/
theorem residencyHandles : Obligations.ResidencyHandles := by
  unfold Obligations.ResidencyHandles
  intro valid
  refine ⟨fun x s e h => exec_resalloc h, fun s core ctx name q => ?_, fun x s e i en h ⟨hr, hv⟩ => ?_,
    fun x s e i en h ⟨hr, hv⟩ => ?_, fun x s e i en h ⟨hr, hv⟩ => exec_resfree h hr hv, fun x s e h => ?_,
    fun a i s e hi h hs hr hv => ?_⟩
  · exact ⟨fun h0 => h0 ▸ resAlloc_of_noName, fun i en h0 hn => resAlloc_of_held h0 hn, resAlloc_of_badCount,
      resAlloc_of_overQuota, fun t h hc ha => resAlloc_done_spec hc ha⟩
  · exact (handleOp_resunpin x).exec_done h hr hv rfl
  · exact ⟨fun h4 => (handleOp_respin x).exec_done h hr hv (respinRes_of_present h4), fun h4 hb hf =>
      (handleOp_respin x).exec_done h hr hv (respinRes_of_evicted h4 hb hf)⟩
  · have hd : useOk e.w e.b.nshacc (uS x.d) = true := (ready_check h).2.2.1 _ List.mem_cons_self
    exact ⟨_, exec_resq h, scalarResult_wrReg _ hd⟩
  · obtain ⟨x, rfl, rfl | rfl | rfl⟩ | ⟨x, rfl, rfl⟩ | ⟨x, rfl, rfl⟩ := hi
    · exact (handleOp_respin x).exec_of_invalid h hr hs hv
    · exact (handleOp_resunpin x).exec_of_invalid h hr hs hv
    · exact (handleOp_resfree x).exec_of_invalid h hr hs hv
    · exact (handleOp_resref x).exec_of_invalid h hr hs hv
    · exact (handleOp_resload x).exec_of_invalid h hr hs hv

end Sys2Proof.Machine
end

section
/-! Residency loads (O43): what `RESLOAD` and `RESREF` begin, and how a load ends. -/

namespace Sys2Proof.Machine

/-! ### States with the same warps -/

/-- The clock and the warps of `t` are those of `s`. -/
def SameRun (s t : State) : Prop := t.ctl.clock = s.ctl.clock ∧ ∀ r, t.warp? r = s.warp? r

theorem SameRun.refl (s : State) : SameRun s s := ⟨rfl, fun _ => rfl⟩

theorem SameRun.trans {s t u : State} (h : SameRun s t) (g : SameRun t u) : SameRun s u :=
  ⟨g.1.trans h.1, fun r => (g.2 r).trans (h.2 r)⟩

theorem Quiet.sameRun {s t : State} (h : Quiet s t) : SameRun s t := ⟨h.clock, h.warp⟩

theorem HomeSide.sameRun {s t : State} (h : HomeSide s t) : SameRun s t := by
  refine ⟨?_, fun r => ?_⟩
  · induction h with
    | trans _ _ h g => exact g.trans h
    | lost s line =>
      unfold State.countLost
      split <;> rfl
    | _ => rfl
  · rw [State.warp?, (h.core r.core).1, State.warp?]

theorem sameRun_updCore (s : State) (l : Nat) {f : Core → Core} (hf : (f (s.core l)).warps = (s.core l).warps) :
    SameRun s (s.updCore l f) := ⟨rfl, fun r => warp?_updCore s l f r hf⟩

theorem sameRun_setRt (s : State) (core i : Nat) (en : RtEnt) : SameRun s (s.setRt core i en) := sameRun_updCore s core rfl

theorem sameRun_issueNum (s : State) (ctx tl : Nat) : SameRun s (issueNum s ctx tl).2 := ⟨rfl, fun _ => rfl⟩
theorem sameRun_completeNum (s : State) (ctx tl n : Nat) : SameRun s (completeNum s ctx tl n) := ⟨rfl, fun _ => rfl⟩

/-! ### A load that begins (05 R121, R129) -/

/-- The warps are the same, and one entry is as it was, but for its state and its recorded pages. -/
structure KeepsSource (core i : Nat) (s t : State) : Prop where
  run : SameRun s t
  entry : ∃ st pages, (t.core core).rtEnt i = { (s.core core).rtEnt i with state := st, pages := pages }

theorem KeepsSource.trans {core i : Nat} {s t u : State} (h : KeepsSource core i s t) (g : KeepsSource core i t u) :
    KeepsSource core i s u := by
  obtain ⟨hr, _, _, he⟩ := h
  obtain ⟨gr, st, pages, ge⟩ := g
  exact ⟨hr.trans gr, st, pages, by rw [ge, he]⟩

theorem HomeSide.keepsSource {s t : State} (h : HomeSide s t) (core i : Nat) : KeepsSource core i s t :=
  let ⟨st, he⟩ := (h.core core).2 i
  ⟨h.sameRun, st, _, he⟩

theorem keepsSource_of_rt {s t : State} {core : Nat} (i : Nat) (hr : SameRun s t) (h : (t.core core).rt = (s.core core).rt) :
    KeepsSource core i s t := ⟨hr, _, _, by rw [Core.rtEnt, h, ← Core.rtEnt]⟩

theorem keepsSource_setRt (s : State) (core i : Nat) (st : BitVec 3) (pages : List (Nat × Nat)) :
    KeepsSource core i s (s.setRt core i { (s.core core).rtEnt i with state := st, pages := pages }) :=
  ⟨sameRun_setRt .., st, pages, rtEnt_setRt ..⟩

theorem keepsSource_markSource (s : State) (core i ctx va : Nat) (sup : Bool) :
    KeepsSource core i s (markSource s core i ctx va sup) := by
  have h := ((homeSide_leafMarked s ctx va).trans
    (homeSide_translate _ (agentRes (s.siteOf core)) ctx va (engineNeed sup needR) false)).keepsSource core i
  rw [markSource_eq]
  generalize translate (leafMarked s ctx va) (agentRes (s.siteOf core)) ctx va (engineNeed sup needR) false = p at h ⊢
  obtain ⟨s2, x | x⟩ := p
  · exact h
  · simp only
    split
    · exact h
    · exact h.trans (keepsSource_setRt s2 core i _ _)

/-- A load that begins leaves the warps alone, and of its entry all but the state and the pages. -/
theorem keepsSource_startLoad (s : State) (core i : Nat) (l : ResLoad) : KeepsSource core i s (startLoad s core i l) := by
  unfold startLoad
  simp only
  set e := (s.core core).rtEnt i
  set s1 := s.setRt core i { e with state := 1#3, pages := if e.srcv then [] else e.pages }
  have h1 : KeepsSource core i s s1 := keepsSource_setRt s core i _ _
  have h2 : KeepsSource core i s (if e.srcv then (srcPages e).foldl (fun s va => markSource s core i e.tenant.toNat va l.sup) s1
      else s1) := by
    split
    · exact List.foldlRecOn _ _ h1 fun t h va _ => h.trans (keepsSource_markSource ..)
    · exact h1
  refine h2.trans (keepsSource_of_rt i (sameRun_updCore _ core rfl) ?_)
  rw [core_updCore, if_pos rfl]

theorem quiet_entryQuads {s t : State} {core : Nat} {en : RtEnt} {m : W32} (h : entryQuads s core en = some (t, m)) : Quiet s t := by
  unfold entryQuads at h
  split at h
  · exact (takeQuads_spec h).1
  · cases h
    exact .refl s

/-- A refill that begins has its load, and leaves the warps alone. -/
theorem startRefill_some {s : State} {core i : Nat} {l : ResLoad} (h : entryQuads s core ((s.core core).rtEnt i) ≠ none) :
    ∃ t, startRefill s core i l = some t ∧ SameRun s t ∧ ∃ k ∈ (t.core core).resl, k.idx = l.idx ∧ k.num = l.num := by
  obtain ⟨⟨u, m⟩, hu⟩ := Option.ne_none_iff_exists'.1 h
  refine ⟨_, by rw [startRefill, hu]; rfl, ?_, _, (startLoad_keeps ..).2, rfl, rfl⟩
  exact ((quiet_entryQuads hu).sameRun.trans (sameRun_setRt ..)).trans (keepsSource_startLoad ..).run

theorem startRefill_none {s : State} {core i : Nat} (l : ResLoad) (h : entryQuads s core ((s.core core).rtEnt i) = none) :
    startRefill s core i l = none := by rw [startRefill, h]; rfl

/-! ### Numbers of the timeline (13 R300, 07 R182) -/

theorem issueNum_of_fed {s t : State} (h : t.fed = s.fed) (ctx tlid : Nat) : (issueNum t ctx tlid).1 = (issueNum s ctx tlid).1 := by
  unfold issueNum State.timeline
  rw [h]

/-- A number that is complete has been passed by the counter, or waits for its predecessors. -/
theorem timeline_completeNum (s : State) (ctx tlid n : Nat) :
    n ≤ ((completeNum s ctx tlid n).timeline ctx tlid).counter ∨ n ∈ ((completeNum s ctx tlid n).timeline ctx tlid).done := by
  unfold completeNum State.timeline
  simp only [State.updFed_fed, mget_mset_same]
  generalize tlAdvance _ _ _ = c
  by_cases h : n ≤ c
  · exact .inl h
  · exact .inr (List.mem_filter.2 ⟨List.mem_cons_self, by simpa using h⟩)

/-! ### Answers to the warp (13 R300, 21 R414) -/

/-- The warp with the number of a load. -/
def numbered (w : Warp) (d : Reg) (tl n : Nat) : Warp :=
  { wrReg w false 0 d (BitVec.ofNat 64 n) with tlops := w.tlops ++ [(tl, n)] }

theorem giveNum_eq (s : State) (e : Env) (d : Reg) (tl n : Nat) :
    giveNum s e d tl n = s.updWarp e.r (fun w => numbered w d tl n) := rfl

theorem updWarp_rest (s : State) (r : WRef) (f : Warp → Warp) : (s.updWarp r f).ctl = s.ctl ∧ (s.updWarp r f).fed = s.fed := by
  unfold State.updWarp
  split <;> exact ⟨rfl, rfl⟩

theorem retires_afterDone {s u : State} {e : Env} {w : Warp} {f : Warp → Warp} (hr : SameRun s u) (hw : s.warp? e.r = some w) :
    Retires s e (afterDone (u.updWarp e.r f) e) (f w) := by
  have hu : (u.updWarp e.r f).warp? e.r = some (f w) := warp?_updWarp_same f ((hr.2 e.r).trans hw)
  rw [Retires, warp?_afterDone hu, (updWarp_rest u e.r f).1, hr.1]

section
variable {i : Instr} {a : Reg} {f : Env → State → Nat → RtEnt → Res} {s : State} {e : Env} (hi : HandleOp i a f)
  (h : ready i s = some e) (hr : (rdReg e.w false 0 a).toNat < 65536) {k : Nat} {en : RtEnt}
  (hv : rtValid (s.core e.r.core) e.b.ctx (rdReg e.w false 0 a).toNat = some (k, en))
include hi h hr hv

theorem HandleOp.exec_refused {z : State} {d : Reg} {st : Nat} (hf : f e s k en = resRefused z e d st) (hz : SameRun s z) :
    ∃ t, exec i s = .next t ∧ Retires s e t (wrReg e.w false 0 d (BitVec.ofNat 64 (2 ^ 63 + st))) := by
  obtain ⟨-, hw, -⟩ := ready_warp h
  exact ⟨_, hi.exec_done h hr hv hf, retires_afterDone hz hw⟩

/-- An instruction that gives its warp the number of a load: the rest of the state is `u`. -/
theorem HandleOp.exec_gives {u : State} {d : Reg} {tl n : Nat} (hf : f e s k en = .done (giveNum u e d tl n)) (hu : SameRun s u) :
    ∃ t, exec i s = .next t ∧ Retires s e t (numbered e.w d tl n) ∧ t.fed = u.fed ∧
      ∀ l, (t.core l).rt = (u.core l).rt ∧ (t.core l).resl = (u.core l).resl := by
  obtain ⟨-, hw, -⟩ := ready_warp h
  refine ⟨_, hi.exec_done h hr hv hf, retires_afterDone hu hw, ?_, fun l => ?_⟩
  · rw [afterDone, (updWarp_rest ..).2, giveNum_eq, (updWarp_rest ..).2]
  · rw [afterDone, giveNum_eq]
    obtain ⟨h1, h2⟩ := core_updWarp_resid (u.updWarp e.r fun w => numbered w d tl n) e.r
      (fun w => retireWarp w e.next (u.updWarp e.r fun w => numbered w d tl n).ctl.clock) l
    obtain ⟨g1, g2⟩ := core_updWarp_resid u e.r (fun w => numbered w d tl n) l
    exact ⟨h1.trans g1, h2.trans g2⟩

end

end Sys2Proof.Machine
end

section
/-! `RESLOAD` and `RESREF` (O43). -/

namespace Sys2Proof.Machine

/-! ### `RESLOAD` (21 R413, R414) -/

section
variable {x : FResload} {e : Env} {s : State} {i : Nat} {en : RtEnt}

theorem resloadRes_of_misaligned (ha : (rdReg e.w false 0 x.b).toNat % 64 ≠ 0) : resloadRes x e s i en =
    .trap s { cause := 8, mask := e.w.exec, addr := BitVec.ofNat 64 (rdReg e.w false 0 x.b).toNat } :=
  if_pos (by simpa using ha)

variable (ha : (rdReg e.w false 0 x.b).toNat % 64 = 0)
include ha

theorem resloadRes_of_high (hs : 2 ^ 54 ≤ (rdReg e.w false 0 x.b).toNat) : resloadRes x e s i en =
    .trap s { cause := 9, mask := e.w.exec, addr := BitVec.ofNat 64 (rdReg e.w false 0 x.b).toNat } := by
  unfold resloadRes
  simp only
  rw [if_neg (by simpa using ha), if_pos hs]

variable (hs : (rdReg e.w false 0 x.b).toNat < 2 ^ 54)
include hs

theorem resloadRes_of_badLength (hl : (rdReg e.w false 0 x.c).toNat ≠ en.nquad.toNat * imageLen (loadFmt x)) :
    resloadRes x e s i en = resRefused s e x.d 5 := by
  unfold resloadRes
  simp only
  rw [if_neg (by simpa using ha), if_neg (Nat.not_le.2 hs), if_pos (by simpa using hl)]

variable (hl : (rdReg e.w false 0 x.c).toNat = en.nquad.toNat * imageLen (loadFmt x))
include hl

theorem resloadRes_of_loading (h1 : en.state = 1#3) : resloadRes x e s i en = resRefused s e x.d 6 := by
  unfold resloadRes
  simp only
  rw [if_neg (by simpa using ha), if_neg (Nat.not_le.2 hs), if_neg (by simpa using hl), if_pos h1]

theorem resloadRes_of_idle (h1 : en.state ≠ 1#3) (hr : ∀ l ∈ (s.core e.r.core).resl, l.idx ≠ i)
    (hb : sourceBusy s e.b.ctx (rdReg e.w false 0 x.b).toNat (rdReg e.w false 0 x.c).toNat = false)
    (hf : fenceWait s e.r e.w e.b.ctx relKind .dv = none) : resloadRes x e s i en =
      resloadReleased x.d (rdReg e.w false 0 x.b).toNat (rdReg e.w false 0 x.c).toNat (loadFmt x) e i (release s e.r.core .dv) := by
  unfold resloadRes
  simp only
  rw [if_neg (by simpa using ha), if_neg (Nat.not_le.2 hs), if_neg (by simpa using hl), if_neg h1,
    if_neg (by simpa [hb] using hr), relThen_of_ready _ hf]

end

theorem resloadReleased_of_full {d : Reg} {src len f i : Nat} {e : Env} {z : State}
    (hq : entryQuads z e.r.core ((z.core e.r.core).rtEnt i) = none) : resloadReleased d src len f e i z = resRefused z e d 3 := by
  unfold resloadReleased
  rw [hq]

/-- A load that begins: its number, its place among the core's loads, and what it writes of the entry. -/
theorem resloadReleased_of_quads {d : Reg} {src len f i : Nat} {e : Env} {z : State}
    (hq : entryQuads z e.r.core ((z.core e.r.core).rtEnt i) ≠ none) :
    let n := (issueNum z e.b.ctx (4096 + z.siteOf e.r.core)).1
    ∃ u, resloadReleased d src len f e i z = .done (giveNum u e d (4096 + z.siteOf e.r.core) n) ∧ SameRun z u ∧
      (∃ l ∈ (u.core e.r.core).resl, l.idx = i ∧ l.num = some n) ∧
      ((u.core e.r.core).rtEnt i).src = BitVec.ofNat 54 src ∧ ((u.core e.r.core).rtEnt i).length = BitVec.ofNat 32 len ∧
      ((u.core e.r.core).rtEnt i).lfmt = BitVec.ofNat 2 f ∧ ((u.core e.r.core).rtEnt i).srcv = true := by
  intro n
  obtain ⟨⟨y, m⟩, hy⟩ := Option.ne_none_iff_exists'.1 hq
  have hyq := quiet_entryQuads hy
  set tl := 4096 + z.siteOf e.r.core
  have hn : (issueNum y e.b.ctx tl).1 = n := issueNum_of_fed hyq.fed ..
  set u0 := (issueNum y e.b.ctx tl).2.setRt e.r.core i (loadEnt ((z.core e.r.core).rtEnt i) src len f m) with hu0
  obtain ⟨hr, st, pages, he⟩ := keepsSource_startLoad u0 e.r.core i (warpLoad e i n)
  rw [hu0, rtEnt_setRt] at he
  refine ⟨startLoad u0 e.r.core i (warpLoad e i n), ?_, ?_, ⟨_, (startLoad_keeps ..).2, rfl, rfl⟩, ?_⟩
  · unfold resloadReleased
    simp only [hy]
    rw [hn]
  · exact (hyq.sameRun.trans ((sameRun_issueNum y ..).trans (sameRun_setRt ..))).trans hr
  · rw [he]
    exact ⟨rfl, rfl, rfl, rfl⟩

/-! ### `RESREF` (05 Table 5-8, 21 R414) -/

theorem resrefRes_of_noSource {d : Reg} {e : Env} {s : State} {i : Nat} {en : RtEnt} (h5 : en.state = 5#3) (hv : en.srcv = false) :
    resrefRes d e s i en = resRefused s e d 7 := if_pos (by simp [h5, hv])

theorem resrefRes_of_source {d : Reg} {e : Env} {s : State} {i : Nat} {en : RtEnt} (hn : ¬(en.state = 5#3 ∧ en.srcv = false))
    (hf : fenceWait s e.r e.w e.b.ctx relKind .dv = none) :
    resrefRes d e s i en = resrefReleased d e (4096 + s.siteOf e.r.core) i en (release s e.r.core .dv) := by
  unfold resrefRes
  rw [if_neg (by simpa using hn), relThen_of_ready _ hf]

section
variable {d : Reg} {e : Env} {tl i : Nat} {en : RtEnt} {z : State}

theorem resrefReleased_of_present (h : ((z.core e.r.core).rtEnt i).state = 2#3 ∨ ((z.core e.r.core).rtEnt i).state = 3#3) :
    resrefReleased d e tl i en z = .done (giveNum (completeNum (issueNum z e.b.ctx tl).2 e.b.ctx tl (issueNum z e.b.ctx tl).1) e d tl
      (issueNum z e.b.ctx tl).1) := by
  unfold resrefReleased
  obtain h | h := h <;> simp [h]

/-- The loads of an entry take a further number. -/
def alsoNumber (c : Core) (i n : Nat) : Core :=
  { c with resl := c.resl.map (fun r => if r.idx = i then { r with also := r.also ++ [n] } else r) }

theorem mem_also_alsoNumber {c : Core} {i n : Nat} {l : ResLoad} (hl : l ∈ (alsoNumber c i n).resl) (hi : l.idx = i) : n ∈ l.also := by
  obtain ⟨r, -, rfl⟩ := List.mem_map.1 hl
  split at hi
  next h => simp [h]
  next h => exact absurd hi h

theorem resrefReleased_of_loading (h : ((z.core e.r.core).rtEnt i).state = 1#3) :
    resrefReleased d e tl i en z = .done (giveNum ((issueNum z e.b.ctx tl).2.updCore e.r.core
      (fun c => alsoNumber c i (issueNum z e.b.ctx tl).1)) e d tl (issueNum z e.b.ctx tl).1) := by
  unfold resrefReleased
  simp [h, alsoNumber]

theorem resrefReleased_of_gone (h : ((z.core e.r.core).rtEnt i).state = 4#3 ∨
      (((z.core e.r.core).rtEnt i).state = 5#3 ∧ ∀ l ∈ (z.core e.r.core).resl, l.idx ≠ i))
    (hb : sourceBusy z e.b.ctx en.src.toNat en.length.toNat = false) :
    resrefReleased d e tl i en z = resrefRefill d e tl i z := by
  unfold resrefReleased
  obtain h | ⟨h, hl⟩ := h
  · simp [h, hb]
  · have hl' : ((z.core e.r.core).resl.any fun r => decide (r.idx = i)) = false := by simpa using hl
    simp [h, hb, hl']

theorem resrefRefill_of_full
    (hq : entryQuads (issueNum z e.b.ctx tl).2 e.r.core (((issueNum z e.b.ctx tl).2.core e.r.core).rtEnt i) = none) :
    resrefRefill d e tl i z = resRefused z e d 3 := by
  unfold resrefRefill
  simp only
  rw [startRefill_none _ hq]

/-- A refill that begins: its number and its place among the core's loads. -/
theorem resrefRefill_of_quads
    (hq : entryQuads (issueNum z e.b.ctx tl).2 e.r.core (((issueNum z e.b.ctx tl).2.core e.r.core).rtEnt i) ≠ none) :
    let n := (issueNum z e.b.ctx tl).1
    ∃ u, resrefRefill d e tl i z = .done (giveNum u e d tl n) ∧ SameRun z u ∧
      ∃ l ∈ (u.core e.r.core).resl, l.idx = i ∧ l.num = some n := by
  intro n
  obtain ⟨u, hu, hrun, hl⟩ := startRefill_some (l := warpLoad e i n) hq
  refine ⟨u, ?_, (sameRun_issueNum ..).trans hrun, hl⟩
  unfold resrefRefill
  simp only
  rw [hu]

end

end Sys2Proof.Machine
end

section
/-! How a residency load ends, and the ageing of the table (O43). -/

namespace Sys2Proof.Machine

/-! ### States with the same residencies -/

/-- The residency tables and the loads of `t` are those of `s`. -/
def SameResid (s t : State) : Prop := ∀ l, (t.core l).rt = (s.core l).rt ∧ (t.core l).resl = (s.core l).resl

theorem SameResid.trans {s t u : State} (h : SameResid s t) (g : SameResid t u) : SameResid s u :=
  fun l => ⟨(g l).1.trans (h l).1, (g l).2.trans (h l).2⟩

theorem SameResid.foldl {β : Type} {f : State → β → State} (h : ∀ s x, SameResid s (f s x)) (l : List β) (s : State) :
    SameResid s (l.foldl f s) :=
  List.foldlRecOn l f (fun _ => ⟨rfl, rfl⟩) fun _ hs x _ => hs.trans (h _ x)

theorem sameResid_updWarp (s : State) (r : WRef) (f : Warp → Warp) : SameResid s (s.updWarp r f) := core_updWarp_resid s r f

theorem sameResid_updCore (s : State) (core : Nat) {f : Core → Core}
    (h : (f (s.core core)).rt = (s.core core).rt ∧ (f (s.core core)).resl = (s.core core).resl) : SameResid s (s.updCore core f) := by
  intro l
  rw [core_updCore]
  split
  next hl => exact hl ▸ h
  next => exact ⟨rfl, rfl⟩

theorem sameResid_freeHeld (s : State) (core i : Nat) : SameResid s (freeHeld s core i) := by
  refine SameResid.foldl (fun s t => ?_) _ s
  simp only
  split
  · exact SameResid.trans (sameResid_updCore s core ⟨rfl, rfl⟩) (sameResid_updWarp _ _ _)
  · exact SameResid.trans (sameResid_updCore s core ⟨rfl, rfl⟩) (sameResid_updWarp _ _ _)

/-! ### Residencies that go stale -/

/-- The loads of a core are of the same entries, and its stale entries stay so. -/
structure OnlyStales (c e : Core) : Prop where
  loads : e.resl.map (·.idx) = c.resl.map (·.idx)
  stale : ∀ i, (c.rtEnt i).state = 5#3 → (e.rtEnt i).state = 5#3

theorem OnlyStales.refl (c : Core) : OnlyStales c c := ⟨rfl, fun _ => id⟩

theorem OnlyStales.trans {c e g : Core} (h : OnlyStales c e) (k : OnlyStales e g) : OnlyStales c g :=
  ⟨k.loads.trans h.loads, fun i x => k.stale i (h.stale i x)⟩

theorem onlyStales_of_same {c e : Core} (h : e.rt = c.rt ∧ e.resl = c.resl) : OnlyStales c e := by
  obtain ⟨hrt, hresl⟩ := h
  exact ⟨by rw [hresl], fun i x => by rwa [Core.rtEnt, hrt]⟩

theorem staled_stale {p : RtEnt → Bool} {en : RtEnt} (h : en.state = 5#3) : (en.staled p).state = 5#3 := by
  unfold RtEnt.staled
  split
  · rfl
  · exact h

theorem onlyStales_markWhere (s : State) (p : RtEnt → Bool) (l : Nat) : OnlyStales (s.core l) ((markWhere s p).core l) := by
  unfold markWhere
  refine core_mapCores (fun c => by dsimp only; split <;> rfl) (.refl _) (fun c => ?_) l
  dsimp only
  split
  · exact .refl _
  · refine ⟨?_, fun i h => ?_⟩
    · rw [List.map_map]
      exact List.map_congr_left fun r _ => by simp only [Function.comp]; split <;> rfl
    · have hm := mfind_map c.2.rt (fun e => (e.1, e.2.staled p)) (fun _ => rfl) i
      simp only [Core.rtEnt, mget, RtEnt.staled] at h hm ⊢
      rw [hm]
      cases hf : mfind c.2.rt i with
      | none => rwa [hf] at h
      | some en => rw [hf] at h; exact staled_stale (p := p) h

theorem HomeSide.onlyStales {s t : State} (h : HomeSide s t) (l : Nat) : OnlyStales (s.core l) (t.core l) := by
  induction h with
  | trans _ _ h g => exact h.trans g
  | lost s line =>
    unfold State.countLost
    split <;> exact .refl _
  | stale s p => exact onlyStales_markWhere s p l
  | windows s p =>
    refine core_mapCores (fun c => by split <;> rfl) (.refl _) (fun c => ?_) l
    split
    · exact onlyStales_of_same ⟨rfl, rfl⟩
    · exact .refl _
  | _ => exact .refl _

/-! ### The numbers and the status of a load (05 R122, 03 Table 3-2) -/

theorem homeSide_engineXlat (s : State) (agent ctx va : Nat) (need : BitVec 4) (wr : Bool) :
    HomeSide s (engineXlat s agent ctx va need wr).1 := by
  have h := homeSide_translate s agent ctx va need wr
  unfold engineXlat
  split
  · exact .refl s
  · split
    next hx => rwa [hx] at h
    next hx =>
      rw [hx] at h
      split
      · exact h
      · exact h

theorem homeSide_writeVirt (s : State) (agent ctx va : Nat) (l : List Byte) (need : BitVec 4) :
    HomeSide s (writeVirt s agent ctx va l need).1 := by
  refine List.foldlRecOn (motive := fun (r : State × Option Nat) => HomeSide s r.1) (pagesOf va l.length) _ (.refl s)
    fun r hr p _ => ?_
  obtain ⟨t, _ | c⟩ := r
  · have h := homeSide_engineXlat t agent ctx p.1 need true
    simp only
    split
    next hx =>
      rw [hx] at h
      exact hr.trans h
    next hx =>
      rw [hx] at h
      exact (hr.trans h).trans (homeSide_writePhys ..)
  · exact hr

theorem onlyStales_writeStatus (s : State) (ctx addr v num l : Nat) :
    OnlyStales (s.core l) ((writeStatus s ctx addr v num).core l) := by
  have h := (homeSide_writeVirt s agentCp ctx addr (leBytes 8 v) needW).onlyStales l
  unfold writeStatus
  split
  · exact .refl _
  · split
    next hx => rwa [hx] at h
    next hx =>
      rw [hx] at h
      exact h

theorem sameResid_completeNums (l : List Nat) (s : State) (ctx tl : Nat) :
    SameResid s (l.foldl (fun s n => completeNum s ctx tl n) s) :=
  SameResid.foldl (f := fun s n => completeNum s ctx tl n) (fun _ _ _ => ⟨rfl, rfl⟩) l s

theorem onlyStales_loadNumbers (s : State) (core : Nat) (l : ResLoad) (k : Nat) :
    OnlyStales (s.core k) ((loadNumbers s core l).core k) := by
  have h := onlyStales_of_same (sameResid_completeNums (l.num.toList ++ l.also) s l.ctx (4096 + s.siteOf core) k)
  unfold loadNumbers
  simp only
  split <;> split
  · exact h
  · exact h.trans (onlyStales_writeStatus ..)
  · exact h
  · exact h.trans (onlyStales_writeStatus ..)

/-- A load that no RES_PRELOAD began writes no memory. -/
theorem sameResid_loadNumbers (s : State) (core : Nat) {l : ResLoad} (h : l.status = none) : SameResid s (loadNumbers s core l) := by
  have hc := sameResid_completeNums (l.num.toList ++ l.also) s l.ctx (4096 + s.siteOf core)
  unfold loadNumbers
  rw [h]
  simp only
  split
  · exact hc
  · exact hc

/-! ### The end of a load (05 Table 5-8) -/

/-- The state in which a load leaves its entry. -/
def endState (en : RtEnt) (ok : Bool) : BitVec 3 :=
  if en.state != 1#3 then en.state else if !ok then 5#3 else if en.pin then 3#3 else 2#3

/-- The entry of a load that has ended, and the load gone. -/
def loadGone (s : State) (core i : Nat) (ok : Bool) : State :=
  let e := (s.core core).rtEnt i
  let good := ok && e.state = 1#3
  (s.setRt core i { e with state := endState e ok, failed := if e.state = 1#3 then !ok else e.failed }).updCore core (fun c => { c with
    resl := c.resl.filter (fun r => r.idx != i)
    mu := c.mu.map (fun t => if t.lateLoad && t.handle.toNat % 64 = i then
      (if good then { t with lateLoad := false } else { t with lateLoad := false, dead := true }) else t) })

theorem endLoad_eq (s : State) (core : Nat) (l : ResLoad) (ok : Bool) : endLoad s core l ok =
    rtRelease (freeHeld (loadNumbers (loadGone s core l.idx ok) core l) core l.idx) core l.idx := rfl

theorem loadGone_spec (s : State) (core i : Nat) (ok : Bool) : i ∉ ((loadGone s core i ok).core core).resl.map (·.idx) ∧
    (((loadGone s core i ok).core core).rtEnt i).state = endState ((s.core core).rtEnt i) ok := by
  unfold loadGone
  simp only
  refine ⟨?_, ?_⟩
  · rw [core_updCore, if_pos rfl]
    simp [List.mem_map, List.mem_filter]
  · have hr := rtEnt_setRt s core i { (s.core core).rtEnt i with
      state := endState ((s.core core).rtEnt i) ok
      failed := if ((s.core core).rtEnt i).state = 1#3 then !ok else ((s.core core).rtEnt i).failed }
    rw [core_updCore, if_pos rfl]
    rw [Core.rtEnt] at hr ⊢
    rw [hr]

theorem resl_rtRelease (s : State) (core i : Nat) : ((rtRelease s core i).core core).resl = (s.core core).resl := by
  unfold rtRelease
  simp only
  split
  · rfl
  · rw [core_updCore, if_pos rfl, State.setRt, core_updCore, if_pos rfl]

theorem rtRelease_of_kept {s : State} {core i : Nat} (h : ((s.core core).rtEnt i).state ≠ 6#3) : rtRelease s core i = s :=
  if_pos (by simp [h])

/-- No load of the entry is left. -/
theorem resl_endLoad (s : State) (core : Nat) (l : ResLoad) (ok : Bool) :
    ∀ r ∈ ((endLoad s core l ok).core core).resl, r.idx ≠ l.idx := by
  intro r hr hi
  rw [endLoad_eq, resl_rtRelease, (sameResid_freeHeld _ core l.idx core).2] at hr
  refine (loadGone_spec s core l.idx ok).1 ?_
  rw [← (onlyStales_loadNumbers (loadGone s core l.idx ok) core l core).loads]
  exact List.mem_map.2 ⟨r, hr, hi⟩

theorem rtEnt_of_sameResid {s t : State} (h : SameResid s t) (core i : Nat) : (t.core core).rtEnt i = (s.core core).rtEnt i := by
  rw [Core.rtEnt, (h core).1, Core.rtEnt]

/-- A load that fails leaves its entry stale. -/
theorem state_endLoad_failed {s : State} {core : Nat} {l : ResLoad} (h : ((s.core core).rtEnt l.idx).state = 1#3) :
    (((endLoad s core l false).core core).rtEnt l.idx).state = 5#3 := by
  have h5 : (((loadGone s core l.idx false).core core).rtEnt l.idx).state = 5#3 := by
    rw [(loadGone_spec ..).2]
    simp [endState, h]
  have hn := (onlyStales_loadNumbers (loadGone s core l.idx false) core l core).stale l.idx h5
  have hf := rtEnt_of_sameResid (sameResid_freeHeld (loadNumbers (loadGone s core l.idx false) core l) core l.idx) core l.idx
  rw [← hf] at hn
  rw [endLoad_eq, rtRelease_of_kept (by rw [hn]; decide), hn]

/-- A load of an instruction that is done leaves its entry resident, or pinned. -/
theorem state_endLoad_done {s : State} {core : Nat} {l : ResLoad} (h : ((s.core core).rtEnt l.idx).state = 1#3)
    (hl : l.status = none) : (((endLoad s core l true).core core).rtEnt l.idx).state =
      if ((s.core core).rtEnt l.idx).pin then 3#3 else 2#3 := by
  have hg : (((loadGone s core l.idx true).core core).rtEnt l.idx).state = if ((s.core core).rtEnt l.idx).pin then 3#3 else 2#3 := by
    rw [(loadGone_spec ..).2]
    simp [endState, h]
  have hf := rtEnt_of_sameResid ((sameResid_loadNumbers (loadGone s core l.idx true) core hl).trans
    (sameResid_freeHeld _ core l.idx)) core l.idx
  rw [← hf] at hg
  rw [endLoad_eq, rtRelease_of_kept, hg]
  rw [hg]
  split <;> decide

/-! ### The events that end a load -/

/-- What RESIDENCY_LOAD_COMPLETE does with a load that may end. -/
def completedLoad (s : State) (core idx : Nat) (l : ResLoad) (off : Nat) (out : SegOutcome) : State :=
  let e := (s.core core).rtEnt idx
  if !e.srcv then endLoad (clearQuads s core e.qmask) core l true
  else if sourceBusy s e.tenant.toNat e.src.toNat e.length.toNat || !virtIdle s (agentRes (s.siteOf core)) e.tenant.toNat
    e.src.toNat e.length.toNat (engineNeed l.sup needR) false then s
  else match out with
    | .failed _ => endLoad (loadLog s core e l.sup off out) core l false
    | _ => loadTiles (loadLog s core e l.sup off out) core idx l

theorem completedLoad_of_noSource {s : State} {core idx : Nat} (l : ResLoad) (off : Nat) (out : SegOutcome)
    (hv : ((s.core core).rtEnt idx).srcv = false) :
    completedLoad s core idx l off out = endLoad (clearQuads s core ((s.core core).rtEnt idx).qmask) core l true :=
  if_pos (by rw [hv]; rfl)

/-- A load whose source is free ends as the controllers' outcome says. -/
theorem completedLoad_of_idle {s : State} {core idx : Nat} {l : ResLoad} (off : Nat) (out : SegOutcome)
    (hv : ((s.core core).rtEnt idx).srcv = true)
    (hb : let e := (s.core core).rtEnt idx; sourceBusy s e.tenant.toNat e.src.toNat e.length.toNat = false)
    (hi : let e := (s.core core).rtEnt idx
      virtIdle s (agentRes (s.siteOf core)) e.tenant.toNat e.src.toNat e.length.toNat (engineNeed l.sup needR) false = true) :
    let y := loadLog s core ((s.core core).rtEnt idx) l.sup off out
    (∀ u, out = .failed u → completedLoad s core idx l off out = endLoad y core l false) ∧
      ((∀ u, out ≠ .failed u) → completedLoad s core idx l off out = loadTiles y core idx l) := by
  have hnb : ¬(sourceBusy s ((s.core core).rtEnt idx).tenant.toNat ((s.core core).rtEnt idx).src.toNat
      ((s.core core).rtEnt idx).length.toNat || !virtIdle s (agentRes (s.siteOf core)) ((s.core core).rtEnt idx).tenant.toNat
      ((s.core core).rtEnt idx).src.toNat ((s.core core).rtEnt idx).length.toNat (engineNeed l.sup needR) false) = true := by
    simpa [hb] using hi
  have hnv : ¬(!((s.core core).rtEnt idx).srcv) = true := by simp [hv]
  unfold completedLoad
  simp only [if_neg hnv, if_neg hnb]
  cases out with
  | failed u => exact ⟨fun _ _ => rfl, fun h => absurd rfl (h u)⟩
  | _ => exact ⟨nofun, fun _ => rfl⟩

theorem loadLog_of_beyond {s : State} {core : Nat} {en : RtEnt} {off : Nat} (sup : Bool) (out : SegOutcome)
    (h : en.srcv = false ∨ en.length.toNat ≤ off) : loadLog s core en sup off out = s := if_pos (by simpa using h)

theorem loadLog_of_xlat {s s1 : State} {core : Nat} {en : RtEnt} {sup : Bool} {off : Nat} {x : Xlat} (out : SegOutcome)
    (hv : en.srcv = true) (ho : off < en.length.toNat)
    (hx : engineXlat s (agentRes (s.siteOf core)) en.tenant.toNat (en.src.toNat + off) (engineNeed sup needR) false = (s1, .inr x)) :
    loadLog s core en sup off out = logOutcome s1 x.pa out := by
  unfold loadLog
  rw [if_neg (by simpa [hv] using ho), hx]

section
variable {s : State} {core idx : Nat} {l : ResLoad}

theorem exec_residencyLoadStop (hl : (s.core core).resl.find? (fun r => r.idx = idx) = some l) (hs : l.stopping = true) :
    exec (.residencyLoadStop core idx) s = .next (endLoad s core l false) := by
  show execResidencyLoadStop core idx s = _
  rw [execResidencyLoadStop, hl]
  exact congrArg _ (if_pos hs)

variable (hl : runningLoad s core idx = some l) (hs : l.stopping = false)
include hl hs

theorem exec_residencyLoadFail (off : Nat) (out : SegOutcome) : exec (.residencyLoadFail core (idx, off, out)) s =
    .next (endLoad (loadLog s core ((s.core core).rtEnt idx) l.sup off out) core l false) := by
  show execResidencyLoadFail core (idx, off, out) s = _
  rw [execResidencyLoadFail, hl]
  exact congrArg _ (if_neg (by simp [hs]))

variable (h1 : ((s.core core).rtEnt idx).state = 1#3)
  (hm : ∀ t ∈ (s.core core).mu, t.run.isSome = true → t.handle.toNat % 64 ≠ idx)
include h1 hm

/-- A load that runs, with no `TMMA` on its entry, completes from its source, or without one. -/
theorem exec_residencyLoadComplete (off : Nat) (out : SegOutcome) : exec (.residencyLoadComplete core (idx, off, out)) s =
    .next (completedLoad s core idx l off out) := by
  have hmu : ((s.core core).mu.any fun t => t.run.isSome && decide (t.handle.toNat % 64 = idx)) = false := by simpa using hm
  show execResidencyLoadComplete core (idx, off, out) s = _
  rw [execResidencyLoadComplete, hl]
  have hgo : ¬(l.stopping || ((s.core core).rtEnt idx).state != 1#3 ||
      (s.core core).mu.any fun t => t.run.isSome && decide (t.handle.toNat % 64 = idx)) = true := by simp [hs, h1, hmu]
  exact congrArg _ (if_neg hgo)

end

/-- A load whose source is read fills its tiles. -/
theorem loadTiles_of_read {s s2 : State} {core idx : Nat} {l : ResLoad} {img : List Byte}
    (hr : let en := (s.core core).rtEnt idx
      readVirt ((srcPages en).foldl (fun s va => markSource s core idx en.tenant.toNat va l.sup) s) (agentRes (s.siteOf core))
        en.tenant.toNat en.src.toNat en.length.toNat (engineNeed l.sup needR) = (s2, .inr img)) :
    loadTiles s core idx l = endLoad (fillTiles s2 core ((s.core core).rtEnt idx) img) core l true := by
  unfold loadTiles
  simp only at hr ⊢
  rw [hr]

/-! ### The ageing of the table (05 R127) -/

/-- The value of a key changed where it meets a condition. -/
def changeAt {α : Type} (d : α) (p : α → Prop) [DecidablePred p] (g : α → α) (m : SMap α) (k : Nat) : SMap α :=
  if p (mget d m k) then mset m k (g (mget d m k)) else m

section
variable {α : Type} (d : α) (p : α → Prop) [DecidablePred p] (g : α → α)

theorem mget_changeAt (m : SMap α) (k i : Nat) :
    mget d (changeAt d p g m k) i = if i = k ∧ p (mget d m i) then g (mget d m i) else mget d m i := by
  unfold changeAt
  by_cases hi : i = k
  · subst hi
    by_cases hp : p (mget d m i) <;> simp [hp]
  · split
    · simp [mget_mset_other d m _ hi, hi]
    · simp [hi]

theorem mget_foldl_changeAt_other {ks : List Nat} {i : Nat} (h : i ∉ ks) (m : SMap α) :
    mget d (ks.foldl (changeAt d p g) m) i = mget d m i := by
  refine List.foldlRecOn (motive := fun x => mget d x i = mget d m i) ks _ rfl fun x hx k hk => ?_
  rw [mget_changeAt, if_neg fun ⟨hi, _⟩ => h (hi ▸ hk), hx]

/-- Values changed one key after the other: each key once. -/
theorem mget_foldl_changeAt {ks : List Nat} {i : Nat} (hn : ks.Nodup) (h : i ∈ ks) (m : SMap α) :
    mget d (ks.foldl (changeAt d p g) m) i = if p (mget d m i) then g (mget d m i) else mget d m i := by
  induction ks generalizing m with
  | nil => cases h
  | cons k t ih =>
    obtain ⟨hk, ht⟩ := List.nodup_cons.1 hn
    rw [List.foldl_cons]
    obtain rfl | hi := List.mem_cons.1 h
    · rw [mget_foldl_changeAt_other d p g hk, mget_changeAt]
      simp
    · have hik : i ≠ k := fun hx => hk (hx ▸ hi)
      simp [ih ht hi, mget_changeAt, hik]

end

/-- A table once every age above 2^31 has fallen to it. -/
def agedTable (now : Nat) (rt : SMap RtEnt) : SMap RtEnt :=
  (List.range 64).foldl (changeAt {} (fun en : RtEnt => (now + 2 ^ 32 - en.lastuse.toNat) % 2 ^ 32 > 2 ^ 31)
    fun en => { en with lastuse := BitVec.ofNat 32 (now + 2 ^ 31) }) rt

theorem rtEnt_withTable (c : Core) (rt : SMap RtEnt) (i : Nat) : ({ c with rt := rt } : Core).rtEnt i = mget {} rt i := rfl

theorem rtEnt_agedTable (now : Nat) (c : Core) {i : Nat} (hi : i < 64) : ({ c with rt := agedTable now c.rt } : Core).rtEnt i =
    if 2 ^ 31 < (now + 2 ^ 32 - (c.rtEnt i).lastuse.toNat) % 2 ^ 32 then
      { c.rtEnt i with lastuse := BitVec.ofNat 32 (now + 2 ^ 31) } else c.rtEnt i := by
  have h := mget_foldl_changeAt {} (fun en : RtEnt => (now + 2 ^ 32 - en.lastuse.toNat) % 2 ^ 32 > 2 ^ 31)
    (fun en => { en with lastuse := BitVec.ofNat 32 (now + 2 ^ 31) }) List.nodup_range (List.mem_range.2 hi) c.rt
  rw [rtEnt_withTable]
  unfold agedTable Core.rtEnt
  exact h

theorem exec_lastuseAge_eq (s : State) : exec .lastuseAge s = .next (if s.ctl.clock / 1024 % 2 ^ 30 != 0 then s
    else { s with cores := s.cores.map (fun c => (c.1, { c.2 with rt := agedTable (rtNow s) c.2.rt })) }) := rfl

/-- LASTUSE_AGE at a multiple of 2^30 units of NOW: every table ages. -/
theorem exec_lastuseAge {s : State} (h : s.ctl.clock / 1024 % 2 ^ 30 = 0) : ∃ t, exec .lastuseAge s = .next t ∧
    ∀ core c, mfind s.cores core = some c → t.core core = { c with rt := agedTable (rtNow s) c.rt } := by
  have hb : ¬(s.ctl.clock / 1024 % 2 ^ 30 != 0) = true := by rw [h]; decide
  refine ⟨_, (exec_lastuseAge_eq s).trans (congrArg _ (if_neg hb)), fun core c hc => ?_⟩
  rw [State.core, mget, mfind_map s.cores (fun c => (c.1, { c.2 with rt := agedTable (rtNow s) c.2.rt })) (fun _ => rfl), hc]
  rfl

end Sys2Proof.Machine
end

section
/-! Residency loads as a whole (O43). -/

namespace Sys2Proof.Machine

theorem Quiet.siteOf {s t : State} (h : Quiet s t) (l : Nat) : t.siteOf l = s.siteOf l := h.dieOf l

/-! ### `RESLOAD` as a whole -/

/-- A `RESLOAD` that may load begins to in the state `z` that its release leaves. -/
theorem exec_resload_of_quads {x : FResload} {s z : State} {e : Env} {i : Nat} {en : RtEnt} (h : ready (.resload x) s = some e)
    (hr : (rdReg e.w false 0 x.a).toNat < 65536)
    (hv : rtValid (s.core e.r.core) e.b.ctx (rdReg e.w false 0 x.a).toNat = some (i, en)) {src len : Nat} (hz : Quiet s z)
    (hx : resloadRes x e s i en = resloadReleased x.d src len (loadFmt x) e i z)
    (hq : entryQuads z e.r.core ((z.core e.r.core).rtEnt i) ≠ none) :
    let tl := 4096 + s.siteOf e.r.core
    let n := (issueNum s e.b.ctx tl).1
    ∃ t l, exec (.resload x) s = .next t ∧ Retires s e t (numbered e.w x.d tl n) ∧ l ∈ (t.core e.r.core).resl ∧ l.idx = i ∧
      l.num = some n ∧ ((t.core e.r.core).rtEnt i).src = BitVec.ofNat 54 src ∧
      ((t.core e.r.core).rtEnt i).length = BitVec.ofNat 32 len ∧ ((t.core e.r.core).rtEnt i).lfmt = BitVec.ofNat 2 (loadFmt x) ∧
      ((t.core e.r.core).rtEnt i).srcv = true := by
  intro tl n
  obtain ⟨u, hu, hrun, ⟨l, hl, hi, hn⟩, hent⟩ := resloadReleased_of_quads (d := x.d) (src := src) (len := len) (f := loadFmt x) hq
  rw [hz.siteOf, issueNum_of_fed hz.fed] at hu hn
  obtain ⟨t, ht, hg, -, hres⟩ := (handleOp_resload x).exec_gives h hr hv (hx.trans hu) (hz.sameRun.trans hrun)
  have he : (t.core e.r.core).rtEnt i = (u.core e.r.core).rtEnt i := rtEnt_of_sameResid hres e.r.core i
  rw [← he] at hent
  exact ⟨t, l, ht, hg, (hres e.r.core).2 ▸ hl, hi, hn, hent⟩

/-! ### `RESREF` as a whole -/

theorem sameResid_issueNum (s : State) (ctx tl : Nat) : SameResid s (issueNum s ctx tl).2 := fun _ => ⟨rfl, rfl⟩
theorem sameResid_completeNum (s : State) (ctx tl n : Nat) : SameResid s (completeNum s ctx tl n) := fun _ => ⟨rfl, rfl⟩

section
variable {x : FDA} {s z : State} {e : Env} {i tl : Nat} {en : RtEnt} (h : ready (.resref x) s = some e)
  (hr : (rdReg e.w false 0 x.a).toNat < 65536)
  (hv : rtValid (s.core e.r.core) e.b.ctx (rdReg e.w false 0 x.a).toNat = some (i, en)) (hz : Quiet s z)
  (hx : resrefRes x.d e s i en = resrefReleased x.d e tl i en z)
include h hr hv hz hx

/-- A refresh of a resident or pinned entry completes its number at once. -/
theorem exec_resref_of_present (h23 : ((z.core e.r.core).rtEnt i).state = 2#3 ∨ ((z.core e.r.core).rtEnt i).state = 3#3) :
    let n := (issueNum s e.b.ctx tl).1
    ∃ t, exec (.resref x) s = .next t ∧ Retires s e t (numbered e.w x.d tl n) ∧
      (t.core e.r.core).rtEnt i = (z.core e.r.core).rtEnt i ∧
      (n ≤ (t.timeline e.b.ctx tl).counter ∨ n ∈ (t.timeline e.b.ctx tl).done) := by
  intro n
  have hf := hx.trans (resrefReleased_of_present h23)
  rw [issueNum_of_fed hz.fed] at hf
  obtain ⟨t, ht, hg, hfed, hres⟩ := (handleOp_resref x).exec_gives h hr hv hf
    ((hz.sameRun.trans (sameRun_issueNum ..)).trans (sameRun_completeNum ..))
  have hzt : SameResid z t := ((sameResid_issueNum z _ _).trans (sameResid_completeNum _ _ _ _)).trans hres
  refine ⟨t, ht, hg, rtEnt_of_sameResid hzt e.r.core i, ?_⟩
  rw [State.timeline, hfed]
  exact timeline_completeNum ..

/-- A refresh of a loading entry waits for that load. -/
theorem exec_resref_of_loading (h1 : ((z.core e.r.core).rtEnt i).state = 1#3) :
    let n := (issueNum s e.b.ctx tl).1
    ∃ t, exec (.resref x) s = .next t ∧ Retires s e t (numbered e.w x.d tl n) ∧
      ∀ l ∈ (t.core e.r.core).resl, l.idx = i → n ∈ l.also := by
  intro n
  have hf := hx.trans (resrefReleased_of_loading h1)
  rw [issueNum_of_fed hz.fed] at hf
  obtain ⟨t, ht, hg, -, hres⟩ := (handleOp_resref x).exec_gives h hr hv hf
    ((hz.sameRun.trans (sameRun_issueNum ..)).trans (sameRun_updCore _ e.r.core rfl))
  refine ⟨t, ht, hg, fun l hl hi => ?_⟩
  rw [(hres e.r.core).2, core_updCore, if_pos rfl] at hl
  exact mem_also_alsoNumber hl hi

variable (hs : ((z.core e.r.core).rtEnt i).state = 4#3 ∨
    (((z.core e.r.core).rtEnt i).state = 5#3 ∧ ∀ l ∈ (z.core e.r.core).resl, l.idx ≠ i))
  (hb : sourceBusy z e.b.ctx en.src.toNat en.length.toNat = false)
include hs hb

theorem exec_resref_of_full (hq : let y := (issueNum z e.b.ctx tl).2
      entryQuads y e.r.core ((y.core e.r.core).rtEnt i) = none) :
    ∃ t, exec (.resref x) s = .next t ∧ Retires s e t (wrReg e.w false 0 x.d (BitVec.ofNat 64 (2 ^ 63 + 3))) :=
  (handleOp_resref x).exec_refused h hr hv (hx.trans ((resrefReleased_of_gone hs hb).trans (resrefRefill_of_full hq)))
    hz.sameRun

/-- A refresh of an entry that has lost its quads or gone stale begins a load. -/
theorem exec_resref_of_gone (hq : let y := (issueNum z e.b.ctx tl).2
      entryQuads y e.r.core ((y.core e.r.core).rtEnt i) ≠ none) :
    let n := (issueNum s e.b.ctx tl).1
    ∃ t l, exec (.resref x) s = .next t ∧ Retires s e t (numbered e.w x.d tl n) ∧ l ∈ (t.core e.r.core).resl ∧ l.idx = i ∧
      l.num = some n := by
  intro n
  obtain ⟨u, hu, hrun, l, hl, hi, hn⟩ := resrefRefill_of_quads (d := x.d) hq
  rw [issueNum_of_fed hz.fed] at hu hn
  obtain ⟨t, ht, hg, -, hres⟩ := (handleOp_resref x).exec_gives h hr hv (hx.trans ((resrefReleased_of_gone hs hb).trans hu))
    (hz.sameRun.trans hrun)
  exact ⟨t, l, ht, hg, (hres e.r.core).2 ▸ hl, hi, hn⟩

end

/-- Settles O43: `RESLOAD` and `RESREF` by the checks of R413 and R414 and by the entry that the release leaves; the events by what
they meet; a load that ends leaves an entry whose status write can only make it stale. -/
theorem residencyLoads : Obligations.ResidencyLoads := by
  unfold Obligations.ResidencyLoads
  intro valid tl gets answers
  refine ⟨fun x s e i en h ⟨hr, hv⟩ => ?_, fun x s e i en h ⟨hr, hv⟩ => ?_, fun s core idx l hl hs => ?_,
    fun s core idx l => exec_residencyLoadStop,
    fun s core l => ⟨resl_endLoad s core l false, fun h1 => ⟨state_endLoad_failed h1, state_endLoad_done h1⟩⟩, fun s h => ?_⟩
  · intro core src len f faults
    have hop := handleOp_resload x
    refine ⟨fun hk ha => hop.exec_trap h hr hv hk (resloadRes_of_misaligned ha) (by decide : 8 ≤ 8),
      fun hk ha hs => hop.exec_trap h hr hv hk (resloadRes_of_high ha hs) (by decide : 8 ≤ 9), fun ha hs => ⟨fun hl => ?_,
        fun hl h1 => ?_, fun h1 hl hn hb hf => ?_⟩⟩
    · exact hop.exec_refused h hr hv (resloadRes_of_badLength ha hs hl) (.refl s)
    · exact hop.exec_refused h hr hv (resloadRes_of_loading ha hs hl h1) (.refl s)
    · have hx := resloadRes_of_idle ha hs hl h1 hn hb hf
      have hz := quiet_release s e.r.core .dv
      exact ⟨fun hq => hop.exec_refused h hr hv (hx.trans (resloadReleased_of_full hq)) hz.sameRun,
        exec_resload_of_quads h hr hv hz hx⟩
  · intro core z y quads number now
    refine ⟨fun h5 hn => (handleOp_resref x).exec_refused h hr hv (resrefRes_of_noSource h5 hn) (.refl s), fun hn hf => ?_⟩
    have hx := resrefRes_of_source (d := x.d) (i := i) hn hf
    have hz := quiet_release s e.r.core .dv
    exact ⟨exec_resref_of_present h hr hv hz hx, exec_resref_of_loading h hr hv hz hx, fun hs hb =>
      ⟨exec_resref_of_full h hr hv hz hx hs hb, exec_resref_of_gone h hr hv hz hx hs hb⟩⟩
  · intro e ctx ag
    refine ⟨fun off out hb => ?_, fun off out s1 x hsv ho hx => ?_,
      fun h1 hm => ⟨fun off out hsv => ?_, fun off out hsv hb hid => ?_⟩⟩
    · rw [exec_residencyLoadFail hl hs, loadLog_of_beyond _ _ hb]
    · rw [exec_residencyLoadFail hl hs, loadLog_of_xlat _ hsv ho hx]
    · rw [exec_residencyLoadComplete hl hs h1 hm, completedLoad_of_noSource _ _ _ hsv]
    · obtain ⟨hfail, hread⟩ := completedLoad_of_idle off out hsv hb hid
      rw [exec_residencyLoadComplete hl hs h1 hm]
      exact ⟨fun u hu => congrArg _ (hfail u hu), fun s2 img hu hi => congrArg _ ((hread hu).trans (loadTiles_of_read hi))⟩
  · obtain ⟨t, ht, ha⟩ := exec_lastuseAge h
    refine ⟨t, ht, fun core c i hc hi => ?_⟩
    rw [ha core c hc, rtEnt_agedTable _ _ hi]

end Sys2Proof.Machine
end

section
/-! What an access at a home leaves of the translations (06 R151, R158): the contexts, the range TLBs, the page TLBs and the heat updates
that wait. -/

namespace Sys2Proof.Machine

/-! ### Lines at the home -/

@[simp] theorem State.countLost_vm (s : State) (line : Nat) : (s.countLost line).vm = s.vm := by
  unfold State.countLost
  split <;> rfl

@[simp] theorem evictHome_vm (s : State) (n line : Nat) : (evictHome s n line).vm = s.vm := by
  unfold evictHome
  split <;> rfl

@[simp] theorem touchHome_vm (s : State) (n line cls chain : Nat) (ef : Bool) : (touchHome s n line cls chain ef).vm = s.vm := by
  unfold touchHome
  split
  · rfl
  · rw [State.setHomeLine_vm]
    split
    · rfl
    · split
      · rfl
      · exact evictHome_vm ..

@[simp] theorem settleHome_vm (s : State) (n line : Nat) : (settleHome s n line).vm = s.vm := by
  unfold settleHome
  split
  · rfl
  · split
    · exact evictHome_vm ..
    · rfl

@[simp] theorem hitHome_vm (s : State) (n line : Nat) : (hitHome s n line).vm = s.vm := by
  unfold hitHome
  split <;> rfl

@[simp] theorem hostBack_vm (s : State) (n page : Nat) : (hostBack s n page).vm = s.vm := by
  unfold hostBack
  split
  · rfl
  · split <;> rfl

@[simp] theorem homePut_vm (s : State) (line : Nat) (bytes : SMap Byte) (p : Option Nat) (cls chain : Nat) (ef : Bool) :
    (homePut s line bytes p cls chain ef).1.vm = s.vm := by
  unfold homePut
  split <;> simp

/-! ### RDCs and directories -/

@[simp] theorem cross_vm (s : State) (a b : Nat) : (cross s a b).vm = s.vm :=
  foldl_keeps (g := State.vm) (fun _ _ => State.updLink_vm ..) _ _

@[simp] theorem dropRdc_vm (s : State) (d line : Nat) : (dropRdc s d line).vm = s.vm := by
  unfold dropRdc
  split <;> rfl

@[simp] theorem lessDrop_vm (s : State) (n line : Nat) : (lessDrop s n line).vm = s.vm := rfl

@[simp] theorem retireEnt_vm (s : State) (n line d : Nat) : (retireEnt s n line d).vm = s.vm := by
  unfold retireEnt
  repeat' split
  all_goals rfl

@[simp] theorem takeEvicts_vm (s : State) (p : Msg → Nat → Bool) : (takeEvicts s p).vm = s.vm := by
  refine foldl_keeps (g := State.vm) (fun t m => ?_) _ _
  rw [retireEnt_vm]
  split
  · rfl
  · rw [homePut_vm]

@[simp] theorem ownerHome_vm (s : State) (line d : Nat) : (ownerHome s line d).vm = s.vm := by
  unfold ownerHome
  split
  · rfl
  · simp only
    split
    · rfl
    · exact homePut_vm ..

@[simp] theorem recallEnt_vm (s : State) (line d : Nat) : (recallEnt s line d).vm = s.vm := by
  unfold recallEnt
  simp only
  split
  · split
    · rfl
    · simp
  · rw [State.putDir_vm]
    exact foldl_keeps (g := State.vm) (fun _ _ => by simp) _ _

@[simp] theorem dirRoom_vm (s : State) (n line : Nat) : (dirRoom s n line).vm = s.vm := by
  unfold dirRoom
  simp only
  repeat' split
  all_goals simp

@[simp] theorem rebuild_vm (s : State) (n line x : Nat) : (rebuild s n line x).vm = s.vm := by
  unfold rebuild
  simp

@[simp] theorem discoverNow_vm (s : State) (line d : Nat) : (discoverNow s line d).vm = s.vm := by
  unfold discoverNow
  simp only
  split
  · rfl
  · split
    · exact foldl_keeps (g := State.vm) (fun _ _ => by simp) _ _
    · rw [rebuild_vm]
      exact foldl_keeps (g := State.vm) (fun _ _ => by simp) _ _

@[simp] theorem settleLine_vm (s : State) (line d : Nat) : (settleLine s line d).vm = s.vm := by
  unfold settleLine
  simp

@[simp] theorem pullDirty_vm (s : State) (line : Nat) : (pullDirty s line).vm = s.vm := by
  unfold pullDirty
  simp only
  repeat' split
  all_goals simp

@[simp] theorem dieAccess_vm (s : State) (n page : Nat) : (dieAccess s n page).vm = s.vm := by
  unfold dieAccess
  split
  · rfl
  · split <;> rfl

/-! ### Reads of the tables -/

@[simp] theorem readLine_vm (s : State) (line : Nat) : (readLine s line).vm = s.vm := by
  unfold readLine
  split
  · rfl
  · simp [serveRead]

@[simp] theorem readLines_vm (l : List Nat) (s : State) : (l.foldl readLine s).vm = s.vm := foldl_keeps (g := State.vm) readLine_vm l s

end Sys2Proof.Machine
end

section
/-! Translation of an address (O37): a range entry, then a page-TLB entry, then the walk (06 R151, R154, R158, R159). -/

namespace Sys2Proof.Machine

/-! ### The range TLB (06 R159) -/

theorem loadRange_tlb (s : State) (agent ctx : Nat) : (loadRange s agent ctx).1.vm.tlb = s.vm.tlb := by
  unfold loadRange
  split
  · rfl
  · split
    · rfl
    · simp

theorem tlbHit_loadRange (s : State) (agent ctx va : Nat) : tlbHit (loadRange s agent ctx).1 agent ctx va = tlbHit s agent ctx va := by
  unfold tlbHit
  rw [loadRange_tlb]

/-- A range TLB that cannot be loaded has met the cause that keeps its table from being read. -/
theorem rangeFault_of_loadRange_none {s : State} {agent ctx : Nat} (h : (loadRange s agent ctx).2 = none) :
    ∃ c, rangeFault s ctx = some c := by
  unfold loadRange at h
  split at h
  · cases h
  · split at h
    next hf => exact Option.isSome_iff_exists.1 hf
    next => cases h

/-! ### The translation, by what it meets -/

/-- The state in which the walk looks at the tables of a context: their lines have been read at their homes. -/
def walkState (s : State) (agent ctx va : Nat) : State :=
  (walkLines (loadRange s agent ctx).1 va 5 (s.ctxEnt ctx).root 1).foldl readLine (loadRange s agent ctx).1

variable {s : State} {agent ctx va : Nat} {l : List RangeEnt}

theorem translate_of_disabled (need : BitVec 4) (wr : Bool) (h : (s.ctxEnt ctx).en = false) :
    translate s agent ctx va need wr = (s, .inl (15, 0)) := by
  simp only [translate, h, Bool.not_false, if_true]

variable (need : BitVec 4) (wr : Bool) (he : (s.ctxEnt ctx).en = true)
include he

theorem translate_of_noRange {c : Nat} (hl : (loadRange s agent ctx).2 = none) (hc : rangeFault s ctx = some c) :
    translate s agent ctx va need wr = ((loadRange s agent ctx).1, .inl (c, 0)) := by
  simp only [translate, he, hl, hc, Bool.not_true, Bool.false_eq_true, if_false, Option.bind_none, Option.isNone_none, if_true,
    Option.getD_some]

variable (hl : (loadRange s agent ctx).2 = some l)
include hl

theorem translate_of_rangeHit {r : RangeEnt} (hr : rangeHit l va = some r) : (translate s agent ctx va need wr).2 =
    if r.perm &&& need = need then .inr { pa := r.pbase * 4096 + va - r.vbase * 4096, cls := r.cls, rs := r.rschk }
    else .inl (16, 0) := by
  simp only [translate, he, hl, hr, Bool.not_true, Bool.false_eq_true, if_false, Option.bind_some, bne_iff_ne]
  by_cases hp : r.perm &&& need = need <;> simp [hp]

variable (hr : rangeHit l va = none)
include hr

theorem translate_of_tlbHit {t : TlbEnt} (ht : tlbHit s agent ctx va = some t) : (translate s agent ctx va need wr).2 =
    if t.perm &&& need = need then .inr { pa := t.pbase + va % 2 ^ t.log2, cls := t.cls, rs := t.rs } else .inl (16, 0) := by
  simp only [translate, he, hl, hr, tlbHit_loadRange, ht, Bool.not_true, Bool.false_eq_true, if_false, Option.bind_some,
    Option.isNone_some, bne_iff_ne]
  by_cases hp : t.perm &&& need = need <;> simp [hp]

variable (ht : tlbHit s agent ctx va = none)
include ht

theorem translate_of_walkFault {c n : Nat} (hw : walkFrom (walkState s agent ctx va) va 5 (s.ctxEnt ctx).root 1 = .fault c n) :
    (translate s agent ctx va need wr).2 = .inl (c, n) := by
  unfold walkState at hw
  simp only [translate, he, hl, hr, tlbHit_loadRange, ht, hw, Bool.not_true, Bool.false_eq_true, if_false, Option.bind_some,
    Option.isNone_some]

theorem translate_of_walkLeaf {a x n : Nat} (hw : walkFrom (walkState s agent ctx va) va 5 (s.ctxEnt ctx).root 1 = .leaf a x n) :
    (translate s agent ctx va need wr).2 = if BitVec.ofNat 4 (bits x 5 2) &&& need = need then
      .inr { pa := bits x 47 12 * 4096 + va % 2 ^ leafLog2 n, cls := bits x 53 52, rs := bits x 51 51 = 1 } else .inl (16, 0) := by
  unfold walkState at hw
  simp only [translate, he, hl, hr, tlbHit_loadRange, ht, hw, Bool.not_true, Bool.false_eq_true, if_false, Option.bind_some,
    Option.isNone_some, bne_iff_ne]
  by_cases hp : BitVec.ofNat 4 (bits x 5 2) &&& need = need <;> simp [hp]

end Sys2Proof.Machine
end

section
/-! Translation as a whole (O37). -/

namespace Sys2Proof.Machine

/-- Settles O37: the outcomes of a translation in the order in which it looks for one. -/
theorem translation : Obligations.Translation := by
  unfold Obligations.Translation
  intro s agent ctx va need wr y
  refine ⟨translate_of_disabled need wr, fun he hl => ?_, fun l he hl => ⟨fun r hr => ?_, fun t hr ht => ?_, fun c n hr ht hw => ?_,
    fun a x n hr ht hw => ?_⟩⟩
  · obtain ⟨c, hc⟩ := rangeFault_of_loadRange_none hl
    exact ⟨c, by rw [translate_of_noRange need wr he hl hc], hc⟩
  · exact translate_of_rangeHit need wr he hl hr
  · exact translate_of_tlbHit need wr he hl hr ht
  · exact translate_of_walkFault need wr he hl hr ht hw
  · exact translate_of_walkLeaf need wr he hl hr ht hw

end Sys2Proof.Machine
end

section
/-! `TLBINV` (O35): what its forms drop, once the release and the accesses through what they drop are done (06 R158, R163, 21 R428). -/

namespace Sys2Proof.Machine

variable {s : State} {e : Env}

/-! ### The end of an instruction that has released -/

theorem exec_released {i : Instr} {body : Env → State → Res} {t : State} (h : ready i s = some e)
    (hb : body e s = .done t) (hq : Quiet s t) : issue i s body = t.setWarp e.r (retireWarp e.w e.next s.ctl.clock) := by
  obtain ⟨-, hw, -⟩ := ready_warp h
  rw [issue_done h hb ((hq.warp e.r).trans hw), hq.clock]

/-! ### Page-TLB entries -/

theorem dropTlb_vm (s : State) (p : TlbEnt → Bool) : (dropTlb s p).vm = { s.vm with tlb := s.vm.tlb.filter (fun t => !p t) } := rfl

theorem cleaner_dropWindows (s : State) (p : Nat → Bool) : Cleaner s (dropWindows s p) :=
  cleaner_mapCores s _ (fun c => by dsimp only; split <;> rfl) (fun c => by dsimp only; split <;> rfl)

theorem cleaner_dropTlb (s : State) (p : TlbEnt → Bool) : Cleaner s (dropTlb s p) := by
  unfold dropTlb
  exact (cleaner_vm s { s.vm with tlb := s.vm.tlb.filter (fun t => !p t) }).trans (cleaner_dropWindows ..)

theorem quiet_dropWindows (s : State) (p : Nat → Bool) : Quiet s (dropWindows s p) :=
  quiet_mapCores s _ (fun c => by dsimp only; split <;> rfl) (fun c => by dsimp only; split <;> rfl)
    (fun c => by dsimp only; split <;> rfl)

theorem quiet_dropTlb (s : State) (p : TlbEnt → Bool) : Quiet s (dropTlb s p) := by
  unfold dropTlb
  exact (quiet_tlb s (s.vm.tlb.filter (fun t => !p t)) s.vm.rtlb).trans (quiet_dropWindows ..)

/-- A form that drops page-TLB entries: they are gone, and the others are those that the release leaves. -/
theorem exec_of_tlbDrop {i : Instr} {p : Env → TlbEnt → Bool} (hi : exec i s = .next (tlbDrop i s p)) (h : ready i s = some e)
    (hc : s.stcnt e.r e.w < 64) (hf : fenceWait s e.r e.w e.b.ctx relKind .dv = none)
    (hp : pendingThrough s (throughTlb (s.vm.tlb.filter (p e))) = false) :
    ∃ t, exec i s = .next t ∧ Retires s e t e.w ∧ ReleasedAt t e.r.core .dv ∧ t.vm.ctx = s.vm.ctx ∧
      (∀ y ∈ t.vm.tlb, p e y = false) ∧ ∀ y ∈ (release s e.r.core .dv).vm.tlb, p e y = false → y ∈ t.vm.tlb := by
  have hq := (quiet_release s e.r.core .dv).trans (quiet_dropTlb _ (p e))
  have hd : tlbDrop i s p = (dropTlb (release s e.r.core .dv) (p e)).setWarp e.r (retireWarp e.w e.next s.ctl.clock) := by
    refine exec_released h ?_ hq
    rw [if_neg (by omega), relThen_of_ready _ hf, hp, if_neg Bool.false_ne_true]
  have hr := (releasedAt_release (fenceWait_rel_none hf)).mono
    ((cleaner_dropTlb _ (p e)).trans (cleaner_setWarp _ e.r (retireWarp e.w e.next s.ctl.clock)))
  refine ⟨_, hi.trans (congrArg Host.Outcome.next hd), warp?_setWarp .., hr, ?_⟩
  rw [State.setWarp_vm, hq.ctx, dropTlb_vm]
  refine ⟨rfl, fun y hy => ?_, fun y hy hn => List.mem_filter.2 ⟨hy, by rw [hn, Bool.not_false]⟩⟩
  simpa using (List.mem_filter.1 hy).2

/-! ### Range TLBs -/

/-- The state in which the range table of a context is read anew: its lines have been read at their homes. -/
def rangeRead (s : State) (ctx : Nat) : State :=
  (linesOf (s.ctxEnt ctx).rtab (32 * min 32 (s.ctxEnt ctx).nrange)).foldl readLine (dropWindows s (fun c => c = ctx))

theorem rangeRead_vm (s : State) (ctx : Nat) : (rangeRead s ctx).vm = s.vm := by
  rw [rangeRead, readLines_vm]
  rfl

/-- The range TLBs with those of a context dropped. -/
def rangeDropped (s : State) (ctx : Nat) : State :=
  { dropWindows s (fun c => c = ctx) with vm := { s.vm with rtlb := s.vm.rtlb.filter (fun e => e.1 % 64 != ctx) } }

/-- The range TLBs with those of a context loaded from its table. -/
def rangeLoaded (s : State) (ctx : Nat) : State :=
  let z := rangeRead s ctx
  { z with vm := { z.vm with rtlb := z.vm.rtlb.map (fun e => if e.1 % 64 = ctx then (e.1, rangeTable z ctx) else e) } }

theorem rangeTable_of_rtlb (s : State) (r : SMap (List RangeEnt)) (ctx : Nat) :
    rangeTable { s with vm := { s.vm with rtlb := r } } ctx = rangeTable s ctx := rfl

theorem rangeTable_rangeLoaded (s : State) (ctx : Nat) : rangeTable (rangeLoaded s ctx) ctx = rangeTable (rangeRead s ctx) ctx :=
  rangeTable_of_rtlb (rangeRead s ctx) _ ctx

theorem rangeLoaded_vm (s : State) (ctx : Nat) : (rangeLoaded s ctx).vm = { s.vm with
    rtlb := s.vm.rtlb.map (fun e => if e.1 % 64 = ctx then (e.1, rangeTable (rangeRead s ctx) ctx) else e) } := by
  rw [rangeLoaded, rangeRead_vm]

theorem reloadRange_eq (s : State) (ctx : Nat) : reloadRange s ctx =
    if (rangeFault (dropWindows s (fun c => c = ctx)) ctx).isSome then rangeDropped s ctx else rangeLoaded s ctx := rfl

theorem cleaner_reloadRange (s : State) (ctx : Nat) : Cleaner s (reloadRange s ctx) := by
  rw [reloadRange_eq]
  split
  · exact (cleaner_dropWindows s _).trans (cleaner_vm _ _)
  · exact ((cleaner_dropWindows s _).trans (Cleaner.foldl cleaner_readLine _ _)).trans (cleaner_vm (rangeRead s ctx) _)

theorem quiet_reloadRange (s : State) (ctx : Nat) : Quiet s (reloadRange s ctx) := by
  rw [reloadRange_eq]
  split
  · exact (quiet_dropWindows s (fun c => c = ctx)).trans (quiet_tlb _ _ _)
  · exact ((quiet_dropWindows s _).trans (Quiet.foldl quiet_readLine _ _)).trans (quiet_tlb (rangeRead s ctx) _ _)

/-- What the new load of the range TLBs of a context leaves: its own are its table, and the others are as before. -/
theorem reloadRange_spec (s : State) (ctx : Nat) : (reloadRange s ctx).vm.tlb = s.vm.tlb ∧
    (∀ y ∈ (reloadRange s ctx).vm.rtlb, y.1 % 64 = ctx → y.2 = rangeTable (reloadRange s ctx) ctx) ∧
    ∀ y ∈ s.vm.rtlb, y.1 % 64 ≠ ctx → y ∈ (reloadRange s ctx).vm.rtlb := by
  rw [reloadRange_eq]
  split
  · refine ⟨rfl, fun y hy hc => ?_, fun y hy hc => List.mem_filter.2 ⟨hy, by simpa using hc⟩⟩
    exact absurd hc (by simpa using (List.mem_filter.1 hy).2)
  · refine ⟨by rw [rangeLoaded_vm], fun y hy hc => ?_, fun y hy hc => ?_⟩
    · rw [rangeLoaded_vm] at hy
      obtain ⟨x, -, rfl⟩ := List.mem_map.1 hy
      by_cases hx : x.1 % 64 = ctx
      · rw [if_pos hx, rangeTable_rangeLoaded]
      · rw [if_neg hx] at hc
        exact absurd hc hx
    · rw [rangeLoaded_vm]
      exact List.mem_map.2 ⟨y, hy, if_neg hc⟩

theorem rangeTable_setWarp (s : State) (r : WRef) (w : Warp) (ctx : Nat) : rangeTable (s.setWarp r w) ctx = rangeTable s ctx := rfl

/-- The accesses that `TLBINV.range` waits for: those of the context that a range entry which it drops translates. -/
def throughRange (s : State) (own ctx : Nat) (va : Option Nat) (pa : Nat) : Bool :=
  ctx = own && ((s.vm.rtlb.filter (fun y => y.1 % 64 = own)).flatMap (fun y => y.2)).any (fun r => r.v && (match va with
    | some v => r.vbase ≤ v / 4096 && v / 4096 ≤ r.vlimit
    | none => r.pbase ≤ pa / 4096 && pa / 4096 ≤ r.pbase + (r.vlimit - r.vbase)))

/-- What `TLBINV.range` does. -/
def tlbinvRangeRes (e : Env) (s : State) : Res :=
  relThen s e .dv (fun z => if pendingThrough s (throughRange s e.b.ctx) then .wait s .other else .done (reloadRange z e.b.ctx))

theorem exec_tlbinvRange_eq (x : FHd) (s : State) :
    exec (.tlbinvRange x) s = .next (issue (.tlbinvRange x) s tlbinvRangeRes) := rfl

theorem exec_tlbinvRange {x : FHd} (h : ready (.tlbinvRange x) s = some e) (hf : fenceWait s e.r e.w e.b.ctx relKind .dv = none)
    (hp : pendingThrough s (throughRange s e.b.ctx) = false) : exec (.tlbinvRange x) s =
      .next ((reloadRange (release s e.r.core .dv) e.b.ctx).setWarp e.r (retireWarp e.w e.next s.ctl.clock)) := by
  rw [exec_tlbinvRange_eq, exec_released h ?_ ((quiet_release s e.r.core .dv).trans (quiet_reloadRange ..))]
  rw [tlbinvRangeRes, relThen_of_ready _ hf, hp, if_neg Bool.false_ne_true]

/-- `TLBINV.page` names an entry that translates its page for the context, G entries included. -/
def namedByPage (x : FA) (e : Env) (t : TlbEnt) : Bool :=
  (t.ctx = e.b.ctx || t.g) && t.vpage = (rdReg e.w false 0 x.a).toNat / 2 ^ t.log2

/-- `TLBINV.ctx` names every entry of the context without G. -/
def namedByCtx (e : Env) (t : TlbEnt) : Bool := t.ctx = e.b.ctx && !t.g

theorem exec_tlbinvPage_eq (x : FA) (s : State) :
    exec (.tlbinvPage x) s = .next (tlbDrop (.tlbinvPage x) s (namedByPage x)) := rfl

theorem exec_tlbinvCtx_eq (x : FHd) (s : State) : exec (.tlbinvCtx x) s = .next (tlbDrop (.tlbinvCtx x) s namedByCtx) := rfl

/-- Settles O35: each form drops its entries from the state that the release at .dv leaves. -/
theorem tlbInvalidation : Obligations.TlbInvalidation := by
  unfold Obligations.TlbInvalidation
  intro drop
  refine ⟨fun x s e h hc hf hp => ?_, fun x s e h hc hf hp => ?_, fun x s e h hc hf hp => ?_⟩
  · exact exec_of_tlbDrop (exec_tlbinvPage_eq x s) h hc hf hp
  · exact exec_of_tlbDrop (exec_tlbinvCtx_eq x s) h hc hf hp
  · obtain ⟨htlb, hown, hother⟩ := reloadRange_spec (release s e.r.core .dv) e.b.ctx
    have hr := (releasedAt_release (fenceWait_rel_none hf)).mono
      ((cleaner_reloadRange _ e.b.ctx).trans (cleaner_setWarp _ e.r (retireWarp e.w e.next s.ctl.clock)))
    refine ⟨_, exec_tlbinvRange h hf hp, warp?_setWarp .., hr, ?_⟩
    rw [State.setWarp_vm, rangeTable_setWarp]
    exact ⟨htlb, hown, hother⟩

end Sys2Proof.Machine
end

section
/-! Maps whose every entry is the one of its key, and the bytes that writes of such a map leave. -/

namespace Sys2Proof.Machine

/-! ### One entry for a key -/

/-- Every entry of a map is the one that its key finds. -/
def UniqueKeys {α : Type} (m : SMap α) : Prop := ∀ e ∈ m, mfind m e.1 = some e.2

theorem uniqueKeys_nil {α : Type} : UniqueKeys ([] : SMap α) := fun _ he => nomatch he

theorem UniqueKeys.mset {α : Type} {m : SMap α} (h : UniqueKeys m) (k : Nat) (v : α) : UniqueKeys (mset m k v) := by
  intro e he
  rw [mfind_mset]
  obtain rfl | ⟨hm, hk⟩ := mem_mset.1 he
  · exact if_pos rfl
  · rw [if_neg hk]
    exact h e hm

theorem UniqueKeys.foldl_mset {α : Type} (l : SMap α) {m : SMap α} (h : UniqueKeys m) :
    UniqueKeys (l.foldl (fun m e => Machine.mset m e.1 e.2) m) :=
  List.foldlRecOn l _ h fun _ hm e _ => hm.mset e.1 e.2

theorem mfind_eq_none {α : Type} {m : SMap α} {k : Nat} (h : ∀ e ∈ m, e.1 ≠ k) : mfind m k = none := by
  cases hk : mfind m k with
  | none => rfl
  | some v => exact absurd rfl (h _ (mem_of_mfind hk))

/-- The last entry of a key. -/
def lastOf {α : Type} (l : SMap α) (k : Nat) : Option α := (l.reverse.find? (fun e => e.1 = k)).map (·.2)

theorem lastOf_cons {α : Type} (e : Nat × α) (l : SMap α) (k : Nat) :
    lastOf (e :: l) k = (lastOf l k).or (if e.1 = k then some e.2 else none) := by
  unfold lastOf
  rw [List.reverse_cons, List.find?_append]
  cases l.reverse.find? (fun e => e.1 = k) with
  | some x => rfl
  | none => by_cases h : e.1 = k <;> simp [h]

theorem lastOf_eq_none {α : Type} {l : SMap α} {k : Nat} (h : ∀ e ∈ l, e.1 ≠ k) : lastOf l k = none := by
  rw [lastOf, List.find?_eq_none.2 (fun e he => by simpa using h e (List.mem_reverse.1 he)), Option.map_none]

theorem UniqueKeys.lastOf {α : Type} {m : SMap α} (h : UniqueKeys m) (k : Nat) : lastOf m k = mfind m k := by
  cases hk : mfind m k with
  | none => exact lastOf_eq_none fun e he hek => by simp [← hek, h e he] at hk
  | some v =>
    have hm := mem_of_mfind hk
    cases hl : m.reverse.find? (fun e => e.1 = k) with
    | none => exact absurd (List.find?_eq_none.1 hl _ (List.mem_reverse.2 hm)) (by simp)
    | some e =>
      have he1 : e.1 = k := by simpa using List.find?_some hl
      have he2 := h e (List.mem_reverse.1 (List.mem_of_find?_eq_some hl))
      rw [Machine.lastOf, hl, Option.map_some, ← he2, he1, hk]

/-! ### Bytes written one after the other -/

theorem mget_putBytes (l : SMap Byte) (m : SMap Byte) (a : Nat) :
    mget 0#8 (putBytes m l) a = (lastOf l a).getD (mget 0#8 m a) := by
  unfold putBytes
  induction l generalizing m with
  | nil => rfl
  | cons e t ih =>
    rw [List.foldl_cons, ih, lastOf_cons, mget_mput]
    cases lastOf t a with
    | some v => rfl
    | none => by_cases h : e.1 = a <;> simp [h, Ne.symm]

/-- What the bytes of a map leave that are written where each has one address. -/
theorem UniqueKeys.mget_putBytes {l : SMap Byte} (h : UniqueKeys l) (m : SMap Byte) (a : Nat) :
    mget 0#8 (putBytes m l) a = (mfind l a).getD (mget 0#8 m a) := by
  rw [Machine.mget_putBytes, h.lastOf]

/-- The bytes of the lanes of a store have one entry for each address. -/
theorem uniqueKeys_mergeLanes (f : Nat → List Byte) (l : List LaneAcc) : UniqueKeys (mergeLanes f l) :=
  List.foldlRecOn l _ uniqueKeys_nil fun _ hm _ _ => hm.foldl_mset _

end Sys2Proof.Machine
end

section
/-! `ST` (O29): the bytes of a store in the scratchpad and in the write buffers (06 R136, 07 R168, 21 R425, R426). -/

namespace Sys2Proof.Machine

/-! ### The lanes of an access -/

theorem checkLanes_scratch (s : State) (e : Env) (need : BitVec 4) (wr : Bool) (w : Nat) (addr : Nat → Nat) (lanes : List Nat) :
    (checkLanes s e .s need wr w addr lanes).1 = s := by
  unfold checkLanes
  refine List.foldlRecOn (motive := fun r : State × List LaneFault × List LaneAcc => r.1 = s) lanes _ rfl fun r hr i _ => ?_
  dsimp only
  split <;> exact hr

theorem quiet_checkLanes (s : State) (e : Env) (sp : Space) (need : BitVec 4) (wr : Bool) (w : Nat) (addr : Nat → Nat)
    (lanes : List Nat) : Quiet s (checkLanes s e sp need wr w addr lanes).1 := by
  unfold checkLanes
  refine Quiet.foldl_fst (fun r i => ?_) lanes (s, [], [])
  cases sp with
  | g =>
    have h := quiet_checkG r.1 e.r e.b.ctx (warpNeed e.w need) wr i (addr i) w
    dsimp only
    split <;> exact h
  | s =>
    dsimp only
    split <;> exact .refl _

theorem quiet_freshId (s : State) : Quiet s s.freshId.2 :=
  ⟨rfl, rfl, rfl, rfl, fun _ => rfl, fun _ _ => rfl, rfl, rfl, rfl, id⟩

/-! ### Blocks -/

/-- A block and the warp of its core written, and nothing else. -/
theorem blockFrame_setBlock_setWarp (s : State) (r : WRef) (h : Nat) (b : Block) (w : Warp) :
    BlockFrame s ((s.setBlock r.core h b).setWarp r w) r h := by
  have hc : ∀ l, ((s.setBlock r.core h b).setWarp r w).core l = if l = r.core then
      { s.core r.core with warps := mset (s.core r.core).warps r.slot w, blocks := mset (s.core r.core).blocks h b }
      else s.core l := by
    intro l
    rw [State.setWarp, core_updCore, State.setBlock, core_updCore, core_updCore, if_pos rfl]
    split
    · rfl
    · rfl
  refine ⟨rfl, fun l hl => (hc l).trans (if_neg hl), ?_, fun q hq => ?_, fun l k hk => ?_⟩
  · rw [hc, if_pos rfl]
  · rw [warp?_setWarp_other _ _ _ _ hq, warp?_setBlock]
  · rw [block?_setWarp, block?_setBlock, if_neg hk]

/-! ### Write buffers (07 R168) -/

/-- The write-buffer entry of a line of a store. -/
def storeEnt (s : State) (r : WRef) (e : Env) (op : Nat) (ef atom : Bool) (l : List LaneAcc) (m : SMap Byte) (ln : Nat) : WbEnt :=
  { slot := r.slot, op := op, ctx := e.b.ctx, cls := ((l.find? (fun a => a.pa / 64 = ln)).map (·.cls)).getD 0, chain := chainOf s e.b,
    ef := ef, bytes := m.filter (fun b => b.1 / 64 = ln), atom := atom }

/-- An entry goes to the end of the write buffer of its line. -/
def bufferEnt (s : State) (core ln : Nat) (x : WbEnt) : State :=
  s.updCore core (fun c => { c with wb := mput [] c.wb (ln % 4) (mget [] c.wb (ln % 4) ++ [x]) })

theorem enterWb_eq (s : State) (r : WRef) (e : Env) (op : Nat) (ef atom : Bool) (l : List LaneAcc) (m : SMap Byte) :
    enterWb s r e op ef atom l m = ((m.map (fun b => b.1 / 64)).eraseDups).foldl
      (fun s ln => bufferEnt s r.core ln (storeEnt s r e op ef atom l m ln)) s := rfl

theorem quiet_enterWb (s : State) (r : WRef) (e : Env) (op : Nat) (ef atom : Bool) (l : List LaneAcc) (m : SMap Byte) :
    Quiet s (enterWb s r e op ef atom l m) := by
  rw [enterWb_eq]
  exact Quiet.foldl (fun _ _ => quiet_updCore _ _ _ rfl rfl) _ _

/-- The newest store to a byte once an entry has entered its buffer. -/
theorem wbByte_bufferEnt (s : State) (core ln pa : Nat) (x : WbEnt) : wbByte ((bufferEnt s core ln x).core core) pa =
    if pa / 64 % 4 = ln % 4 then (lastOf x.bytes pa).or (wbByte (s.core core) pa) else wbByte (s.core core) pa := by
  rw [bufferEnt, core_updCore, if_pos rfl]
  unfold wbByte
  simp only [mget_mput]
  split
  next h =>
    rw [h, List.reverse_append, List.reverse_singleton, List.singleton_append, List.findSome?_cons]
    unfold lastOf
    cases (x.bytes.reverse.find? (fun e => e.1 = pa)) <;> rfl
  next => rfl

/-- The entry of a line holds the bytes of the store on that line. -/
theorem lastOf_storeEnt {m : SMap Byte} (hm : UniqueKeys m) (s : State) (r : WRef) (e : Env) (op : Nat) (ef atom : Bool)
    (l : List LaneAcc) (ln pa : Nat) :
    lastOf (storeEnt s r e op ef atom l m ln).bytes pa = if pa / 64 = ln then mfind m pa else none := by
  unfold storeEnt
  split
  next h =>
    rw [← hm.lastOf]
    unfold lastOf
    rw [← List.filter_reverse, List.find?_filter]
    congr 2
    funext b
    by_cases hb : b.1 = pa <;> simp [hb, h]
  next h =>
    refine lastOf_eq_none fun b hb hpa => h ?_
    rw [← hpa]
    simpa using (List.mem_filter.1 hb).2

theorem wbByte_storeEnts {m : SMap Byte} (hm : UniqueKeys m) (r : WRef) (e : Env) (op : Nat) (ef atom : Bool) (l : List LaneAcc)
    (pa : Nat) (lines : List Nat) (s : State) :
    wbByte ((lines.foldl (fun s ln => bufferEnt s r.core ln (storeEnt s r e op ef atom l m ln)) s).core r.core) pa =
      if pa / 64 ∈ lines then (mfind m pa).or (wbByte (s.core r.core) pa) else wbByte (s.core r.core) pa := by
  induction lines generalizing s with
  | nil => rfl
  | cons ln t ih =>
    rw [List.foldl_cons, ih, wbByte_bufferEnt, lastOf_storeEnt hm]
    by_cases h : pa / 64 = ln
    · subst h
      cases mfind m pa <;> simp
    · simp [h]

/-- Where the core's own loads find the bytes of a store, newest first. -/
theorem wbByte_enterWb {m : SMap Byte} (hm : UniqueKeys m) (s : State) (r : WRef) (e : Env) (op : Nat) (ef atom : Bool)
    (l : List LaneAcc) (pa : Nat) :
    wbByte ((enterWb s r e op ef atom l m).core r.core) pa = (mfind m pa).or (wbByte (s.core r.core) pa) := by
  rw [enterWb_eq, wbByte_storeEnts hm]
  split
  · rfl
  next h =>
    have hn : mfind m pa = none := mfind_eq_none fun b hb hpa => h (List.mem_eraseDups.2 (List.mem_map.2 ⟨b, hb, by rw [hpa]⟩))
    rw [hn, Option.none_or]

/-- The write buffers hold no byte of a home. -/
theorem homeByte_enterWb (s : State) (r : WRef) (e : Env) (op : Nat) (ef atom : Bool) (l : List LaneAcc) (m : SMap Byte)
    (line off : Nat) : (enterWb s r e op ef atom l m).homeByte line off = s.homeByte line off := by
  have hh : (enterWb s r e op ef atom l m).homes = s.homes := foldl_keeps (fun _ _ => State.updCore_homes ..) _ s
  exact homeByte_of_eq hh (enterWb_mem ..) (quiet_enterWb ..).tier line off

theorem homeByte_setWarp (s : State) (r : WRef) (w : Warp) (line off : Nat) :
    (s.setWarp r w).homeByte line off = s.homeByte line off := rfl

theorem homeByte_freshId (s : State) (line off : Nat) : s.freshId.2.homeByte line off = s.homeByte line off := rfl

theorem wbByte_setWarp (s : State) (r : WRef) (w : Warp) (pa : Nat) : wbByte ((s.setWarp r w).core r.core) pa = wbByte (s.core r.core) pa := by
  rw [State.setWarp, core_updCore, if_pos rfl]
  rfl

theorem wbByte_freshId (s : State) (core pa : Nat) : wbByte (s.freshId.2.core core) pa = wbByte (s.core core) pa := rfl

/-! ### `ST` -/

/-- The lanes of an `ST`, checked. -/
def storeLanes (x : FLdSt) (e : Env) (s : State) : State × List LaneFault × List LaneAcc :=
  checkLanes s e x.sp needW true (accW x.ty x.wid) (laneAddr e.w x.sp x.a x.off) (accLanes e x.cls)

/-- The bytes of an `ST` by their addresses. -/
def storeMap (x : FLdSt) (e : Env) (s : State) : SMap Byte :=
  mergeLanes (fun l => storeBytes e.w x.cls x.d l (accW x.ty x.wid)) (storeLanes x e s).2.2

/-- What an `ST` does once nothing holds it. -/
def storeDone (x : FLdSt) (e : Env) (s : State) : Res :=
  match x.sp with
  | .s => endLanes ((storeLanes x e s).1.updBlock e.r.core e.w.blk (fun b => { b with scr := putBytes b.scr (storeMap x e s) }))
      (storeLanes x e s).2.1
  | .g => endLanes (enterWb (storeLanes x e s).1.freshId.2 e.r e (storeLanes x e s).1.freshId.1 (x.cache = .ef) false
      (storeLanes x e s).2.2 (storeMap x e s)) (storeLanes x e s).2.1

/-- What an `ST` does. -/
def storeRes (x : FLdSt) (e : Env) (s : State) : Res :=
  if x.sp = .g && s.stcnt e.r e.w ≥ 64 then .wait s .counter else if unbound e.w then .wait s .load else storeDone x e s

theorem exec_st_eq (x : FLdSt) (s : State) : exec (.st x) s = .next (issue (.st x) s (storeRes x)) := rfl

section
variable {x : FLdSt} {s : State} {e : Env}

theorem unbound_eq_true {w : Warp} : unbound w = true ↔ w.loads ≠ [] ∨ w.atoms ≠ [] := by simp [unbound]

theorem storeRes_of_room (hc : x.sp = .g → s.stcnt e.r e.w < 64) : storeRes x e s =
    if unbound e.w then .wait s .load else storeDone x e s := by
  rw [storeRes, if_neg]
  simpa using hc

theorem storeRes_of_bound (hc : x.sp = .g → s.stcnt e.r e.w < 64) (hl : e.w.loads = []) (ha : e.w.atoms = []) :
    storeRes x e s = storeDone x e s := by
  rw [storeRes_of_room hc, if_neg]
  simp [unbound, hl, ha]

theorem storeDone_scratch (hx : x.sp = .s) (hq : (storeLanes x e s).2.1 = []) (hb : s.block? e.r.core e.w.blk = some e.b) :
    storeDone x e s = .done (s.setBlock e.r.core e.w.blk { e.b with scr := putBytes e.b.scr (storeMap x e s) }) := by
  have h1 : (storeLanes x e s).1 = s := by rw [storeLanes, hx, checkLanes_scratch]
  unfold storeDone
  rw [hx, hq, h1, State.updBlock, hb]
  rfl

theorem storeDone_global (hx : x.sp = .g) (hq : (storeLanes x e s).2.1 = []) :
    storeDone x e s = .done (enterWb (storeLanes x e s).1.freshId.2 e.r e (storeLanes x e s).1.freshId.1 (x.cache = .ef) false
      (storeLanes x e s).2.2 (storeMap x e s)) := by
  unfold storeDone
  rw [hx, hq]
  rfl

variable (h : ready (.st x) s = some e)
include h

/-- A store waits while an access of its warp is not bound (log 52). -/
theorem exec_st_of_unbound (hc : x.sp = .g → s.stcnt e.r e.w < 64) (hu : e.w.loads ≠ [] ∨ e.w.atoms ≠ []) :
    exec (.st x) s = .next (waiting s e .load) := by
  rw [exec_st_eq, issue_wait_same h]
  rw [storeRes_of_room hc, if_pos (unbound_eq_true.2 hu)]

variable (hl : e.w.loads = []) (ha : e.w.atoms = []) (hq : (storeLanes x e s).2.1 = [])
include hl ha hq

/-- A scratchpad store writes its bytes in its block. -/
theorem exec_st_scratch (hx : x.sp = .s) : exec (.st x) s = .next
    ((s.setBlock e.r.core e.w.blk { e.b with scr := putBytes e.b.scr (storeMap x e s) }).setWarp e.r
      (retireWarp e.w e.next s.ctl.clock)) := by
  obtain ⟨-, hw, hb⟩ := ready_warp h
  have hr : storeRes x e s = _ :=
    (storeRes_of_bound (fun hg => by simp [hx] at hg) hl ha).trans (storeDone_scratch hx hq hb)
  rw [exec_st_eq, issue_done h hr ((warp?_setBlock ..).trans hw)]
  rfl

/-- A global store puts its bytes in the write buffers. -/
theorem exec_st_global (hx : x.sp = .g) (hc : s.stcnt e.r e.w < 64) : exec (.st x) s = .next
    ((enterWb (storeLanes x e s).1.freshId.2 e.r e (storeLanes x e s).1.freshId.1 (x.cache = .ef) false (storeLanes x e s).2.2
      (storeMap x e s)).setWarp e.r (retireWarp e.w e.next s.ctl.clock)) := by
  have hr : storeRes x e s = _ := (storeRes_of_bound (fun _ => hc) hl ha).trans (storeDone_global hx hq)
  rw [exec_st_eq, exec_released h hr (((quiet_checkLanes ..).trans (quiet_freshId _)).trans (quiet_enterWb ..))]

end

/-- Settles O29: a scratchpad store by the block that it leaves, a global one by the write buffers, and the wait of log 52. -/
theorem stores : Obligations.Stores := by
  unfold Obligations.Stores
  intro x s e h w q m
  have hm : UniqueKeys (storeMap x e s) := uniqueKeys_mergeLanes _ _
  refine ⟨fun hx hl ha hq => ?_, fun hx hc hl ha hq => ?_, fun _ hc hu => exec_st_of_unbound h hc hu⟩
  · refine ⟨_, { e.b with scr := putBytes e.b.scr (storeMap x e s) }, exec_st_scratch h hl ha hq hx,
      blockFrame_setBlock_setWarp .., warp?_setWarp .., ?_, rfl, hm.mget_putBytes e.b.scr⟩
    rw [block?_setWarp, block?_setBlock_same]
  · refine ⟨_, exec_st_global h hl ha hq hx hc, warp?_setWarp .., fun pa => ?_, fun pa => ?_⟩
    · rw [wbByte_setWarp, wbByte_enterWb hm, wbByte_freshId]
      show (mfind m pa).or _ = _
      cases mfind m pa <;> rfl
    · rw [homeByte_setWarp, homeByte_enterWb, homeByte_freshId]
      rfl

end Sys2Proof.Machine
end

section
/-! The bytes of a load and the registers that they fill (06 R136, 20 R397). -/

namespace Sys2Proof.Machine

/-! ### Little-endian numbers -/

theorem leNat_drop (l : List Byte) (n : Nat) : leNat (l.drop n) = leNat l / 256 ^ n := by
  induction n generalizing l with
  | zero => simp
  | succ n ih =>
    cases l with
    | nil => simp [leNat]
    | cons b t =>
      have hb : (b.toNat + 256 * leNat t) / 256 = leNat t := by omega
      rw [List.drop_succ_cons, ih, leNat, Nat.pow_succ', ← Nat.div_div_eq_div_mul, hb]

theorem leNat_take (l : List Byte) (n : Nat) : leNat (l.take n) = leNat l % 256 ^ n := by
  induction n generalizing l with
  | zero => simp [leNat, Nat.mod_one]
  | succ n ih =>
    cases l with
    | nil => simp [leNat]
    | cons b t =>
      have hm := Nat.mod_mul (x := b.toNat + 256 * leNat t) (a := 256) (b := 256 ^ n)
      have hd : (b.toNat + 256 * leNat t) / 256 = leNat t := by omega
      rw [List.take_succ_cons, leNat, ih, leNat, Nat.pow_succ', hm, hd]
      omega

/-- The k-th word of a little-endian number is the number of its four bytes. -/
theorem ofNat_leNat_word (l : List Byte) (k : Nat) :
    BitVec.ofNat 32 (leNat l / 2 ^ (32 * k)) = BitVec.ofNat 32 (leNat ((l.drop (4 * k)).take 4)) := by
  rw [leNat_take, leNat_drop, show 256 ^ (4 * k) = 2 ^ (32 * k) by rw [show 256 = 2 ^ 8 from rfl, ← Nat.pow_mul]; congr 1; omega]
  apply BitVec.eq_of_toNat_eq
  rw [BitVec.toNat_ofNat, BitVec.toNat_ofNat, show 256 ^ 4 = 2 ^ 32 from rfl, Nat.mod_mod]

theorem ofNat_wrapInt (n : Nat) (z : Int) : BitVec.ofNat n (wrapInt n z) = BitVec.ofInt n z := by
  apply BitVec.eq_of_toNat_eq
  have hp : (0 : Int) < 2 ^ n := by positivity
  have hlt : wrapInt n z < 2 ^ n := by
    zify
    rw [wrapInt, Int.toNat_of_nonneg (Int.emod_nonneg _ hp.ne')]
    exact Int.emod_lt_of_pos _ hp
  rw [BitVec.toNat_ofNat, Nat.mod_eq_of_lt hlt, BitVec.toNat_ofInt, wrapInt]
  norm_cast

/-! ### The registers of a destination -/

/-- An element below 32 bits fills a lane of one register, extended by type. -/
theorem getV_bindLane_narrow (w : Warp) (r : Nat) (sx : Bool) {lane : Nat} {l : List Byte} (hl : lane < 32) (hn : l.length < 4)
    (n : Nat) {k : Nat} (hk : k < 32) : (bindLane w (.vreg r sx) lane l).getV n k = if n = r ∧ k = lane then
      BitVec.ofInt 32 (if sx then sextNat (8 * l.length) (leNat l) else (leNat l : Int)) else w.getV n k := by
  simp only [bindLane, if_pos hn]
  rw [Warp.getV_putV _ _ _ _ _ _ hl hk]
  cases sx
  · simp
  · simp [ofNat_wrapInt]

/-- Registers filled in order, in one lane. -/
theorem getV_foldl_putV (w : Warp) (r : Nat) (f : Nat → W32) {lane : Nat} (hl : lane < 32) (m n : Nat) {k : Nat} (hk : k < 32) :
    ((List.range m).foldl (fun w j => w.putV (r + j) lane (f j)) w).getV n k =
      if r ≤ n ∧ n < r + m ∧ k = lane then f (n - r) else w.getV n k := by
  induction m with
  | zero => rw [if_neg (by omega)]; rfl
  | succ m ih =>
    rw [List.range_succ, List.foldl_append, List.foldl_cons, List.foldl_nil, Warp.getV_putV _ _ _ _ _ _ hl hk, ih]
    by_cases hc : n = r + m ∧ k = lane
    · obtain ⟨rfl, rfl⟩ := hc
      rw [if_pos ⟨rfl, rfl⟩, if_pos ⟨by omega, by omega, rfl⟩, Nat.add_sub_cancel_left]
    · rw [if_neg hc]
      exact if_congr (by omega) rfl rfl

/-- A wider element fills registers in order from its low byte up. -/
theorem getV_bindLane_wide (w : Warp) (r : Nat) (sx : Bool) {lane m : Nat} {l : List Byte} (hl : lane < 32) (hn : l.length = 4 * m)
    (hm : 0 < m) (n : Nat) {k : Nat} (hk : k < 32) : (bindLane w (.vreg r sx) lane l).getV n k =
      if r ≤ n ∧ n < r + m ∧ k = lane then BitVec.ofNat 32 (leNat ((l.drop (4 * (n - r))).take 4)) else w.getV n k := by
  simp only [bindLane, if_neg (show ¬l.length < 4 by omega), show l.length / 4 = m by omega, ofNat_leNat_word]
  exact getV_foldl_putV w r _ hl m n hk

/-- A scalar register takes an element extended to 64 bits. -/
theorem getS_bindLane (w : Warp) (r : Nat) (sx : Bool) (lane : Nat) (l : List Byte) (n : Nat) :
    (bindLane w (.sreg r sx) lane l).getS n = if n = r then
      BitVec.ofInt 64 (if sx then sextNat (8 * l.length) (leNat l) else (leNat l : Int)) else w.getS n := by
  simp only [bindLane]
  rw [Warp.getS_putS]
  cases sx
  · simp
  · simp [w64OfInt, ofNat_wrapInt]

end Sys2Proof.Machine
end

section
/-! `LD` (O28): what it writes at once, what it records, and the lanes that fail (06 R133 to R135, 10 R443, 20 R396, R397). -/

namespace Sys2Proof.Machine

/-- A trap outside a halt's skid is taken with the cause, lanes and address that the meaning gives; `TDOP` alone may be filled in
(10 R239). -/
theorem issue_trap_keeps {i : Instr} {s t : State} {e : Env} {body : Env → State → Res} {q : TrapReq} (h : ready i s = some e)
    (hs : e.w.skid = none) (hb : body e s = .trap t q) :
    ∃ q1, issue i s body = takeTrap t e.r q1 ∧ q1.cause = q.cause ∧ q1.addr = q.addr ∧ q1.mask = q.mask := by
  obtain ⟨raw, -, hi⟩ := issue_ready (body := body) h
  have hd : ∀ l b n o v, (withDops l q b n o v).cause = q.cause ∧ (withDops l q b n o v).addr = q.addr ∧
      (withDops l q b n o v).mask = q.mask := by
    intro l b n o v
    unfold withDops
    split <;> exact ⟨rfl, rfl, rfl⟩
  rw [hi, hb]
  simp only [finish, hs, Option.isSome_none, Bool.false_and, Bool.false_eq_true, if_false]
  exact ⟨_, rfl, hd _ _ _ _ _⟩

/-- The trap of faulting lanes names the cause of the lowest one, its address, and the lanes of that cause. -/
theorem endLanes_of_fault (s : State) (f : LaneFault) (rest : List LaneFault) : ∃ q, endLanes s (f :: rest) = .trap s q ∧
    q.cause = f.cause ∧ q.addr = BitVec.ofNat 64 f.addr ∧
    q.mask = maskOf (((f :: rest).filter (fun y => y.cause = f.cause)).map (·.lane)) := ⟨_, rfl, rfl, rfl, rfl⟩

/-! ### What an `LD` does -/

/-- The lanes of an `LD`, checked. -/
def loadLanes (x : FLdSt) (e : Env) (s : State) : State × List LaneFault × List LaneAcc :=
  checkLanes s e x.sp needR false (accW x.ty x.wid) (laneAddr e.w x.sp x.a x.off) (accLanes e x.cls)

/-- The destination of an `LD`. -/
def loadDest (x : FLdSt) : Dest :=
  if x.cls = .scl then .sreg (Reg.idx x.d) (DTy.sext x.ty) else .vreg (Reg.idx x.d) (DTy.sext x.ty)

/-- The bytes of the lanes of a scratchpad load, written to its destination. -/
def loadScratch (x : FLdSt) (e : Env) (l : List LaneAcc) (v : Warp) : Warp :=
  l.foldl (fun v a => bindLane v (loadDest x) a.lane (getBytes e.b.scr a.va (accW x.ty x.wid))) v

/-- What a global load records. -/
def loadOp (x : FLdSt) (e : Env) (s : State) : LoadOp :=
  { id := (loadLanes x e s).1.freshId.1, dest := loadDest x, lanes := (loadLanes x e s).2.2, cache := x.cache, pt := issuePt s e.w,
    fails := (loadLanes x e s).2.1 }

/-- The load joins those of the warp that are not bound. -/
def addLoad (o : LoadOp) (v : Warp) : Warp := { v with loads := v.loads ++ [o] }

/-- What an `LD` does once its lanes are checked. -/
def loadDone (x : FLdSt) (e : Env) (s : State) : Res :=
  match x.sp with
  | .s => endLanes ((loadLanes x e s).1.updWarp e.r (loadScratch x e (loadLanes x e s).2.2)) (loadLanes x e s).2.1
  | .g =>
    if (loadLanes x e s).2.2.any (fun a => (atomLines e.w).contains (a.pa / 64)) then .wait s .other
    else if (loadLanes x e s).2.2.isEmpty then endLanes (loadLanes x e s).1 (loadLanes x e s).2.1
    else leaveLanes ((loadLanes x e s).1.freshId.2.updWarp e.r (addLoad (loadOp x e s))) (loadLanes x e s).2.1

/-- What an `LD` does. -/
def loadRes (x : FLdSt) (e : Env) (s : State) : Res :=
  if x.sp = .g && State.ldcnt e.w ≥ 64 then .wait s .counter else loadDone x e s

theorem exec_ld_eq (x : FLdSt) (s : State) : exec (.ld x) s = .next (issue (.ld x) s (loadRes x)) := rfl

section
variable {x : FLdSt} {s : State} {e : Env}

theorem loadRes_scratch (hx : x.sp = .s) (hw : s.warp? e.r = some e.w) : loadRes x e s =
    endLanes (s.setWarp e.r (loadScratch x e (loadLanes x e s).2.2 e.w)) (loadLanes x e s).2.1 := by
  have h1 : (loadLanes x e s).1 = s := by rw [loadLanes, hx, checkLanes_scratch]
  rw [loadRes, if_neg (by simp [hx]), loadDone, hx]
  dsimp only
  rw [h1, updWarp_of _ _ _ _ hw]

theorem warp?_loadLanes (hw : s.warp? e.r = some e.w) : (loadLanes x e s).1.freshId.2.warp? e.r = some e.w :=
  (((quiet_checkLanes ..).trans (quiet_freshId _)).warp e.r).trans hw

theorem loadRes_global (hx : x.sp = .g) (hw : s.warp? e.r = some e.w) (hc : State.ldcnt e.w < 64) (hq : (loadLanes x e s).2.2 ≠ [])
    (ha : ∀ a ∈ (loadLanes x e s).2.2, a.pa / 64 ∉ atomLines e.w) : loadRes x e s =
    leaveLanes ((loadLanes x e s).1.freshId.2.setWarp e.r (addLoad (loadOp x e s) e.w)) (loadLanes x e s).2.1 := by
  rw [loadRes, if_neg (by simpa using fun _ => hc), loadDone, hx]
  dsimp only
  rw [if_neg (by simpa using ha), if_neg (by simpa using hq), updWarp_of _ _ _ _ (warp?_loadLanes hw)]

variable (h : ready (.ld x) s = some e)
include h

/-- A scratchpad load whose lanes pass writes their bytes at once. -/
theorem exec_ld_scratch (hx : x.sp = .s) (hq : (loadLanes x e s).2.1 = []) :
    exec (.ld x) s = .next (retired s e (loadScratch x e (loadLanes x e s).2.2 e.w)) := by
  obtain ⟨-, hw, -⟩ := ready_warp h
  have hr := loadRes_scratch (x := x) hx hw
  rw [hq] at hr
  rw [exec_ld_eq, issue_done h hr (warp?_setWarp ..), setWarp_setWarp]
  rfl

/-- A scratchpad load some of whose lanes fail takes the trap of the lowest one. -/
theorem exec_ld_scratch_trap (hx : x.sp = .s) (hs : e.w.skid = none) {f : LaneFault} {rest : List LaneFault}
    (hq : (loadLanes x e s).2.1 = f :: rest) : ∃ t tr, exec (.ld x) s = .next (takeTrap t e.r tr) ∧ tr.cause = f.cause ∧
      tr.addr = BitVec.ofNat 64 f.addr ∧
      tr.mask = maskOf (((loadLanes x e s).2.1.filter (fun y => y.cause = f.cause)).map (·.lane)) := by
  obtain ⟨-, hw, -⟩ := ready_warp h
  rw [hq]
  obtain ⟨q0, ht, hc0, ha0, hm0⟩ := endLanes_of_fault (s.setWarp e.r (loadScratch x e (loadLanes x e s).2.2 e.w)) f rest
  have hr : loadRes x e s = _ := (loadRes_scratch hx hw).trans (hq ▸ ht)
  obtain ⟨q, hi, hc, ha, hm⟩ := issue_trap_keeps h hs hr
  exact ⟨_, q, congrArg Host.Outcome.next hi, hc.trans hc0, ha.trans ha0, hm.trans hm0⟩

variable (hx : x.sp = .g) (hc : State.ldcnt e.w < 64) (hn : (loadLanes x e s).2.2 ≠ [])
  (ha : ∀ a ∈ (loadLanes x e s).2.2, a.pa / 64 ∉ atomLines e.w)
include hx hc hn ha

/-- A global load whose lanes pass records them and retires. -/
theorem exec_ld_global (hq : (loadLanes x e s).2.1 = []) : exec (.ld x) s =
    .next ((loadLanes x e s).1.freshId.2.setWarp e.r (retireWarp (addLoad (loadOp x e s) e.w) e.next s.ctl.clock)) := by
  obtain ⟨-, hw, -⟩ := ready_warp h
  have hr := loadRes_global hx hw hc hn ha
  have hk : (loadLanes x e s).1.freshId.2.ctl.clock = s.ctl.clock := ((quiet_checkLanes ..).trans (quiet_freshId _)).clock
  rw [hq] at hr
  rw [exec_ld_eq, issue_done h hr (warp?_setWarp ..), setWarp_setWarp, State.setWarp_ctl, hk]

/-- A global load some of whose lanes fault waits for the others. -/
theorem exec_ld_global_faults (hs : e.w.skid = none) (hq : (loadLanes x e s).2.1 ≠ []) : exec (.ld x) s =
    .next ((loadLanes x e s).1.freshId.2.setWarp e.r { addLoad (loadOp x e s) e.w with wait := some .faults }) := by
  obtain ⟨-, hw, -⟩ := ready_warp h
  have hr := loadRes_global hx hw hc hn ha
  rw [leaveLanes, if_neg (by simpa using hq)] at hr
  rw [exec_ld_eq, issue_wait h hs hr (warp?_setWarp ..), setWarp_setWarp, waitWarp, if_neg]
  simp [addLoad, hs]

end

/-- Settles O28: a scratchpad load by the registers that it fills, a global load by the lanes that it records, and both by the lanes
that fail; then the registers that the bytes of a lane fill. -/
theorem loadsAndTheirBytes : Obligations.LoadsAndTheirBytes := by
  unfold Obligations.LoadsAndTheirBytes
  refine ⟨fun x s e h => ?_, fun w r sx lane l hl hn n k hk => ?_, fun w r sx lane l m hl hn hm n k hk => ?_,
    fun w r sx lane l n _ _ => getS_bindLane ..⟩
  · intro w q dest
    have hq : Quiet s (loadLanes x e s).1.freshId.2 := (quiet_checkLanes ..).trans (quiet_freshId _)
    refine ⟨exec_ld_scratch h, fun hx hc hf hn ha => ?_, fun hx hs hc hf hn ha => ?_, fun hx hs f rest => exec_ld_scratch_trap h hx hs⟩
    · exact ⟨_, loadOp x e s, exec_ld_global h hx hc hn ha hf, warp?_setWarp .., rfl, rfl, rfl, hq.fed,
        fun l k => (block?_setWarp ..).trans (hq.block l k)⟩
    · exact ⟨_, loadOp x e s, exec_ld_global_faults h hx hc hn ha hs hf, warp?_setWarp .., rfl, rfl, rfl, rfl⟩
  · exact getV_bindLane_narrow w r sx hl (by omega) n hk
  · exact getV_bindLane_wide w r sx hl hn hm n hk

end Sys2Proof.Machine
end

section
/-! Accesses at the homes where no RDC and no packet holds written bytes: they leave memory and the bytes of the homes' lines alone (08
Table 8-5, R192 to R199). -/

namespace Sys2Proof.Machine

/-! ### No written byte outside the homes -/

/-- No RDC and no packet holds written bytes. -/
def NoDirty (s : State) : Prop := s.net = [] ∧ ∀ d ∈ s.dies, ∀ x ∈ d.2.rdc, Copy.dirtyBytes x.2.copy = []

theorem NoDirty.die {s : State} (h : NoDirty s) {d : Nat} {x : Nat × RdcLine} (hx : x ∈ (s.die d).rdc) :
    Copy.dirtyBytes x.2.copy = [] := by
  unfold State.die mget at hx
  cases hd : mfind s.dies d with
  | none =>
    rw [hd] at hx
    cases hx
  | some i =>
    rw [hd] at hx
    exact h.2 (d, i) (mem_of_mfind hd) x hx

theorem NoDirty.rdc {s : State} (h : NoDirty s) {d line : Nat} {x : RdcLine} (hx : s.rdc? d line = some x) :
    Copy.dirtyBytes x.copy = [] := h.die (mem_of_mfind hx)

/-- Memory, the lines of the homes, the view of memory and the expanders that are off are as before; and where no RDC and no packet
held written bytes, none does. -/
structure HomesKept (s t : State) : Prop where
  mem : t.mem = s.mem
  lines : ∀ n, (t.home n).lines = (s.home n).lines
  tier : t.pkg.tier = s.pkg.tier
  off : SameOff s t
  clean : NoDirty s → NoDirty t

theorem HomesKept.refl (s : State) : HomesKept s s := ⟨rfl, fun _ => rfl, rfl, ⟨rfl, rfl⟩, id⟩

theorem HomesKept.trans {s t u : State} (h : HomesKept s t) (g : HomesKept t u) : HomesKept s u :=
  ⟨g.mem.trans h.mem, fun n => (g.lines n).trans (h.lines n), g.tier.trans h.tier, h.off.trans g.off, g.clean ∘ h.clean⟩

theorem HomesKept.foldl {β : Type} {f : State → β → State} (h : ∀ s x, HomesKept s (f s x)) (l : List β) (s : State) :
    HomesKept s (l.foldl f s) :=
  List.foldlRecOn l f (.refl s) fun _ hs x _ => hs.trans (h _ x)

/-! ### Updates of one part -/

theorem homesKept_updHome (s : State) (n : Nat) {f : Home → Home} (hf : (f (s.home n)).lines = (s.home n).lines) :
    HomesKept s (s.updHome n f) := by
  refine ⟨rfl, fun k => ?_, rfl, ⟨rfl, rfl⟩, id⟩
  rw [State.home, State.updHome_homes, mget_mset]
  split
  next hk => rw [hf, hk]
  next => rfl

theorem homesKept_updDie (s : State) (d : Nat) {f : Die → Die} (hf : ∀ x ∈ (f (s.die d)).rdc, x ∈ (s.die d).rdc) :
    HomesKept s (s.updDie d f) := by
  refine ⟨rfl, fun _ => rfl, rfl, ⟨rfl, rfl⟩, fun h => ⟨h.1, fun e he x hx => ?_⟩⟩
  rw [State.updDie_dies] at he
  obtain rfl | ⟨hm, -⟩ := mem_mset.1 he
  · exact h.die (hf x hx)
  · exact h.2 e hm x hx

theorem homesKept_updLink (s : State) (i : Nat) (f : Link → Link) : HomesKept s (s.updLink i f) :=
  ⟨rfl, fun _ => rfl, rfl, ⟨rfl, rfl⟩, id⟩

theorem homesKept_cross (s : State) (a b : Nat) : HomesKept s (cross s a b) :=
  HomesKept.foldl (fun s i => homesKept_updLink s i _) _ s

theorem homesKept_markStale (s : State) (page : Nat) : HomesKept s (markStale s page) := ⟨rfl, fun _ => rfl, rfl, ⟨rfl, rfl⟩, id⟩

theorem homesKept_putDir (s : State) (n line : Nat) (e : DirEnt) : HomesKept s (s.putDir n line e) := homesKept_updHome s n rfl

theorem homesKept_lessDrop (s : State) (n line : Nat) : HomesKept s (lessDrop s n line) :=
  homesKept_updHome s n (by dsimp only; split <;> rfl)

theorem homesKept_dieAccess (s : State) (n page : Nat) : HomesKept s (dieAccess s n page) := by
  unfold dieAccess
  split
  · exact .refl s
  · split
    · exact homesKept_updHome s n rfl
    · exact .refl s

theorem homesKept_hostBack (s : State) (n page : Nat) : HomesKept s (hostBack s n page) := by
  unfold hostBack
  split
  · exact .refl s
  · split
    · exact homesKept_updHome s n rfl
    · exact .refl s

theorem homesKept_dropRdc (s : State) (d line : Nat) : HomesKept s (dropRdc s d line) := by
  unfold dropRdc
  split
  · exact .refl s
  · exact (homesKept_updDie s d fun x hx => (List.mem_filter.1 hx).1).trans (homesKept_updHome _ d rfl)

/-! ### Directories -/

section
variable {s : State} (h : NoDirty s)
include h

/-- No eviction is on its way. -/
theorem takeEvicts_of_noDirty (p : Msg → Nat → Bool) : takeEvicts s p = s := by
  unfold takeEvicts
  rw [h.1]
  rfl

/-- An owner has no byte for the home. -/
theorem ownerHome_of_noDirty (line d : Nat) : ownerHome s line d = s := by
  unfold ownerHome
  split
  · rfl
  next x hx =>
    simp only [h.rdc hx, List.isEmpty_nil, if_true]

theorem homesKept_recallEnt (line d : Nat) : HomesKept s (recallEnt s line d) := by
  unfold recallEnt
  simp only
  split
  · split
    · exact .refl s
    · rw [ownerHome_of_noDirty h]
      exact ((homesKept_cross ..).trans (homesKept_dropRdc ..)).trans (homesKept_putDir ..)
  · exact (HomesKept.foldl (fun _ _ => (homesKept_cross ..).trans (homesKept_dropRdc ..)) _ s).trans (homesKept_putDir ..)

theorem homesKept_dirRoom (n line : Nat) : HomesKept s (dirRoom s n line) := by
  unfold dirRoom
  simp only
  split
  · exact .refl s
  · split
    · exact homesKept_updHome s n rfl
    · split
      · exact .refl s
      · rw [takeEvicts_of_noDirty h]
        exact homesKept_recallEnt h ..

theorem homesKept_rebuild (n line x : Nat) : HomesKept s (rebuild s n line x) :=
  ((homesKept_dirRoom h n line).trans (homesKept_putDir ..)).trans (homesKept_lessDrop ..)

theorem homesKept_discoverNow (line d : Nat) : HomesKept s (discoverNow s line d) := by
  unfold discoverNow
  simp only
  split
  · exact .refl s
  · have hc := HomesKept.foldl (fun t x => homesKept_cross t (s.homeOf line) x)
      ((List.range 8).filter (fun x => x != d && s.onlineSite x)) s
    split
    · exact hc
    · exact hc.trans (homesKept_rebuild (hc.clean h) ..)

theorem homesKept_settleLine (line d : Nat) : HomesKept s (settleLine s line d) := by
  rw [settleLine, takeEvicts_of_noDirty h]
  exact homesKept_discoverNow h line d

theorem homesKept_recallAll (line d : Nat) : HomesKept s (recallAll s line d) := by
  have hs := homesKept_settleLine h line d
  exact hs.trans (homesKept_recallEnt (hs.clean h) line d)

theorem homesKept_pullDirty (line : Nat) : HomesKept s (pullDirty s line) := by
  have hs := homesKept_settleLine h line 99
  unfold pullDirty
  simp only
  split
  · exact hs
  next x hx =>
    have hd : (settleLine s line 99).rdcDirty x line = [] := by
      unfold State.rdcDirty
      split
      · rfl
      next y hy => exact (hs.clean h).rdc hy
    rw [hd, List.isEmpty_nil, if_pos rfl]
    exact hs

/-! ### Reads at a home -/

theorem noDirty_hitHome (n line : Nat) : NoDirty (hitHome s n line) := by
  unfold hitHome
  split <;> exact h

/-- A read at a home leaves memory as it was, and no RDC or packet with written bytes. -/
theorem readLine_of_noDirty (line : Nat) : (readLine s line).mem = s.mem ∧ NoDirty (readLine s line) := by
  unfold readLine
  split
  · exact ⟨rfl, h⟩
  · have ha := homesKept_dieAccess s (s.homeOf line) (line / 64)
    have hp := ha.trans (homesKept_pullDirty (ha.clean h) line)
    unfold serveRead
    simp only
    rw [hitHome_mem]
    exact ⟨hp.mem, noDirty_hitHome (hp.clean h) ..⟩

theorem readLines_of_noDirty (l : List Nat) : (l.foldl readLine s).mem = s.mem ∧ NoDirty (l.foldl readLine s) :=
  List.foldlRecOn (motive := fun t : State => t.mem = s.mem ∧ NoDirty t) l readLine ⟨rfl, h⟩ fun _ ht x _ =>
    ⟨(readLine_of_noDirty ht.2 x).1.trans ht.1, (readLine_of_noDirty ht.2 x).2⟩

theorem poolRead_of_noDirty (pool : Nat) : (poolRead s pool).mem = s.mem := by
  have hl := readLines_of_noDirty h (linesOf pool 32)
  unfold poolRead
  exact (readLines_of_noDirty hl.2 _).1.trans hl.1

end

end Sys2Proof.Machine
end

section
/-! Writes at the homes where no RDC and no packet holds written bytes: the bytes written, and no other, change at the homes (08 Table
8-5, WRNC). -/

namespace Sys2Proof.Machine

/-! ### Bytes of a line at its memory controller and in a map -/

/-- Each byte of a line at most once. -/
def LineData (d : SMap Byte) : Prop := UniqueKeys d ∧ ∀ e ∈ d, e.1 < 64

theorem lineData_nil : LineData [] := ⟨uniqueKeys_nil, fun _ he => nomatch he⟩

theorem LineData.foldl_mset {d bytes : SMap Byte} (h : LineData d) (hb : ∀ e ∈ bytes, e.1 < 64) :
    LineData (bytes.foldl (fun d e => mset d e.1 e.2) d) := by
  refine ⟨h.1.foldl_mset bytes, ?_⟩
  refine List.foldlRecOn (motive := fun d : SMap Byte => ∀ e ∈ d, e.1 < 64) bytes _ h.2 fun d hd x hx e he => ?_
  obtain rfl | ⟨hm, -⟩ := mem_mset.1 he
  · exact hb x hx
  · exact hd e hm

theorem mfind_foldl_mset_lastOf {α : Type} (l m : SMap α) (k : Nat) :
    mfind (l.foldl (fun m e => mset m e.1 e.2) m) k = (lastOf l k).or (mfind m k) := by
  rw [mfind_foldl_mset, lastOf]
  cases l.reverse.find? (fun e => e.1 = k) <;> rfl

theorem Holds.lastOf {α : Type} {m : SMap α} {k : Nat} {v : α} (h : Holds m k v) : lastOf m k = some v := by
  obtain ⟨⟨e, he, hk⟩, hv⟩ := h
  cases hl : m.reverse.find? (fun e => e.1 = k) with
  | none => exact absurd hk (by simpa using List.find?_eq_none.1 hl e (List.mem_reverse.2 he))
  | some x =>
    have hx : x.1 = k := by simpa using List.find?_some hl
    rw [Machine.lastOf, hl, Option.map_some, hv x (List.mem_reverse.1 (List.mem_of_find?_eq_some hl)) hx]

theorem memByte_memPutLine_same {d : SMap Byte} (hd : UniqueKeys d) (m : List Host.Cell) (line off : Nat) :
    memByte (memPutLine m line d) (64 * line + off) = (mfind d off).getD (memByte m (64 * line + off)) := by
  refine memByte_memPutLine (fun e he hk => ?_) m line ?_
  · rw [← hk, hd e he, Option.getD_some]
  · cases hf : mfind d off with
    | none => exact .inr rfl
    | some v => exact .inl ⟨(off, v), mem_of_mfind hf, rfl⟩

theorem memByte_memPutLine_of_ne {d : SMap Byte} {line a : Nat} (hd : ∀ e ∈ d, a ≠ 64 * line + e.1) (m : List Host.Cell) :
    memByte (memPutLine m line d) a = memByte m a :=
  List.foldlRecOn (motive := fun x => memByte x a = memByte m a) d _ rfl fun x hx e he => by
    rw [memByte_memPut, if_neg (hd e he), hx]

/-! ### Homes that alone hold the bytes -/

/-- No byte is outside memory and the homes' caches, no expander is off, and every line of a cache is at its own home. -/
structure HomesAlone (s : State) : Prop where
  clean : NoDirty s
  on : ∀ line, s.expOff line = false
  own : ∀ n line l, s.homeLine? n line = some l → s.homeOf line = n ∧ LineData l.data

theorem homeOf_of_tier {s t : State} (h : t.pkg.tier = s.pkg.tier) (line : Nat) : t.homeOf line = s.homeOf line := by
  rw [State.homeOf, h, State.homeOf]

theorem HomesKept.homeLine? {s t : State} (h : HomesKept s t) (n line : Nat) : t.homeLine? n line = s.homeLine? n line :=
  congrArg (mfind · line) (h.lines n)

theorem HomesKept.homeByte {s t : State} (h : HomesKept s t) (line off : Nat) : t.homeByte line off = s.homeByte line off := by
  unfold State.homeByte
  rw [homeOf_of_tier h.tier, h.homeLine?, h.mem]

theorem HomesKept.alone {s t : State} (h : HomesKept s t) (hs : HomesAlone s) : HomesAlone t where
  clean := h.clean hs.clean
  on line := (h.off.expOff line).trans (hs.on line)
  own n line l hl := by
    rw [homeOf_of_tier h.tier]
    exact hs.own n line l (h.homeLine? n line ▸ hl)

/-- Every byte of every line at the homes is as before. -/
def SameBytes (s t : State) : Prop := ∀ line off, off < 64 → t.homeByte line off = s.homeByte line off

theorem SameBytes.trans {s t u : State} (h : SameBytes s t) (g : SameBytes t u) : SameBytes s u :=
  fun line off ho => (g line off ho).trans (h line off ho)

/-! ### A line that leaves or enters a home's cache -/

theorem homeLine?_evictHome (s : State) (n line m ln : Nat) :
    (evictHome s n line).homeLine? m ln = if m = n ∧ ln = line then none else s.homeLine? m ln := by
  split
  next h => rw [h.1, h.2, homeLine?_evictHome_same]
  next h =>
    unfold evictHome
    split
    · rfl
    · simp only [State.homeLine?, State.home, State.updHome_homes, mget_mset]
      split
      next hm =>
        subst hm
        exact mfind_mdel_other _ fun hk => h ⟨rfl, hk⟩
      next => rfl

theorem evictHome_net (s : State) (n line : Nat) : (evictHome s n line).net = s.net := by
  unfold evictHome
  split <;> rfl

theorem mem_evictHome {s : State} {n line : Nat} {l : HomeLine} (hl : s.homeLine? n line = some l) :
    (evictHome s n line).mem = memPutLine s.mem line l.data := by
  unfold evictHome
  rw [hl]
  rfl

theorem homeByte_setHomeLine (s : State) (line : Nat) (l : HomeLine) (ln off : Nat) : (s.setHomeLine (s.homeOf line) line l).homeByte ln off =
    if ln = line then (mfind l.data off).getD (memByte s.mem (64 * line + off)) else s.homeByte ln off := by
  unfold State.homeByte
  rw [homeOf_of_tier (t := s.setHomeLine (s.homeOf line) line l) rfl, homeLine?_setHomeLine, State.setHomeLine_mem]
  by_cases hln : ln = line
  · rw [hln, if_pos ⟨rfl, rfl⟩, if_pos rfl]
  · rw [if_neg (fun hc => hln hc.2), if_neg hln]
    rfl

theorem homeByte_of_homeLine {s : State} {line : Nat} {l : HomeLine} (hl : s.homeLine? (s.homeOf line) line = some l) (off : Nat) :
    s.homeByte line off = (mfind l.data off).getD (memByte s.mem (64 * line + off)) := by
  unfold State.homeByte
  rw [hl]

/-- A line that its home's cache does not hold comes without written bytes, and displaces at most one. -/
theorem touchHome_of_none {s : State} {n line cls : Nat} (chain : Nat) (ef : Bool) (hl : s.homeLine? n line = none) :
    ∃ s1 l, (s1 = s ∨ ∃ v, s1 = evictHome s n v) ∧ l.data = [] ∧ touchHome s n line cls chain ef = s1.setHomeLine n line l := by
  rw [touchHome, hl]
  refine ⟨_, _, ?_, ?_, rfl⟩
  · split
    · exact .inl rfl
    · split
      · exact .inl rfl
      · exact .inr ⟨_, rfl⟩
  · rfl

/-- What a write at the home of a line that an expander does not withhold leaves, the line in the cache in `t`. -/
theorem homePut_eq {s t : State} {line cls chain : Nat} {ef : Bool} {l : HomeLine} (hx : s.expOff line = false)
    (ht : touchHome (hostBack s (s.homeOf line) (line / 64)) (s.homeOf line) line cls chain ef = t)
    (hl : t.homeLine? (s.homeOf line) line = some l) (bytes : SMap Byte) (p : Option Nat) :
    ∃ w, (homePut s line bytes p cls chain ef).1 = settleHome ((t.setHomeLine (s.homeOf line) line (homeWritten l w bytes)).updHome
      (s.homeOf line) (fun h => { h with dt := max h.dt w })) (s.homeOf line) line := by
  unfold homePut
  simp only [hx, Bool.false_eq_true, if_false, ht, hl, Option.getD_some]
  exact ⟨_, rfl⟩

/-! ### The lines of a run of bytes -/

/-- The bytes of a run from `pa` on that are in a line, by their offsets. -/
def lineBytes (pa : Nat) (l : List Byte) (ln : Nat) : SMap Byte :=
  ((bytesAt pa l).filter (fun e => e.1 / 64 = ln)).map (fun e => (e.1 % 64, e.2))

theorem lineBytes_lt {pa ln : Nat} {l : List Byte} {e : Nat × Byte} (he : e ∈ lineBytes pa l ln) : e.1 < 64 := by
  obtain ⟨x, -, rfl⟩ := List.mem_map.1 he
  exact Nat.mod_lt _ (by decide)

theorem lastOf_lineBytes {pa a : Nat} {l : List Byte} : lastOf (lineBytes pa l (a / 64)) (a % 64) =
    if pa ≤ a ∧ a < pa + l.length then some (l.getD (a - pa) 0#8) else none := by
  have hmem : ∀ e ∈ lineBytes pa l (a / 64), e.1 = a % 64 → pa ≤ a ∧ a < pa + l.length ∧ e.2 = l.getD (a - pa) 0#8 := by
    intro e he hk
    obtain ⟨x, hx, rfl⟩ := List.mem_map.1 he
    obtain ⟨hx, hln⟩ := List.mem_filter.1 hx
    obtain ⟨i, hi, rfl⟩ := mem_bytesAt.1 hx
    simp only [decide_eq_true_eq] at hln hk
    obtain rfl : a = pa + i := by omega
    exact ⟨by omega, by omega, by rw [Nat.add_sub_cancel_left]⟩
  split
  next h =>
    refine Holds.lastOf ⟨⟨(a % 64, l.getD (a - pa) 0#8),
        List.mem_map.2 ⟨(a, l.getD (a - pa) 0#8), List.mem_filter.2 ⟨?_, ?_⟩, rfl⟩, rfl⟩,
      fun e he hk => (hmem e he hk).2.2⟩
    · exact mem_bytesAt.2 ⟨a - pa, by omega, by rw [Nat.add_sub_cancel' h.1]⟩
    · simp
  next h => exact lastOf_eq_none fun e he hk => h ⟨(hmem e he hk).1, (hmem e he hk).2.1⟩

theorem mem_linesOf {pa n a : Nat} (h : pa ≤ a ∧ a < pa + n) : a / 64 ∈ linesOf pa n := by
  unfold linesOf
  rw [if_neg (by omega)]
  exact List.mem_map.2 ⟨a / 64 - pa / 64, List.mem_range.2 (by omega), by omega⟩

/-! ### Accesses that leave every byte at the homes -/

section
variable {s : State} (h : HomesAlone s)
include h

theorem homesAlone_evictHome (n line : Nat) : HomesAlone (evictHome s n line) where
  clean := ⟨by rw [evictHome_net]; exact h.clean.1, by rw [evictHome_dies]; exact h.clean.2⟩
  on ln := ((homeSide_evictHome s n line).sameOff.expOff ln).trans (h.on ln)
  own m ln l hl := by
    rw [homeLine?_evictHome] at hl
    rw [homeOf_evictHome]
    split at hl
    · cases hl
    · exact h.own m ln l hl

theorem sameBytes_evictHome (n line : Nat) : SameBytes s (evictHome s n line) := by
  intro ln off ho
  cases hl : s.homeLine? n line with
  | none => rw [show evictHome s n line = s by rw [evictHome, hl]]
  | some l =>
    obtain ⟨hn, hd, hlt⟩ := h.own n line l hl
    unfold State.homeByte
    rw [homeOf_evictHome, homeLine?_evictHome, mem_evictHome hl]
    by_cases hln : ln = line
    · subst hln
      rw [hn, if_pos ⟨rfl, rfl⟩, hl]
      exact memByte_memPutLine_same hd ..
    · have hm := memByte_memPutLine_of_ne (line := line) (a := 64 * ln + off) (fun e he => by have := hlt e he; omega) s.mem
      rw [if_neg (fun hc => hln hc.2), hm]

theorem homesAlone_setHomeLine {line : Nat} {l : HomeLine} (hl : LineData l.data) :
    HomesAlone (s.setHomeLine (s.homeOf line) line l) where
  clean := h.clean
  on := h.on
  own m ln x hx := by
    rw [homeLine?_setHomeLine] at hx
    split at hx
    next hc =>
      cases hx
      rw [hc.1, hc.2]
      exact ⟨rfl, hl⟩
    next => exact h.own m ln x hx

/-- A line that comes to its home's cache, there before or not, brings no other bytes. -/
theorem touchHome_of_alone (line cls chain : Nat) (ef : Bool) :
    HomesAlone (touchHome s (s.homeOf line) line cls chain ef) ∧ SameBytes s (touchHome s (s.homeOf line) line cls chain ef) ∧
      ∃ l, (touchHome s (s.homeOf line) line cls chain ef).homeLine? (s.homeOf line) line = some l := by
  cases hl : s.homeLine? (s.homeOf line) line with
  | some l =>
    rw [touchHome, hl]
    refine ⟨homesAlone_setHomeLine h (h.own _ _ _ hl).2, fun ln off _ => ?_, _, (homeLine?_setHomeLine ..).trans (if_pos ⟨rfl, rfl⟩)⟩
    rw [homeByte_setHomeLine]
    split
    next hln => rw [hln, homeByte_of_homeLine hl]
    next => rfl
  | none =>
    obtain ⟨s1, l, hs1, hdata, heq⟩ := touchHome_of_none (cls := cls) chain ef hl
    have hkey : HomesAlone s1 ∧ SameBytes s s1 ∧ s1.pkg.tier = s.pkg.tier ∧ s1.homeLine? (s.homeOf line) line = none := by
      obtain rfl | ⟨v, rfl⟩ := hs1
      · exact ⟨h, fun _ _ _ => rfl, rfl, hl⟩
      · refine ⟨homesAlone_evictHome h _ v, sameBytes_evictHome h _ v, (quiet_evictHome s _ v).tier, ?_⟩
        rw [homeLine?_evictHome, hl, ite_self]
    obtain ⟨h1, hb, ht, hn⟩ := hkey
    rw [heq]
    rw [← homeOf_of_tier ht] at hn ⊢
    refine ⟨homesAlone_setHomeLine h1 (hdata ▸ lineData_nil), hb.trans fun ln off _ => ?_, l,
      (homeLine?_setHomeLine ..).trans (if_pos ⟨rfl, rfl⟩)⟩
    rw [homeByte_setHomeLine]
    split
    next hln =>
      rw [hln, hdata, State.homeByte, hn]
      rfl
    next => rfl

theorem settleHome_of_alone (n line : Nat) : HomesAlone (settleHome s n line) ∧ SameBytes s (settleHome s n line) := by
  unfold settleHome
  split
  · exact ⟨h, fun _ _ _ => rfl⟩
  · split
    · exact ⟨homesAlone_evictHome h .., sameBytes_evictHome h n line⟩
    · exact ⟨h, fun _ _ _ => rfl⟩

/-! ### Writes -/

/-- A write at the home of a line leaves every other line as it was, and of this one the bytes that it does not write. -/
theorem homePut_of_alone {line : Nat} {bytes : SMap Byte} (hb : ∀ e ∈ bytes, e.1 < 64) (p : Option Nat) (cls chain : Nat) (ef : Bool) :
    HomesAlone (homePut s line bytes p cls chain ef).1 ∧ ∀ ln off, off < 64 →
      (homePut s line bytes p cls chain ef).1.homeByte ln off =
        if ln = line then (lastOf bytes off).getD (s.homeByte line off) else s.homeByte ln off := by
  have hk := homesKept_hostBack s (s.homeOf line) (line / 64)
  have htouch := touchHome_of_alone (hk.alone h) line cls chain ef
  have htier := (quiet_touchHome (hostBack s (s.homeOf line) (line / 64)) (s.homeOf line) line cls chain ef).tier.trans hk.tier
  rw [homeOf_of_tier hk.tier] at htouch
  generalize heq : touchHome (hostBack s (s.homeOf line) (line / 64)) (s.homeOf line) line cls chain ef = t at htouch htier
  obtain ⟨ht, hbt, l, hl⟩ := htouch
  obtain ⟨w, hput⟩ := homePut_eq (h.on line) heq hl bytes p
  rw [hput]
  rw [← homeOf_of_tier htier] at hl ⊢
  have hset := homesAlone_setHomeLine (line := line) (l := homeWritten l w bytes) ht ((ht.own _ _ _ hl).2.foldl_mset hb)
  have hdt := homesKept_updHome (t.setHomeLine (t.homeOf line) line (homeWritten l w bytes)) (t.homeOf line)
    (f := fun h => { h with dt := max h.dt w }) rfl
  obtain ⟨ha, hs⟩ := settleHome_of_alone (hdt.alone hset) (t.homeOf line) line
  refine ⟨ha, fun ln off ho => ?_⟩
  have hst : ∀ ln, t.homeByte ln off = s.homeByte ln off := fun ln => (hbt ln off ho).trans (hk.homeByte ln off)
  rw [hs ln off ho, hdt.homeByte, homeByte_setHomeLine, ← hst, ← hst, homeByte_of_homeLine hl]
  split
  · rw [homeWritten, mfind_foldl_mset_lastOf]
    cases lastOf bytes off <;> rfl
  · rfl

/-- A write by an agent that caches nothing. -/
theorem serveWriteE_of_alone {line : Nat} {bytes : SMap Byte} (hb : ∀ e ∈ bytes, e.1 < 64) (p : Option Nat) (cls chain : Nat)
    (ef : Bool) : HomesAlone (serveWriteE s line bytes p cls chain ef).1 ∧ ∀ ln off, off < 64 →
      (serveWriteE s line bytes p cls chain ef).1.homeByte ln off =
        if ln = line then (lastOf bytes off).getD (s.homeByte line off) else s.homeByte ln off := by
  have hm := homesKept_markStale s (line / 64)
  have hd := hm.trans (homesKept_dieAccess (markStale s (line / 64)) ((markStale s (line / 64)).homeOf line) (line / 64))
  have hr := hd.trans (homesKept_recallAll (hd.clean h.clean) line 99)
  have hp := homePut_of_alone (line := line) (hr.alone h) hb p cls chain ef
  simp only [hr.homeByte] at hp
  unfold serveWriteE
  exact hp

/-! ### Runs of bytes -/

/-- The lines of a run of bytes written, one after the other: each of them takes its bytes. -/
theorem foldl_serveWriteE_of_alone (pa : Nat) (l : List Byte) (cls chain : Nat) (ef : Bool) (ls : List Nat) :
    let t := ls.foldl (fun s ln => (serveWriteE s ln (lineBytes pa l ln) none cls chain ef).1) s
    HomesAlone t ∧ ∀ a, t.homeByte (a / 64) (a % 64) =
      if a / 64 ∈ ls ∧ pa ≤ a ∧ a < pa + l.length then l.getD (a - pa) 0#8 else s.homeByte (a / 64) (a % 64) := by
  induction ls generalizing s with
  | nil => exact ⟨h, fun a => by simp⟩
  | cons ln ls ih =>
    obtain ⟨h1, hs1⟩ := serveWriteE_of_alone h (fun _ => lineBytes_lt (pa := pa) (l := l) (ln := ln)) none cls chain ef
    obtain ⟨h2, hs2⟩ := ih h1
    refine ⟨h2, fun a => ?_⟩
    rw [List.foldl_cons, hs2, hs1 _ _ (Nat.mod_lt _ (by decide))]
    by_cases hln : a / 64 = ln
    · subst hln
      rw [lastOf_lineBytes]
      by_cases hin : pa ≤ a ∧ a < pa + l.length <;> simp [hin]
    · simp [hln]

/-- A run of bytes written by an agent that caches nothing: it and no other byte changes. -/
theorem writePhys_of_alone (pa : Nat) (l : List Byte) (cls chain : Nat) : HomesAlone (writePhys s pa l cls chain false) ∧
    ∀ a, (writePhys s pa l cls chain false).homeByte (a / 64) (a % 64) =
      if pa ≤ a ∧ a < pa + l.length then l.getD (a - pa) 0#8 else s.homeByte (a / 64) (a % 64) := by
  obtain ⟨ha, hb⟩ := foldl_serveWriteE_of_alone h pa l cls chain false (linesOf pa l.length)
  refine ⟨ha, fun a => (hb a).trans ?_⟩
  by_cases hin : pa ≤ a ∧ a < pa + l.length
  · rw [if_pos ⟨mem_linesOf hin, hin⟩, if_pos hin]
  · rw [if_neg fun hc => hin hc.2, if_neg hin]

end

end Sys2Proof.Machine
end

section
/-! `PFMAP`: the leaf that it writes, the page that it serves and the codes of its lanes (06 R160 to R162, 20 R402, R403). -/

namespace Sys2Proof.Machine

/-! ### The leaf as written -/

/-- The bits of a leaf that MAPPED-NEW keeps: not PFN, FT or the heat. -/
def leafKeep : BitVec 64 := ~~~(BitVec.ofNat 64 ((2 ^ 36 - 1) * 2 ^ 12 + 2 ^ 8 + 15 * 2 ^ 54))

/-- The bits of a leaf that MAPPED-NEW sets: PFN the page, and V. -/
def leafSet (p : Nat) : BitVec 64 := BitVec.ofNat 64 (p / 4096 % 2 ^ 36 * 4096 + 1)

theorem pteNew_eq (x p : Nat) : pteNew x p = (BitVec.ofNat 64 x &&& leafKeep ||| leafSet p).toNat := rfl

theorem bits_toNat (v : BitVec 64) (h l : Nat) : bits v.toNat h l = (v.extractLsb' l (h + 1 - l)).toNat := by
  rw [bits, BitVec.extractLsb'_toNat, Nat.shiftRight_eq_div_pow]

theorem toNat_leafSet (p : Nat) : (leafSet p).toNat = p / 4096 % 2 ^ 36 * 4096 + 1 := by
  rw [leafSet, BitVec.toNat_ofNat]
  omega

/-- A field that MAPPED-NEW writes whole. -/
theorem bits_pteNew_set (x p : Nat) {h l : Nat} (hk : leafKeep.extractLsb' l (h + 1 - l) = 0#(h + 1 - l)) :
    bits (pteNew x p) h l = bits (p / 4096 % 2 ^ 36 * 4096 + 1) h l := by
  rw [pteNew_eq, bits_toNat, BitVec.extractLsb'_or, BitVec.extractLsb'_and, hk, BitVec.and_zero, BitVec.zero_or, ← bits_toNat,
    toNat_leafSet]

/-- A field that MAPPED-NEW keeps. -/
theorem bits_pteNew_keep {x : Nat} (hx : x < 2 ^ 64) {p h l : Nat}
    (hk : leafKeep.extractLsb' l (h + 1 - l) = BitVec.allOnes (h + 1 - l)) (hs : bits (p / 4096 % 2 ^ 36 * 4096 + 1) h l = 0) :
    bits (pteNew x p) h l = bits x h l := by
  have hz : (leafSet p).extractLsb' l (h + 1 - l) = 0#(h + 1 - l) := by
    apply BitVec.eq_of_toNat_eq
    rw [← bits_toNat, toNat_leafSet, hs]
    rfl
  rw [pteNew_eq, bits_toNat, BitVec.extractLsb'_or, BitVec.extractLsb'_and, hk, hz, BitVec.and_allOnes, BitVec.or_zero, ← bits_toNat,
    BitVec.toNat_ofNat, Nat.mod_eq_of_lt hx]

/-- The leaf that MAPPED-NEW writes: V = 1, FT = 0, PFN the page, and permissions and CLASS as they were. -/
theorem pteNew_fields {x : Nat} (hx : x < 2 ^ 64) (p : Nat) :
    bits (pteNew x p) 0 0 = 1 ∧ pteFt (pteNew x p) = false ∧ bits (pteNew x p) 47 12 = p / 4096 % 2 ^ 36 ∧
      bits (pteNew x p) 7 1 = bits x 7 1 ∧ bits (pteNew x p) 53 48 = bits x 53 48 := by
  have hft : bits (pteNew x p) 8 8 = 0 := by
    rw [bits_pteNew_set x p (by decide), bits]
    omega
  refine ⟨?_, by simp [pteFt, hft], ?_, bits_pteNew_keep hx (by decide) ?_, bits_pteNew_keep hx (by decide) ?_⟩
  · have hv : (leafSet p).extractLsb' 0 (0 + 1 - 0) = BitVec.allOnes (0 + 1 - 0) := by
      apply BitVec.eq_of_toNat_eq
      rw [← bits_toNat, toNat_leafSet, bits, BitVec.toNat_allOnes]
      omega
    rw [pteNew_eq, bits_toNat, BitVec.extractLsb'_or, hv, BitVec.or_allOnes]
    rfl
  · rw [bits_pteNew_set x p (by decide), bits]
    omega
  · rw [bits]
    omega
  · rw [bits]
    omega

/-! ### The page that a lane names -/

/-- The state that the walk of `PFMAP` leaves. -/
def pfWalked (s : State) (ctx va : Nat) : State := (walkLines s va 5 (s.ctxEnt ctx).root 1).foldl readLine s

/-- The state with the page at `p` filled with zeros, HEAD one more and the leaf at `a` naming the page. -/
def pfMapped (z : State) (pool h p a x : Nat) : State :=
  writePhys (writePhys (writePhys z p (List.replicate 4096 0#8) 0 0 false) (pool + 16) (leBytes 8 (h + 1)) 0 0 false)
    a (leBytes 8 (pteNew x p)) 0 0 false

theorem quiet_pfMapped (z : State) (pool h p a x : Nat) : Quiet z (pfMapped z pool h p a x) :=
  ((quiet_writePhys ..).trans (quiet_writePhys ..)).trans (quiet_writePhys ..)

theorem quiet_poolRead (s : State) (pool : Nat) : Quiet s (poolRead s pool) :=
  (Quiet.foldl quiet_readLine _ s).trans (Quiet.foldl quiet_readLine _ _)

section
variable {s : State} {ctx va : Nat}

theorem pfOne_of_mapped (hw : pfWalk (pfWalked s ctx va) va 5 (s.ctxEnt ctx).root 1 = .mapped) :
    pfOne s ctx va = (pfWalked s ctx va, .inr 1) := by
  unfold pfWalked at hw ⊢
  simp only [pfOne, hw]

theorem pfOne_of_upper (hw : pfWalk (pfWalked s ctx va) va 5 (s.ctxEnt ctx).root 1 = .upper) :
    pfOne s ctx va = (pfWalked s ctx va, .inr 3) := by
  unfold pfWalked at hw ⊢
  simp only [pfOne, hw]

variable {a x : Nat} (hw : pfWalk (pfWalked s ctx va) va 5 (s.ctxEnt ctx).root 1 = .leaf a x)
include hw

theorem pfOne_of_leaf (hx : pteFt x = false ∨ bits x 7 7 = 1) : pfOne s ctx va = (pfWalked s ctx va, .inr 3) := by
  have hc : (!pteFt x || decide (bits x 7 7 = 1)) = true := by simpa using hx
  unfold pfWalked at hw ⊢
  simp only [pfOne, hw]
  rw [if_pos hc]

variable (hf : pteFt x = true) (hb : bits x 7 7 = 0) (hp : (pfWalked s ctx va).mapCause (s.ctxEnt ctx).pool false = none)
include hf hb hp

/-- A first-touch leaf is served from the pool. -/
theorem pfOne_of_first : let z := poolRead (pfWalked s ctx va) (s.ctxEnt ctx).pool
    let h := z.snoopNum ((s.ctxEnt ctx).pool + 16) 8
    pfOne s ctx va = if h = z.snoopNum ((s.ctxEnt ctx).pool + 24) 8 then (z, .inr 2) else
      match poolFault z (s.ctxEnt ctx).pool with
      | some k => (z, .inl (k, 0))
      | none => (pfMapped z (s.ctxEnt ctx).pool h (poolEnt z (s.ctxEnt ctx).pool 0).2 a x, .inr 0) := by
  have hc : ¬(!pteFt x || decide (bits x 7 7 = 1)) = true := by simp [hf, hb]
  unfold pfWalked at hw hp ⊢
  simp only [pfOne, hw, hp]
  rw [if_neg hc]
  rfl

end

theorem quiet_pfOne (s : State) (ctx va : Nat) : Quiet s (pfOne s ctx va).1 := by
  have hy : Quiet s (pfWalked s ctx va) := Quiet.foldl quiet_readLine _ s
  have hz := hy.trans (quiet_poolRead _ (s.ctxEnt ctx).pool)
  unfold pfWalked at hy hz
  unfold pfOne
  simp only
  split
  · exact hy
  · exact hy
  · exact hy
  · split
    · exact hy
    · split
      · exact hy
      · split
        · exact hz
        · split
          · exact hz
          · exact hz.trans (quiet_pfMapped ..)

/-- What a page mapped anew changes at the homes, where they alone hold the bytes. -/
theorem homeByte_pfMapped {z : State} (hz : HomesAlone z) (pool h p a x pa : Nat) :
    (pfMapped z pool h p a x).homeByte (pa / 64) (pa % 64) =
      if a ≤ pa ∧ pa < a + 8 then (leBytes 8 (pteNew x p)).getD (pa - a) 0#8
      else if pool + 16 ≤ pa ∧ pa < pool + 24 then (leBytes 8 (h + 1)).getD (pa - (pool + 16)) 0#8
      else if p ≤ pa ∧ pa < p + 4096 then 0#8
      else z.homeByte (pa / 64) (pa % 64) := by
  obtain ⟨h1, hb1⟩ := writePhys_of_alone hz p (List.replicate 4096 0#8) 0 0
  obtain ⟨h2, hb2⟩ := writePhys_of_alone h1 (pool + 16) (leBytes 8 (h + 1)) 0 0
  obtain ⟨-, hb3⟩ := writePhys_of_alone h2 a (leBytes 8 (pteNew x p)) 0 0
  rw [pfMapped, hb3, hb2, hb1, length_leBytes, length_leBytes, List.length_replicate]
  refine if_congr Iff.rfl rfl (if_congr Iff.rfl rfl ?_)
  split
  next hin => exact List.getD_replicate _ (by omega)
  next => rfl

theorem homesAlone_of_empty {z : State} (hc : NoDirty z) (he : ∀ n, (z.home n).lines = []) (hx : ∀ line, z.expOff line = false) :
    HomesAlone z where
  clean := hc
  on := hx
  own n line l hl := by
    rw [State.homeLine?, he] at hl
    cases hl

/-! ### The lanes of `PFMAP` -/

/-- The pages that `PFMAP` serves, one after the other, and what each gives. -/
def pfServe (s : State) (ctx : Nat) (pages : List Nat) : State × List (Nat × ((Nat × Nat) ⊕ Nat)) :=
  pages.foldl (fun r p => ((pfOne r.1 ctx (4096 * p)).1, r.2 ++ [(p, (pfOne r.1 ctx (4096 * p)).2)])) (s, [])

theorem quiet_pfServe (s : State) (ctx : Nat) (pages : List Nat) : Quiet s (pfServe s ctx pages).1 :=
  Quiet.foldl_fst (f := fun r p => ((pfOne r.1 ctx (4096 * p)).1, r.2 ++ [(p, (pfOne r.1 ctx (4096 * p)).2)]))
    (fun r p => quiet_pfOne r.1 ctx (4096 * p)) pages (s, [])

/-- The lanes of a `PFMAP` and their addresses. -/
def pfLanes (x : FPfmap) (e : Env) : List (Nat × Nat) := (accLanes e x.cls).map (fun i => (i, laneAddr e.w .g x.a x.off i))

/-- What the pages served give each lane. -/
def pfOut (x : FPfmap) (e : Env) (l : List (Nat × ((Nat × Nat) ⊕ Nat))) : List (Nat × (LaneFault ⊕ Nat)) :=
  (pfLanes x e).map (fun p => (p.1, if vaBad p.2 then Sum.inl (LaneFault.mk p.1 9 0 p.2)
    else match l.find? (fun y => y.1 = p.2 / 4096) with
      | some (_, Sum.inl l) => Sum.inl (LaneFault.mk p.1 l.1 l.2 p.2)
      | some (_, Sum.inr c) => Sum.inr c
      | none => Sum.inr 3))

/-- The codes of the lanes written. -/
def pfWrite (x : FPfmap) (w : Warp) (out : List (Nat × (LaneFault ⊕ Nat))) : Warp :=
  out.foldl (fun w y => match y.2 with
    | .inl _ => w
    | .inr c => wrReg w false y.1 x.d (BitVec.ofNat 64 c)) w

/-- The faults of the lanes. -/
def pfFaults (out : List (Nat × (LaneFault ⊕ Nat))) : List LaneFault :=
  out.filterMap (fun y => match y.2 with
    | .inl f => some f
    | .inr _ => none)

/-- What a `PFMAP` does. -/
def pfRes (x : FPfmap) (e : Env) (s : State) : Res :=
  let pages := (((pfLanes x e).filter (fun p => !vaBad p.2)).map (fun p => p.2 / 4096)).eraseDups
  if s.stcnt e.r e.w ≥ 64 then .wait s .counter
  else if pfBusy s e.b.ctx pages then .wait s .other
  else
    let r := pfServe s e.b.ctx pages
    let out := pfOut x e r.2
    endLanes (r.1.setWarp e.r (pfWrite x e.w out)) (pfFaults out)

theorem exec_pfmap_eq (x : FPfmap) (s : State) : exec (.pfmap x) s = .next (issue (.pfmap x) s (pfRes x)) := rfl

/-- The code that the pages served give an address. -/
def pfCode (l : List (Nat × ((Nat × Nat) ⊕ Nat))) (a : Nat) : Nat :=
  match l.find? (fun y => y.1 = a / 4096) with
  | some (_, .inr c) => c
  | _ => 3

theorem ofNat_pfCode (l : List (Nat × ((Nat × Nat) ⊕ Nat))) (a : Nat) : BitVec.ofNat 64 (pfCode l a) =
    match l.find? (fun y => y.1 = a / 4096) with
    | some (_, .inr c) => BitVec.ofNat 64 c
    | _ => 3#64 := by
  unfold pfCode
  split <;> rfl

/-- The pages that the lanes of a `PFMAP` name. -/
def pfPages (x : FPfmap) (e : Env) : List Nat := (((accLanes e x.cls).map (laneAddr e.w .g x.a x.off)).map (· / 4096)).eraseDups

/-- The codes of the pages in the destination. -/
def pfCodes (x : FPfmap) (e : Env) (l : List (Nat × ((Nat × Nat) ⊕ Nat))) : Warp :=
  perLane e x.cls x.d false (fun i => BitVec.ofNat 64 (pfCode l (laneAddr e.w .g x.a x.off i)))

section
variable {x : FPfmap} {s : State} {e : Env} (hva : ∀ l ∈ accLanes e x.cls, laneAddr e.w .g x.a x.off l < 2 ^ 54)
include hva

/-- Every lane that names an address in the space names a page. -/
theorem pages_of_pfLanes : (((pfLanes x e).filter (fun p => !vaBad p.2)).map (fun p => p.2 / 4096)).eraseDups =
    pfPages x e := by
  have hall : (pfLanes x e).filter (fun p => !vaBad p.2) = pfLanes x e := by
    refine List.filter_eq_self.2 fun p hp => ?_
    obtain ⟨i, hi, rfl⟩ := List.mem_map.1 hp
    simpa [vaBad] using hva i hi
  rw [hall, pfLanes, pfPages, List.map_map, List.map_map]
  rfl

variable {l : List (Nat × ((Nat × Nat) ⊕ Nat))} (hl : ∀ y ∈ l, ∃ c, y.2 = .inr c)
include hl

/-- Where no page faults, each lane gets the code of its page. -/
theorem pfOut_of_codes : pfOut x e l = (accLanes e x.cls).map (fun i => (i, .inr (pfCode l (laneAddr e.w .g x.a x.off i)))) := by
  rw [pfOut, pfLanes, List.map_map]
  refine List.map_congr_left fun i hi => congrArg (Prod.mk i) ?_
  have hv : ¬vaBad (laneAddr e.w .g x.a x.off i) = true := by simpa [vaBad] using hva i hi
  dsimp only
  rw [if_neg hv]
  unfold pfCode
  cases hf : l.find? (fun y => y.1 = laneAddr e.w .g x.a x.off i / 4096) with
  | none => rfl
  | some y =>
    obtain ⟨c, hc⟩ := hl y (List.mem_of_find?_eq_some hf)
    obtain ⟨p, v⟩ := y
    cases hc
    rfl

theorem pfWrite_of_codes : pfWrite x e.w (pfOut x e l) =
    pfCodes x e l := by
  rw [pfOut_of_codes hva hl, pfWrite, List.foldl_map, pfCodes, perLane, accLanes]
  split <;> rfl

theorem pfFaults_of_codes : pfFaults (pfOut x e l) = [] := by
  rw [pfOut_of_codes hva hl, pfFaults, List.filterMap_map]
  exact List.filterMap_eq_nil_iff.2 fun i _ => rfl

variable (hc : s.stcnt e.r e.w < 64) (hb : pfBusy s e.b.ctx (pfPages x e) = false) (hr : (pfServe s e.b.ctx (pfPages x e)).2 = l)
include hc hb hr

theorem pfRes_of_codes : pfRes x e s = .done ((pfServe s e.b.ctx (pfPages x e)).1.setWarp e.r (pfCodes x e l)) := by
  rw [pfRes, pages_of_pfLanes hva]
  simp only
  rw [if_neg (by omega), hb, if_neg (by decide), hr, pfWrite_of_codes hva hl, pfFaults_of_codes hva hl]
  rfl

/-- A `PFMAP` none of whose lanes faults writes their codes. -/
theorem exec_pfmap (h : ready (.pfmap x) s = some e) : exec (.pfmap x) s =
    .next ((pfServe s e.b.ctx (pfPages x e)).1.setWarp e.r (retireWarp (pfCodes x e l) e.next s.ctl.clock)) := by
  rw [exec_pfmap_eq, issue_done h (pfRes_of_codes hva hl hc hb hr) (warp?_setWarp ..), setWarp_setWarp, State.setWarp_ctl,
    (quiet_pfServe s e.b.ctx (pfPages x e)).clock]

end

/-- Settles O36: `PFMAP` by the pages that it serves and the codes of its lanes, one page by what its walk finds, and the leaf that it
writes by its fields. -/
theorem firstTouch : Obligations.FirstTouch := by
  unfold Obligations.FirstTouch
  refine ⟨fun x s e h => ?_, ?_, fun x p hx => pteNew_fields hx p⟩
  · intro addr pages r hc hva hb hr
    obtain ⟨-, -, huse, -⟩ := ready_check h
    refine ⟨_, pfCodes x e r.2, exec_pfmap hva hr hc hb rfl h, warp?_setWarp .., ?_⟩
    have hlane : LaneResult e x.cls x.d false _ (pfCodes x e r.2) := perLane_result e x.cls x.d false _ (uVk_reg (huse _ List.mem_cons_self))
    exact (congrArg (LaneResult e x.cls x.d false · (pfCodes x e r.2)) (funext fun l => ofNat_pfCode r.2 (addr l))).mp hlane
  · intro clean s ctx va c y
    have hy : clean s → y.mem = s.mem ∧ NoDirty y := fun hs => readLines_of_noDirty hs _
    refine ⟨pfOne_of_mapped, pfOne_of_upper, fun a x => pfOne_of_leaf, fun a x hw hf hb hp => ?_, fun hs => (hy hs).1⟩
    intro z h
    have hone : pfOne s ctx va = if h = z.snoopNum (c.pool + 24) 8 then (z, .inr 2) else
        match poolFault z c.pool with
        | some k => (z, .inl (k, 0))
        | none => (pfMapped z c.pool h (poolEnt z c.pool 0).2 a x, .inr 0) := pfOne_of_first hw hf hb hp
    refine ⟨fun hs => (poolRead_of_noDirty (hy hs).2 c.pool).trans (hy hs).1, fun hh => hone.trans (if_pos hh), fun hh hpf => ?_⟩
    rw [if_neg hh, hpf] at hone
    exact ⟨_, hone, fun hz he hx pa => homeByte_pfMapped (homesAlone_of_empty hz he hx) c.pool h _ a x pa⟩

end Sys2Proof.Machine
end

section
/-! The integer operations of an atomic (18 Table 18-3): each is an exact result taken modulo 2^n. -/

namespace Sys2Proof.Machine

/-! ### Exact results modulo 2^n -/

theorem wrapInt_congr {n : Nat} {a b : Int} (h : a ≡ b [ZMOD 2 ^ n]) : wrapInt n a = wrapInt n b := congrArg Int.toNat h

theorem wrapInt_natCast (n m : Nat) : wrapInt n (m : Int) = m % 2 ^ n := by
  rw [wrapInt]
  norm_cast

theorem wrapInt_modEq (n : Nat) (r : Int) : (wrapInt n r : Int) ≡ r [ZMOD 2 ^ n] := by
  have hp : (0 : Int) < 2 ^ n := by positivity
  rw [wrapInt, Int.toNat_of_nonneg (Int.emod_nonneg _ hp.ne')]
  exact Int.mod_modEq _ _

theorem natMod_modEq (n x : Nat) : ((x % 2 ^ n : Nat) : Int) ≡ x [ZMOD 2 ^ n] := by
  push_cast
  exact Int.mod_modEq _ _

theorem sextNat_modEq (n x : Nat) : sextNat n x ≡ x [ZMOD 2 ^ n] := by
  unfold sextNat
  dsimp only
  split
  · exact natMod_modEq n x
  · exact Int.sub_modulus_modEq_iff.2 (natMod_modEq n x)

/-- A source read by its type is its bits modulo 2^n, signed or not (04 R82). -/
theorem intVal_modEq (t : IntTy) (x : W64) : intVal t x ≡ x.toNat [ZMOD 2 ^ IntTy.bits t] := by
  unfold intVal
  split
  · exact sextNat_modEq _ _
  · exact natMod_modEq _ _

theorem bits_le_64 (t : IntTy) : IntTy.bits t ≤ 64 := by cases t <;> decide

theorem modEq_bits_of_64 (t : IntTy) {a b : Int} (h : a ≡ b [ZMOD 2 ^ 64]) : a ≡ b [ZMOD 2 ^ IntTy.bits t] :=
  h.of_dvd (pow_dvd_pow 2 (bits_le_64 t))

theorem toNat_ofNat_modEq (t : IntTy) (m : Nat) : ((BitVec.ofNat 64 m).toNat : Int) ≡ m [ZMOD 2 ^ IntTy.bits t] := by
  rw [BitVec.toNat_ofNat]
  exact modEq_bits_of_64 t (natMod_modEq 64 m)

/-- What is written of an exact result is that result modulo 2^n (04 R82). -/
theorem intOut_modEq (t : IntTy) (r : Int) : ((intOut t false r).toNat : Int) ≡ r [ZMOD 2 ^ IntTy.bits t] := by
  unfold intOut
  simp only [Bool.false_eq_true, if_false]
  split
  · exact (toNat_ofNat_modEq t _).trans ((modEq_bits_of_64 t (wrapInt_modEq 64 _)).trans
      ((sextNat_modEq _ _).trans (wrapInt_modEq _ r)))
  · exact (toNat_ofNat_modEq t _).trans (wrapInt_modEq _ r)

theorem toNat_intOut_mod (t : IntTy) (r : Int) : (intOut t false r).toNat % 2 ^ IntTy.bits t = wrapInt (IntTy.bits t) r := by
  rw [← wrapInt_natCast, wrapInt_congr (intOut_modEq t r)]

/-! ### Operands of n bits -/

theorem intVal_ofNat_modEq (t : IntTy) (o : Nat) : intVal t (BitVec.ofNat 64 o) ≡ o [ZMOD 2 ^ IntTy.bits t] :=
  (intVal_modEq t _).trans (toNat_ofNat_modEq t o)

theorem wrapInt_intVal {t : IntTy} {o : Nat} (ho : o < 2 ^ IntTy.bits t) :
    wrapInt (IntTy.bits t) (intVal t (BitVec.ofNat 64 o)) = o := by
  rw [wrapInt_congr (intVal_ofNat_modEq t o), wrapInt_natCast, Nat.mod_eq_of_lt ho]

theorem lowBits_ofNat {t : IntTy} {o : Nat} (ho : o < 2 ^ IntTy.bits t) : lowBits t (BitVec.ofNat 64 o) = o := by
  rw [lowBits, ← wrapInt_natCast, wrapInt_congr (toNat_ofNat_modEq t o), wrapInt_natCast, Nat.mod_eq_of_lt ho]

theorem wrapInt_add_intVal (t : IntTy) (o b : Nat) :
    wrapInt (IntTy.bits t) (intVal t (BitVec.ofNat 64 o) + intVal t (BitVec.ofNat 64 b)) = (o + b) % 2 ^ IntTy.bits t := by
  rw [wrapInt_congr ((intVal_ofNat_modEq t o).add (intVal_ofNat_modEq t b)), ← Nat.cast_add, wrapInt_natCast]

theorem wrapInt_sub_intVal {t : IntTy} {b : Nat} (hb : b < 2 ^ IntTy.bits t) (o : Nat) :
    wrapInt (IntTy.bits t) (intVal t (BitVec.ofNat 64 o) - intVal t (BitVec.ofNat 64 b)) =
      (o + 2 ^ IntTy.bits t - b) % 2 ^ IntTy.bits t := by
  have hs : ((o + 2 ^ IntTy.bits t - b : Nat) : Int) = (o : Int) - b + 2 ^ IntTy.bits t := by
    rw [Nat.cast_sub (by omega)]
    push_cast
    ring
  rw [← wrapInt_natCast, hs]
  exact wrapInt_congr (((intVal_ofNat_modEq t o).sub (intVal_ofNat_modEq t b)).trans Int.add_modEq_right.symm)

/-! ### The table -/

theorem bytes_int (t : IntTy) : 8 * DTy.bytes (.int t) = IntTy.bits t := by cases t <;> rfl

/-- A combination of integers is its exact result modulo 2^n. -/
theorem redCombine_int_mod (k : ROp) (t : IntTy) (ftz : Bool) (a b : W64) :
    (redCombine k (.int t) ftz a b).toNat % 2 ^ IntTy.bits t = wrapInt (IntTy.bits t) (match k with
      | .add => intVal t a + intVal t b
      | .min => min (intVal t a) (intVal t b)
      | .max => max (intVal t a) (intVal t b)
      | .and => ((lowBits t a &&& lowBits t b : Nat) : Int)
      | .or => ((lowBits t a ||| lowBits t b : Nat) : Int)
      | .xor => ((lowBits t a ^^^ lowBits t b : Nat) : Int)) := by
  cases k <;> exact toNat_intOut_mod t _

section
variable {t : IntTy} {o b : Nat} (ftz : Bool) (c : Nat) (ho : o < 2 ^ IntTy.bits t) (hb : b < 2 ^ IntTy.bits t)

theorem aopVal_add (t : IntTy) (o b : Nat) : aopVal .add (.int t) ftz o b c = (o + b) % 2 ^ IntTy.bits t := by
  simp only [aopVal, bytes_int, redCombine_int_mod, wrapInt_add_intVal]

include hb in
theorem aopVal_sub (o : Nat) : aopVal .sub (.int t) ftz o b c = (o + 2 ^ IntTy.bits t - b) % 2 ^ IntTy.bits t := by
  simp only [aopVal, bytes_int, wrapInt_sub_intVal hb]

include hb in
theorem aopVal_exch (o : Nat) : aopVal .exch (.int t) ftz o b c = b := by
  simp only [aopVal, bytes_int, Nat.mod_eq_of_lt hb]

include hb in
theorem aopVal_cas (o : Nat) {c : Nat} (hc : c < 2 ^ IntTy.bits t) : aopVal .cas (.int t) ftz o b c = if o = b then c else o := by
  simp only [aopVal, bytes_int, Nat.mod_eq_of_lt hb, Nat.mod_eq_of_lt hc]

include ho hb

theorem aopVal_min : aopVal .min (.int t) ftz o b c =
    if intVal t (BitVec.ofNat 64 o) ≤ intVal t (BitVec.ofNat 64 b) then o else b := by
  simp only [aopVal, bytes_int, redCombine_int_mod, min_def, apply_ite (wrapInt _), wrapInt_intVal ho, wrapInt_intVal hb]

theorem aopVal_max : aopVal .max (.int t) ftz o b c =
    if intVal t (BitVec.ofNat 64 o) ≤ intVal t (BitVec.ofNat 64 b) then b else o := by
  simp only [aopVal, bytes_int, redCombine_int_mod, max_def, apply_ite (wrapInt _), wrapInt_intVal ho, wrapInt_intVal hb]

theorem aopVal_and : aopVal .and (.int t) ftz o b c = o &&& b := by
  simp only [aopVal, bytes_int, redCombine_int_mod, lowBits_ofNat ho, lowBits_ofNat hb, wrapInt_natCast,
    Nat.mod_eq_of_lt (Nat.and_lt_two_pow o hb)]

theorem aopVal_or : aopVal .or (.int t) ftz o b c = o ||| b := by
  simp only [aopVal, bytes_int, redCombine_int_mod, lowBits_ofNat ho, lowBits_ofNat hb, wrapInt_natCast,
    Nat.mod_eq_of_lt (Nat.or_lt_two_pow ho hb)]

theorem aopVal_xor : aopVal .xor (.int t) ftz o b c = o ^^^ b := by
  simp only [aopVal, bytes_int, redCombine_int_mod, lowBits_ofNat ho, lowBits_ofNat hb, wrapInt_natCast,
    Nat.mod_eq_of_lt (Nat.xor_lt_two_pow ho hb)]

end

end Sys2Proof.Machine
end

section
/-! `ATOM` and `RED` (O30): one request for each address, recorded on global memory and performed at once on the scratchpad (07
R179, 18 R324, 21 R410). -/

namespace Sys2Proof.Machine

/-! ### The requests of the lanes (07 R179) -/

/-- Lanes that pass their checks make a request. -/
theorem atomGroups_ne_nil {l : List LaneAcc} (h : l ≠ []) (val : Nat → Nat × Nat) : atomGroups l val ≠ [] := by
  obtain ⟨a, t, rfl⟩ := List.exists_cons_of_ne_nil h
  simp [atomGroups]

/-- One lane makes one request. -/
theorem atomGroups_singleton (a : LaneAcc) (val : Nat → Nat × Nat) :
    atomGroups [a] val = [(a, [(a.lane, (val a.lane).1, (val a.lane).2)])] := by
  simp [atomGroups, List.eraseDups_cons]

/-- The elements of a list with their places. -/
theorem filterMap_range_getElem? {α β : Type} (l : List α) (f : α → β) :
    (List.range l.length).filterMap (fun k => (l[k]?).map f) = l.map f := by
  induction l with
  | nil => rfl
  | cons a t ih =>
    rw [List.length_cons, List.range_succ_eq_map, List.filterMap_cons, List.filterMap_map]
    exact congrArg (f a :: ·) ih

/-! ### What an atomic does -/

/-- An `ATOM` or a `RED` by its fields: a `RED` has no destination and no swap value. -/
structure AtomForm where
  cls : Cls
  op : AOp
  ty : DTy
  sc : Scope
  sp : Space
  d : Option Reg
  a : Reg
  b : Reg
  c : Option Reg
  off : Option W32
  g : Byte

def atomForm (x : FAtom) : AtomForm :=
  { cls := x.cls, op := x.op, ty := x.ty, sc := x.sc, sp := x.sp, d := some x.d, a := x.a, b := x.b, c := x.c, off := x.off, g := x.g }

def redForm (x : FRed) : AtomForm :=
  { cls := x.cls, op := x.op, ty := x.ty, sc := x.sc, sp := x.sp, d := none, a := x.a, b := x.b, c := none, off := x.off, g := x.g }

/-- The lanes of an atomic, checked. -/
def atomLanes (x : AtomForm) (e : Env) (s : State) : State × List LaneFault × List LaneAcc :=
  checkLanes s e x.sp needW true (DTy.bytes x.ty) (laneAddr e.w x.sp x.a x.off) (accLanes e x.cls)

/-- The operand and the swap value of a lane. -/
def atomVal (x : AtomForm) (e : Env) (l : Nat) : Nat × Nat :=
  ((rdReg e.w (DTy.is64 x.ty) l x.b).toNat % 2 ^ (8 * DTy.bytes x.ty), match x.c with
    | some r => (rdReg e.w (DTy.is64 x.ty) l r).toNat % 2 ^ (8 * DTy.bytes x.ty)
    | none => 0)

/-- The requests of an atomic: the lanes of each address. -/
def atomReqs (x : AtomForm) (e : Env) (s : State) : List (LaneAcc × List (Nat × Nat × Nat)) :=
  atomGroups (atomLanes x e s).2.2 (atomVal x e)

/-- The destination of the old values. -/
def atomDest (x : AtomForm) : Option Dest :=
  x.d.map (fun r => if x.cls = .scl then .sreg (Reg.idx r) (DTy.sext x.ty) else .vreg (Reg.idx r) (DTy.sext x.ty))

/-- A request on the scratchpad of a block: the old values of its lanes, and the last value. -/
def scratchVals (x : AtomForm) (e : Env) (b : Block) (y : LaneAcc × List (Nat × Nat × Nat)) : List (Nat × Nat) × Nat :=
  aopLanes x.op x.ty (fmtFtz e.w.fmt) (leNat (getBytes b.scr y.1.pa (DTy.bytes x.ty))) y.2

/-- The block with the last value written. -/
def scratchBlock (x : AtomForm) (e : Env) (b : Block) (y : LaneAcc × List (Nat × Nat × Nat)) : Block :=
  { b with scr := putBytes b.scr (bytesAt y.1.pa (leBytes (DTy.bytes x.ty) (scratchVals x e b y).2)) }

/-- The warp with the old values bound. -/
def bindOlds (x : AtomForm) (l : List (Nat × Nat)) (w : Warp) : Warp :=
  l.foldl (fun v y => bindOld v (atomDest x) x.ty y.1 y.2) w

/-- A request performed on the scratchpad. -/
def scratchReq (x : AtomForm) (e : Env) (s : State) (y : LaneAcc × List (Nat × Nat × Nat)) : State :=
  match s.block? e.r.core e.w.blk with
  | none => s
  | some b => (s.setBlock e.r.core e.w.blk (scratchBlock x e b y)).updWarp e.r (bindOlds x (scratchVals x e b y).1)

/-- What an atomic on global memory records. -/
def atomOp (x : AtomForm) (e : Env) (s : State) : AtomOp :=
  { id := (atomLanes x e s).1.freshId.1, op := x.op, ty := x.ty, scope := effScope s e.b x.sc, ftz := fmtFtz e.w.fmt,
    dest := atomDest x,
    reqs := (List.range (atomReqs x e s).length).filterMap (fun k => ((atomReqs x e s)[k]?).map (fun y =>
      { id := k, pa := y.1.pa, va := y.1.va, lanes := y.2, cls := y.1.cls })),
    pt := issuePt s e.w, fails := (atomLanes x e s).2.1 }

/-- The atomic joins those of the warp that are not performed. -/
def addAtom (o : AtomOp) (v : Warp) : Warp := { v with atoms := v.atoms ++ [o] }

/-- What an atomic does once nothing holds it. -/
def atomDone (x : AtomForm) (e : Env) (s : State) : Res :=
  match x.sp with
  | .s => endLanes ((atomReqs x e s).foldl (scratchReq x e) (atomLanes x e s).1) (atomLanes x e s).2.1
  | .g =>
    if (atomReqs x e s).isEmpty then endLanes (atomLanes x e s).1 (atomLanes x e s).2.1
    else leaveLanes ((atomLanes x e s).1.freshId.2.updWarp e.r (addAtom (atomOp x e s))) (atomLanes x e s).2.1

/-- What an atomic does. -/
def atomRes (x : AtomForm) (e : Env) (s : State) : Res :=
  if x.sc = .gp && !groupOk s e.b x.g.toNat then .trap s { cause := 14, mask := e.w.exec, addr := x.g.zeroExtend 64 }
  else if x.sp = .g && (s.stcnt e.r e.w ≥ 64 || (x.d.isSome && State.ldcnt e.w ≥ 64)) then .wait s .counter
  else if if x.sp = .g then !e.w.loads.isEmpty else unbound e.w then .wait s .load
  else atomDone x e s

/-- An instruction that does what an atomic of these fields does. -/
def IsAtomic (i : Instr) (x : AtomForm) : Prop := ∀ s, exec i s = .next (issue i s (atomRes x))

theorem isAtomic_atom (x : FAtom) : IsAtomic (.atom x) (atomForm x) := fun _ => rfl

theorem isAtomic_red (x : FRed) : IsAtomic (.red x) (redForm x) := fun _ => rfl

/-! ### The scratchpad -/

/-- The state but for its cores. -/
def withoutCores (s : State) : State := { s with cores := [] }

section
variable {x : AtomForm} {e : Env}

theorem bindOlds_of_no_dest (hd : x.d = none) (l : List (Nat × Nat)) (w : Warp) : bindOlds x l w = w := by
  have hn : atomDest x = none := by rw [atomDest, hd, Option.map_none]
  exact List.foldlRecOn (motive := (· = w)) l _ rfl fun v hv y _ => by rw [hn]; exact hv

theorem scratchReq_of {s : State} {w : Warp} {b : Block} (hw : s.warp? e.r = some w) (hb : s.block? e.r.core e.w.blk = some b)
    (y : LaneAcc × List (Nat × Nat × Nat)) : scratchReq x e s y =
    (s.setBlock e.r.core e.w.blk (scratchBlock x e b y)).setWarp e.r (bindOlds x (scratchVals x e b y).1 w) := by
  rw [scratchReq, hb]
  exact updWarp_of _ _ _ _ ((warp?_setBlock ..).trans hw)

/-- A request on the scratchpad changes the cores alone. -/
theorem withoutCores_scratchReq (s : State) (y : LaneAcc × List (Nat × Nat × Nat)) :
    withoutCores (scratchReq x e s y) = withoutCores s := by
  unfold scratchReq State.updWarp
  repeat' split
  all_goals rfl

/-- The issuing warp stays, and a `RED` leaves it as it is. -/
theorem warp?_scratchReq {s : State} (h : ∃ v, s.warp? e.r = some v ∧ (x.d = none → v = e.w))
    (y : LaneAcc × List (Nat × Nat × Nat)) : ∃ v, (scratchReq x e s y).warp? e.r = some v ∧ (x.d = none → v = e.w) := by
  obtain ⟨v, hv, hd⟩ := h
  cases hb : s.block? e.r.core e.w.blk with
  | none => exact ⟨v, by rw [scratchReq, hb]; exact hv, hd⟩
  | some b =>
    refine ⟨_, by rw [scratchReq_of hv hb, warp?_setWarp], fun hn => ?_⟩
    rw [bindOlds_of_no_dest hn, hd hn]

/-- The old value of a lane is bound, extended by type (log 17). -/
theorem bindOlds_singleton {r : Reg} (hd : x.d = some r) (lane v : Nat) (w : Warp) : bindOlds x [(lane, v)] w =
    bindLane w (if x.cls = .scl then .sreg (Reg.idx r) (DTy.sext x.ty) else .vreg (Reg.idx r) (DTy.sext x.ty)) lane
      (leBytes (DTy.bytes x.ty) v) := by
  simp only [bindOlds, List.foldl_cons, List.foldl_nil, bindOld, atomDest, hd, Option.map_some]

end

/-! ### How an atomic ends -/

section
variable {i : Instr} {x : AtomForm} {s : State} {e : Env} (hi : IsAtomic i x) (h : ready i s = some e)
include hi h

/-- A .gp scope outside the group traps. -/
theorem exec_atomic_gp (hs : e.w.skid = none) (hg : x.sc = .gp) (ho : groupOk s e.b x.g.toNat = false) :
    exec i s = .next (takeTrap s e.r { cause := 14, mask := e.w.exec, addr := x.g.zeroExtend 64 }) := by
  have hr : atomRes x e s = .trap s { cause := 14, mask := e.w.exec, addr := x.g.zeroExtend 64 } := by
    rw [atomRes, if_pos]
    simp [hg, ho]
  rw [hi s, issue_trap h hs hr (.inr (show 8 ≤ 14 by decide))]

variable (hg : x.sc = .gp → groupOk s e.b x.g.toNat = true) (hl : e.w.loads = []) (hq : (atomLanes x e s).2.1 = [])
include hg hl hq

/-- On global memory an atomic records its requests and retires. -/
theorem exec_atomic_global (hx : x.sp = .g) (hc : s.stcnt e.r e.w < 64) (hld : x.d.isSome = true → State.ldcnt e.w < 64)
    (hn : (atomLanes x e s).2.2 ≠ []) : exec i s =
    .next ((atomLanes x e s).1.freshId.2.setWarp e.r (retireWarp (addAtom (atomOp x e s) e.w) e.next s.ctl.clock)) := by
  obtain ⟨-, hw, -⟩ := ready_warp h
  have hquiet : Quiet s (atomLanes x e s).1.freshId.2 := (quiet_checkLanes ..).trans (quiet_freshId _)
  have hr : atomRes x e s = .done ((atomLanes x e s).1.freshId.2.setWarp e.r (addAtom (atomOp x e s) e.w)) := by
    rw [atomRes, if_neg (by simpa using hg), if_neg (by simpa [hx, hc] using hld), if_neg (by simp [hx, hl]), atomDone, hx]
    dsimp only
    rw [if_neg (by simpa [atomReqs] using atomGroups_ne_nil hn _), hq, updWarp_of _ _ _ _ ((hquiet.warp e.r).trans hw)]
    rfl
  rw [hi s, issue_done h hr (warp?_setWarp ..), setWarp_setWarp, State.setWarp_ctl, hquiet.clock]

/-- On the scratchpad an atomic performs its requests one after the other and retires. -/
theorem exec_atomic_scratch (hx : x.sp = .s) (ha : e.w.atoms = []) {v : Warp}
    (hv : ((atomReqs x e s).foldl (scratchReq x e) s).warp? e.r = some v) : exec i s =
    .next (((atomReqs x e s).foldl (scratchReq x e) s).setWarp e.r (retireWarp v e.next s.ctl.clock)) := by
  have h1 : (atomLanes x e s).1 = s := by rw [atomLanes, hx, checkLanes_scratch]
  have hr : atomRes x e s = .done ((atomReqs x e s).foldl (scratchReq x e) s) := by
    rw [atomRes, if_neg (by simpa using hg), if_neg (by simp [hx]), if_neg (by simp [hx, unbound, hl, ha]), atomDone, hx, h1, hq]
    rfl
  have hclk : ((atomReqs x e s).foldl (scratchReq x e) s).ctl.clock = s.ctl.clock :=
    congrArg (fun t => t.ctl.clock) (foldl_keeps withoutCores_scratchReq _ s)
  rw [hi s, issue_done h hr hv, hclk]

end

/-! ### What an atomic records, and what it leaves in the scratchpad -/

theorem reqs_atomOp (x : AtomForm) (e : Env) (s : State) :
    (atomOp x e s).reqs.map (fun y => (y.pa, y.lanes)) = (atomReqs x e s).map (fun y => (y.1.pa, y.2)) := by
  rw [atomOp, List.map_filterMap]
  simp only [Option.map_map]
  exact filterMap_range_getElem? (atomReqs x e s) (fun y => (y.1.pa, y.2))

/-- The scratchpad requests of an atomic change nothing but the cores, and the issuing warp stays. -/
theorem scratchReqs_frame (x : AtomForm) {e : Env} {s : State} (hw : s.warp? e.r = some e.w) :
    withoutCores ((atomReqs x e s).foldl (scratchReq x e) s) = withoutCores s ∧
      ∃ v, ((atomReqs x e s).foldl (scratchReq x e) s).warp? e.r = some v ∧ (x.d = none → v = e.w) :=
  ⟨foldl_keeps withoutCores_scratchReq _ s,
    List.foldlRecOn (motive := fun t : State => ∃ v, t.warp? e.r = some v ∧ (x.d = none → v = e.w)) _ _
      ⟨e.w, hw, fun _ => rfl⟩ fun _ ht y _ => warp?_scratchReq ht y⟩

/-- The requests of one lane: its old value is bound and the new one written. -/
theorem scratchReqs_singleton {x : AtomForm} {e : Env} {s : State} (hw : s.warp? e.r = some e.w)
    (hb : s.block? e.r.core e.w.blk = some e.b) {y : LaneAcc} (hy : (atomLanes x e s).2.2 = [y]) :
    let old := leNat (getBytes e.b.scr y.pa (DTy.bytes x.ty))
    (atomReqs x e s).foldl (scratchReq x e) s =
      (s.setBlock e.r.core e.w.blk { e.b with scr := putBytes e.b.scr (bytesAt y.pa (leBytes (DTy.bytes x.ty)
        (aopVal x.op x.ty (fmtFtz e.w.fmt) old (atomVal x e y.lane).1 (atomVal x e y.lane).2))) }).setWarp e.r
      (bindOlds x [(y.lane, old)] e.w) := by
  rw [atomReqs, hy, atomGroups_singleton, List.foldl_cons, List.foldl_nil, scratchReq_of hw hb]
  rfl

section
variable {i : Instr} {x : AtomForm} {s : State} {e : Env} (hi : IsAtomic i x) (h : ready i s = some e)
include hi h

theorem atomic_records_requests (hg : x.sc = .gp → groupOk s e.b x.g.toNat = true) (hl : e.w.loads = [])
    (hq : (atomLanes x e s).2.1 = []) (hx : x.sp = .g) (hc : s.stcnt e.r e.w < 64)
    (hld : x.d.isSome = true → State.ldcnt e.w < 64) (hn : (atomLanes x e s).2.2 ≠ []) :
    ∃ t o, exec i s = .next t ∧ t.warp? e.r = some (retireWarp (addAtom o e.w) e.next s.ctl.clock) ∧ o.op = x.op ∧ o.ty = x.ty ∧
      o.scope = effScope s e.b x.sc ∧ o.dest.isSome = x.d.isSome ∧
      o.reqs.map (fun y => (y.pa, y.lanes)) = (atomReqs x e s).map (fun y => (y.1.pa, y.2)) :=
  ⟨_, atomOp x e s, exec_atomic_global hi h hg hl hq hx hc hld hn, warp?_setWarp .., rfl, rfl, rfl, Option.isSome_map,
    reqs_atomOp x e s⟩

theorem atomic_performs_on_scratchpad (hg : x.sc = .gp → groupOk s e.b x.g.toNat = true) (hl : e.w.loads = [])
    (hq : (atomLanes x e s).2.1 = []) (hx : x.sp = .s) (ha : e.w.atoms = []) :
    ∃ t w1, exec i s = .next t ∧ t.warp? e.r = some (retireWarp w1 e.next s.ctl.clock) ∧
      t.fed = s.fed ∧ t.mem = s.mem ∧ t.homes = s.homes ∧ (x.d = none → w1 = e.w) ∧
      ∀ y, (atomLanes x e s).2.2 = [y] →
        let old := leNat (getBytes e.b.scr y.pa (DTy.bytes x.ty))
        (∀ r, x.d = some r → w1 = bindLane e.w
          (if x.cls = .scl then .sreg (Reg.idx r) (DTy.sext x.ty) else .vreg (Reg.idx r) (DTy.sext x.ty)) y.lane
          (leBytes (DTy.bytes x.ty) old)) ∧
        t.block? e.r.core e.w.blk = some { e.b with scr := putBytes e.b.scr (bytesAt y.pa (leBytes (DTy.bytes x.ty)
          (aopVal x.op x.ty (fmtFtz e.w.fmt) old (atomVal x e y.lane).1 (atomVal x e y.lane).2))) } := by
  obtain ⟨-, hw, hb⟩ := ready_warp h
  obtain ⟨hk, v, hv, hd⟩ := scratchReqs_frame x hw
  refine ⟨_, v, exec_atomic_scratch hi h hg hl hq hx ha hv, warp?_setWarp .., (congrArg State.fed hk :),
    (congrArg State.mem hk :), (congrArg State.homes hk :), hd, fun y hy => ?_⟩
  rw [scratchReqs_singleton hw hb hy] at hv ⊢
  rw [warp?_setWarp, Option.some_inj] at hv
  refine ⟨fun r hr => ?_, ?_⟩
  · rw [← hv, bindOlds_singleton hr]
  · rw [block?_setWarp, block?_setWarp, block?_setBlock_same]

end

/-- Settles O30: an atomic by the requests that it records, or by the scratchpad and the warp that they leave, and the integer table
by the exact results modulo 2^n. -/
theorem atomics : Obligations.Atomics := by
  unfold Obligations.Atomics
  refine ⟨?_, fun t ftz o b c _ ho hb hc => ?_⟩
  · intro issues
    have key : ∀ i x, IsAtomic i x → issues i x.cls x.ty x.sc x.sp x.op x.d x.a x.b x.c x.off x.g := fun i x hi s e h =>
      ⟨fun hx hg hc hld hl hq hn => atomic_records_requests hi h hg hl hq hx hc hld hn,
        fun hx hg hl ha hq => atomic_performs_on_scratchpad hi h hg hl hq hx ha,
        fun hg ho hs => exec_atomic_gp hi h hs hg ho⟩
    exact ⟨fun x => key _ _ (isAtomic_atom x), fun x => key _ _ (isAtomic_red x)⟩
  · exact ⟨aopVal_add ftz c t o b, aopVal_sub ftz c hb o, aopVal_min ftz c ho hb, aopVal_max ftz c ho hb, aopVal_and ftz c ho hb,
      aopVal_or ftz c ho hb, aopVal_xor ftz c ho hb, aopVal_exch ftz c hb o, aopVal_cas ftz hb o hc⟩

end Sys2Proof.Machine
end

section
/-! Packets at their receivers, and the entries of the directories that the services of a home leave (O50). -/

namespace Sys2Proof.Machine

/-! ### A packet arrives (08 R204, R205) -/

section
variable {s : State} {id : Nat} {m : Msg} {p : MsgKind → Bool} {ready : Msg → Bool} {f : Msg → State → State}

theorem receive_of_arrives (ha : arrives s id m) (hp : p m.kind = true) (hr : ready m = true) :
    receive s id p ready f = f m (taken s id m) := by
  obtain ⟨hfind, hopen, hinc, hord⟩ := ha
  unfold receive
  rw [hfind]
  simp only [hp, hopen, hinc, hr, hord, Bool.not_true, Bool.or_self, Bool.false_eq_true, if_false]
  rfl

theorem receive_of_not_ready (ha : arrives s id m) (hp : p m.kind = true) (hr : ready m = false) :
    receive s id p ready f = s := by
  obtain ⟨hfind, hopen, hinc, -⟩ := ha
  unfold receive
  rw [hfind]
  simp only [hp, hopen, hinc, hr, Bool.not_true, Bool.not_false, Bool.or_self, Bool.false_eq_true, if_false, Bool.true_or, if_true]

theorem homes_taken (s : State) (id : Nat) (m : Msg) : (taken s id m).homes = s.homes := by
  rw [taken_eq]
  exact linkFlits_keeps (g := State.homes) (fun _ _ _ => rfl) ..

theorem home_taken (s : State) (id : Nat) (m : Msg) (n : Nat) : (taken s id m).home n = s.home n := by
  rw [State.home, homes_taken, State.home]

theorem dies_taken (s : State) (id : Nat) (m : Msg) : (taken s id m).dies = s.dies := by
  rw [taken_eq]
  exact linkFlits_keeps (g := State.dies) (fun _ _ _ => rfl) ..

theorem rdc?_of_dies {s t : State} (h : t.dies = s.dies) (d line : Nat) : t.rdc? d line = s.rdc? d line := by
  rw [State.rdc?, State.die, h, State.rdc?, State.die]

theorem rdc?_taken (s : State) (id : Nat) (m : Msg) (d line : Nat) : (taken s id m).rdc? d line = s.rdc? d line :=
  rdc?_of_dies (dies_taken ..) d line

theorem expOff_taken (s : State) (id : Nat) (m : Msg) (line : Nat) : (taken s id m).expOff line = s.expOff line := by
  have h : (taken s id m).pkg.exp = s.pkg.exp := by
    rw [taken_eq]
    exact linkFlits_keeps (g := fun t => t.pkg.exp) (fun _ _ _ => rfl) ..
  unfold State.expOff
  rw [h]

end

/-! ### Entries of a directory -/

theorem dirEnt_of_dir {s t : State} {n : Nat} (h : (t.home n).dir = (s.home n).dir) (line : Nat) : t.dirEnt n line = s.dirEnt n line := by
  rw [State.dirEnt, h, State.dirEnt]

@[simp] theorem dirEnt_putDir (s : State) (n line : Nat) (e : DirEnt) : (s.putDir n line e).dirEnt n line = e := by
  simp [State.dirEnt, State.putDir, mget_mput]

theorem home_updHome_eq (s : State) (n m : Nat) (f : Home → Home) :
    (s.updHome n f).home m = if m = n then f (s.home n) else s.home m := by
  simp only [State.home, State.updHome_homes, mget_mset]

/-- An update of a home that keeps its directory. -/
theorem dir_updHome (s : State) (n m : Nat) {f : Home → Home} (hf : (f (s.home n)).dir = (s.home n).dir) :
    ((s.updHome n f).home m).dir = (s.home m).dir := by
  rw [home_updHome_eq]
  split
  next h => rw [hf, h]
  next => rfl

theorem dir_addPshr (s : State) (n line d m : Nat) : ((addPshr s n line d).home m).dir = (s.home m).dir := by
  have hk : ∀ c : Prop, [Decidable c] → ∀ f : Home → Home, (f (s.home n)).dir = (s.home n).dir →
      ((if c then s.updHome n f else s).home m).dir = (s.home m).dir := by
    intro c _ f hf
    split
    · exact dir_updHome s n m hf
    · rfl
  unfold addPshr
  simp only
  split
  · exact hk _ _ rfl
  · exact (dir_updHome _ n m rfl).trans (hk _ _ rfl)

theorem dir_settleHome (s : State) (n line m : Nat) : ((settleHome s n line).home m).dir = (s.home m).dir := by
  unfold settleHome
  split
  · rfl
  · split
    · unfold evictHome
      split
      · rfl
      · exact dir_updHome _ n m rfl
    · rfl

theorem homes_send (s : State) (m : Msg) : (send s m).homes = s.homes :=
  linkFlits_keeps (g := State.homes) (fun _ _ _ => rfl) ..

/-- The home once the entry of a read or of a request for ownership is written, before the answer (08 Table 8-5). -/
def granted (s : State) (m : Msg) (e : DirEnt) : State :=
  addPshr ((dirRoom (touchHome (dieAccess s m.dst (m.line / 64)) m.dst m.line m.cls m.chain m.ef) m.dst m.line).putDir m.dst m.line e)
    m.dst m.line m.src

theorem dirEnt_granted (s : State) (m : Msg) (e : DirEnt) : (granted s m e).dirEnt m.dst m.line = e :=
  (dirEnt_of_dir (dir_addPshr ..) _).trans (dirEnt_putDir ..)

/-- A packet that is sent travels as its sender made it. -/
theorem send_packet (s : State) (m : Msg) : ∃ a, (send s m).net = s.net ++ [a] ∧ a.kind = m.kind ∧ a.src = m.src ∧ a.dst = m.dst ∧
    a.line = m.line ∧ a.bytes = m.bytes := by
  obtain ⟨a, hn, ha⟩ := send_net s m
  refine ⟨a, hn, ?_⟩
  rw [ha]
  exact ⟨rfl, rfl, rfl, rfl, rfl⟩

/-- The packet that answers a request. -/
def replyMsg (m : Msg) (k : MsgKind) (b : SMap Byte) : Msg :=
  { id := 0, kind := k, src := m.dst, dst := m.src, line := m.line, bytes := b, rinc := m.inc, cls := m.cls, chain := m.chain, ef := m.ef }

theorem reply_eq (s : State) (m : Msg) (k : MsgKind) (b : SMap Byte) : reply s m k b = send s (replyMsg m k b) := rfl

/-- An answer is a packet to the requester, and leaves the directories as they are. -/
theorem answered (s : State) (m : Msg) (k : MsgKind) (b : SMap Byte) :
    (settleHome (reply s m k b) m.dst m.line).dirEnt m.dst m.line = s.dirEnt m.dst m.line ∧
    ∃ a, a ∈ (settleHome (reply s m k b) m.dst m.line).net ∧ a.kind = k ∧ a.dst = m.src ∧ a.line = m.line := by
  refine ⟨dirEnt_of_dir ((dir_settleHome ..).trans (by rw [State.home, reply_eq, homes_send, State.home])) _, ?_⟩
  obtain ⟨a, hn, hk, -, hd, hl, -⟩ := send_packet s (replyMsg m k b)
  rw [settleHome_net, reply_eq, hn]
  exact ⟨a, List.mem_append_right _ List.mem_cons_self, hk, hd, hl⟩

theorem perform_rd_of_no_owner {s : State} {m : Msg} (still : Bool) (h : DirEnt.ownerOf (s.dirEnt m.dst m.line) = none) :
    ∃ b, perform s .rd m still =
      settleHome (reply (granted s m (dirS ((s.dirEnt m.dst m.line).sharers ||| siteBit m.src))) m (.data false) b) m.dst m.line := by
  simp only [perform, h]
  exact ⟨_, rfl⟩

/-- The answer to a request for ownership is the line, or an acknowledgement to a die that shares it. -/
theorem perform_own {s : State} {m : Msg} {k : ReqKind} (still : Bool) (hk : k = .rfo ∨ k = .upg) :
    ∃ a b, (a = .data true ∨ a = .ack) ∧ perform s k m still = settleHome (reply (granted s m (dirE m.src)) m a b) m.dst m.line := by
  have key : ∀ (c : Bool) (t : State) (b : SMap Byte), ∃ a b', (a = MsgKind.data true ∨ a = .ack) ∧
      settleHome (if c then reply t m .ack [] else reply t m (.data true) b) m.dst m.line = settleHome (reply t m a b') m.dst m.line := by
    intro c t b
    cases c
    · exact ⟨.data true, b, .inl rfl, rfl⟩
    · exact ⟨.ack, [], .inr rfl, rfl⟩
  obtain rfl | rfl := hk <;> exact key _ _ _

theorem ownerOf_dirE {d : Nat} (hd : d < 8) : DirEnt.ownerOf (dirE d) = some d := by
  simp only [DirEnt.ownerOf, dirE, BitVec.toNat_ofNat]
  rw [if_pos (by decide), Nat.mod_eq_of_lt (by omega)]

/-- A vector with a die in it is not empty, so its entry stays. -/
theorem dirS_of_sharer {v : BitVec 8} {d : Nat} (hd : d < 8) : dirS (v ||| siteBit d) = { state := 1#2, sharers := v ||| siteBit d } := by
  unfold dirS
  refine if_neg fun h => ?_
  have hb : (v ||| siteBit d).getLsbD d = true := by
    rw [BitVec.getLsbD_or, getLsbD_siteBit d hd, decide_eq_true rfl, Bool.or_true]
  rw [h] at hb
  simp at hb

theorem retireEnt_of_owner {s : State} {n line d : Nat} (hm : (mfind (s.home n).dir line).isSome = true)
    (ho : DirEnt.ownerOf (s.dirEnt n line) = some d) : retireEnt s n line d = s.putDir n line {} := by
  obtain ⟨e, he⟩ := Option.isSome_iff_exists.1 hm
  have hd : s.dirEnt n line = e := by rw [State.dirEnt, mget, he, Option.getD_some]
  rw [hd] at ho
  simp only [retireEnt, he, ho, if_true]

theorem perform_notice_of_owner {s : State} {m : Msg} (still : Bool) (hm : (mfind (s.home m.dst).dir m.line).isSome = true)
    (ho : DirEnt.ownerOf (s.dirEnt m.dst m.line) = some m.src) :
    perform s .dirtyNotice m still = s.putDir m.dst m.line (dirM m.src) := by
  obtain ⟨e, he⟩ := Option.isSome_iff_exists.1 hm
  simp [perform, he, ho]

/-! ### Requests at their homes (08 R193; log 12) -/

/-- No other request about the line of a packet is in service or came before it, and its directory set has a way. -/
def isNext (s : State) (id : Nat) (m : Msg) : Prop :=
  (s.home m.dst).held.any (fun h => h.req.line = m.line) = false ∧ s.dirStuck m.line = false ∧
    s.net.any (fun x => x.id < id && x.src = m.src && x.dst = m.dst && x.line = m.line && (match x.kind with
      | .req _ => true
      | _ => false)) = false

theorem not_and_not_and_not {a b c : Bool} (ha : a = false) (hb : b = false) (hc : c = false) : (!a && !b && !c) = true := by
  rw [ha, hb, hc]
  rfl

theorem takeReq_of_arrives {s : State} {id : Nat} {m : Msg} {k : ReqKind} (ha : arrives s id m) (hk : m.kind = .req k)
    (hn : isNext s id m) : takeReq k id s = serveReq (taken s id m) k m := by
  obtain ⟨hheld, hstuck, hnet⟩ := hn
  exact receive_of_arrives ha (by rw [hk]; exact beq_self_eq_true _) (not_and_not_and_not hheld hstuck hnet)

end Sys2Proof.Machine
end

section
/-! RDC copies that a service of the home leaves, and those that it takes away (O50). -/

namespace Sys2Proof.Machine

/-! ### A copy that stays -/

theorem forall_key_ne_of_mfind {α : Type} {m : SMap α} {k : Nat} (h : mfind m k = none) : ∀ e ∈ m, e.1 ≠ k := by
  induction m with
  | nil => simp
  | cons x t ih =>
    simp only [mfind] at h
    split at h
    · cases h
    next hx => exact List.forall_mem_cons.2 ⟨hx, ih h⟩

theorem mdel_of_mfind_eq_none {α : Type} {m : SMap α} {k : Nat} (h : mfind m k = none) : mdel m k = m :=
  List.filter_eq_self.2 fun e he => bne_iff_ne.2 (forall_key_ne_of_mfind h e he)

theorem die_updDie_eq (s : State) (d e : Nat) (f : Die → Die) : (s.updDie d f).die e = if e = d then f (s.die d) else s.die e := by
  simp only [State.die, State.updDie_dies, mget_mset]

/-- The RDC of a die once a copy is dropped. -/
theorem rdc_dropRdc (s : State) (d line e : Nat) :
    ((dropRdc s d line).die e).rdc = if e = d then mdel (s.die d).rdc line else (s.die e).rdc := by
  unfold dropRdc
  split
  next h =>
    split
    next he => rw [he, mdel_of_mfind_eq_none h]
    next => rfl
  · refine (congrArg Die.rdc (die_updDie_eq s d e fun i => { i with rdc := mdel i.rdc line })).trans ?_
    split
    · rfl
    · rfl

theorem rdc?_dropRdc (s : State) (d line e ln : Nat) :
    (dropRdc s d line).rdc? e ln = if e = d ∧ ln = line then none else s.rdc? e ln := by
  rw [State.rdc?, rdc_dropRdc]
  by_cases he : e = d
  · by_cases hl : ln = line
    · rw [if_pos he, if_pos ⟨he, hl⟩, hl, mfind_mdel_same]
    · rw [if_pos he, if_neg (fun h => hl h.2), mfind_mdel_other _ hl, he, State.rdc?]
  · rw [if_neg he, if_neg (fun h => he h.1), State.rdc?]

theorem not_mem_sitesOf_not_siteBit (v : BitVec 8) (d : Nat) : d ∉ sitesOf (v &&& ~~~siteBit d) := by
  intro h
  obtain ⟨hr, hb⟩ := List.mem_filter.1 h
  have hd : d < 8 := List.mem_range.1 hr
  rw [BitVec.getLsbD_and, BitVec.getLsbD_not, getLsbD_siteBit d hd] at hb
  simp at hb

/-- A recall of a line for a die leaves every other line, and the line in the die itself. -/
theorem rdc?_recallEnt {s : State} {ln x d line : Nat} (h : line ≠ ln ∨ d = x) : (recallEnt s ln x).rdc? d line = s.rdc? d line := by
  have drop : ∀ (t : State) (y : Nat), (line ≠ ln ∨ y ≠ d) →
      (dropRdc (cross t (s.homeOf ln) y) y ln).rdc? d line = t.rdc? d line := by
    intro t y hy
    rw [rdc?_dropRdc, if_neg (fun hc => hy.elim (· hc.2) (· hc.1.symm)), rdc?_of_dies (cross_dies ..)]
  unfold recallEnt
  simp only
  split
  next y _ =>
    split
    · rfl
    next hy =>
      refine (rdc?_of_dies (State.putDir_dies ..) d line).trans ((drop _ y ?_).trans (rdc?_of_dies (ownerHome_dies ..) d line))
      exact h.imp_right fun hd hyd => hy (hyd.trans hd)
  · refine (rdc?_of_dies (State.putDir_dies ..) d line).trans ?_
    refine List.foldlRecOn (motive := fun t : State => t.rdc? d line = s.rdc? d line) _ _ rfl fun t ht y hy => ?_
    refine (drop t y (h.imp_right fun hd hyd => ?_)).trans ht
    rw [hyd, hd] at hy
    exact not_mem_sitesOf_not_siteBit _ _ hy

/-- Room in a directory is made at the cost of other lines. -/
theorem rdc?_dirRoom (s : State) (n line d : Nat) : (dirRoom s n line).rdc? d line = s.rdc? d line := by
  unfold dirRoom
  simp only
  split
  · rfl
  next hroom =>
    split
    · rfl
    · split
      · rfl
      next e l hfree =>
        have hm : e ∈ (s.home n).dir := by
          have he : e ∈ (s.dirWays n line).filter (fun e => !s.lineHeld e.1) := by rw [hfree]; exact List.mem_cons_self
          exact (List.mem_filter.1 (List.mem_filter.1 he).1).1
        have hne : line ≠ e.1 := by
          simp only [Bool.or_eq_true, not_or, Bool.not_eq_true, Option.isSome_eq_false_iff, Option.isNone_iff_eq_none] at hroom
          exact (forall_key_ne_of_mfind hroom.1 e hm).symm
        exact (rdc?_recallEnt (.inl hne)).trans (rdc?_of_dies (takeEvicts_dies ..) d line)

theorem rdc?_settleLine (s : State) (line x d : Nat) : (settleLine s line x).rdc? d line = s.rdc? d line := by
  refine Eq.trans ?_ (rdc?_of_dies (takeEvicts_dies s (fun m _ => m.line = line)) d line)
  unfold settleLine
  generalize takeEvicts s (fun m _ => m.line = line) = t
  have hc : ∀ l : List Nat, (l.foldl (fun s x => cross s (t.homeOf line) x) t).rdc? d line = t.rdc? d line := fun l =>
    rdc?_of_dies (foldl_dies (fun _ _ => cross_dies ..) l t) d line
  unfold discoverNow
  simp only
  split
  · rfl
  · split
    · exact hc _
    · exact (rdc?_dirRoom ..).trans (hc _)

theorem rdc?_recallAll (s : State) (line d : Nat) : (recallAll s line d).rdc? d line = s.rdc? d line :=
  (rdc?_recallEnt (.inr rfl)).trans (rdc?_settleLine ..)

/-- A push by a die leaves its own copy of the line. -/
theorem rdc?_pushHome (s : State) (line d : Nat) (b : SMap Byte) (p : Option Nat) (cls chain : Nat) (ef : Bool) :
    (pushHome s line d b p cls chain ef).1.rdc? d line = s.rdc? d line := by
  unfold pushHome
  simp only
  split
  · exact rdc?_of_dies (State.countLost_dies ..) ..
  · split
    · rfl
    · refine (rdc?_of_dies ((homePut_dies ..).trans (dieAccess_dies ..)) d line).trans ?_
      exact (rdc?_recallAll ..).trans (rdc?_of_dies (cross_dies ..) d line)

theorem rdc?_pushRdc {s : State} {d line : Nat} {x : RdcLine} (hx : s.rdc? d line = some x) (hb : Copy.dirtyBytes x.copy ≠ []) :
    (pushRdc s d line).rdc? d line = some { x with copy := Copy.clean x.copy } := by
  unfold pushRdc
  rw [hx]
  simp only
  rw [if_neg (by simpa using hb), rdc?_pushHome, rdc?_setRdc, if_pos ⟨rfl, rfl⟩]

theorem exec_push_of_idle {s : State} {site line : Nat} (hb : s.lineBusy line = false) (hr : s.reaches site (s.homeOf line) = true) :
    exec (.push site line) s = .next (pushRdc s site line) := by
  change execPush site line s = _
  unfold execPush
  rw [hb, hr]
  rfl

/-! ### Accesses of agents that cache nothing (08 Table 8-5; log 63) -/

theorem linesOf_line (line : Nat) : linesOf (64 * line) 64 = [line] := by
  have h : (64 * line + 64 - 1) / 64 + 1 - 64 * line / 64 = 1 := by omega
  simp only [linesOf, h]
  simp

theorem pagesOf_of_one_page {va n : Nat} (h0 : 0 < n) (h : va % 4096 + n ≤ 4096) : pagesOf va n = [(va, n)] := by
  have hn : (va + n - 1) / 4096 + 1 - va / 4096 = 1 := by omega
  have ha : max va (va / 4096 * 4096) = va := by omega
  have hb : min (va + n) ((va / 4096 + 1) * 4096) - va = n := by omega
  simp only [pagesOf, hn, if_neg (show n ≠ 0 by omega), List.range_one, List.map_cons, List.map_nil, Nat.add_zero, ha, hb]

theorem runsIdle_singleton (s : State) (a n cls : Nat) : runsIdle s [(a, n, cls)] = s.idleRange a n := by
  simp [runsIdle]

theorem winRuns_physical {s : State} {a n : Nat} (wr : Bool)
    (h : (linesOf a n).any (fun l => (s.mapCause (64 * l) false).isSome) = false) :
    winRuns s none a n wr = (s, some [(a, n, 0)]) := by
  simp only [winRuns, h, Bool.false_eq_true, if_false]

theorem winRuns_of_one_page {s s1 : State} {m a n : Nat} {wr : Bool} {x : Xlat} (hm : m < 16) (h0 : 0 < n) (h : a % 4096 + n ≤ 4096)
    (hx : engineXlat s (agentWin m) (mget 0 s.vm.win m) a 0#4 wr = (s1, .inr x)) :
    winRuns s (some m) a n wr = (s1, some [(x.pa, n, x.cls)]) := by
  simp only [winRuns, if_neg (show ¬ m ≥ 16 by omega), pagesOf_of_one_page h0 h, List.foldl_cons, List.foldl_nil, hx, List.nil_append]

theorem exec_rdnc_of_run {s s1 : State} {win : Option Nat} {line pa n cls : Nat}
    (hr : winRuns s win (64 * line) 64 false = (s1, some [(pa, n, cls)])) (hi : s1.idleRange pa n = true) :
    exec (.rdnc (win, line)) s = .next (readPhys (cross s1 Config.fed (s1.homeOf (pa / 64))) pa n).1 := by
  change execRdnc (win, line) s = _
  simp only [execRdnc, hr, runsIdle_singleton, hi, if_true, List.foldl_cons, List.foldl_nil]

theorem exec_wrnc_of_run {s s1 : State} {win : Option Nat} {x : BytesAt} {pa cls : Nat}
    (hr : winRuns s win x.addr x.bytes.length true = (s1, some [(pa, x.bytes.length, cls)]))
    (hi : s1.idleRange pa x.bytes.length = true) :
    exec (.wrnc (win, x)) s =
      .next (staleMoved (writePhys (cross s1 Config.fed (s1.homeOf (pa / 64))) pa x.bytes cls 0 false)) := by
  change execWrnc (win, x) s = _
  simp only [execWrnc, hr, runsIdle_singleton, hi, if_true, List.foldl_cons, List.foldl_nil, List.take_length]

theorem exec_rdnc_physical {s : State} {line : Nat} (hb : s.lineBusy line = false) (hc : s.mapCause (64 * line) false = none) :
    exec (.rdnc (none, line)) s = .next (serveRead (cross s Config.fed (s.homeOf line)) line).1 := by
  have hr := winRuns_physical (s := s) (a := 64 * line) (n := 64) false (by simp [linesOf_line, hc])
  rw [exec_rdnc_of_run hr (by simp [State.idleRange, linesOf_line, hb])]
  simp [readPhys, linesOf_line]

/-! ### Pages whose lines a die gives up (08 R199) -/

/-- A fold whose every step drops a copy of a die drops them all. -/
theorem rdc_foldl_mdel {d : Nat} {f : State → Nat × RdcLine → State}
    (hf : ∀ t e, ((f t e).die d).rdc = mdel (t.die d).rdc e.1)
    (l : SMap RdcLine) (t : State) : ((l.foldl f t).die d).rdc = (t.die d).rdc.filter (fun x => !l.any (fun e => e.1 == x.1)) := by
  induction l generalizing t with
  | nil => simp
  | cons a l ih =>
    rw [List.foldl_cons, ih, hf, mdel, List.filter_filter]
    refine List.filter_congr fun x _ => ?_
    rw [List.any_cons, Bool.not_or, Bool.and_comm, bne, Bool.beq_comm]

/-- The copies of a die whose lines meet a condition are dropped. -/
theorem rdc_foldl_mdel_filter {d : Nat} {f : State → Nat × RdcLine → State}
    (hf : ∀ t e, ((f t e).die d).rdc = mdel (t.die d).rdc e.1)
    (p : Nat → Bool) (t : State) : ∀ x ∈ ((((t.die d).rdc.filter (fun e => p e.1)).foldl f t).die d).rdc, p x.1 = false := by
  intro x hx
  rw [rdc_foldl_mdel hf] at hx
  obtain ⟨hm, hn⟩ := List.mem_filter.1 hx
  by_contra hp
  rw [Bool.not_eq_false] at hp
  have ha : ((t.die d).rdc.filter (fun e => p e.1)).any (fun e => e.1 == x.1) = true :=
    List.any_eq_true.2 ⟨x, List.mem_filter.2 ⟨hm, hp⟩, beq_self_eq_true _⟩
  rw [ha] at hn
  cases hn

theorem rdc_pageSnoopDie (s : State) (page d : Nat) : ∀ x ∈ ((pageSnoopDie s page d).die d).rdc, x.1 / 64 ≠ page := by
  intro x hx
  unfold pageSnoopDie at hx
  refine of_decide_eq_false (rdc_foldl_mdel_filter (p := fun l => decide (l / 64 = page)) (fun t e => ?_) _ x hx)
  change ((dropRdc _ d e.1).die d).rdc = _
  rw [rdc_dropRdc, if_pos rfl, State.die, cross_dies, ownerHome_dies, State.die]

theorem pageEnt?_mupd (s : State) (n page : Nat) (f : PageEnt → PageEnt) :
    (s.updHome n (fun h => { h with pages := mupd {} h.pages page f })).pageEnt? n page = some (f (mget {} (s.home n).pages page)) := by
  rw [State.pageEnt?, home_updHome]
  exact mfind_mset_same ..

theorem getLsbD_and_not_siteBit (v : BitVec 8) (d : Nat) : (v &&& ~~~siteBit d).getLsbD d = false := by
  by_cases hd : d < 8
  · rw [BitVec.getLsbD_and, BitVec.getLsbD_not, getLsbD_siteBit d hd]
    simp
  · exact BitVec.getLsbD_of_ge _ _ (by omega)

theorem exec_pageSnoop_of_sharer {s : State} {site page : Nat} {e : PageEnt} (he : s.pageEnt? (s.homeOf (64 * page)) page = some e)
    (hp : e.pshr.getLsbD site = true) (hr : s.reaches (s.homeOf (64 * page)) site = true)
    (hb : ((s.die site).rdc.filter (fun x => x.1 / 64 = page)).any (fun x => s.lineBusy x.1) = false) :
    exec (.pageSnoop site page) s = .next ((pageSnoopDie s page site).updHome (s.homeOf (64 * page)) (fun h =>
      { h with pages := mupd {} h.pages page (fun e => { e with pshr := e.pshr &&& ~~~siteBit site }) })) := by
  change execPageSnoop site page s = _
  unfold execPageSnoop
  simp only [he, hp, hr, hb, Bool.not_true, Bool.or_self, Bool.false_eq_true, if_false]

end Sys2Proof.Machine
end

section
/-! Snoops, answers and replies at the dies and at the homes, and the coherence of the package as a whole (O50). -/

namespace Sys2Proof.Machine

/-! ### Snoops and discoveries (08 Table 8-5, R195) -/

/-- The packet by which a die answers a snoop or a discovery. -/
def answerMsg (s : State) (m : Msg) (held owner : Bool) (bytes : SMap Byte) : Msg :=
  let c := ((s.rdc? m.dst m.line).map (·.copy)).getD {}
  { id := 0, kind := .answer held owner (evictionInFlight s m.dst m.line), src := m.dst, dst := m.src, line := m.line, bytes := bytes,
    rinc := m.inc, cls := c.cls, chain := c.chain }

theorem answer_eq (s : State) (m : Msg) (held owner : Bool) (bytes : SMap Byte) :
    answer s m held owner bytes = send s (answerMsg s m held owner bytes) := rfl

section
variable {s : State} {id : Nat} {m : Msg} (ha : arrives s id m)
include ha

theorem exec_snoop_of_none {inv : Bool} (hk : m.kind = .snoop inv) (hx : s.rdc? m.dst m.line = none) :
    exec (.snoop id) s = .next (answer (taken s id m) m false false []) := by
  change execSnoop id s = _
  rw [execSnoop, receive_of_arrives ha (by rw [hk]) rfl]
  simp only [rdc?_taken, hx]

/-- What a die does to its copy of a line that is snooped, once it has answered. -/
def snooped (s : State) (m : Msg) (inv : Bool) (x : RdcLine) : State :=
  if inv then dropRdc s m.dst m.line else s.setRdc m.dst m.line { x with st := 1, copy := Copy.clean x.copy }

omit ha in
theorem net_snooped (s : State) (m : Msg) (inv : Bool) (x : RdcLine) : (snooped s m inv x).net = s.net := by
  unfold snooped
  split
  · unfold dropRdc
    split <;> rfl
  · rfl

omit ha in
theorem rdc?_snooped (s : State) (m : Msg) (inv : Bool) (x : RdcLine) : (snooped s m inv x).rdc? m.dst m.line =
    if inv then none else some { x with st := 1, copy := Copy.clean x.copy } := by
  unfold snooped
  cases inv
  · exact (rdc?_setRdc ..).trans (if_pos ⟨rfl, rfl⟩)
  · exact (rdc?_dropRdc ..).trans (if_pos ⟨rfl, rfl⟩)

theorem exec_snoop_of_some {inv : Bool} (hk : m.kind = .snoop inv) {x : RdcLine} (hx : s.rdc? m.dst m.line = some x) :
    exec (.snoop id) s =
      .next (snooped (answer (taken s id m) m true (decide (2 ≤ x.st)) (Copy.dirtyBytes x.copy)) m inv x) := by
  have hi : (m.kind == .snoop true) = inv := by
    rw [hk]
    cases inv <;> rfl
  change execSnoop id s = _
  rw [execSnoop, receive_of_arrives ha (by rw [hk]) rfl]
  simp only [State.rdcDirty, rdc?_taken, hx, hi]
  rfl

theorem exec_discovery (hk : m.kind = .discovery) : exec (.discoveryBroadcast id) s = .next (match s.rdc? m.dst m.line with
    | none => answer (taken s id m) m false false []
    | some x => answer (taken s id m) m true (decide (2 ≤ x.st)) []) := by
  change execDiscoveryBroadcast id s = _
  rw [execDiscoveryBroadcast, receive_of_arrives ha (by rw [hk]; rfl) rfl]
  cases hx : s.rdc? m.dst m.line with
  | none => simp only [rdc?_taken, hx]
  | some x => simp only [rdc?_taken, hx]

theorem exec_snoopAnswer_of_held {a b c : Bool} {h : Held} {k : ReqKind} (hk : m.kind = .answer a b c)
    (hh : (s.home m.dst).held.find? (fun h => h.req.line = m.line && h.waits.contains m.src) = some h) (hr : h.req.kind = .req k) :
    let h1 : Held := { h with waits := h.waits.filter (· != m.src), answers := h.answers ++ [m] }
    exec (.snoopAnswer id) s = .next (if h1.waits.isEmpty then heldDone (taken s id m) m.dst h1 k
      else (taken s id m).updHome m.dst (fun x => { x with held := x.held.map (fun y => if y.req.id = h.req.id then h1 else y) })) := by
  intro h1
  change execSnoopAnswer id s = _
  rw [execSnoopAnswer, receive_of_arrives ha (by rw [hk]) rfl]
  simp only [home_taken, hh, hr]
  rfl

end

/-! ### Data, acknowledgements and replays (08 R202, 09 R218, R236) -/

theorem die_endWait (s : State) (d line : Nat) : line ∉ ((endWait s d line).die d).waits ∧
    ((endWait s d line).die d).rdc = (s.die d).rdc := by
  unfold endWait
  rw [die_updDie]
  exact ⟨by simp, rfl⟩

theorem rdc?_endWait (s : State) (d line ln : Nat) : (endWait s d line).rdc? d ln = s.rdc? d ln :=
  congrArg (mfind · ln) (die_endWait s d line).2

section
variable {s : State} {id : Nat} {m : Msg} (ha : arrives s id m)
include ha

theorem exec_dataReply_of_expOff {excl : Bool} (hk : m.kind = .data excl) (ho : s.expOff m.line = true) :
    exec (.dataReply id) s = .next (endWait (taken s id m) m.dst m.line) := by
  change execDataReply id s = _
  rw [execDataReply, receive_of_arrives ha (by rw [hk]) (by rw [ho, Bool.or_true, Bool.true_or])]
  simp only [hk, expOff_taken, ho, if_true]

theorem exec_dataReply_of_full {excl : Bool} (hk : m.kind = .data excl) (ho : s.expOff m.line = false)
    (hf : rdcFull s m.dst m.line = true) : exec (.dataReply id) s = .next s := by
  change execDataReply id s = _
  rw [execDataReply, receive_of_not_ready ha (by rw [hk]) (by rw [hk, ho, hf]; rfl)]

/-- The copy that the bytes of a reply fill (08 R202). -/
def filled (s : State) (m : Msg) (excl ext : Bool) : RdcLine :=
  let dt := (s.home m.dst).dt
  { st := if excl then 2 else 1, used := s.ctl.clock, ext := ext,
    copy := { wts := dt, rts := dt, grts := dt, fill := s.ctl.clock, data := m.bytes, cls := m.cls, chain := m.chain, ef := m.ef } }

theorem exec_dataReply_of_room {excl : Bool} (hk : m.kind = .data excl) (ho : s.expOff m.line = false)
    (hf : rdcFull s m.dst m.line = false) :
    let q := rdcRoom (taken s id m) m.dst m.line
    exec (.dataReply id) s = .next (endWait (q.1.setRdc m.dst m.line (filled q.1 m excl q.2)) m.dst m.line) := by
  intro q
  change execDataReply id s = _
  rw [execDataReply, receive_of_arrives ha (by rw [hk]) (by rw [hf, Bool.not_false, Bool.or_true])]
  simp only [hk, expOff_taken, ho, Bool.false_eq_true, if_false]
  rfl

theorem exec_dataReply_of_accessError (hk : m.kind = .accessError) :
    exec (.dataReply id) s = .next (endWait (taken s id m) m.dst m.line) := by
  change execDataReply id s = _
  rw [execDataReply, receive_of_arrives ha (by rw [hk]) (by rw [hk]; rfl)]
  simp only [hk]

/-- A die that shares the line owns it once its upgrade is granted. -/
def upgraded (s : State) (d line : Nat) : State :=
  match s.rdc? d line with
  | none => s
  | some x => if x.st = 1 then s.setRdc d line { x with st := 2 } else s

omit ha in
theorem rdc?_upgraded (s : State) (d line : Nat) : (upgraded s d line).rdc? d line =
    (s.rdc? d line).map (fun x => if x.st = 1 then { x with st := 2 } else x) := by
  unfold upgraded
  cases hx : s.rdc? d line with
  | none => exact hx
  | some x =>
    simp only [Option.map_some]
    split
    · exact (rdc?_setRdc ..).trans (if_pos ⟨rfl, rfl⟩)
    · exact hx

theorem exec_acknowledgement (hk : m.kind = .ack) :
    exec (.acknowledgement id) s = .next (endWait (upgraded (taken s id m) m.dst m.line) m.dst m.line) := by
  change execAcknowledgement id s = _
  rw [execAcknowledgement, receive_of_arrives ha (by rw [hk]; rfl) rfl]
  rfl

/-- The request that a die sends again under the new view. -/
def reissued (s : State) (m : Msg) (k : ReqKind) : Msg :=
  { id := 0, kind := .req k, src := m.dst, dst := s.homeOf m.line, line := m.line, bytes := m.bytes, cls := m.cls, chain := m.chain,
    ef := m.ef }

theorem exec_hbmReplay {k : ReqKind} (hk : m.kind = .replay k) :
    exec (.hbmReplay id) s = .next (send (taken s id m) (reissued (taken s id m) m k)) := by
  change execHbmReplay id s = _
  rw [execHbmReplay, receive_of_arrives ha (by rw [hk]) rfl]
  simp only [hk]
  rfl

end

theorem homeOf_taken (s : State) (id : Nat) (m : Msg) (line : Nat) : (taken s id m).homeOf line = s.homeOf line :=
  homeOf_of_tier (quiet_taken s id m).tier line

/-! ### Coherence as a whole -/

section
variable {s : State} {id : Nat} {m : Msg} (ha : arrives s id m)
include ha

theorem snoop_answers {inv : Bool} (hk : m.kind = .snoop inv) :
    (s.rdc? m.dst m.line = none → exec (.snoop id) s = .next (answer (taken s id m) m false false [])) ∧
    (∀ x, s.rdc? m.dst m.line = some x → ∃ t a, exec (.snoop id) s = .next t ∧ a ∈ t.net ∧
      (∃ f, a.kind = .answer true (decide (2 ≤ x.st)) f) ∧ a.src = m.dst ∧ a.dst = m.src ∧ a.line = m.line ∧
      a.bytes = Copy.dirtyBytes x.copy ∧
      t.rdc? m.dst m.line = if inv then none else some { x with st := 1, copy := Copy.clean x.copy }) := by
  refine ⟨exec_snoop_of_none ha hk, fun x hx => ?_⟩
  obtain ⟨a, hn, hkind, hsrc, hdst, hline, hbytes⟩ :=
    send_packet (taken s id m) (answerMsg (taken s id m) m true (decide (2 ≤ x.st)) (Copy.dirtyBytes x.copy))
  refine ⟨_, a, exec_snoop_of_some ha hk hx, ?_, ⟨_, hkind⟩, hsrc, hdst, hline, hbytes, rdc?_snooped ..⟩
  rw [net_snooped, answer_eq, hn]
  exact List.mem_append_right _ List.mem_cons_self

theorem snoopAnswer_ends_wait {h : Held} {a b c : Bool} {k : ReqKind} (hk : m.kind = .answer a b c)
    (hh : (s.home m.dst).held.find? (fun h => h.req.line = m.line && h.waits.contains m.src) = some h) (hr : h.req.kind = .req k) :
    let h1 : Held := { h with waits := h.waits.filter (· != m.src), answers := h.answers ++ [m] }
    (h1.waits = [] → exec (.snoopAnswer id) s = .next (heldDone (taken s id m) m.dst h1 k)) ∧
    (h1.waits ≠ [] → ∃ t, exec (.snoopAnswer id) s = .next t ∧ (t.home m.dst).held =
      (s.home m.dst).held.map (fun y => if y.req.id = h.req.id then h1 else y)) := by
  intro h1
  have he := exec_snoopAnswer_of_held ha hk hh hr
  refine ⟨fun hw => ?_, fun hw => ?_⟩
  · rw [he, if_pos (List.isEmpty_iff.2 hw)]
  · refine ⟨_, he.trans (congrArg Host.Outcome.next (if_neg fun hc => hw (List.isEmpty_iff.1 hc))), ?_⟩
    rw [home_updHome, home_taken]

theorem replies_end_wait :
    (∀ excl, m.kind = .data excl → s.expOff m.line = true → ∃ t,
      exec (.dataReply id) s = .next t ∧ m.line ∉ (t.die m.dst).waits ∧
      t.rdc? m.dst m.line = s.rdc? m.dst m.line) ∧
    (∀ excl, m.kind = .data excl → s.expOff m.line = false → rdcFull s m.dst m.line = true → exec (.dataReply id) s = .next s) ∧
    (∀ excl, m.kind = .data excl → s.expOff m.line = false → rdcFull s m.dst m.line = false →
      ∃ t y, exec (.dataReply id) s = .next t ∧ t.rdc? m.dst m.line = some y ∧
      y.st = (if excl then 2 else 1) ∧ y.copy.data = m.bytes ∧ y.copy.dirty = 0#64 ∧ m.line ∉ (t.die m.dst).waits) ∧
    (m.kind = .accessError → ∃ t, exec (.dataReply id) s = .next t ∧ m.line ∉ (t.die m.dst).waits ∧
      t.rdc? m.dst m.line = s.rdc? m.dst m.line) ∧
    (m.kind = .ack → ∃ t, exec (.acknowledgement id) s = .next t ∧ m.line ∉ (t.die m.dst).waits ∧
      t.rdc? m.dst m.line = (s.rdc? m.dst m.line).map (fun x => if x.st = 1 then { x with st := 2 } else x)) ∧
    (∀ k, m.kind = .replay k → ∃ t a, exec (.hbmReplay id) s = .next t ∧ t.net = s.net.filter (fun x => x.id != id) ++ [a] ∧
      a.kind = .req k ∧ a.src = m.dst ∧ a.dst = s.homeOf m.line ∧ a.line = m.line ∧ a.bytes = m.bytes) := by
  have ended : ∀ t, m.line ∉ ((endWait t m.dst m.line).die m.dst).waits := fun t => (die_endWait t m.dst m.line).1
  have kept : (endWait (taken s id m) m.dst m.line).rdc? m.dst m.line = s.rdc? m.dst m.line :=
    (rdc?_endWait ..).trans (rdc?_taken ..)
  refine ⟨fun excl hk ho => ⟨_, exec_dataReply_of_expOff ha hk ho, ended _, kept⟩,
    fun excl hk ho hf => exec_dataReply_of_full ha hk ho hf,
    fun excl hk ho hf => ?_,
    fun hk => ⟨_, exec_dataReply_of_accessError ha hk, ended _, kept⟩,
    fun hk => ⟨_, exec_acknowledgement ha hk, ended _, ?_⟩, fun k hk => ?_⟩
  · have hy : ∀ (t : State) y, (endWait (t.setRdc m.dst m.line y) m.dst m.line).rdc? m.dst m.line = some y := fun t y =>
      (rdc?_endWait ..).trans ((rdc?_setRdc ..).trans (if_pos ⟨rfl, rfl⟩))
    exact ⟨_, _, exec_dataReply_of_room ha hk ho hf, hy _ _, rfl, rfl, rfl, ended _⟩
  · rw [rdc?_endWait, rdc?_upgraded, rdc?_taken]
  · obtain ⟨a, hn, hkind, hsrc, hdst, hline, hbytes⟩ := send_packet (taken s id m) (reissued (taken s id m) m k)
    exact ⟨_, a, exec_hbmReplay ha hk, hn.trans (by rw [net_taken]), hkind, hsrc, hdst.trans (homeOf_taken ..), hline, hbytes⟩

end

theorem exec_hostSnoop_of_idle {s : State} {line : Nat} (inv : Bool) (hr : regionOf (64 * line) = .host) (hb : s.lineBusy line = false) :
    exec (.hostSnoop line inv) s = .next (flushHome
      ((sitesOf (mget 0#8 (s.home (s.homeOf line)).hostShr (line / 64))).foldl (fun s d => hostSnoopDie s line d inv) s) line) := by
  change execHostSnoop line inv s = _
  unfold execHostSnoop
  rw [hr, hb]
  rfl

/-- Settles O50: a request by the directory entry and the answer that its service leaves, a copy by the dies that a recall spares, and
each event of the network by what its packet does on arrival. -/
theorem coherence : Obligations.Coherence := by
  refine ⟨fun y hy s id m ha hk hn => ?_, fun s m ho hd => ?_, fun s m k hk hd => ?_, fun s m hm ho _ => ?_,
    fun s site line hb hr => ⟨_, exec_push_of_idle hb hr, rfl, fun x hx hd => ⟨_, rdc?_pushRdc hx hd, rfl⟩⟩,
    fun s line hb hc => exec_rdnc_physical hb hc, fun s m line s1 x hm hx hi => ?_,
    fun s x hi hc => exec_wrnc_of_run (winRuns_physical true hc) hi,
    fun s m x s1 y hm h0 hp hx hi => exec_wrnc_of_run (winRuns_of_one_page hm h0 hp hx) hi, fun s m x line hm => ?_,
    fun s id m inv ha hk => snoop_answers ha hk, fun s id m ha hk => ?_,
    fun s id m h a b c k ha hk hh hr => snoopAnswer_ends_wait ha hk hh hr, fun s id m ha => replies_end_wait ha,
    fun s site page e he hp hr hb => ?_, fun s line inv hr hb => exec_hostSnoop_of_idle inv hr hb⟩
  · have key : ∀ k i, y = (k, i) → exec (i id) s = .next (takeReq k id s) →
        exec (y.2 id) s = .next (serveReq (taken s id m) y.1 m) := by
      rintro k i rfl he
      exact he.trans (congrArg Host.Outcome.next (takeReq_of_arrives ha hk hn))
    simp only [List.mem_cons, List.not_mem_nil, or_false] at hy
    rcases hy with hy | hy | hy | hy | hy | hy
    all_goals exact key _ _ hy rfl
  · obtain ⟨b, hb⟩ := perform_rd_of_no_owner false ho
    rw [hb]
    obtain ⟨hdir, a, hm, hk, hdst, hline⟩ :=
      answered (granted s m (dirS ((s.dirEnt m.dst m.line).sharers ||| siteBit m.src))) m (.data false) b
    refine ⟨a, hm, hk, hdst, hline, ?_⟩
    rw [hdir, dirEnt_granted, dirS_of_sharer hd]
    exact ⟨rfl, rfl⟩
  · obtain ⟨a, b, ha, hb⟩ := perform_own false hk
    rw [hb]
    obtain ⟨hdir, p, hm, hkind, hdst, hline⟩ := answered (granted s m (dirE m.src)) m a b
    exact ⟨by rw [hdir, dirEnt_granted, ownerOf_dirE hd], p, hm, hdst, hline, hkind ▸ ha⟩
  · refine ⟨?_, by rw [perform_notice_of_owner false hm ho, dirEnt_putDir]⟩
    change (retireEnt s m.dst m.line m.src).dirEnt m.dst m.line = {}
    rw [retireEnt_of_owner hm ho, dirEnt_putDir]
  · exact exec_rdnc_of_run (winRuns_of_one_page hm (by decide) (by omega) hx) hi
  · have hr : ∀ a n wr, winRuns s (some m) a n wr = (s, none) := fun a n wr => if_pos hm
    constructor
    · change execRdnc (some m, line) s = _
      simp only [execRdnc, hr]
    · change execWrnc (some m, x) s = _
      simp only [execWrnc, hr]
  · exact (exec_discovery ha hk).trans (by cases s.rdc? m.dst m.line <;> rfl)
  · exact ⟨_, _, exec_pageSnoop_of_sharer he hp hr hb, pageEnt?_mupd .., getLsbD_and_not_siteBit _ site, rdc_pageSnoopDie s page site⟩

end Sys2Proof.Machine
end

section
/-! The host and the expanders: accesses from outside, recalls of pages, and a link that goes down (O52). -/

namespace Sys2Proof.Machine

/-! ### Accesses of the host (08 R199) -/

theorem linesOf_of_one_line {pa n : Nat} (h0 : 0 < n) (h : pa % 64 + n ≤ 64) : linesOf pa n = [pa / 64] := by
  have hn : (pa + n - 1) / 64 + 1 - pa / 64 = 1 := by omega
  simp only [linesOf, hn, if_neg (show n ≠ 0 by omega), List.range_one, List.map_cons, List.map_nil, Nat.zero_add]

theorem regionOf_eq_hbm {pa : Nat} : regionOf pa = .hbm ↔ pa < 0x8000000000 := by
  refine ⟨fun h => ?_, fun h => if_pos h⟩
  unfold regionOf at h
  split at h
  next hp => exact hp
  · repeat' split at h
    all_goals cases h

theorem regionOf_eq_lpddr {pa : Nat} : regionOf pa = .lpddr ↔ 0x10000000000 ≤ pa ∧ pa < 0x1C000000000 := by
  unfold regionOf
  refine ⟨fun h => ?_, fun h => ?_⟩
  · split at h
    · cases h
    · split at h
      next hp => simpa using hp
      · repeat' split at h
        all_goals cases h
  · rw [if_neg (by omega), if_pos (by simpa using h)]

/-- A page that an external agent may reach lies in no expander. -/
theorem expOff_of_extPage {s : State} {pa : Nat} (h : extPage s (pa / 4096) = true) (t : State) : t.expOff (pa / 64) = false := by
  have hp : regionOf (4096 * (pa / 4096)) = .hbm ∨ regionOf (4096 * (pa / 4096)) = .lpddr := by
    simp only [extPage, Bool.and_eq_true, Bool.or_eq_true, beq_iff_eq] at h
    exact h.1.1
  have hr : regionOf (64 * (pa / 64)) = .hbm ∨ regionOf (64 * (pa / 64)) = .lpddr := by
    rw [regionOf_eq_hbm, regionOf_eq_lpddr] at hp ⊢
    omega
  unfold State.expOff
  obtain hr | hr := hr
  all_goals rw [hr]

theorem holds_lineBytes {pa i : Nat} {l : List Byte} (hi : i < l.length) :
    Holds (lineBytes pa l ((pa + i) / 64)) ((pa + i) % 64) (l.getD i 0#8) := by
  refine ⟨⟨((pa + i) % 64, l.getD i 0#8), List.mem_map.2 ⟨(pa + i, l.getD i 0#8),
    List.mem_filter.2 ⟨mem_bytesAt.2 ⟨i, hi, rfl⟩, ?_⟩, rfl⟩,
    rfl⟩, fun e he hk => ?_⟩
  · exact decide_eq_true rfl
  · obtain ⟨x, hx, rfl⟩ := List.mem_map.1 he
    obtain ⟨hx, hln⟩ := List.mem_filter.1 hx
    obtain ⟨j, -, rfl⟩ := mem_bytesAt.1 hx
    simp only [decide_eq_true_eq] at hln hk
    obtain rfl : j = i := by omega
    rfl

/-- A line that is flushed is at its memory controller. -/
theorem memByte_flushHome {s : State} {line off : Nat} {b : Byte} (h : HomeHolds s line off b) :
    memByte (flushHome s line).mem (64 * line + off) = b := by
  unfold HomeHolds at h
  cases hl : s.homeLine? (s.homeOf line) line with
  | none =>
    rw [hl] at h
    simpa only [flushHome, hl] using h
  | some l =>
    rw [hl] at h
    simp only [flushHome, hl, State.setHomeLine_mem]
    exact memByte_memPutLine h.2 _ _ (.inl h.1)

/-- An external write within a line is performed at .sy: its bytes are in memory. -/
theorem memByte_extWrite {s : State} {pa cls i : Nat} {l : List Byte} (m : HostMode) (hx : ∀ t : State, t.expOff (pa / 64) = false)
    (hl : pa % 64 + l.length ≤ 64) (hi : i < l.length) : memByte (extWrite s pa l cls m).mem (pa + i) = l.getD i 0#8 := by
  have hline : (pa + i) / 64 = pa / 64 := by omega
  have hb := holds_lineBytes (pa := pa) hi
  rw [hline] at hb
  unfold extWrite
  simp only [extMode_mem, linesOf_of_one_line (Nat.zero_lt_of_lt hi) hl, List.foldl_cons, List.foldl_nil]
  have h := memByte_flushHome (homeHolds_homePut none cls 0 false (hx (recallAll (snoopPage (handover (markStale s (pa / 4096))
    (s.homeOf (64 * (pa / 4096))) (pa / 4096)) (pa / 4096)) (pa / 64) 99)) hb)
  rwa [show 64 * (pa / 64) + (pa + i) % 64 = pa + i by omega] at h

theorem exec_hostMemRead_of_pages {s : State} {pa n : Nat} (m : HostMode)
    (h : (pagesOf pa n).all (fun p => extPage s (p.1 / 4096)) = true) :
    exec (.hostMemRead pa n m) s = .next ((pagesOf pa n).foldl (fun s p => (extRead s p.1 p.2 m).1) s) :=
  congrArg Host.Outcome.next (if_pos h)

theorem exec_hostMemWrite_of_one_page {s : State} {x : BytesAt} (m : HostMode) (h : extPage s (x.addr / 4096) = true)
    (h0 : 0 < x.bytes.length) (hl : x.addr % 4096 + x.bytes.length ≤ 4096) :
    exec (.hostMemWrite x m) s = .next (extWrite s x.addr x.bytes 0 m) := by
  change execHostMemWrite x m s = _
  simp only [execHostMemWrite, pagesOf_of_one_page h0 hl, List.all_cons, List.all_nil, h, Bool.and_self, if_true, List.foldl_cons,
    List.foldl_nil, Nat.sub_self, List.drop_zero, List.take_length]

/-! ### Recalls of pages (08 R200, 12 R288) -/


theorem pages_recallLost (s : State) (n page m : Nat) :
    ((recallLost s n page).home m).pages = if m = n then mdel (s.home n).pages page else (s.home m).pages := by
  have hl : ∀ (t : State) kind site inc k, ((lossRecord t n (64 * page) kind site inc).home k).pages = (t.home k).pages := by
    intro t kind site inc k
    simp only [lossRecord, State.home, State.raise_homes, State.updHome_homes, mget_mset]
    split
    next h => rw [h]
    next => rfl
  refine (congrArg Home.pages (home_updHome_eq _ n m _)).trans ?_
  split
  · exact congrArg (mdel · page) (hl ..)
  · exact hl ..

/-- The entry of a recall that the host does not complete is the only one that goes. -/
theorem pages_foldl_recallLost (l : List (Nat × Nat)) (s : State) (m : Nat) :
    ((l.foldl (fun s q => recallLost s q.1 q.2) s).home m).pages =
      (s.home m).pages.filter (fun e => !l.any (fun q => q.1 == m && q.2 == e.1)) := by
  induction l generalizing s with
  | nil => simp
  | cons a l ih =>
    rw [List.foldl_cons, ih, pages_recallLost]
    split
    next h =>
      rw [h, mdel, List.filter_filter]
      refine List.filter_congr fun e _ => ?_
      rw [List.any_cons, beq_self_eq_true, Bool.true_and, Bool.not_or, Bool.and_comm, bne, Bool.beq_comm]
    next h =>
      refine List.filter_congr fun e _ => ?_
      rw [List.any_cons, beq_eq_false_iff_ne.2 (Ne.symm h), Bool.false_and, Bool.false_or]

theorem exec_pageRecallTimeout_of_page {s : State} {page : Nat} {e : PageEnt} (he : s.pageEnt? (s.homeOf (64 * page)) page = some e)
    (h2 : 2 ≤ e.state) : exec (.pageRecallTimeout page) s = .next (match e.recallAt with
      | none => s.updHome (s.homeOf (64 * page)) (fun h => { h with pages := mset h.pages page { e with recallAt := some s.ctl.time } })
      | some t => if s.overdue t then recallLost s (s.homeOf (64 * page)) page else s) := by
  change execPageRecallTimeout page s = _
  cases hr : e.recallAt with
  | none => simp only [execPageRecallTimeout, he, if_neg (Nat.not_lt.2 h2), hr]
  | some t => simp only [execPageRecallTimeout, he, if_neg (Nat.not_lt.2 h2), hr]

theorem pageRecall_ends {s : State} {page : Nat} {e : PageEnt} (he : s.pageEnt? (s.homeOf (64 * page)) page = some e) (h2 : 2 ≤ e.state) :
    (e.recallAt = none → ∃ t, exec (.pageRecallTimeout page) s = .next t ∧
      t.pageEnt? (s.homeOf (64 * page)) page = some { e with recallAt := some s.ctl.time }) ∧
    ∀ t0, e.recallAt = some t0 →
      (t0 + max 1 s.pkg.exp.ms * 1000 * usTicks ≤ s.ctl.time →
        ∃ t, exec (.pageRecallTimeout page) s = .next t ∧ t.pageEnt? (s.homeOf (64 * page)) page = none) ∧
      (s.ctl.time < t0 + max 1 s.pkg.exp.ms * 1000 * usTicks → exec (.pageRecallTimeout page) s = .next s) := by
  have hx := exec_pageRecallTimeout_of_page he h2
  refine ⟨fun hn => ?_, fun t0 ht => ⟨fun hd => ?_, fun hd => ?_⟩⟩
  · rw [hn] at hx
    refine ⟨_, hx, ?_⟩
    rw [State.pageEnt?, home_updHome]
    exact mfind_mset_same ..
  · rw [ht] at hx
    refine ⟨_, hx.trans (congrArg Host.Outcome.next (if_pos (decide_eq_true hd))), ?_⟩
    rw [State.pageEnt?, pages_recallLost, if_pos rfl, mfind_mdel_same]
  · rw [ht] at hx
    exact hx.trans (congrArg Host.Outcome.next (if_neg fun hc => Nat.not_le.2 hd (of_decide_eq_true hc)))

/-! ### The host's link (12 R288) -/

/-- The pages that the host holds or shares. -/
def hostPages (s : State) : List (Nat × Nat) :=
  s.homes.flatMap (fun h => (h.2.pages.filter (fun e => e.2.state ≥ 2)).map (fun e => (h.1, e.1)))

theorem foldl_hostPages (s t : State) : s.homes.foldl (fun s h => (h.2.pages.filter (fun e => e.2.state ≥ 2)).foldl
    (fun s e => recallLost s h.1 e.1) s) t = (hostPages s).foldl (fun s q => recallLost s q.1 q.2) t := by
  rw [hostPages, List.foldl_flatMap]
  simp only [List.foldl_map]

/-- The host holds and shares nothing once its pages are given up. -/
theorem state_lt_of_hostPages_lost {s : State} {n page : Nat} {e : PageEnt}
    (h : ((hostPages s).foldl (fun s q => recallLost s q.1 q.2) s).pageEnt? n page = some e) : e.state < 2 := by
  have hm := mem_of_mfind h
  rw [pages_foldl_recallLost] at hm
  obtain ⟨hm, hn⟩ := List.mem_filter.1 hm
  by_contra hs
  have hh : ∃ x ∈ s.homes, x.1 = n ∧ (page, e) ∈ x.2.pages := by
    rw [State.home, mget] at hm
    cases hf : mfind s.homes n with
    | none =>
      rw [hf] at hm
      cases hm
    | some x =>
      rw [hf] at hm
      exact ⟨(n, x), mem_of_mfind hf, rfl, hm⟩
  obtain ⟨x, hx, rfl, hp⟩ := hh
  have hmem : (x.1, page) ∈ hostPages s := List.mem_flatMap.2 ⟨x, hx, List.mem_map.2 ⟨(page, e),
    List.mem_filter.2 ⟨hp, decide_eq_true (Nat.not_lt.1 hs)⟩, rfl⟩⟩
  have ha : (hostPages s).any (fun q => q.1 == x.1 && q.2 == page) = true :=
    List.any_eq_true.2 ⟨_, hmem, by simp⟩
  rw [ha] at hn
  cases hn

theorem exec_hostLinkDown (s : State) : ∃ t, exec .hostLinkDown s = .next t ∧ (∃ l, t.ctl.irqs = l ++ [.hostDown]) ∧
    ∀ n page e, t.pageEnt? n page = some e → e.state < 2 := by
  refine ⟨_, rfl, ⟨_, rfl⟩, fun n page e he => ?_⟩
  rw [foldl_hostPages] at he
  exact state_lt_of_hostPages_lost he

/-! ### Expanders (09 R235, R236) -/

/-- The copies of a die of the lines of an expander are dropped, dirty ones counted as lost. -/
def dropExpander (n : Nat) (s : State) (d : Nat) : State :=
  ((s.die d).rdc.filter (fun e => inExp n (64 * e.1))).foldl (fun s e =>
    dropRdc (if e.2.copy.dirty != 0#64 then s.countLost e.1 else s) d e.1) s

theorem rdc_dropCounted (s : State) (d e : Nat) (x : Nat × RdcLine) :
    ((dropRdc (if x.2.copy.dirty != 0#64 then s.countLost x.1 else s) d x.1).die e).rdc =
      if e = d then mdel (s.die d).rdc x.1 else (s.die e).rdc := by
  have hd : (if x.2.copy.dirty != 0#64 then s.countLost x.1 else s).dies = s.dies := by
    split
    · exact State.countLost_dies ..
    · rfl
  rw [rdc_dropRdc, State.die, State.die, hd, State.die, State.die]

theorem rdc_dropExpander_same (n : Nat) (s : State) (d : Nat) : ∀ x ∈ ((dropExpander n s d).die d).rdc, inExp n (64 * x.1) = false :=
  rdc_foldl_mdel_filter (p := fun l => inExp n (64 * l)) (fun t e => by rw [rdc_dropCounted, if_pos rfl]) s

theorem rdc_dropExpander_subset (n : Nat) (s : State) (d e : Nat) : ∀ x ∈ ((dropExpander n s d).die e).rdc, x ∈ (s.die e).rdc := by
  unfold dropExpander
  refine List.foldlRecOn (motive := fun t : State => ∀ x ∈ (t.die e).rdc, x ∈ (s.die e).rdc) _ _ (fun _ hx => hx)
    fun t ht y _ x hx => ?_
  rw [rdc_dropCounted] at hx
  split at hx
  next he => exact ht x (he ▸ (List.mem_filter.1 hx).1)
  next => exact ht x hx

/-- No RDC holds a line of the expander once every die has dropped its copies. -/
theorem rdc_foldl_dropExpander (n : Nat) (l : List Nat) (s : State) {d : Nat} (hd : d ∈ l) :
    ∀ x ∈ ((l.foldl (dropExpander n) s).die d).rdc, inExp n (64 * x.1) = false := by
  induction l generalizing s with
  | nil => cases hd
  | cons a l ih =>
    rw [List.foldl_cons]
    by_cases hl : d ∈ l
    · exact ih _ hl
    · obtain rfl := (List.mem_cons.1 hd).resolve_right hl
      have hs : ∀ x ∈ ((l.foldl (dropExpander n) (dropExpander n s d)).die d).rdc, x ∈ ((dropExpander n s d).die d).rdc :=
        List.foldlRecOn (motive := fun t : State => ∀ x ∈ (t.die d).rdc, x ∈ ((dropExpander n s d).die d).rdc) l _ (fun _ hx => hx)
          fun t ht y _ x hx => ht x (rdc_dropExpander_subset n t y d x hx)
      exact fun x hx => rdc_dropExpander_same n s d x (hs x hx)

/-- A request of the FED about a line of the expander is answered with the access error. -/
def refuseHeld (n : Nat) (s : State) (x : Held) : State :=
  if !inExp n (64 * x.req.line) then s
  else reply (s.updHome Config.fed (fun h => { h with held := h.held.filter (fun y => y.req.id != x.req.id) })) x.req .accessError []

/-- A reply on its way fills nothing. -/
def dropReply (s : State) (m : Msg) : State := endWait { s with net := s.net.filter (fun y => y.id != m.id) } m.dst m.line

theorem rdc_refuseHeld (n : Nat) (s : State) (x : Held) (d : Nat) : ((refuseHeld n s x).die d).rdc = (s.die d).rdc := by
  unfold refuseHeld
  split
  · rfl
  · exact congrArg (fun y => (mget {} y d).rdc) (send_dies ..)

theorem rdc_dropReply (s : State) (m : Msg) (d : Nat) : ((dropReply s m).die d).rdc = (s.die d).rdc := by
  refine (congrArg Die.rdc (die_updDie_eq _ m.dst d fun i => { i with waits := i.waits.filter (· != m.line) })).trans ?_
  split
  next h => rw [h]; rfl
  next => rfl

theorem rdc_afterCopies (n : Nat) (u : State) (f : Home → Home) (held : List Held) (replies : List Msg) (d : Nat) :
    ((replies.foldl dropReply (held.foldl (refuseHeld n) (u.updHome Config.fed f))).die d).rdc = (u.die d).rdc :=
  (foldl_keeps (g := fun t : State => (t.die d).rdc) (fun _ _ => rdc_dropReply ..) replies _).trans
    (foldl_keeps (g := fun t : State => (t.die d).rdc) (fun _ _ => rdc_refuseHeld ..) held _)

theorem rdc_raise_setOff (s : State) (n : Nat) (v : Bool) (i : Irq) (d : Nat) :
    ((((setOff s n v).raise i).die d).rdc) = (s.die d).rdc := rfl

/-- What an expander that goes offline leaves, from the copies of its lines on. -/
theorem expOffline_eq (s : State) (n : Nat) : ∃ (u : State) (f : Home → Home) (held : List Held) (replies : List Msg),
    expOffline s n = (setOff (replies.foldl dropReply
      (held.foldl (refuseHeld n) (((List.range 8).foldl (dropExpander n) u).updHome Config.fed f))) n
      true).raise (.expander n) := ⟨_, _, _, _, rfl⟩

theorem rdc?_expOffline (s : State) {n d line : Nat} (hd : d < 8) (hl : inExp n (64 * line) = true) :
    (expOffline s n).rdc? d line = none := by
  obtain ⟨u, f, held, replies, h⟩ := expOffline_eq s n
  refine mfind_eq_none fun x hx he => ?_
  rw [h, rdc_raise_setOff, rdc_afterCopies] at hx
  have := rdc_foldl_dropExpander n (List.range 8) u (List.mem_range.2 hd) x hx
  rw [he, hl] at this
  cases this

theorem off_setOff (s : State) (n : Nat) (v : Bool) :
    (if n = 0 then (setOff s n v).pkg.exp.off0 else (setOff s n v).pkg.exp.off1) = v := by
  unfold setOff
  by_cases h : n = 0
  · simp only [h, if_true, State.updPkg_pkg]
  · simp only [h, if_false, State.updPkg_pkg]

theorem off_expOffline (s : State) (n : Nat) :
    (if n = 0 then (expOffline s n).pkg.exp.off0 else (expOffline s n).pkg.exp.off1) = true := by
  obtain ⟨u, f, held, replies, h⟩ := expOffline_eq s n
  rw [h]
  exact off_setOff _ n true

theorem exec_expanderDown {s : State} {n : Nat} {i : Instr} (hn : n < 2)
    (hi : i = .expanderLinkDown n ∨ i = .expanderTimeout n ∧ expOverdue s n = true) : exec i s = .next (expOffline s n) := by
  obtain rfl | ⟨rfl, ho⟩ := hi
  · exact congrArg Host.Outcome.next (if_pos hn)
  · exact congrArg Host.Outcome.next (if_pos (by rw [ho, decide_eq_true hn]; rfl))

theorem exec_expanderTimeout_of_not_overdue {s : State} {n : Nat} (ho : expOverdue s n = false) :
    exec (.expanderTimeout n) s = .next s :=
  congrArg Host.Outcome.next (if_neg (by rw [ho, Bool.and_false]; exact Bool.false_ne_true))

end Sys2Proof.Machine
end

section
/-! Traps leave the outstanding loads of every warp, and the accesses that fail from outside end them (O52). -/

namespace Sys2Proof.Machine

/-! ### States with the same outstanding loads -/

/-- The loads outstanding of a warp, where there is one. -/
def State.loads? (s : State) (r : WRef) : Option (List LoadOp) := (s.warp? r).map (·.loads)

/-- Every warp has the loads outstanding in `t` that it has in `s`. -/
structure SameLoads (s t : State) : Prop where
  loads : ∀ r, t.loads? r = s.loads? r

theorem SameLoads.refl (s : State) : SameLoads s s := ⟨fun _ => rfl⟩

theorem SameLoads.trans {s t u : State} (h : SameLoads s t) (g : SameLoads t u) : SameLoads s u :=
  ⟨fun r => (g.loads r).trans (h.loads r)⟩

theorem SameLoads.foldl {β : Type} {f : State → β → State} (h : ∀ s x, SameLoads s (f s x)) (l : List β) (s : State) :
    SameLoads s (l.foldl f s) :=
  List.foldlRecOn l f (.refl s) fun _ hs x _ => hs.trans (h _ x)

theorem sameLoads_of_warp {s t : State} (h : ∀ r, t.warp? r = s.warp? r) : SameLoads s t :=
  ⟨fun r => congrArg (Option.map Warp.loads) (h r)⟩

theorem loads?_of_warp? {s : State} {r : WRef} {w : Warp} (h : s.warp? r = some w) : s.loads? r = some w.loads := by
  rw [State.loads?, h, Option.map_some]

theorem sameLoads_setWarp {s : State} {r : WRef} {w : Warp} (h : s.loads? r = some w.loads) : SameLoads s (s.setWarp r w) := by
  refine ⟨fun q => ?_⟩
  by_cases hq : q = r
  · rw [hq, loads?_of_warp? (warp?_setWarp ..), h]
  · rw [State.loads?, warp?_setWarp_other _ _ _ _ hq, State.loads?]

theorem sameLoads_updWarp (s : State) (r : WRef) {f : Warp → Warp} (hf : ∀ w, (f w).loads = w.loads) : SameLoads s (s.updWarp r f) := by
  unfold State.updWarp
  split
  · exact .refl s
  next w hw => exact sameLoads_setWarp ((loads?_of_warp? hw).trans (congrArg some (hf w).symm))

theorem sameLoads_setBlock (s : State) (l h : Nat) (b : Block) : SameLoads s (s.setBlock l h b) :=
  sameLoads_of_warp fun _ => warp?_setBlock ..
theorem sameLoads_updBlock (s : State) (l h : Nat) (f : Block → Block) : SameLoads s (s.updBlock l h f) :=
  sameLoads_of_warp fun _ => warp?_updBlock ..

/-! ### Traps (10 R242 to R247) -/

theorem sameLoads_haltBlock (s : State) (r : WRef) (h : Nat) (w : Warp) : SameLoads s (haltBlock s r h w) := by
  have hf : ∀ v : Warp, (haltWarp v).loads = v.loads := by
    intro v
    unfold haltWarp
    split
    · rfl
    · simp only
      split <;> rfl
  unfold haltBlock
  split
  · exact .refl s
  · exact (sameLoads_setBlock ..).trans (.foldl (fun t _ => sameLoads_updWarp t _ hf) _ _)

theorem loads_toTail (c : Core) (out k : Nat) : (mfind (c.toTail out).warps k).map (·.loads) = (mfind c.warps k).map (·.loads) := by
  unfold Core.toTail
  split
  · rfl
  next w hw =>
    have hset : (mfind (mset c.warps out { w with wait := none }) k).map (·.loads) = (mfind c.warps k).map (·.loads) := by
      rw [mfind_mset]
      split
      next hk => rw [hk, hw]; rfl
      next => rfl
    split
    · simp only
      split <;> exact hset
    · split <;> rfl

theorem loads_promote (c : Core) (slot now k : Nat) :
    (mfind (promote c slot now).warps k).map (·.loads) = (mfind c.warps k).map (·.loads) := by
  unfold promote
  split
  · rfl
  · cases hw : mfind c.warps slot with
    | none =>
      simp only [hw]
      split
      · rfl
      · split
        · rfl
        · exact loads_toTail ..
    | some w =>
      have hset : (mfind (mset c.warps slot { w with enter := now + 2 }) k).map (·.loads) = (mfind c.warps k).map (·.loads) := by
        rw [mfind_mset]
        split
        next hk => rw [hk, hw]; rfl
        next => rfl
      simp only [hw]
      split
      · exact hset
      · split
        · exact hset
        · exact (loads_toTail ..).trans hset

theorem sameLoads_promote (s : State) (l slot now : Nat) : SameLoads s (s.updCore l (fun c => promote c slot now)) := by
  refine ⟨fun r => ?_⟩
  simp only [State.loads?, State.warp?, core_updCore]
  split
  next h => rw [loads_promote, h]
  next => rfl

theorem sameLoads_of_cores {s t : State} (h : t.cores = s.cores) : SameLoads s t :=
  sameLoads_of_warp fun r => by rw [State.warp?, State.core, h, State.warp?, State.core]

theorem updLaunch_cores (s : State) (l : Nat) (g : Launch → Launch) : (s.updLaunch l g).cores = s.cores := by
  unfold State.updLaunch
  split <;> rfl

theorem sameLoads_fatalFault (s : State) (lid : Nat) (bid : W32) : SameLoads s (fatalFault s lid bid) := by
  unfold fatalFault
  split
  · exact .refl s
  next l _ =>
    refine sameLoads_of_cores (Eq.trans (b := (markLaunch s l lid _).cores) rfl ?_)
    unfold markLaunch
    simp only
    split
    · exact (updLaunch_cores ..).trans (updLaunch_cores ..)
    · exact updLaunch_cores ..

theorem sameLoads_raise (s : State) (i : Irq) : SameLoads s (s.raise i) := sameLoads_of_cores rfl

theorem sameLoads_doubleFault {s : State} {r : WRef} {w : Warp} (t : TrapReq) (h : s.loads? r = some w.loads) :
    SameLoads s (doubleFault s r w t) := by
  unfold doubleFault
  simp only
  split
  · exact sameLoads_setWarp h
  · refine SameLoads.trans (SameLoads.trans ?_ (sameLoads_raise ..)) (sameLoads_fatalFault ..)
    refine SameLoads.trans (sameLoads_setWarp ?_) (.foldl (fun u x => ?_) _ _)
    · exact h
    · exact sameLoads_updWarp u _ fun _ => rfl

theorem sameLoads_enterTrap {s : State} {r : WRef} {w : Warp} (t : TrapReq) (h : s.loads? r = some w.loads) :
    SameLoads s (enterTrap s r w t) := by
  have h1 : ∀ v : Warp, v.loads = w.loads → SameLoads s (s.setWarp r v) := fun v hv =>
    sameLoads_setWarp (h.trans (congrArg some hv.symm))
  unfold enterTrap
  split
  · refine SameLoads.trans ?_ (sameLoads_raise ..)
    exact h1 _ rfl
  · split
    · exact sameLoads_doubleFault t h
    · split
      · refine SameLoads.trans ?_ (sameLoads_raise ..)
        exact h1 _ rfl
      · split
        · exact .refl s
        · simp only
          have h2 : ∀ lv vec prim, SameLoads s ((s.setWarp r (enterHandler w lv vec t prim)).updCore r.core
              (fun c => promote c r.slot s.ctl.clock)) := by
            intro lv vec prim
            refine SameLoads.trans (h1 _ ?_) (sameLoads_promote ..)
            unfold enterHandler
            simp only
            split <;> rfl
          split
          · exact (h2 ..).trans (sameLoads_haltBlock ..)
          · exact h2 ..

theorem sameLoads_takeTrap (s : State) (r : WRef) (t : TrapReq) : SameLoads s (takeTrap s r t) := by
  unfold takeTrap
  split
  · exact .refl s
  next w hw =>
    have hl := loads?_of_warp? hw
    split
    next p v _ =>
      have h1 : SameLoads s ((s.updWarp { core := r.core, slot := p } (fun x => yieldHalt x v)).updBlock r.core w.blk (fun b =>
          { b with halt := some r.slot,
                   haltBy := some (s.ctl.clock, { w with skid := none, inHandler := false, rmask := t.rmask }) })) := by
        refine SameLoads.trans ?_ (sameLoads_updBlock ..)
        exact sameLoads_updWarp s _ fun _ => rfl
      have h2 := h1.trans (sameLoads_setWarp (w := { w with skid := none, inHandler := false }) ((h1.loads r).trans hl))
      exact h2.trans (sameLoads_enterTrap t ((h2.loads r).trans hl))
    · split
      · refine sameLoads_setWarp (hl.trans (congrArg some ?_))
        unfold stopWarp
        simp only
        split <;> rfl
      · exact sameLoads_enterTrap t hl

theorem sameLoads_lateTrap (s : State) (r : WRef) (o : IssuePt) (t : TrapReq) : SameLoads s (lateTrap s r o t) := by
  have h1 : SameLoads s (unstop s r) := by
    unfold unstop
    split
    · exact .refl s
    next w hw =>
      split
      · refine sameLoads_setWarp ?_
        rw [loads?_of_warp? hw]
      · exact .refl s
  unfold lateTrap
  refine h1.trans ?_
  simp only
  split
  · exact .refl _
  next w hw =>
    split
    · refine SameLoads.trans (sameLoads_setWarp ?_) (sameLoads_takeTrap ..)
      rw [loads?_of_warp? hw]
    · exact sameLoads_takeTrap ..

/-! ### Accesses that fail (09 R235, 12 R288) -/

theorem lanes_failLanes (p : Nat → Bool) (o : LoadOp) : ∀ y ∈ (failLanes p o).lanes, p y.pa = false := by
  intro y hy
  simpa using (List.mem_filter.1 hy).2

/-- Of the loads that `hit` picks, and of those of the same numbers, no lane where `p` holds is left; the others stay. -/
theorem lanes_of_replaced {loads : List LoadOp} {hit keep : LoadOp → Bool} {p : Nat → Bool} {o : LoadOp}
    (ho : o ∈ (loads.map (fun o => (((loads.filter hit).map (failLanes p)).find? (fun x => x.id = o.id)).getD o)).filter keep)
    (hh : hit o = false → ∀ y ∈ o.lanes, p y.pa = false) : ∀ y ∈ o.lanes, p y.pa = false := by
  obtain ⟨o0, ho0, rfl⟩ := List.mem_map.1 (List.mem_filter.1 ho).1
  cases hf : ((loads.filter hit).map (failLanes p)).find? (fun x => x.id = o0.id) with
  | some x =>
    obtain ⟨o1, -, rfl⟩ := List.mem_map.1 (List.mem_of_find?_eq_some hf)
    exact lanes_failLanes p o1
  | none =>
    rw [hf] at hh
    refine hh (Bool.eq_false_iff.2 fun hit0 => ?_)
    exact List.find?_eq_none.1 hf _ (List.mem_map_of_mem (List.mem_filter.2 ⟨ho0, hit0⟩)) (decide_eq_true rfl)

/-- The failure of a segment of a copy. -/
theorem sameLoads_segFail (s : State) (r : WRef) (h : Nat) (b : Block) (sup : Bool) (c : CopyOp) (g : Seg) (f : Seg → Seg) :
    SameLoads s ((segFail s r.core h b sup g).updWarp r (fun v => updSeg v c.id g.id f)) :=
  (sameLoads_of_warp fun _ => warp?_segFail ..).trans (sameLoads_updWarp _ r fun _ => rfl)

theorem sameLoads_endGathers (s : State) (r : WRef) (op : Nat) : SameLoads s (endGathers s r op) :=
  sameLoads_of_warp (Steady.foldl steady_gatherDone _ s).warp

/-- The trap of an operation whose last access has failed. -/
theorem sameLoads_endedTrap (s : State) (r : WRef) (e : Option FailedOp) : SameLoads s (match e with
    | none => s
    | some o => match laneTrap o.faults o.queue with
      | none => s
      | some t => lateTrap s r o.pt t) := by
  cases e with
  | none => exact .refl s
  | some o =>
    cases ht : laneTrap o.faults o.queue with
    | none => simp only [ht]; exact .refl s
    | some t => simp only [ht]; exact sameLoads_lateTrap ..

/-- Of the loads that `only` names, or of all, none but those into a queue has a lane left where `p` holds. -/
def LanesOver (only : Option Nat) (p : Nat → Bool) (l : List LoadOp) : Prop :=
  ∀ o ∈ l, (only.isNone || only == some o.id) = true → (∀ a q x, o.dest ≠ .queue a q x) → ∀ y ∈ o.lanes, p y.pa = false

theorem lanes_failAccess {s : State} {r : WRef} {w : Warp} {b : Block} {only : Option Nat} {p : Nat → Bool} (hw : s.warp? r = some w)
    (hb : s.block? r.core w.blk = some b) : ∃ w1, (failAccess s r only p).warp? r = some w1 ∧
      LanesOver only p w1.loads := by
  have key : ∃ f : Warp → Warp, SameLoads (s.updWarp r f) (failAccess s r only p) ∧ LanesOver only p (f w).loads := by
    unfold failAccess
    rw [hw]
    simp only
    rw [hb]
    simp only
    apply Exists.intro
    apply And.intro
    · refine SameLoads.trans ?_ (sameLoads_endedTrap ..)
      refine SameLoads.trans ?_ (.foldl (fun t o => sameLoads_endGathers ..) _ _)
      refine SameLoads.trans ?_ (.foldl (fun t c => .foldl (fun u g => ?_) _ _) _ _)
      · exact .refl _
      · split
        · exact sameLoads_segFail ..
        · exact .refl u
    · intro o ho hn hq
      refine lanes_of_replaced ho fun hhit y hy => ?_
      rw [hn, Bool.true_and] at hhit
      cases hd : o.dest with
      | queue a q x => exact absurd hd (hq a q x)
      | vreg d x => simp only [hd] at hhit; exact Bool.eq_false_iff.2 (List.any_eq_false.1 hhit y hy)
      | sreg d x => simp only [hd] at hhit; exact Bool.eq_false_iff.2 (List.any_eq_false.1 hhit y hy)
  obtain ⟨f, hs, hl⟩ := key
  have h := (hs.loads r).trans (loads?_of_warp? (warp?_updWarp_same f hw))
  obtain ⟨w1, hw1, he⟩ := Option.map_eq_some_iff.1 h
  exact ⟨w1, hw1, he ▸ hl⟩

/-! ### The loads of residencies (12 R288) -/

theorem failLoads_of_none {s : State} {p : Nat → Bool} {late : ResLoad → Bool}
    (h : ∀ x ∈ s.cores, ∀ l ∈ x.2.resl, late l = true → loadHits s x.1 p l = false) : failLoads s p late = s := by
  refine List.foldlRecOn (motive := fun t => t = s) s.cores _ rfl fun t ht x hx => ?_
  have hn : x.2.resl.filter (fun l => late l && loadHits s x.1 p l) = [] := by
    refine List.filter_eq_nil_iff.2 fun l hl hc => ?_
    obtain ⟨h1, h2⟩ := Bool.and_eq_true_iff.1 hc
    rw [h x hx l hl h1] at h2
    cases h2
  rw [hn, List.foldl_nil, ht]

theorem failLoads_of_one {s : State} {core : Nat} {c : Core} {l : ResLoad} {p : Nat → Bool} {late : ResLoad → Bool}
    (hc : s.cores = [(core, c)]) (hr : c.resl = [l]) (hl : late l = true) (hh : loadHits s core p l = true) :
    failLoads s p late = endLoad s core l false := by
  have hf : [l].filter (fun l => late l && loadHits s core p l) = [l] := List.filter_cons_of_pos (by rw [hl, hh]; rfl)
  rw [failLoads, hc, List.foldl_cons, List.foldl_nil, hr, hf, List.foldl_cons, List.foldl_nil]

/-- The loads of one operation of a warp that wait for the host have none of the host's lanes left once the host has not answered. -/
theorem hostLanes_failAccess {s : State} {r : WRef} {w : Warp} {b : Block} {op : Nat} (hw : s.warp? r = some w)
    (hb : s.block? r.core w.blk = some b) : ∃ w1, (failAccess s r (some op) (fun pa => regionOf pa == .host)).warp? r = some w1 ∧
      ∀ o ∈ w1.loads, o.id = op → o.gather = [] → (∀ a q x, o.dest ≠ .queue a q x) →
        ∀ y ∈ o.lanes, regionOf y.pa ≠ .host := by
  obtain ⟨w1, hw1, h⟩ := lanes_failAccess (only := some op) (p := fun pa => regionOf pa == .host) hw hb
  refine ⟨w1, hw1, fun o ho hid _ hq y hy => beq_eq_false_iff_ne.1 (h o ho ?_ hq y hy)⟩
  rw [hid, beq_self_eq_true, Bool.or_true]

end Sys2Proof.Machine
end

section
/-! The Ethernet ports: what a peer package writes and reads, the port's own operations, and a port that goes down (O52). -/

namespace Sys2Proof.Machine

/-! ### Operations of peer packages (12 R290) -/

section
variable {s s1 : State} {p qp va n c : Nat} {need : BitVec 4} {wr : Bool} {out : SegOutcome}

theorem portOp_of_run {l : List PortPiece} (hr : portRun s p va n need wr = (s1, .inr l))
    (hi : l.all (fun y => s1.idleRange (y.pa / 4096 * 4096) 4096) = true) (f : State → PortPiece → State) (done : State → State) :
    portOp s p va n need wr out f done = done (l.foldl f s1) := by
  simp only [portOp, hr, hi, if_true]

theorem portOp_of_fault (hr : portRun s p va n need wr = (s1, .inl c)) (f : State → PortPiece → State) (done : State → State) :
    portOp s p va n need wr out f done =
      if pageWait out c then askRun s (agentPort p) (s.port p).ctx va n (engineNeed false need) wr else s := by
  simp only [portOp, hr]

/-- The immediate of an RDMA WRITE, where it has one, is received. -/
def immReceived (p qp : Nat) (imm : Option W32) (s : State) : State :=
  match imm with
  | none => s
  | some v => s.updPort p (fun k => { k with recv := k.recv ++ [.imm qp v] })

variable (ht : portTakes s p qp = true)
include ht

theorem exec_rdmaWrite_of_takes (x : BytesAt) (imm : Option W32) :
    exec (.rdmaWrite (p, qp) (x, imm, out)) s = .next (portOp s p x.addr x.bytes.length needW true out
      (fun s y => extWrite s y.pa ((x.bytes.drop (y.va - x.addr)).take y.len) y.cls .none) (immReceived p qp imm)) :=
  congrArg Host.Outcome.next (if_neg (by rw [ht]; decide))

theorem exec_rdmaRead_of_takes :
    exec (.rdmaRead (p, qp) va (n, out)) s =
      .next (portOp s p va n needR false out (fun s y => (extRead s y.pa y.len .none).1) (fun s => s)) :=
  congrArg Host.Outcome.next (if_neg (by rw [ht]; decide))

theorem exec_rdmaSend_of_takes (x : BytesAt) :
    exec (.rdmaSend (p, qp) x) s = .next (s.updPort p (fun k => { k with recv := k.recv ++ [.send qp x] })) :=
  congrArg Host.Outcome.next (if_neg (by rw [ht]; decide))

end

/-! ### Numbers of a timeline (07 R182) -/

theorem issued_issueNum (s : State) (ctx tlid : Nat) :
    ((issueNum s ctx tlid).2.timeline ctx tlid).issued = (s.timeline ctx tlid).issued + 1 :=
  congrArg Timeline.issued (mget_mset_same ..)

theorem issued_completeNum (s : State) (ctx tlid n : Nat) :
    ((completeNum s ctx tlid n).timeline ctx tlid).issued = (s.timeline ctx tlid).issued := by
  unfold completeNum State.timeline
  simp only [State.updFed_fed, mget_mset_same]

/-! ### Operations of a port (12 R290, R298) -/

theorem port_portEnd (s : State) (p : Nat) (o : PortOp) (ok : Bool) : (portEnd s p o ok).port p =
    { s.port p with ops := (s.port p).ops.filter (fun y => y != o)
                    errs := if ok then (s.port p).errs else (s.port p).errs ++ [o] } :=
  port_updPort s p fun k => { k with ops := k.ops.filter (fun y => y != o), errs := if ok then k.errs else k.errs ++ [o] }

theorem notMem_filter_ne {α : Type} [BEq α] [LawfulBEq α] (l : List α) (x : α) : x ∉ l.filter (fun y => y != x) := fun h =>
  bne_iff_ne.1 (List.mem_filter.1 h).2 rfl

theorem notMem_portEnd (s : State) (p : Nat) (o : PortOp) (ok : Bool) : o ∉ ((portEnd s p o ok).port p).ops := by
  rw [port_portEnd]
  exact notMem_filter_ne (s.port p).ops o

theorem collWait_portEnd (s : State) (p : Nat) (o : PortOp) (ok : Bool) : (portEnd s p o ok).pkg.collWait = s.pkg.collWait := rfl

/-- The state once a port has numbered and taken an operation of its own. -/
def submitted (s : State) (p qp : Nat) : State :=
  let n := issueNum s (s.port p).ctx (0x4000 + p)
  n.2.updPort p (fun k => { k with ops := k.ops ++ [{ num := n.1, ctx := (s.port p).ctx, qp := qp }] })

theorem port_submitted (s : State) (p qp : Nat) : (submitted s p qp).port p = { s.port p with
    ops := (s.port p).ops ++ [{ num := (s.timeline (s.port p).ctx (0x4000 + p)).issued + 1, ctx := (s.port p).ctx, qp := qp }] } :=
  port_updPort ..

theorem issued_submitted (s : State) (p qp : Nat) : ((submitted s p qp).timeline (s.port p).ctx (0x4000 + p)).issued =
    (s.timeline (s.port p).ctx (0x4000 + p)).issued + 1 :=
  issued_issueNum ..

theorem exec_rdmaSubmit {p qp : Nat} (s : State) (hp : p < 2) (hq : qp < 16384) :
    exec (.rdmaOperationComplete (p, .submit qp)) s = .next (if (s.port p).up then submitted s p qp else portEnd (submitted s p qp) p
      { num := (s.timeline (s.port p).ctx (0x4000 + p)).issued + 1, ctx := (s.port p).ctx, qp := qp } false) :=
  congrArg Host.Outcome.next ((if_neg (Nat.not_le.2 hp)).trans (if_neg (Nat.not_le.2 hq)))

theorem exec_rdmaComplete {s : State} {p num : Nat} {o : PortOp} (ok : Bool) (hp : p < 2)
    (ho : (s.port p).ops.find? (fun o => o.num = num) = some o) :
    exec (.rdmaOperationComplete (p, .complete num ok)) s = .next (portEnd s p o ok) := by
  refine congrArg Host.Outcome.next ((if_neg (Nat.not_le.2 hp)).trans ?_)
  simp only [ho]

/-- An operation that a port submits has the next number of the port's timeline; on a port that is down it fails at once. -/
theorem rdmaSubmit_numbered (s : State) {p qp : Nat} (hp : p < 2) (hq : qp < 16384) :
    let c := (s.port p).ctx
    let n := (s.timeline c (0x4000 + p)).issued + 1
    let op : PortOp := { num := n, ctx := c, qp := qp }
    ∃ t, exec (.rdmaOperationComplete (p, .submit qp)) s = .next t ∧ (t.timeline c (0x4000 + p)).issued = n ∧
      ((s.port p).up = true → (t.port p).ops = (s.port p).ops ++ [op]) ∧
      ((s.port p).up = false → op ∉ (t.port p).ops ∧ (t.port p).errs = (s.port p).errs ++ [op] ∧
        (n ≤ (t.timeline c (0x4000 + p)).counter ∨ n ∈ (t.timeline c (0x4000 + p)).done)) := by
  intro c n op
  refine ⟨_, exec_rdmaSubmit s hp hq, ?_⟩
  cases hu : (s.port p).up with
  | true =>
    rw [if_pos rfl]
    exact ⟨issued_submitted s p qp, fun _ => congrArg Port.ops (port_submitted s p qp), nofun⟩
  | false =>
    rw [if_neg Bool.false_ne_true]
    refine ⟨(issued_completeNum ..).trans (issued_submitted s p qp), nofun,
      fun _ => ⟨notMem_portEnd (submitted s p qp) p op false, ?_, timeline_completeNum ..⟩⟩
    rw [port_portEnd, port_submitted]
    rfl

/-- An operation that completes, done or failed, leaves the port, and its number is complete. -/
theorem rdmaComplete_ends {s : State} {p num : Nat} {o : PortOp} (ok : Bool) (hp : p < 2)
    (ho : (s.port p).ops.find? (fun o => o.num = num) = some o) :
    ∃ t, exec (.rdmaOperationComplete (p, .complete num ok)) s = .next t ∧ o ∉ (t.port p).ops ∧
      (t.port p).errs = (if ok then (s.port p).errs else (s.port p).errs ++ [o]) ∧
      (o.num ≤ (t.timeline o.ctx (0x4000 + p)).counter ∨ o.num ∈ (t.timeline o.ctx (0x4000 + p)).done) :=
  ⟨_, exec_rdmaComplete ok hp ho, notMem_portEnd s p o ok, congrArg Port.errs (port_portEnd s p o ok), timeline_completeNum ..⟩

/-! ### Collectives that end early (12 R291, R298) -/

theorem updLaunch_pkg (s : State) (l : Nat) (g : Launch → Launch) : (s.updLaunch l g).pkg = s.pkg := by
  unfold State.updLaunch
  split <;> rfl

theorem markLaunch_pkg (s : State) (l : Launch) (lid : Nat) (f : Launch → Launch) : (markLaunch s l lid f).pkg = s.pkg := by
  unfold markLaunch
  simp only
  split
  · exact (updLaunch_pkg ..).trans (updLaunch_pkg ..)
  · exact updLaunch_pkg ..

theorem collAbort_pkg (s : State) (ctx g : Nat) : (collAbort s ctx g).pkg = s.pkg := by
  refine foldl_keeps (g := State.pkg) (fun t e => ?_) _ s
  split
  · rfl
  · simp only
    split
    · rfl
    · split
      · exact markLaunch_pkg ..
      · rfl

theorem collEnd_coll (s : State) (x : FColl) (n st : Nat) :
    (collEnd s x n st).pkg.coll = s.pkg.coll ++ [{ num := n, ctx := x.ctx, status := st }] := rfl

/-- A collective that waits for its page is dropped, and ends through its group. -/
def dropColl (s : State) (c : CollWait) : State :=
  collAbort (collLost (s.updPkg (fun k => { k with collWait := k.collWait.filter (fun y => y != c) })) c.desc c.num) c.desc.ctx
    c.desc.group

theorem collWait_dropColl (s : State) (c : CollWait) : (dropColl s c).pkg.collWait = s.pkg.collWait.filter (fun y => y != c) :=
  congrArg Pkg.collWait (collAbort_pkg ..)

theorem port_dropColl (s : State) (c : CollWait) (p : Nat) : (dropColl s c).port p = s.port p := by
  rw [dropColl, State.port, collAbort_pkg]
  rfl

/-! ### A port that goes down (12 R298) -/

/-- What a fold that takes its elements out of a list of the state leaves of it. -/
theorem mem_foldl_removed {α : Type} [BEq α] [LawfulBEq α] {f : State → α → State} {g : State → List α}
    (hf : ∀ s x, g (f s x) = (g s).filter (fun y => y != x)) (l : List α) {s : State} {y : α} (h : y ∈ g (l.foldl f s)) :
    y ∈ g s ∧ y ∉ l := by
  induction l generalizing s with
  | nil => exact ⟨h, List.not_mem_nil⟩
  | cons a t ih =>
    obtain ⟨h1, h2⟩ := ih h
    rw [hf] at h1
    obtain ⟨h3, h4⟩ := List.mem_filter.1 h1
    exact ⟨h3, List.not_mem_cons_of_ne_of_not_mem (bne_iff_ne.1 h4) h2⟩

theorem errs_foldl_portEnd (p : Nat) (l : List PortOp) (s : State) :
    ((l.foldl (fun s o => portEnd s p o false) s).port p).errs = (s.port p).errs ++ l := by
  induction l generalizing s with
  | nil => exact (List.append_nil _).symm
  | cons a t ih => rw [List.foldl_cons, ih, port_portEnd, if_neg Bool.false_ne_true, List.append_assoc, List.singleton_append]

/-- The outstanding operations of a port that goes down have failed. -/
def portDown (s : State) (p : Nat) : State :=
  (s.port p).ops.foldl (fun s o => portEnd s p o false) (s.updPort p (fun q => { q with up := false }))

theorem up_portDown (s : State) (p : Nat) : ((portDown s p).port p).up = false := by
  refine (foldl_keeps (g := fun s => (s.port p).up) (fun t o => ?_) _ _).trans ?_
  · rw [port_portEnd]
  · exact congrArg Port.up (port_updPort ..)

theorem ops_portDown (s : State) (p : Nat) : ((portDown s p).port p).ops = [] := by
  refine List.eq_nil_iff_forall_not_mem.2 fun y hy => ?_
  obtain ⟨h1, h2⟩ := mem_foldl_removed (g := fun s => (s.port p).ops) (fun t o => congrArg Port.ops (port_portEnd t p o false)) _ hy
  refine h2 ?_
  rwa [port_updPort] at h1

theorem errs_portDown (s : State) (p : Nat) : ((portDown s p).port p).errs = (s.port p).errs ++ (s.port p).ops := by
  rw [portDown, errs_foldl_portEnd, port_updPort]

theorem collWait_portDown (s : State) (p : Nat) : (portDown s p).pkg.collWait = s.pkg.collWait :=
  foldl_keeps (g := fun s => s.pkg.collWait) (fun t o => collWait_portEnd t p o false) _ _

theorem exec_ethernetPortDown (s : State) {p : Nat} (hp : p < 2) : exec (.ethernetPortDown p) s =
    .next ((s.pkg.collWait.filter (fun c => c.desc.port = p)).foldl dropColl (portDown s p)) :=
  congrArg Host.Outcome.next (if_neg (Nat.not_le.2 hp))

theorem ethernetPortDown_ends (s : State) {p : Nat} (hp : p < 2) : ∃ t, exec (.ethernetPortDown p) s = .next t ∧
    (t.port p).up = false ∧ (t.port p).ops = [] ∧ (t.port p).errs = (s.port p).errs ++ (s.port p).ops ∧
    ∀ c ∈ t.pkg.collWait, c.desc.port ≠ p := by
  have hport := foldl_keeps (g := fun s => s.port p) (fun t c => port_dropColl t c p) (s.pkg.collWait.filter (fun c => c.desc.port = p))
    (portDown s p)
  refine ⟨_, exec_ethernetPortDown s hp, (congrArg Port.up hport).trans (up_portDown s p),
    (congrArg Port.ops hport).trans (ops_portDown s p), (congrArg Port.errs hport).trans (errs_portDown s p),
    fun c hc hcp => ?_⟩
  obtain ⟨h1, h2⟩ := mem_foldl_removed (g := fun s => s.pkg.collWait) collWait_dropColl _ hc
  exact h2 (List.mem_filter.2 ⟨collWait_portDown s p ▸ h1, decide_eq_true hcp⟩)

end Sys2Proof.Machine
end

section
/-! The descriptors of collectives, and what the agents outside the package leave (O52). -/

namespace Sys2Proof.Machine

/-! ### Collectives (12 R291, R292) -/

theorem collNum_of_new {s : State} {x : FColl} (h : s.pkg.collWait.find? (fun c => c.desc = x) = none) :
    collNum s x = issueNum s x.ctx 0x3000 := by
  simp only [collNum, h]

theorem collNum_of_waiting {s : State} {x : FColl} {c : CollWait} (h : s.pkg.collWait.find? (fun c => c.desc = x) = some c) :
    collNum s x = (c.num, s.updPkg (fun p => { p with collWait := p.collWait.filter (fun y => y != c) })) := by
  simp only [collNum, h]

theorem collNum_coll (s : State) (x : FColl) : (collNum s x).2.pkg.coll = s.pkg.coll := by
  cases h : s.pkg.collWait.find? (fun c => c.desc = x) with
  | none => rw [collNum_of_new h]; rfl
  | some c => rw [collNum_of_waiting h]; rfl

section
variable {s : State} {x : FColl} {ot : SegOutcome}

theorem exec_collective_of_not_ok (ho : collOk x = false) :
    exec (.collectiveDescriptor x ot) s = .next (collEnd (collNum s x).2 x (collNum s x).1 1) := by
  change execCollectiveDescriptor x ot s = _
  cases ht : collTy x.ty with
  | none => simp only [execCollectiveDescriptor, ht]
  | some t => simp only [execCollectiveDescriptor, ht, ho, Bool.not_false, if_true]

variable (ho : collOk x = true)
include ho

theorem collTy_of_ok : ∃ t, collTy x.ty = some t := by
  refine Option.isSome_iff_exists.1 ?_
  simp only [collOk, Bool.and_eq_true] at ho
  obtain ⟨⟨⟨⟨⟨⟨⟨-, h⟩, -⟩, -⟩, -⟩, -⟩, -⟩, -⟩ := ho
  exact h

theorem exec_collective_of_down (hu : (s.port x.port).up = false) : exec (.collectiveDescriptor x ot) s =
    .next (collAbort (collLost (collNum s x).2 x (collNum s x).1) x.ctx x.group) := by
  obtain ⟨t, ht⟩ := collTy_of_ok ho
  change execCollectiveDescriptor x ot s = _
  simp only [execCollectiveDescriptor, ht, ho, hu, Bool.not_true, Bool.false_eq_true, if_false, Bool.not_false, if_true]

variable {t : DTy} (ht : collTy x.ty = some t) (hu : (s.port x.port).up = true) (hr : x.rank ≤ x.peers.length)
  (hn : x.peers.length < 4096) (hp : ∀ p ∈ x.peers, p.length = DTy.memBytes t * x.count)

omit ho in
include hr hn hp in
theorem peers_fit : (decide (x.rank > x.peers.length) || decide (x.peers.length ≥ 4096) ||
    x.peers.any (fun l => l.length != DTy.memBytes t * x.count)) = false := by
  rw [decide_eq_false (Nat.not_lt.2 hr), decide_eq_false (Nat.not_le.2 hn), Bool.false_or, Bool.false_or]
  exact List.any_eq_false.2 fun p h => by rw [hp p h, bne_self_eq_false]; exact Bool.false_ne_true

include ht hu hr hn hp

theorem exec_collective_of_busy
    (hi : virtIdle (collNum s x).2 agentColl x.ctx x.src (DTy.memBytes t * x.count) (engineNeed false needR) false = false) :
    exec (.collectiveDescriptor x ot) s = .next (collHold (collNum s x).2 x (collNum s x).1) := by
  change execCollectiveDescriptor x ot s = _
  simp only [execCollectiveDescriptor, ht, ho, hu, peers_fit hr hn hp, hi, Bool.not_true, Bool.false_eq_true, if_false,
    Bool.not_false, if_true]

theorem exec_collective_of_run {s1 s2 : State} {l : List Byte}
    (hi : virtIdle (collNum s x).2 agentColl x.ctx x.src (DTy.memBytes t * x.count) (engineNeed false needR) false = true)
    (hl : readVirt (collNum s x).2 agentColl x.ctx x.src (DTy.memBytes t * x.count) (engineNeed false needR) = (s1, .inr l))
    (hj : virtIdle s1 agentColl x.ctx x.dst (collOut x t (x.peers.take x.rank ++ [l] ++ x.peers.drop x.rank)).length
      (engineNeed false needW) true = true)
    (hw : writeVirt s1 agentColl x.ctx x.dst (collOut x t (x.peers.take x.rank ++ [l] ++ x.peers.drop x.rank))
      (engineNeed false needW) = (s2, none)) :
    exec (.collectiveDescriptor x ot) s = .next (collEnd s2 x (collNum s x).1 0) := by
  change execCollectiveDescriptor x ot s = _
  simp only [execCollectiveDescriptor, ht, ho, hu, peers_fit hr hn hp, hi, hl, hj, hw, Bool.not_true, Bool.false_eq_true, if_false]

end

/-- What a collective reads and writes leaves the descriptors that are complete. -/
theorem coll_of_run {s s1 s2 : State} {ctx src dst n : Nat} {r w : BitVec 4} {y : Nat ⊕ List Byte} {l : List Byte} {c : Option Nat}
    (hl : readVirt s agentColl ctx src n r = (s1, y)) (hw : writeVirt s1 agentColl ctx dst l w = (s2, c)) : s2.pkg.coll = s.pkg.coll := by
  have h1 := (quiet_readVirt s agentColl ctx src n r).pkg
  have h2 := (quiet_writeVirt s1 agentColl ctx dst l w).pkg
  rw [hl] at h1
  rw [hw] at h2
  rw [h2, h1]

/-! ### Host completions and expanders (09 R235, 12 R288) -/

theorem exec_hostCompletionTimeout (s : State) (core slot op : Nat) : exec (.hostCompletionTimeout core slot op) s =
    .next (let y := failLoads s (fun pa => regionOf pa == .host) (fun l => s.overdue l.time)
      if overdueAccess y { core := core, slot := slot } (some op) (fun pa => regionOf pa == .host)
      then failAccess y { core := core, slot := slot } (some op) (fun pa => regionOf pa == .host) else y) := rfl

theorem exec_expstOffClear (s : State) {n : Nat} (hn : n < 2) : exec (.expstOffClear n) s = .next (setOff s n false) :=
  congrArg Host.Outcome.next (if_pos hn)

/-- Settles O52: what the host and the ports read and write, the ends that each timeout and each link that goes down bring about, and
the numbers and outcomes of the operations of the ports and of collectives. -/
theorem outsideAgents : Obligations.OutsideAgents := by
  refine ⟨fun s pa n m h => exec_hostMemRead_of_pages m h, fun s x m h h0 hl => ?_, fun s page e he h2 => pageRecall_ends he h2,
    fun s core slot op w b hw hb => ⟨fun hlate => ?_, fun hlate => ?_⟩, fun s host late h => failLoads_of_none h,
    fun s core c l host late hc hr hl hh => failLoads_of_one hc hr hl hh, exec_hostLinkDown,
    fun s n _ ho => exec_expanderTimeout_of_not_overdue ho,
    fun s n i hn hi => ⟨_, exec_expanderDown hn hi, off_expOffline s n, fun d line hd hl => rdc?_expOffline s hd hl⟩,
    fun s n hn => ⟨_, exec_expstOffClear s hn, off_setOff s n false, rfl, rfl⟩,
    fun s p qp x imm out s1 l ht hr hi => ?_,
    fun s p qp va n out s1 l ht hr hi => (exec_rdmaRead_of_takes ht).trans (congrArg _ (portOp_of_run hr hi ..)),
    fun s p qp x imm out s1 c ht hr => (exec_rdmaWrite_of_takes ht x imm).trans (congrArg _ (portOp_of_fault hr ..)),
    fun s p qp x ht => ⟨_, exec_rdmaSend_of_takes ht x, congrArg Port.recv (port_updPort ..)⟩,
    fun s p hp => ethernetPortDown_ends s hp,
    fun s p hp => ⟨fun qp hq => rdmaSubmit_numbered s hp hq, fun num ok op ho => rdmaComplete_ends ok hp ho⟩,
    fun s x ot => ⟨fun h => congrArg Prod.fst (collNum_of_new h), fun c h => congrArg Prod.fst (collNum_of_waiting h),
      fun ho => ⟨_, exec_collective_of_not_ok ho, ?_⟩,
      fun ho hu => ⟨_, (collNum s x).2.freeByte.1.toNat, exec_collective_of_down ho hu, ?_⟩,
      fun t ht ho hu hr hn hp => ⟨fun hi => exec_collective_of_busy ho ht hu hr hn hp hi,
        fun s1 l s2 hi hl hj hw => ⟨_, exec_collective_of_run ho ht hu hr hn hp hi hl hj hw, rfl, ?_⟩⟩⟩⟩
  · exact ⟨_, exec_hostMemWrite_of_one_page m h h0 (by omega), fun i hi => memByte_extWrite m (expOff_of_extPage h) hl hi⟩
  · exact (exec_hostCompletionTimeout ..).trans (congrArg Host.Outcome.next (if_neg (by rw [← Bool.not_eq_true] at hlate; exact hlate)))
  · obtain ⟨w1, hw1, h⟩ := hostLanes_failAccess (op := op) hw hb
    exact ⟨_, w1, (exec_hostCompletionTimeout ..).trans (congrArg Host.Outcome.next (if_pos hlate)), hw1, h⟩
  · refine (exec_rdmaWrite_of_takes ht x imm).trans (congrArg _ ((portOp_of_run hr hi ..).trans ?_))
    cases imm <;> rfl
  · rw [collEnd_coll, collNum_coll]
  · rw [collAbort_pkg]
    exact (collEnd_coll ..).trans (congrArg (· ++ _) (collNum_coll s x))
  · rw [collEnd_coll, coll_of_run hl hw, collNum_coll]

end Sys2Proof.Machine
end

section
/-! Taking a trap, double faults, and the halt of a block (O19, O20). -/

namespace Sys2Proof.Machine

/-! ### The warps of a block, one after the other -/

/-- A fold over slots in which each step touches the warp of its own slot alone: a warp that is reached holds `u` afterwards, once
or again. -/
theorem warp?_foldl_slots {core x : Nat} {f : State → Nat → State} {v u : Warp} {l : List Nat} {s : State}
    (ho : ∀ t y, y ≠ x → (f t y).warp? { core := core, slot := x } = t.warp? { core := core, slot := x })
    (hv : ∀ t, t.warp? { core := core, slot := x } = some v → (f t x).warp? { core := core, slot := x } = some u)
    (hu : ∀ t, t.warp? { core := core, slot := x } = some u → (f t x).warp? { core := core, slot := x } = some u)
    (hx : x ∈ l) (hw : s.warp? { core := core, slot := x } = some v) :
    (l.foldl f s).warp? { core := core, slot := x } = some u := by
  have again : ∀ (l : List Nat) (t : State), t.warp? { core := core, slot := x } = some u →
      (l.foldl f t).warp? { core := core, slot := x } = some u := fun l t ht =>
    List.foldlRecOn l f (motive := fun t => t.warp? { core := core, slot := x } = some u) ht fun t ht y _ => by
      by_cases hy : y = x
      · exact hy ▸ hu t ht
      · exact (ho t y hy).trans ht
  induction l generalizing s with
  | nil => cases hx
  | cons y l ih =>
    by_cases hy : y = x
    · exact again l _ (hy ▸ hv s hw)
    · exact ih ((List.mem_cons.1 hx).resolve_left (Ne.symm hy)) ((ho s y hy).trans hw)

/-- The same where each step is an update of the warp, whose function may ask the state. -/
theorem warp?_foldl_updWarp {core x : Nat} {g : State → Warp → Warp} {v u : Warp} {l : List Nat} {s : State}
    (hv : ∀ t, g t v = u) (hu : ∀ t, g t u = u) (hx : x ∈ l) (hw : s.warp? { core := core, slot := x } = some v) :
    (l.foldl (fun s x => s.updWarp { core := core, slot := x } (g s)) s).warp? { core := core, slot := x } = some u :=
  warp?_foldl_slots (fun _ _ hy => warp?_updWarp_other _ _ fun h => hy (congrArg WRef.slot h).symm)
    (fun t ht => (warp?_updWarp_same _ ht).trans (congrArg some (hv t)))
    (fun t ht => (warp?_updWarp_same _ ht).trans (congrArg some (hu t))) hx hw

theorem sameBlocks_foldl_updWarp {β : Type} (r : β → WRef) (g : State → β → Warp → Warp) (l : List β) (s : State) :
    SameBlocks s (l.foldl (fun s x => s.updWarp (r x) (g s x)) s) :=
  .foldl (fun _ _ => sameBlocks_updWarp ..) l s

/-! ### Promotion (03 R76) -/

/-- A warp that leaves the active set for another's handler is as it was, but that its yield is over. -/
theorem mfind_toTail {c : Core} {out k : Nat} {v : Warp} (hv : mfind c.warps k = some v) :
    mfind (c.toTail out).warps k = some v ∨ v.wait = some .yielded ∧ mfind (c.toTail out).warps k = some { v with wait := none } := by
  by_cases hk : k = out
  · subst hk
    by_cases hy : v.wait = some .yielded
    · rw [toTail_of_yielded hv hy]
      exact .inr ⟨hy, mfind_mset_same ..⟩
    · rw [toTail_of_other hv hy]
      exact .inl hv
  · exact .inl ((mfind_toTail_other hk).trans hv)

/-- Of the core only its queues and its warps change. -/
theorem toTail_rest (c : Core) (slot : Nat) : c.toTail slot = { c with warps := (c.toTail slot).warps, ready := (c.toTail slot).ready } := by
  cases hw : mfind c.warps slot with
  | none => rw [toTail_of_none hw]
  | some w =>
    by_cases hy : w.wait = some .yielded
    · rw [toTail_of_yielded hw hy]
      rfl
    · rw [toTail_of_other hw hy]

/-- The warps of a core, of which one enters the active set. -/
def entering (c : Core) (slot now : Nat) : SMap Warp :=
  match mfind c.warps slot with
  | none => c.warps
  | some w => mset c.warps slot { w with enter := now + 2 }

theorem mfind_entering_other {c : Core} {slot now k : Nat} (hk : k ≠ slot) : mfind (entering c slot now) k = mfind c.warps k := by
  unfold entering
  split
  · rfl
  · exact mfind_mset_other _ _ hk

/-- A core that has taken the slot of a handler warp out of its ready queue. -/
def leavesQueue (c : Core) (slot now : Nat) : Core := { c with ready := c.ready.filter (· != slot), warps := entering c slot now }

/-- The ways of a promotion: there is nothing to do, a place is vacant, every place holds a handler warp, or one warp gives way. -/
theorem promote_cases (c : Core) (slot now : Nat) :
    promote c slot now = c ∨ promote c slot now = (leavesQueue c slot now).takePlace slot ∨
    promote c slot now = { leavesQueue c slot now with ready := slot :: (leavesQueue c slot now).ready } ∨
    ∃ out a, promote c slot now = ({ leavesQueue c slot now with active := a } : Core).toTail out := by
  have he : promote c slot now = if (slot ≥ 64 || c.active.contains slot) = true then c
      else if (leavesQueue c slot now).hasPlace = true then (leavesQueue c slot now).takePlace slot
      else match (leavesQueue c slot now).earliest with
        | none => { leavesQueue c slot now with ready := slot :: (leavesQueue c slot now).ready }
        | some out => ({ leavesQueue c slot now with
            active := (leavesQueue c slot now).active.map (fun x => if x = out then slot else x) } : Core).toTail out := rfl
  rw [he]
  split
  · exact .inl rfl
  · split
    · exact .inr (.inl rfl)
    · split
      · exact .inr (.inr (.inl rfl))
      next out _ => exact .inr (.inr (.inr ⟨out, _, rfl⟩))

/-- Another warp is as it was, but that the yield of the one that gives way is over. -/
theorem mfind_promote_other {c : Core} {slot now k : Nat} {v : Warp} (hk : k ≠ slot) (hv : mfind c.warps k = some v) :
    mfind (promote c slot now).warps k = some v ∨
      v.wait = some .yielded ∧ mfind (promote c slot now).warps k = some { v with wait := none } := by
  have hm : mfind (entering c slot now) k = some v := (mfind_entering_other hk).trans hv
  obtain h | h | h | ⟨out, a, h⟩ := promote_cases c slot now <;> rw [h]
  · exact .inl hv
  · exact .inl hm
  · exact .inl hm
  · exact mfind_toTail (c := { leavesQueue c slot now with active := a }) hm

/-- Of the core only its queues and its warps change. -/
theorem promote_rest (c : Core) (slot now : Nat) : promote c slot now =
    { c with active := (promote c slot now).active, ready := (promote c slot now).ready, warps := (promote c slot now).warps } := by
  obtain h | h | h | ⟨out, a, h⟩ := promote_cases c slot now <;> rw [h]
  · rfl
  · rfl
  · rw [toTail_rest]
    rfl

theorem promote_blocks (c : Core) (slot now : Nat) : (promote c slot now).blocks = c.blocks := by rw [promote_rest]

/-! ### Entry to a handler (10 R245) -/

/-- No halt stops the trap of a warp outside a skid, and such a trap takes none over (10 R243). -/
theorem takeTrap_of_noSkid {s : State} {r : WRef} {w : Warp} {q : TrapReq} (hw : s.warp? r = some w) (hk : w.skid = none) :
    takeTrap s r q = enterTrap s r w q := by
  have hn : takesOver s r q = none := by
    unfold takesOver
    rw [hw]
    simp only
    split
    · rfl
    · split
      · rw [if_neg (by simp [hk])]
      · rfl
  simp only [takeTrap, hw, hn, hk, Option.isSome_none, Bool.false_eq_true, if_false]

/-- The level and the address at which a warp at level 0 or 1 takes a trap. -/
def handlerAt (c : Ctx) (w : Warp) (q : TrapReq) : Nat × VAddr :=
  if w.level = 0 then trapVector c q else (2, if (q.cause = 15 || q.cause = 16) && !q.asH then c.pfvec else c.svec)

/-- The warp in the handler of its trap. -/
def inTrap (s : State) (r : WRef) (b : Block) (w : Warp) (q : TrapReq) : Warp :=
  enterHandler w (handlerAt (s.ctxEnt b.ctx) w q).1 (handlerAt (s.ctxEnt b.ctx) w q).2 q
    (trapClass q == .h || decide (b.halt = some r.slot))

/-- The state in which that warp has its place in the active set. -/
def trapEntered (s : State) (r : WRef) (b : Block) (w : Warp) (q : TrapReq) : State :=
  (s.setWarp r (inTrap s r b w q)).updCore r.core (fun c => promote c r.slot s.ctl.clock)

section
variable {s : State} {r : WRef} {w : Warp} {b : Block} {q : TrapReq}

theorem enterTrap_of_handler (hb : s.block? r.core w.blk = some b) (hl : w.level < 2) (hc : q.cause ≠ 26)
    (ht : w.level = 0 → trapClass q ≠ .t) : enterTrap s r w q =
      if (trapClass q == .h && b.halt.isNone) = true then haltBlock (trapEntered s r b w q) r w.blk { w with rmask := q.rmask }
      else trapEntered s r b w q := by
  have htc : ¬((trapClass q = .t && w.level = 0 : Bool) = true) := by
    simp only [Bool.and_eq_true, decide_eq_true_eq, not_and]
    exact fun h h0 => ht h0 h
  unfold enterTrap
  rw [if_neg hc, if_neg (by omega), if_neg htc, hb]
  rfl

theorem warp?_trapEntered (s : State) (r : WRef) (w : Warp) (b : Block) (q : TrapReq) :
    ∃ n, (trapEntered s r b w q).warp? r = some { inTrap s r b w q with enter := n } := by
  rw [trapEntered, State.warp?, core_updCore, if_pos rfl]
  exact mfind_promote _ (warp?_setWarp s r (inTrap s r b w q))

theorem block?_trapEntered (s : State) (r : WRef) (w : Warp) (b : Block) (q : TrapReq) (l h : Nat) :
    (trapEntered s r b w q).block? l h = s.block? l h :=
  (block?_updCore _ _ _ _ _ (promote_blocks ..)).trans (block?_setWarp ..)

/-- A trap that a handler takes leaves the warp in it, whatever becomes of its block. -/
theorem warp?_takeTrap (hw : s.warp? r = some w) (hb : s.block? r.core w.blk = some b) (hk : w.skid = none) (hl : w.level < 2)
    (hc : q.cause ≠ 26) (ht : w.level = 0 → trapClass q ≠ .t) :
    ∃ n, (takeTrap s r q).warp? r = some { inTrap s r b w q with enter := n } := by
  obtain ⟨n, hn⟩ := warp?_trapEntered s r w b q
  refine ⟨n, ?_⟩
  rw [takeTrap_of_noSkid hw hk, enterTrap_of_handler hb hl hc ht]
  split
  · rw [warp?_haltBlock_same, hn]
  · exact hn

end

/-- The condition on a U-class handler, as 10 Table 10-1 lists the causes. -/
theorem trapVector_eq (c : Ctx) (q : TrapReq) : trapVector c q =
    if ([2, 20, 21, 22, 24, 25].contains q.cause && c.uvec != 0#54) = true then (1, c.uvec)
    else (2, if ((q.cause = 15 || q.cause = 16) && !q.asH : Bool) = true then c.pfvec else c.svec) := by
  have hu : trapUser q.cause = [2, 20, 21, 22, 24, 25].contains q.cause := by
    simp [trapUser, Bool.or_assoc]
  unfold trapVector
  rw [hu]
  cases hm : [2, 20, 21, 22, 24, 25].contains q.cause with
  | true =>
    have hp : ((q.cause = 15 || q.cause = 16) && !q.asH : Bool) = false := by
      simp only [List.contains_iff_mem, List.mem_cons, List.not_mem_nil, or_false] at hm
      simp only [Bool.and_eq_false_iff, Bool.or_eq_false_iff, decide_eq_false_iff_not]
      omega
    by_cases h0 : c.uvec = 0#54
    · simp only [h0, hp, bne_self_eq_false, Bool.and_false, Bool.false_eq_true, if_true, if_false]
    · simp only [h0, bne_iff_ne.2 h0, Bool.and_true, if_true, if_false]
  | false =>
    simp only [Bool.false_and, Bool.false_eq_true, if_false]
    split <;> rfl

/-- A trap that no T-class handler serves is not cause 26. -/
theorem cause_ne_of_trapClass {q : TrapReq} (h : trapClass q ≠ .t) : q.cause ≠ 26 := by
  intro hc
  exact h (by simp [trapClass, hc])

/-! ### Double faults (10 R247) -/

theorem cores_fatalFault (s : State) (lid : Nat) (bid : W32) : (fatalFault s lid bid).cores = s.cores := by
  unfold fatalFault
  split
  · rfl
  next l _ =>
    refine Eq.trans (b := (markLaunch s l lid _).cores) rfl ?_
    unfold markLaunch
    simp only
    split
    · exact (updLaunch_cores ..).trans (updLaunch_cores ..)
    · exact updLaunch_cores ..

theorem updLaunch_ctl (s : State) (l : Nat) (g : Launch → Launch) : (s.updLaunch l g).ctl = s.ctl := by
  unfold State.updLaunch
  split <;> rfl

/-- An interrupt that Tchidal has been told stays with it. -/
theorem mem_irqs_fatalFault {s : State} {i : Irq} (h : i ∈ s.ctl.irqs) (lid : Nat) (bid : W32) :
    i ∈ (fatalFault s lid bid).ctl.irqs := by
  unfold fatalFault
  split
  · exact h
  next l _ =>
    refine List.mem_append_left _ ?_
    have hm : (markLaunch s l lid (fun x => { x with aborted := true })).ctl = s.ctl := by
      unfold markLaunch
      simp only
      split
      · exact (updLaunch_ctl ..).trans (updLaunch_ctl ..)
      · exact updLaunch_ctl ..
    exact hm ▸ h

theorem warp?_of_cores {s t : State} (h : t.cores = s.cores) (r : WRef) : t.warp? r = s.warp? r := by
  rw [State.warp?, State.core, h, State.warp?, State.core]

/-- What a double fault does to each warp of the block; the block ends at once where it is being aborted. -/
def faultStop (ends : Bool) (v : Warp) : Warp :=
  { v with stopped := true, skid := some (v.skid.getD 0), wait := none, exited := if ends then allLanes else v.exited,
           exec := if ends then 0#32 else v.exec }

theorem faultStop_faultStop (ends : Bool) (v : Warp) : faultStop ends (faultStop ends v) = faultStop ends v := by
  cases ends <;> rfl

/-- The warp of a double fault with its level-2 set. -/
def faultRecorded (w : Warp) (q : TrapReq) : Warp :=
  { w with t2 := { trapSet w { cause := 35, mask := w.exec, addr := if w.level = 2 then w.t2.pc.zeroExtend 64 else 0#64,
                               dop0 := BitVec.ofNat 64 q.cause, dop1 := q.addr } true with prim := w.t2.prim },
           stopped := true }

section
variable {s : State} {r : WRef} {w : Warp} {b : Block}

/-- The state after a double fault: the set is recorded, every warp of the block stops, and Tchidal ends the block. -/
theorem doubleFault_of (q : TrapReq) (hb : s.block? r.core w.blk = some b) : doubleFault s r w q =
    fatalFault ((b.slots.foldl (fun s x => s.updWarp { core := r.core, slot := x } (faultStop (b.phase == .aborting)))
      (s.setWarp r (faultRecorded w q))).raise (.doubleFault r)) b.lid b.bid := by
  unfold doubleFault
  rw [hb]
  rfl

theorem warp?_doubleFault {q : TrapReq} (hb : s.block? r.core w.blk = some b) {x : Nat} (hx : x ∈ b.slots) {v : Warp}
    (hv : (s.setWarp r (faultRecorded w q)).warp? { core := r.core, slot := x } = some v) :
    (doubleFault s r w q).warp? { core := r.core, slot := x } = some (faultStop (b.phase == .aborting) v) := by
  rw [doubleFault_of q hb, warp?_of_cores (cores_fatalFault ..)]
  exact warp?_foldl_updWarp (g := fun _ => faultStop (b.phase == .aborting)) (fun _ => rfl)
    (fun _ => faultStop_faultStop ..) hx hv

/-- A trap in a handler at level 2 or 3 is a double fault. -/
theorem takeTrap_of_level2 {q : TrapReq} (hw : s.warp? r = some w) (hk : w.skid = none) (hl : 2 ≤ w.level) (hc : q.cause ≠ 26) :
    takeTrap s r q = doubleFault s r w q := by
  rw [takeTrap_of_noSkid hw hk, enterTrap, if_neg hc, if_pos hl]

end

/-- Settles O19: the level that the trap finds decides, and each clause reads the warp of `warp?_takeTrap` or `warp?_doubleFault`. -/
theorem trapEntryAndDoubleFaults : Obligations.TrapEntryAndDoubleFaults := by
  refine ⟨?_, ?_, ?_⟩
  · intro s r w b q hw hb hk hl ht c user page
    obtain ⟨n, hn⟩ := warp?_takeTrap hw hb hk (by omega) (cause_ne_of_trapClass ht) fun _ => ht
    refine ⟨_, hn, ?_⟩
    have hv : handlerAt c w q = if user = true then (1, c.uvec) else (2, if page = true then c.pfvec else c.svec) :=
      (if_pos hl).trans (trapVector_eq c q)
    simp only [inTrap]
    rw [show handlerAt (s.ctxEnt b.ctx) w q = _ from hv]
    have h0 : BitVec.ofNat 2 w.level = 0#2 := by rw [hl]
    cases user
    · exact ⟨rfl, rfl, rfl, rfl, rfl, rfl, ⟨rfl, h0, rfl, rfl, rfl, rfl, rfl, rfl, rfl, rfl, rfl, rfl⟩, rfl, ⟨rfl, rfl⟩, rfl, rfl,
        rfl, rfl, rfl, rfl, rfl, rfl, rfl, rfl, rfl⟩
    · exact ⟨rfl, rfl, rfl, rfl, rfl, rfl, ⟨rfl, h0, rfl, rfl, rfl, rfl, rfl, rfl, rfl, rfl, rfl, rfl⟩, rfl, ⟨rfl, rfl⟩, rfl, rfl,
        rfl, rfl, rfl, rfl, rfl, rfl, rfl, rfl, rfl⟩
  · intro s r w b q hw hb hk hl hc c page
    obtain ⟨n, hn⟩ := warp?_takeTrap hw hb hk (by omega) hc fun h => by omega
    refine ⟨_, hn, ?_⟩
    have hv : handlerAt c w q = (2, if page = true then c.pfvec else c.svec) := if_neg (by omega)
    simp only [inTrap]
    rw [show handlerAt (s.ctxEnt b.ctx) w q = _ from hv]
    have h1 : BitVec.ofNat 2 w.level = 1#2 := by rw [hl]
    exact ⟨rfl, rfl, rfl, rfl, rfl, rfl, rfl, h1, rfl, rfl, rfl, rfl, rfl, rfl, rfl, rfl, rfl, rfl, rfl, rfl, rfl, rfl, rfl, rfl,
      rfl, rfl, rfl, rfl, rfl, rfl, rfl⟩
  · intro s r w b q hw hb hk hl hc hr
    rw [takeTrap_of_level2 hw hk hl hc]
    have hself := warp?_doubleFault (q := q) hb hr (warp?_setWarp ..)
    refine ⟨⟨_, hself, rfl, rfl, rfl, rfl, rfl, rfl, rfl⟩, fun x v hx hv => ?_, ?_⟩
    · by_cases hxr : x = r.slot
      · exact hxr ▸ ⟨_, hself, rfl⟩
      · have hne : (⟨r.core, x⟩ : WRef) ≠ r := fun h => hxr (congrArg WRef.slot h)
        exact ⟨_, warp?_doubleFault hb hx ((warp?_setWarp_other _ _ _ _ hne).trans hv), rfl⟩
    · rw [doubleFault_of q hb]
      exact mem_irqs_fatalFault (List.mem_append_right _ List.mem_cons_self) ..

/-! ### The halt of a block (10 R242) -/

/-- A halt reaches a warp once. -/
theorem haltWarp_haltWarp (v : Warp) : haltWarp (haltWarp v) = haltWarp v := by
  have h : ∀ u : Warp, (u.skid.isSome || u.level = 3 : Bool) = true → haltWarp u = u := fun u hu => if_pos hu
  by_cases hv : (v.skid.isSome || v.level = 3 : Bool) = true
  · rw [h v hv, h v hv]
  · refine h _ ?_
    unfold haltWarp
    rw [if_neg hv]
    simp only
    split <;> rfl

/-- What a halt does to a warp at level 0 that no halt has reached. -/
theorem haltWarp_of_running {v : Warp} (hk : v.skid = none) (hl : v.level = 0) : (haltWarp v).skid = some 0 ∧
    (haltWarp v).stopped = (v.wait.isSome || v.aborting) ∧ (haltWarp v).t1.pc = v.pc ∧ (haltWarp v).t1.prim = false ∧
    (haltWarp v).pc = v.pc ∧ (haltWarp v).v = v.v ∧ (haltWarp v).s = v.s := by
  unfold haltWarp
  rw [if_neg (by simp [hk, hl])]
  simp only [hl, if_true, and_self]

theorem haltBlock_of {s : State} {r : WRef} {h : Nat} {b : Block} (hb : s.block? r.core h = some b) (w : Warp) : haltBlock s r h w =
    (b.slots.filter (· != r.slot)).foldl (fun s x => s.updWarp { core := r.core, slot := x } haltWarp)
      (s.setBlock r.core h { b with halt := some r.slot, haltBy := some (s.ctl.clock, w) }) := by
  unfold haltBlock
  rw [hb]

theorem block?_haltBlock {s : State} {r : WRef} {h : Nat} {b : Block} (hb : s.block? r.core h = some b) (w : Warp) :
    (haltBlock s r h w).block? r.core h = some { b with halt := some r.slot, haltBy := some (s.ctl.clock, w) } := by
  rw [haltBlock_of hb, (sameBlocks_foldl_updWarp (fun x => ⟨r.core, x⟩) (fun _ _ => haltWarp) _ _).block, block?_setBlock_same]

theorem warp?_haltBlock_other {s : State} {r : WRef} {h : Nat} {b : Block} (hb : s.block? r.core h = some b) (w : Warp) {x : Nat}
    (hx : x ∈ b.slots) (hr : x ≠ r.slot) {v : Warp} (hv : s.warp? { core := r.core, slot := x } = some v) :
    (haltBlock s r h w).warp? { core := r.core, slot := x } = some (haltWarp v) := by
  rw [haltBlock_of hb]
  refine warp?_foldl_updWarp (g := fun _ => haltWarp) (fun _ => rfl) (fun _ => haltWarp_haltWarp v)
    (List.mem_filter.2 ⟨hx, by simpa using hr⟩) ?_
  rw [warp?_setBlock, hv]

/-- Settles O20: the trap enters its handler, which may end the yield of one other warp, and then the block halts. -/
theorem blockHalts : Obligations.BlockHalts := by
  intro s r w b q hw hb hk hl hh hhalt _
  have hc : trapClass q ≠ .t := by rw [hh]; decide
  have he : takeTrap s r q = haltBlock (trapEntered s r b w q) r w.blk { w with rmask := q.rmask } := by
    rw [takeTrap_of_noSkid hw hk, enterTrap_of_handler hb (by omega) (cause_ne_of_trapClass hc) fun _ => hc,
      if_pos (by simp [hh, hhalt])]
  have hb1 : (trapEntered s r b w q).block? r.core w.blk = some b := (block?_trapEntered ..).trans hb
  obtain ⟨n, hn⟩ := warp?_takeTrap hw hb hk (by omega) (cause_ne_of_trapClass hc) fun _ => hc
  refine ⟨⟨_, he ▸ block?_haltBlock hb1 _, rfl⟩, fun w1 h1 => ?_, fun x v hx hxr hv hvk hvl => ?_⟩
  · obtain rfl := Option.some.inj (hn.symm.trans h1)
    simp only [inTrap, enterHandler]
    split <;> simp [trapSet, hh]
  · have hne : (⟨r.core, x⟩ : WRef) ≠ r := fun h => hxr (congrArg WRef.slot h)
    have hv0 : mfind ((s.setWarp r (inTrap s r b w q)).core r.core).warps x = some v := (warp?_setWarp_other _ _ _ _ hne).trans hv
    have halted : ∀ u, mfind (promote ((s.setWarp r (inTrap s r b w q)).core r.core) r.slot s.ctl.clock).warps x = some u →
        (takeTrap s r q).warp? { core := r.core, slot := x } = some (haltWarp u) := fun u hu => by
      rw [he]
      refine warp?_haltBlock_other hb1 _ hx hxr ?_
      rw [trapEntered, State.warp?, core_updCore, if_pos rfl]
      exact hu
    obtain h | ⟨hy, h⟩ := mfind_promote_other (now := s.ctl.clock) hxr hv0
    · obtain ⟨h1, h2, h3, h4, h5, h6, h7⟩ := haltWarp_of_running hvk hvl
      exact ⟨_, halted _ h, h1, fun _ => h2, h3, h4, h5, h6, h7⟩
    · obtain ⟨h1, -, h3, h4, h5, h6, h7⟩ := haltWarp_of_running (v := { v with wait := none }) hvk hvl
      exact ⟨_, halted _ h, h1, fun hn => absurd hy hn, h3, h4, h5, h6, h7⟩

end Sys2Proof.Machine
end

section
/-! The return from a handler (O21). -/

namespace Sys2Proof.Machine

/-- The trap set and the frame of the level at which a warp runs. -/
def levelSet (w : Warp) : TrapSet := if w.level = 1 then w.t1 else w.t2

def levelFrame (w : Warp) : Frame := if w.level = 1 then w.f1 else w.f2

theorem runSet_eq (w : Warp) : runSet w = (levelSet w, (levelFrame w).pc) := by
  unfold runSet levelSet levelFrame
  split <;> rfl

/-- A warp that goes on at `pc` at the level, and with the EXEC, FMT and stack, that its entry saved. -/
def restored (w : Warp) (pc : VAddr) (rmask : Mask) : Warp :=
  { w with
    exec := (levelFrame w).exec &&& ~~~w.exited
    fmt := (levelFrame w).fmt
    stack := w.stack.drop (w.stack.length - (levelFrame w).depth)
    pc := pc
    level := (levelSet w).hlvl.toNat
    rmask := rmask }

/-- What the issue of a `TRET` counts (log 48). -/
def tretCounted (now : Nat) (count : Bool) (w : Warp) : Warp :=
  { w with
    issued := some now
    wait := none
    icount := if count && w.level = 0 then w.icount + 1#48 else w.icount
    skid := w.skid.map (· + 1)
    stopped := w.stopped || (match w.skid with
      | some n => decide (n + 1 ≥ 6)
      | none => false) }

theorem toNat_hlvl_eq_zero (w : Warp) : (levelSet w).hlvl.toNat = 0 ↔ (levelSet w).hlvl = 0#2 := BitVec.toNat_inj (y := 0#2)

section
variable {s : State} {e : Env}

theorem returnFrom_of (hb : s.block? e.r.core e.w.blk = some e.b) (pc : VAddr) (rm : Mask) : returnFrom s e.r e.w pc rm =
    if (levelSet e.w).hlvl = 0#2 ∧ e.b.halt = some e.r.slot then resumeBlock (s.setWarp e.r (restored e.w pc rm)) e.r.core e.w.blk
    else s.setWarp e.r (restored e.w pc rm) := by
  unfold returnFrom
  rw [hb]
  refine if_congr ?_ rfl rfl
  simp only [Bool.and_eq_true, decide_eq_true_eq]
  exact and_congr_left' (toNat_hlvl_eq_zero e.w)

/-- The return of a warp whose block is not being aborted, from the state `t` in which it has its level back. -/
theorem tretTo_of {t : State} {pc : VAddr} {rm : Mask} (count : Bool) (ht : returnFrom s e.r e.w pc rm = t)
    (ha : ∀ w b, t.warp? e.r = some w → t.block? e.r.core e.w.blk = some b → w.level = 0 → b.phase ≠ .aborting) :
    tretTo s e pc rm count = .raw (t.updWarp e.r (tretCounted s.ctl.clock count)) := by
  set u := t.updWarp e.r (tretCounted s.ctl.clock count) with hu
  have hr : tretTo s e pc rm count = match u.warp? e.r, u.block? e.r.core e.w.blk with
    | some w, some b => .raw (if w.level = 0 && b.phase = .aborting then toLevel3 u e.r 34 b.save else u)
    | _, _ => .raw u := by
    rw [hu, ← ht]
    rfl
  rw [hr]
  split
  next w b hw hb =>
    rw [hu, block?_updWarp] at hb
    refine congrArg Res.raw (if_neg ?_)
    simp only [Bool.and_eq_true, decide_eq_true_eq, not_and]
    intro h0
    cases hv : t.warp? e.r with
    | none => rw [hu, warp?_updWarp_none hv] at hw; cases hw
    | some v =>
      rw [hu, warp?_updWarp_same _ hv] at hw
      exact ha v b hv hb (by rw [← h0, ← Option.some.inj hw]; rfl)
  next => rfl

/-- The return of a warp that ends no halt. -/
theorem tretTo_plain (hb : s.block? e.r.core e.w.blk = some e.b)
    (h0 : (levelSet e.w).hlvl = 0#2 → e.b.phase ≠ .aborting ∧ e.b.halt ≠ some e.r.slot) (pc : VAddr) (rm : Mask) (count : Bool) :
    tretTo s e pc rm count = .raw (s.setWarp e.r (tretCounted s.ctl.clock count (restored e.w pc rm))) := by
  have hr : returnFrom s e.r e.w pc rm = s.setWarp e.r (restored e.w pc rm) := by
    rw [returnFrom_of hb, if_neg fun ⟨h, hh⟩ => (h0 h).2 hh]
  rw [tretTo_of count hr fun w b hw hb1 hl => ?_, updWarp_setWarp]
  rw [warp?_setWarp] at hw
  rw [block?_setWarp, hb] at hb1
  obtain rfl := Option.some.inj hw
  exact Option.some.inj hb1 ▸ (h0 ((toNat_hlvl_eq_zero _).1 hl)).1

/-! ### The warps of a halt that ends (10 R246) -/

/-- A warp of a halt, resumed. -/
def unhalted (v : Warp) : Warp := { v with skid := none, stopped := false, inHandler := false }

theorem warp?_resumeWarp_other (core : Nat) (s : State) {x : Nat} {q : WRef} (h : q ≠ { core := core, slot := x }) :
    (resumeWarp core s x).warp? q = s.warp? q := by
  rw [resumeWarp, (sameWork_rejoin ..).warp, warp?_updWarp_other _ _ h]

theorem warp?_resumeWarp {core x : Nat} {s : State} {v : Warp} (hv : s.warp? { core := core, slot := x } = some v) :
    (resumeWarp core s x).warp? { core := core, slot := x } = some (unhalted v) := by
  rw [resumeWarp, (sameWork_rejoin ..).warp]
  exact warp?_updWarp_same _ hv

theorem warp?_resumeBlock {s : State} {core h : Nat} {b : Block} (hb : s.block? core h = some b) {x : Nat} (hx : x ∈ b.slots) {v : Warp}
    (hv : s.warp? { core := core, slot := x } = some v) :
    (resumeBlock s core h).warp? { core := core, slot := x } = some (unhalted v) := by
  rw [resumeBlock_of hb]
  exact warp?_foldl_slots (fun t y hy => warp?_resumeWarp_other core t fun h => hy (congrArg WRef.slot h).symm)
    (fun t ht => warp?_resumeWarp ht) (fun t ht => warp?_resumeWarp (v := unhalted v) ht) hx ((warp?_setBlock ..).trans hv)

/-! ### `TRET` and `TRET.skip` (21 R436) -/

/-- The warp after its return. -/
def returned (now : Nat) (count : Bool) (w : Warp) (pc : VAddr) (rm : Mask) : Warp :=
  { restored w pc rm with
    issued := some now
    wait := none
    icount := if count && (levelSet w).hlvl = 0#2 then w.icount + 1#48 else w.icount }

theorem tretCounted_restored {w : Warp} (hs : w.skid = none) (now : Nat) (count : Bool) (pc : VAddr) (rm : Mask) :
    tretCounted now count (restored w pc rm) = returned now count w pc rm := by
  have hd : decide ((levelSet w).hlvl.toNat = 0) = decide ((levelSet w).hlvl = 0#2) := by simp only [toNat_hlvl_eq_zero]
  simp only [tretCounted, returned, restored, hs, hd, Option.map_none, Bool.or_false]

/-- What `TRET` does at level 1 or 2. -/
def tretRes (e : Env) (s : State) : Res := tretTo s e (levelFrame e.w).pc (levelSet e.w).rmask false

/-- What `TRET.skip` does at level 1 or 2. -/
def tretSkipRes (e : Env) (s : State) : Res :=
  if ((levelSet e.w).cause.toNat = 21 ∨ (levelSet e.w).cause.toNat = 22) ∧ (levelSet e.w).dop1 ≠ 0#64 then
    tretTo s e (levelFrame e.w).pc allLanes false
  else if 1 ≤ (levelSet e.w).cause.toNat ∧ (levelSet e.w).cause.toNat ≤ 7 then
    tretTo s e ((levelSet e.w).dop2.truncate 54) allLanes true
  else tretTo s e (pcAdd (levelFrame e.w).pc (lenAt s e.r.core e.b.ctx e.w (levelFrame e.w).pc)) allLanes true

theorem exec_tret_of_level {x : FHd} (h : ready (.tret x) s = some e) (hl : e.w.level ≠ 3) {t : State} (ht : tretRes e s = .raw t) :
    exec (.tret x) s = .next t := by
  show execTret x s = _
  unfold execTret
  refine congrArg Host.Outcome.next (issue_raw h ?_)
  simp only [if_neg hl, runSet_eq]
  exact ht

theorem exec_tretSkip_of_level {x : FHd} (h : ready (.tretSkip x) s = some e) (hl : e.w.level ≠ 3) {t : State}
    (ht : tretSkipRes e s = .raw t) : exec (.tretSkip x) s = .next t := by
  show execTretSkip x s = _
  unfold execTretSkip
  refine congrArg Host.Outcome.next (issue_raw h ?_)
  simp only [if_neg hl, runSet_eq, Bool.and_eq_true, Bool.or_eq_true, decide_eq_true_eq, bne_iff_ne]
  exact ht

/-! ### `TRET` at the end of a halt, and at level 3 -/

/-- The primary warp of a halt returns to level 0: the halt is over, and every other warp of the block goes on at its own stop point. -/
theorem exec_tret_ends_halt {x : FHd} (h : ready (.tret x) s = some e) (hl : e.w.level ≠ 3) (h0 : (levelSet e.w).hlvl = 0#2)
    (hr : e.b.phase = .run) (hh : e.b.halt = some e.r.slot) :
    ∃ t, exec (.tret x) s = .next t ∧ t.block? e.r.core e.w.blk = some { e.b with halt := none, haltBy := none } ∧
      ∀ y v, y ∈ e.b.slots → y ≠ e.r.slot → s.warp? { core := e.r.core, slot := y } = some v →
        t.warp? { core := e.r.core, slot := y } = some (unhalted v) := by
  obtain ⟨-, -, hb⟩ := ready_warp h
  set s1 := s.setWarp e.r (restored e.w (levelFrame e.w).pc (levelSet e.w).rmask)
  have hb1 : s1.block? e.r.core e.w.blk = some e.b := (block?_setWarp ..).trans hb
  have hret : returnFrom s e.r e.w (levelFrame e.w).pc (levelSet e.w).rmask = resumeBlock s1 e.r.core e.w.blk :=
    (returnFrom_of hb ..).trans (if_pos ⟨h0, hh⟩)
  have hb2 := block?_resumeBlock hb1
  refine ⟨_, exec_tret_of_level h hl (tretTo_of false hret fun w b _ hbw _ => ?_), (block?_updWarp ..).trans hb2, fun y v hy hne hv => ?_⟩
  · obtain rfl := Option.some.inj (hb2.symm.trans hbw)
    simp [hr]
  · have hq : (⟨e.r.core, y⟩ : WRef) ≠ e.r := fun h => hne (congrArg WRef.slot h)
    rw [warp?_updWarp_other _ _ hq]
    exact warp?_resumeBlock hb1 hy ((warp?_setWarp_other _ _ _ _ hq).trans hv)

/-- A double fault asks of its trap the cause and the address alone. -/
theorem doubleFault_congr {q q' : TrapReq} (s : State) (r : WRef) (w : Warp) (hc : q'.cause = q.cause) (ha : q'.addr = q.addr) :
    doubleFault s r w q' = doubleFault s r w q := by
  unfold doubleFault
  rw [hc, ha]

/-- A trap at level 2 or 3 that an instruction raises. -/
theorem issue_trap_of_level2 {i : Instr} {body : Env → State → Res} {q : TrapReq} (h : ready i s = some e) (hs : e.w.skid = none)
    (hl : 2 ≤ e.w.level) (hc : q.cause ≠ 26) (hbody : body e s = .trap s q) : issue i s body = doubleFault s e.r e.w q := by
  obtain ⟨-, hw, -⟩ := ready_warp h
  obtain ⟨q1, hi, hc1, ha1, -⟩ := issue_trap_keeps h hs hbody
  rw [hi, takeTrap_of_level2 hw hs hl (hc1 ▸ hc), doubleFault_congr s e.r e.w hc1 ha1]

/-- A warp of an aborted block ends (10 R257). -/
theorem exec_tret_of_abort {x : FHd} (h : ready (.tret x) s = some e) (hl : e.w.level = 3) (hc : e.w.t2.cause = 34#6) :
    exec (.tret x) s = .next (retired s e (exitLanes e.w (~~~e.w.exited))) := by
  show execTret x s = _
  unfold execTret
  refine congrArg Host.Outcome.next ((issue_done h ?_ (warp?_setWarp s e.r (exitLanes e.w (~~~e.w.exited)))).trans ?_)
  · have h34 : e.w.t2.cause.toNat = 34 := by rw [hc]; rfl
    simp only [hl, h34, if_true]
    rfl
  · rw [setWarp_setWarp]
    rfl

end

/-- Settles O21: at level 1 or 2 both return by `tretTo`, each to its own address and lanes. -/
theorem trapReturn : Obligations.TrapReturn := by
  unfold Obligations.TrapReturn
  intro _ _ plain back
  have hne : ∀ w : Warp, w.level = 1 ∨ w.level = 2 → w.level ≠ 3 := fun w h => by omega
  have hback : ∀ s e pc rm count, back s e pc rm count = s.setWarp e.r (returned s.ctl.clock count e.w pc rm) := fun _ _ _ _ _ => rfl
  have hto : ∀ {s : State} {e : Env} {i : Instr}, ready i s = some e → plain e → ∀ pc rm count,
      tretTo s e pc rm count = .raw (back s e pc rm count) := fun h ⟨hs, _, hp⟩ pc rm count => by
    rw [tretTo_plain (ready_warp h).2.2 hp, hback, tretCounted_restored hs]
  refine ⟨fun x s e h hp => exec_tret_of_level h (hne _ hp.2.1) (hto h hp ..), ?_,
    fun x s e h hs hl h0 hr hh _ => exec_tret_ends_halt h (hne _ hl) h0 hr hh, fun x s e h hs hl => ?_, fun x s e h hl hc => ?_⟩
  · intro x s e h hp c
    have hl := hne _ hp.2.1
    refine ⟨fun hc => exec_tretSkip_of_level h hl ((if_neg ?_).trans ((if_pos hc).trans (hto h hp ..))),
      fun hc hn => exec_tretSkip_of_level h hl ((if_neg hn).trans ((if_neg hc).trans (hto h hp ..))),
      fun hc hd => exec_tretSkip_of_level h hl ((if_pos ⟨hc, hd⟩).trans (hto h hp ..))⟩
    rintro ⟨h21 | h22, -⟩
    · exact absurd (show c = 21 from h21) (by omega)
    · exact absurd (show c = 22 from h22) (by omega)
  · show execTretSkip x s = _
    unfold execTretSkip
    exact congrArg Host.Outcome.next (issue_trap_of_level2 h hs (by omega) (show (1 : Nat) ≠ 26 by decide) (by simp only [if_pos hl]))
  · rw [exec_tret_of_abort h hl hc]
    simp only [exitLanes, BitVec.not_not]

end Sys2Proof.Machine
end

section
/-! Pre-emption, restore, abort tokens and remote arrivals (O54). -/

namespace Sys2Proof.Machine

/-! ### What moves warps only -/

/-- Launches, and of each core PRECTL, RSTCTL, the quotas and the blocks, stay; scratchpad bytes of a block may change. -/
structure KeepsBlocks (s t : State) : Prop where
  fed : t.fed = s.fed
  pre : ∀ l, (t.core l).pre = (s.core l).pre
  rst : ∀ l, (t.core l).rst = (s.core l).rst
  quota : ∀ l, (t.core l).quota = (s.core l).quota
  block : ∀ l h b, s.block? l h = some b → ∃ scr, t.block? l h = some { b with scr := scr }

theorem KeepsBlocks.refl (s : State) : KeepsBlocks s s := ⟨rfl, fun _ => rfl, fun _ => rfl, fun _ => rfl, fun _ _ b hb => ⟨b.scr, hb⟩⟩

theorem KeepsBlocks.trans {s t u : State} (h : KeepsBlocks s t) (g : KeepsBlocks t u) : KeepsBlocks s u := by
  refine ⟨g.fed.trans h.fed, fun l => (g.pre l).trans (h.pre l), fun l => (g.rst l).trans (h.rst l),
    fun l => (g.quota l).trans (h.quota l), fun l k b hb => ?_⟩
  obtain ⟨_, h1⟩ := h.block l k b hb
  obtain ⟨scr, h2⟩ := g.block l k _ h1
  exact ⟨scr, h2⟩

theorem KeepsBlocks.foldl {β : Type} {f : State → β → State} (h : ∀ s x, KeepsBlocks s (f s x)) (l : List β) (s : State) :
    KeepsBlocks s (l.foldl f s) := by
  induction l generalizing s with
  | nil => exact .refl s
  | cons a t ih => exact (h s a).trans (ih _)

/-- An update of a core that keeps its blocks and those registers. -/
theorem keepsBlocks_updCore (s : State) (l : Nat) {f : Core → Core} (hp : (f (s.core l)).pre = (s.core l).pre)
    (hr : (f (s.core l)).rst = (s.core l).rst) (hq : (f (s.core l)).quota = (s.core l).quota)
    (hb : (f (s.core l)).blocks = (s.core l).blocks) : KeepsBlocks s (s.updCore l f) := by
  have hc : ∀ {α : Type} (p : Core → α), p (f (s.core l)) = p (s.core l) → ∀ k, p ((s.updCore l f).core k) = p (s.core k) :=
    fun p h k => by
      rw [core_updCore]
      split
      next hk => rw [h, hk]
      next => rfl
  exact ⟨rfl, hc _ hp, hc _ hr, hc _ hq, fun k h b hk => ⟨b.scr, (block?_updCore s l f k h hb).trans hk⟩⟩

theorem keepsBlocks_setWarp (s : State) (r : WRef) (w : Warp) : KeepsBlocks s (s.setWarp r w) := keepsBlocks_updCore s _ rfl rfl rfl rfl

theorem keepsBlocks_updWarp (s : State) (r : WRef) (f : Warp → Warp) : KeepsBlocks s (s.updWarp r f) := by
  unfold State.updWarp
  split
  · exact .refl s
  · exact keepsBlocks_setWarp ..

theorem keepsBlocks_promote (s : State) (l slot now : Nat) {f : Core → Core} (hp : (f (s.core l)).pre = (s.core l).pre)
    (hr : (f (s.core l)).rst = (s.core l).rst) (hq : (f (s.core l)).quota = (s.core l).quota)
    (hb : (f (s.core l)).blocks = (s.core l).blocks) : KeepsBlocks s (s.updCore l (fun c => promote (f c) slot now)) :=
  keepsBlocks_updCore s l (by rw [promote_rest]; exact hp) (by rw [promote_rest]; exact hr) (by rw [promote_rest]; exact hq)
    ((promote_blocks ..).trans hb)

theorem keepsBlocks_joinReady (s : State) (r : WRef) : KeepsBlocks s (joinReady s r) := by
  unfold joinReady
  split
  · exact .refl s
  · simp only
    split
    · exact .refl s
    · exact keepsBlocks_updCore s _ rfl rfl rfl rfl

theorem keepsBlocks_enterReady (s : State) (core slot : Nat) : KeepsBlocks s (enterReady s core slot) := by
  unfold enterReady
  split
  · exact .refl s
  · split
    · exact (keepsBlocks_updCore s core rfl rfl rfl rfl).trans (keepsBlocks_updWarp ..)
    · exact keepsBlocks_joinReady ..

theorem keepsBlocks_setBar (s : State) (core h n : Nat) (x : Bar) : KeepsBlocks s (setBar s core h n x) := by
  unfold setBar State.updBlock
  split
  · exact .refl s
  next b hb =>
    have hc : ∀ {α : Type} (p : Core → α), (∀ c : Core, ∀ m, p { c with blocks := m } = p c) → ∀ b1 k,
        p ((s.setBlock core h b1).core k) = p (s.core k) := fun p hp b1 k => by
      rw [State.setBlock, core_updCore]
      split
      next hk => rw [hp, hk]
      next => rfl
    refine ⟨rfl, hc _ (fun _ _ => rfl) _, hc _ (fun _ _ => rfl) _, hc _ (fun _ _ => rfl) _, fun l k b2 hb2 => ?_⟩
    rw [block?_setBlock]
    split
    next hk =>
      obtain ⟨rfl, rfl⟩ := hk
      obtain rfl := Option.some.inj (hb.symm.trans hb2)
      exact ⟨_, rfl⟩
    next => exact ⟨b2.scr, hb2⟩

theorem keepsBlocks_unpark (s : State) (core h id : Nat) : KeepsBlocks s (unpark s core h id) := by
  unfold unpark
  split
  · exact .refl s
  · refine .foldl (fun t n => ?_) _ _
    simp only
    split
    · exact keepsBlocks_setBar ..
    · exact .refl t

theorem keepsBlocks_toLevel3 (s : State) (r : WRef) (cause addr : Nat) : KeepsBlocks s (toLevel3 s r cause addr) := by
  unfold toLevel3
  split
  · exact .refl s
  · split
    · exact .refl s
    · refine ((keepsBlocks_unpark ..).trans (keepsBlocks_setWarp ..)).trans (keepsBlocks_promote _ _ _ _ ?_ ?_ ?_ ?_) <;> rfl

theorem keepsBlocks_abortWarp (s : State) (core slot : Nat) (w : Warp) (save : Nat) : KeepsBlocks s (abortWarp s core slot w save) := by
  unfold abortWarp
  split
  · exact keepsBlocks_toLevel3 ..
  · exact keepsBlocks_updWarp ..

/-! ### Pre-emption (10 R250, R251) -/

/-- What the stop for a pre-emption does to one warp of the block. -/
def preempted (now : Nat) (v : Warp) : Warp :=
  if v.level = 0 then { v with stopped := true, wait := stayWait v.wait } else { v with handlerSince := now }

theorem stayWait_stayWait (x : Option WaitR) : stayWait (stayWait x) = stayWait x := by
  cases x with
  | none => rfl
  | some y => cases y <;> rfl

theorem preempted_of_level0 {v : Warp} (hl : v.level = 0) (now : Nat) :
    preempted now v = { v with stopped := true, wait := stayWait v.wait } := if_pos hl

section
variable {s : State} {core save slot : Nat} {w : Warp} {b : Block}

/-- PRECTL of a pre-emption in progress. -/
def preGo (save slot h : Nat) (c : Core) : Core :=
  { c with pre := { c.pre with
      busy := true
      save := BitVec.ofNat 42 (save % 2 ^ 54 / 4096 * 4096 / 4096)
      slot := BitVec.ofNat 7 slot
      blk := some h } }

def stopping (save : Nat) (b : Block) : Block := { b with phase := .stopping, acks := [], save := save % 2 ^ 54 / 4096 * 4096, keep := [] }

theorem exec_preemptGo (hw : s.warp? { core := core, slot := slot } = some w) (hb : s.block? core w.blk = some b)
    (ht : preemptTakes s core slot = true) : exec (.preemptGo core save slot) s =
      .next (b.slots.foldl (fun s x => s.updWarp { core := core, slot := x } (preempted s.ctl.clock))
        ((s.updCore core (preGo save slot w.blk)).setBlock core w.blk (stopping save b))) := by
  show execPreemptGo core save slot s = _
  simp only [execPreemptGo, hw, hb, ht]
  rfl

theorem preemptGo_stops (hw : s.warp? { core := core, slot := slot } = some w) (hb : s.block? core w.blk = some b)
    (hs : slot < 80) (hp : (s.core core).pre.busy = false) (hr : b.phase = .run) (ha : b.abort = false) :
    ∃ t b1, exec (.preemptGo core save slot) s = .next t ∧
      t.block? core w.blk = some b1 ∧ b1.phase = .stopping ∧ b1.acks = [] ∧ b1.save = save % 2 ^ 54 / 4096 * 4096 ∧
      (t.core core).pre.busy = true ∧ ∀ x ∈ b.slots, ∀ v, s.warp? { core := core, slot := x } = some v → v.level = 0 →
        t.warp? { core := core, slot := x } = some { v with stopped := true, wait := stayWait v.wait } := by
  have ht : preemptTakes s core slot = true := by simp [preemptTakes, hw, hb, hs, hp, hr, ha]
  set s2 := (s.updCore core (preGo save slot w.blk)).setBlock core w.blk (stopping save b) with hs2
  have hk := KeepsBlocks.foldl (f := fun s x => s.updWarp { core := core, slot := x } (preempted s.ctl.clock))
    (fun t _ => keepsBlocks_updWarp t ..) b.slots s2
  obtain ⟨_, hb1⟩ := hk.block core w.blk _ (block?_setBlock_same ..)
  refine ⟨_, _, exec_preemptGo hw hb ht, hb1, rfl, rfl, rfl, ?_, fun x hx v hv hl =>
    warp?_foldl_updWarp (g := fun t => preempted t.ctl.clock) (fun t => preempted_of_level0 hl _)
      (fun t => ?_) hx ?_⟩
  · rw [hk.pre, hs2, State.setBlock, core_updCore, if_pos rfl, core_updCore, if_pos rfl]
    rfl
  · exact (preempted_of_level0 (v := { v with stopped := true, wait := stayWait v.wait }) hl _).trans
      (by simp only [stayWait_stayWait])
  · rw [warp?_setBlock, warp?_updCore _ _ _ _ rfl, hv]

end

/-- The engines whose acknowledgements the save needs (10 Table 10-5). -/
def engines : List Engine := [.warps, .matrix, .copy, .kve, .aae, .collective, .residency]

theorem mem_engines (e : Engine) : e ∈ engines := by cases e <;> decide

/-- A block with one acknowledgement more. -/
def acked (b : Block) (eng : Engine) : Block := if b.acks.contains eng then b else { b with acks := eng :: b.acks }

/-- The copy engine parks what is left of a warp's copies. -/
def parkCopies (w : Warp) : Warp :=
  { w with copies := w.copies.map (fun c => { c with segs := c.segs.map (fun g =>
      if g.done || g.fail.isSome then g else { g with parked := true }) }) }

/-- The state with an acknowledgement taken. -/
def ackTaken (s : State) (core h : Nat) (eng : Engine) (b : Block) : State :=
  if eng != .copy then s.setBlock core h (acked b eng)
  else b.slots.foldl (fun s x => s.updWarp { core := core, slot := x } parkCopies) (s.setBlock core h (acked b eng))

section
variable {s : State} {core h : Nat} {eng : Engine} {b : Block}

theorem exec_preemptAck (out : SegOutcome) (hb : s.block? core h = some b) (hp : b.phase = .stopping) (ha : ackReady s core h b eng = true) :
    exec (.preemptAck core h eng out) s = .next (
      if (engines.all (fun e => (acked b eng).acks.contains e && ackReady (ackTaken s core h eng b) core h (acked b eng) e) &&
          copiesStopped (ackTaken s core h eng b) core (acked b eng) && netQuiet (ackTaken s core h eng b)) = true then
        saveBlock (ackTaken s core h eng b) core h (acked b eng) out
      else ackTaken s core h eng b) := by
  show execPreemptAck core h eng out s = _
  simp only [execPreemptAck, hb]
  rw [if_neg (by simp [hp, ha])]
  rfl

theorem block?_ackTaken (s : State) (core h : Nat) (eng : Engine) (b : Block) :
    (ackTaken s core h eng b).block? core h = some (acked b eng) := by
  unfold ackTaken
  split
  · exact block?_setBlock_same ..
  · rw [(sameBlocks_foldl_updWarp (fun x => ⟨core, x⟩) (fun _ _ => parkCopies) _ _).block, block?_setBlock_same]

theorem ackTaken_of_ne (hc : eng ≠ .copy) : ackTaken s core h eng b = s.setBlock core h (acked b eng) := if_pos (bne_iff_ne.2 hc)

/-- An acknowledgement before the last is recorded. -/
theorem exec_preemptAck_early (out : SegOutcome) (hb : s.block? core h = some b) (hp : b.phase = .stopping)
    (ha : ackReady s core h b eng = true) (hall : engines.all (fun e => (acked b eng).acks.contains e) = false) :
    exec (.preemptAck core h eng out) s = .next (ackTaken s core h eng b) := by
  rw [exec_preemptAck out hb hp ha, if_neg]
  rw [Bool.and_eq_true, Bool.and_eq_true, List.all_eq_true]
  rintro ⟨⟨hc, -⟩, -⟩
  refine absurd hall (Bool.not_eq_false _ ▸ List.all_eq_true.2 fun e he => ?_)
  exact (Bool.and_eq_true_iff.1 (hc e he)).1

/-- The last acknowledgement: the save begins exactly where every engine is still at its stopping point. -/
theorem exec_preemptAck_last (out : SegOutcome) (hb : s.block? core h = some b) (hp : b.phase = .stopping)
    (ha : ackReady s core h b eng = true) (hall : engines.all (fun e => (acked b eng).acks.contains e) = true) (hc : eng ≠ .copy)
    (hq : netQuiet s = true) : exec (.preemptAck core h eng out) s = .next (
      if (engines.all (ackReady (s.setBlock core h (acked b eng)) core h (acked b eng)) &&
          copiesStopped (s.setBlock core h (acked b eng)) core (acked b eng)) = true then
        saveBlock (s.setBlock core h (acked b eng)) core h (acked b eng) out
      else s.setBlock core h (acked b eng)) := by
  rw [exec_preemptAck out hb hp ha, ackTaken_of_ne hc]
  refine congrArg Host.Outcome.next (if_congr ?_ rfl rfl)
  have hn : netQuiet (s.setBlock core h (acked b eng)) = true := hq
  simp only [Bool.and_eq_true, List.all_eq_true, hn, and_true] at hall ⊢
  exact and_congr_left' ⟨fun h e he => (h e he).2, fun h e he => ⟨hall e he, h e he⟩⟩

end

/-! ### Restore (10 R254, Table 10-8) -/

theorem exec_restoreGo {s : State} {core save : Nat} {x : SavedBlk} (hx : restoreTakes s core save = some x) :
    ∃ t, exec (.restoreGo core save) s = .next t ∧ (t.core core).rst.busy = true ∧
      t.fed.saved = s.fed.saved.map (fun y => if y = x then { y with restoring := some core } else y) := by
  show ∃ t, execRestoreGo core save s = .next t ∧ _
  simp only [execRestoreGo, hx]
  exact ⟨_, rfl, congrArg (fun c : Core => c.rst.busy) (mget_mset_same ({} : Core) s.cores core _), rfl⟩

theorem quiet_areaRead {s s1 : State} {core ctx va n : Nat} {l : List Byte} (h : areaRead s core ctx va n = (s1, .inr l)) :
    Quiet s s1 := by
  unfold areaRead at h
  simp only at h
  have hq := quiet_readVirt s (agentCopy (s.siteOf core)) ctx va n needR
  split at h
  · cases h
  · rw [h] at hq
    exact hq

theorem quiet_readMasks {core ctx save : Nat} {l : List Nat} {s s1 : State} {ms : List (Nat × Nat × Nat)}
    (h : readMasks core ctx save l s = (s1, .inr ms)) : Quiet s s1 := by
  induction l generalizing s ms with
  | nil =>
    cases h
    exact .refl _
  | cons i t ih =>
    unfold readMasks at h
    split at h
    · cases h
    next s2 o h2 =>
      split at h
      · cases h
      next s3 m h3 =>
        split at h
        · cases h
        next s4 l4 h4 =>
          cases h
          exact (quiet_areaRead h2).trans ((quiet_areaRead h3).trans (ih h4))

/-- The mark of a pre-emption goes from a context's quota (10 Table 10-8). -/
def unmarkQuota (ctx : Nat) (m : SMap Quota) : SMap Quota := m.map (fun e => if e.1 = ctx then (e.1, { e.2 with pre := false }) else e)

theorem mfind_unmarkQuota {ctx : Nat} {m : SMap Quota} {q : Quota} (h : mfind (unmarkQuota ctx m) ctx = some q) : q.pre = false := by
  rw [unmarkQuota, mfind_map _ _ (fun e => by split <;> rfl)] at h
  obtain ⟨v, -, rfl⟩ := Option.map_eq_some_iff.1 h
  rw [if_pos rfl]

section
variable {s : State} {core : Nat} {x : SavedBlk} {l : Launch}

/-- The slots that the warps of a restored block take, by WARPID. -/
def restoreSlots (c : Core) (x : SavedBlk) (h : Header) : SMap Nat :=
  let rs := warpRoles h
  let live := (List.range rs.length).filter (fun i => (x.keep.map (·.1)).contains i)
  live.zip (slotsFor c (live.filterMap (fun i => (rs[i]?).map (fun r => r.2.access))))

/-- The block as it takes its place, its barrier objects as the image holds them. -/
def restoredImage (c : Core) (x : SavedBlk) (l : Launch) (img : List Byte) : Block :=
  let rs := warpRoles l.hdr
  let live := (List.range rs.length).filter (fun i => (x.keep.map (·.1)).contains i)
  let sl := slotsFor c (live.filterMap (fun i => (rs[i]?).map (fun r => r.2.access)))
  { lid := x.lid, bid := x.bid, ctx := x.ctx, nbv := l.nbvEff, size := l.hdr.scr, nbar := l.hdr.nbar,
    nshacc := l.hdr.nshacc, scr := putBytes [] (bytesAt 0 img), phase := .restoring, save := x.save,
    slots := (List.range rs.length).map (fun i => (mfind (restoreSlots c x l.hdr) i).getD 255), keep := x.keep,
    bslot := sl.headD 0,
    halt := (x.keep.find? (fun k => k.2.primary)).bind (fun k => mfind (restoreSlots c x l.hdr) k.1) }

/-- A block with one barrier object restored. -/
def barRestored (b : Block) (n : Nat) : Block :=
  { b with scr := putBytes b.scr (bytesAt (barOff b n) (barBytes (barRestore (getBar b n)))) }

/-- The block with its barrier objects restored. -/
def restoredBlock (c : Core) (x : SavedBlk) (l : Launch) (img : List Byte) : Block :=
  (List.range l.hdr.nbar).foldl barRestored (restoredImage c x l img)

/-- The core to which a saved block comes back. -/
def restoreCore (ctx handle : Nat) (c : Core) : Core :=
  { c with
    rst := { c.rst with blk := some handle }
    iwin := c.iwin.filter (fun e => e.1 / 2 ^ 54 != ctx)
    quota := unmarkQuota ctx c.quota }

/-- The state with the block in its place. -/
def blockBack (s2 : State) (core : Nat) (x : SavedBlk) (b : Block) : State :=
  ((s2.setBlock core s2.fed.nextBlk b).updFed (fun f =>
    { f with nextBlk := s2.fed.nextBlk + 1, saved := f.saved.filter (fun y => y != x) })).updCore core
      (restoreCore x.ctx s2.fed.nextBlk)

/-- A warp of the block comes back and enters level 3 with cause 33. -/
def warpBack (core handle : Nat) (x : SavedBlk) (rs : List (Nat × RoleD)) (ms : List (Nat × Nat × Nat)) (at' : SMap Nat) (s : State)
    (y : Nat × Nat) : State :=
  match rs[y.1]?, ms.find? (fun m => m.1 = y.1) with
  | some r, some m =>
    let k := mget {} x.keep y.1
    let ref : WRef := { core := core, slot := y.2 }
    let w : Warp := { startWarp handle y.1 r.1 r.2 0#64 0#32 0 with
      exec := BitVec.ofNat 32 m.2.2
      exited := BitVec.ofNat 32 (m.2.2 / 2 ^ 32)
      copies := k.copies
      tlops := k.tlops
      icount := k.icount }
    let s5 := (toLevel3 (enterReady (s.setWarp ref w) core y.2) ref 33 m.2.1)
    s5.updWarp ref (fun v => { ((v.putS 0 (BitVec.ofNat 64 m.2.1)).putS 1 (BitVec.ofNat 64 x.save)) with
      held := y.2 ≥ 64 && at'.find? (fun y => y.2 ≥ 64) != some y })
  | _, _ => s

theorem keepsBlocks_warpBack (core handle : Nat) (x : SavedBlk) (rs : List (Nat × RoleD)) (ms : List (Nat × Nat × Nat)) (at' : SMap Nat)
    (s : State) (y : Nat × Nat) : KeepsBlocks s (warpBack core handle x rs ms at' s y) := by
  unfold warpBack
  split
  · exact (((keepsBlocks_setWarp ..).trans (keepsBlocks_enterReady ..)).trans (keepsBlocks_toLevel3 ..)).trans (keepsBlocks_updWarp ..)
  · exact .refl s

theorem exec_restoreStart (out : SegOutcome) {s1 s2 : State} {img : List Byte} {ms : List (Nat × Nat × Nat)}
    (hx : s.fed.saved.find? (fun x => x.restoring = some core) = some x) (hl : s.launch? x.lid = some l)
    (hb : (s.core core).rst.busy = true) (hn : (s.core core).rst.blk = none) (hu : (s.core core).spuNew = none)
    (hw : within (coreUsed (s.core core)) (hdrNeed l.hdr) (s.core core).spu = true) (hq : netQuiet s = true)
    (h1 : areaRead s core x.ctx (x.save + 0x100 + 4096 * l.hdr.nshacc) l.hdr.scr = (s1, .inr img))
    (h2 : readMasks core x.ctx x.save (x.keep.map (·.1)) s1 = (s2, .inr ms)) :
    exec (.restoreStart core out) s = .next ((restoreSlots (s.core core) x l.hdr).foldl
      (warpBack core s2.fed.nextBlk x (warpRoles l.hdr) ms (restoreSlots (s.core core) x l.hdr))
      (blockBack s2 core x (restoredBlock (s.core core) x l img))) := by
  show execRestoreStart core out s = _
  unfold execRestoreStart
  simp only [hx, hl]
  rw [if_neg (by simp [hb, hn, hu, hw, hq])]
  simp only [h1, h2]
  rfl

/-- The restore of the barrier objects writes scratchpad bytes alone. -/
theorem restoredBlock_eq (c : Core) (x : SavedBlk) (l : Launch) (img : List Byte) :
    ∃ scr, restoredBlock c x l img = { restoredImage c x l img with scr := scr } := by
  unfold restoredBlock
  generalize restoredImage c x l img = b
  exact List.foldlRecOn (List.range l.hdr.nbar) barRestored (b := b) (motive := fun t => ∃ scr, t = { b with scr := scr })
    ⟨b.scr, rfl⟩ fun t ⟨scr, ht⟩ n _ => ⟨_, congrArg (barRestored · n) ht⟩

theorem restoredBlock_keeps (c : Core) (x : SavedBlk) (l : Launch) (img : List Byte) :
    (restoredBlock c x l img).lid = x.lid ∧ (restoredBlock c x l img).bid = x.bid ∧ (restoredBlock c x l img).phase = .restoring ∧
      (restoredBlock c x l img).save = x.save := by
  obtain ⟨_, h⟩ := restoredBlock_eq c x l img
  rw [h]
  exact ⟨rfl, rfl, rfl, rfl⟩

/-- What the return of a block leaves, whatever its warps do then. -/
theorem blockBack_spec {s2 t : State} (hf : s2.fed = s.fed) (b : Block) (hk : KeepsBlocks (blockBack s2 core x b) t) :
    (∃ scr, t.block? core s.fed.nextBlk = some { b with scr := scr }) ∧ (t.core core).rst.blk = some s.fed.nextBlk ∧
      t.fed.saved = s.fed.saved.filter (fun y => y != x) ∧ ∀ q, mfind (t.core core).quota x.ctx = some q → q.pre = false := by
  have hc : (blockBack s2 core x b).core core = restoreCore x.ctx s2.fed.nextBlk ((s2.setBlock core s2.fed.nextBlk b).core core) :=
    (core_updCore ..).trans (if_pos rfl)
  have hb : (blockBack s2 core x b).block? core s.fed.nextBlk = some b := by
    rw [← hf]
    exact (block?_updCore _ _ _ _ _ rfl).trans (block?_setBlock_same s2 core s2.fed.nextBlk b)
  refine ⟨hk.block core _ b hb, ?_, ?_, fun q hq => ?_⟩
  · rw [hk.rst, hc, ← hf]
    rfl
  · rw [hk.fed, ← hf]
    rfl
  · rw [hk.quota, hc] at hq
    exact mfind_unmarkQuota hq

end

/-! ### Abort tokens (10 R257) -/

/-- The copies of a warp that a pre-emption parked go on. -/
def freeCopies (w : Warp) : Warp :=
  { w with copies := w.copies.map (fun c => { c with segs := c.segs.map (fun g => { g with parked := false }) }) }

def aborting (b : Block) : Block := { b with phase := .aborting, abort := true, acks := [] }

/-- One warp of an aborted block. -/
def abortOne (core save : Nat) (s : State) (x : Nat × Warp) : State :=
  if x.2.exited = allLanes then s.updWarp { core := core, slot := x.1 } freeCopies
  else abortWarp (s.updWarp { core := core, slot := x.1 } freeCopies) core x.1 x.2 save

section
variable {s : State} {core h : Nat} {b : Block}

theorem abortBlock_of (hb : s.block? core h = some b) :
    abortBlock s core h = (liveWarps s core b).foldl (abortOne core b.save) (s.setBlock core h (aborting b)) := by
  unfold abortBlock
  rw [hb]
  rfl

theorem keepsBlocks_abortOne (core save : Nat) (s : State) (x : Nat × Warp) : KeepsBlocks s (abortOne core save s x) := by
  unfold abortOne
  split
  · exact keepsBlocks_updWarp ..
  · exact (keepsBlocks_updWarp ..).trans (keepsBlocks_abortWarp ..)

theorem abortBlock_spec (hb : s.block? core h = some b) : (abortBlock s core h).fed = s.fed ∧
    ∃ b1, (abortBlock s core h).block? core h = some b1 ∧ b1.phase = .aborting ∧ b1.abort = true := by
  rw [abortBlock_of hb]
  have hk := KeepsBlocks.foldl (keepsBlocks_abortOne core b.save) (liveWarps s core b) (s.setBlock core h (aborting b))
  obtain ⟨_, h1⟩ := hk.block core h _ (block?_setBlock_same ..)
  exact ⟨hk.fed, _, h1, rfl, rfl⟩

/-- The one warp of an aborted block, at level 0, enters level 3 with cause 34. -/
theorem warp?_abortBlock_alone {slot : Nat} {w : Warp} (hw : s.warp? { core := core, slot := slot } = some w)
    (hb : s.block? core w.blk = some b) (hs : b.slots = [slot]) (hx : w.exited ≠ allLanes) (hl : w.level = 0) :
    ∃ w1, (abortBlock s core w.blk).warp? { core := core, slot := slot } = some w1 ∧
      w1.level = 3 ∧ w1.t2.cause = 34#6 ∧ w1.pc = (s.ctxEnt b.ctx).svec ∧ w1.f3.pc = w.pc := by
  have hlive : liveWarps s core b = [(slot, w)] := by simp [liveWarps, hs, hw]
  set s2 := (s.setBlock core w.blk (aborting b)).updWarp { core := core, slot := slot } freeCopies with hs2
  have hw2 : s2.warp? { core := core, slot := slot } = some (freeCopies w) := warp?_updWarp_same _ ((warp?_setBlock ..).trans hw)
  have hb2 : s2.block? core (freeCopies w).blk = some (aborting b) := (block?_updWarp ..).trans (block?_setBlock_same ..)
  have he : abortBlock s core w.blk = toLevel3 s2 { core := core, slot := slot } 34 b.save := by
    rw [abortBlock_of hb, hlive, List.foldl_cons, List.foldl_nil]
    simp only [abortOne, if_neg hx]
    exact if_pos (by simp [hl])
  have hctx : s2.ctxEnt (aborting b).ctx = s.ctxEnt b.ctx := by
    rw [hs2, updWarp_of _ _ _ _ ((warp?_setBlock ..).trans hw)]
    rfl
  obtain ⟨n, hn⟩ := warp?_toLevel3 34 b.save hw2 hb2
  exact ⟨_, he ▸ hn, rfl, rfl, congrArg Ctx.svec hctx, rfl⟩

/-- The state that has taken a token. -/
def tokenTaken (s : State) (lid : Nat) (bid : W32) : State :=
  s.updFed (fun f => { f with tokens := f.tokens.erase { lid := lid, bid := bid } })

theorem exec_abortToken_of_resident {lid : Nat} {bid : W32} (ht : s.fed.tokens.contains { lid := lid, bid := bid } = true)
    (hf : findBlock s lid bid.toNat = some (core, h, b)) : exec (.abortToken lid (bid, none)) s = .next (
      if (liveWarps s core b).any (fun x => x.2.level = 3 && x.2.stopped) = true then endStuck (tokenTaken s lid bid) core h b
      else if b.phase = .run then abortBlock (tokenTaken s lid bid) core h
      else (tokenTaken s lid bid).setBlock core h { b with abort := true }) := by
  have hf1 : findBlock (tokenTaken s lid bid) lid bid.toNat = some (core, h, b) := hf
  show execAbortToken lid (bid, none) s = _
  simp only [execAbortToken, ht, Bool.not_true, Bool.false_eq_true, if_false]
  rw [show s.updFed _ = tokenTaken s lid bid from rfl, hf1]
  rfl

theorem exec_abortToken_of_peer {lid g : Nat} (bid : W32) {l : Launch} {x : GroupD} (hl : s.launch? lid = some l)
    (hg : l.groups[g]? = some x) (hc : l.complete = false) (ha : x.abort = true) (hv : x.valid = true) :
    exec (.abortToken lid (bid, some g)) s =
      .next (tokensTo (markLaunch s l lid (fun y => { y with aborted := true })) lid x.member) := by
  show execAbortToken lid (bid, some g) s = _
  simp only [execAbortToken, peerToken, hl, hg, hc, ha, hv, Bool.not_true, Bool.or_false, Bool.false_eq_true, if_false]

end

/-! ### Remote arrivals (18 Table 18-4, 10 R255) -/

section
variable {s : State} {id : Nat} {a : Arrival}

/-- An arrival is held. -/
def arrivalHeld (s : State) (id : Nat) : State :=
  s.updFed (fun f => { f with arrivals := f.arrivals.map (fun x => if x.id = id then { x with held := true } else x) })

theorem held_arrivalHeld (s : State) (id : Nat) : ∀ y ∈ (arrivalHeld s id).fed.arrivals, y.id = id → y.held = true := by
  intro y hy hid
  obtain ⟨x, -, rfl⟩ := List.mem_map.1 hy
  split at hid
  next hx => rw [if_pos hx]
  next hx => exact absurd hid hx

theorem exec_remoteArrival_of_resident (ha : s.fed.arrivals.find? (fun a => a.id = id) = some a) {core h : Nat} {b : Block}
    (hf : findBlock s a.lid a.bid.toNat = some (core, h, b)) : exec (.remoteArrival id) s = .next (
      if (b.phase = .stopping ∨ b.phase = .saving) ∧ a.bid ≠ a.sb then arrivalHeld s id
      else if b.nbar ≤ a.n then endArrival s a false
      else endArrival (barArrive s core h a.n).1 a (barArrive s core h a.n).2.2) := by
  show execRemoteArrival id s = _
  simp only [execRemoteArrival, ha, hf, Bool.and_eq_true, Bool.or_eq_true, decide_eq_true_eq, bne_iff_ne]
  rfl

theorem exec_remoteArrival_of_absent (ha : s.fed.arrivals.find? (fun a => a.id = id) = some a)
    (hf : findBlock s a.lid a.bid.toNat = none) : exec (.remoteArrival id) s = .next (
      if s.fed.saved.any (fun x => x.lid = a.lid && x.bid = a.bid) = true then arrivalHeld s id else endArrival s a false) := by
  show execRemoteArrival id s = _
  simp only [execRemoteArrival, ha, hf]
  rfl

theorem exec_barrmtRedirect_counts (out : SegOutcome) (ha : s.fed.arrivals.find? (fun a => a.id = id) = some a) {v : SavedBlk}
    {s1 s2 s3 : State} {hdr x : Nat} (hv : s.fed.saved.find? (fun x => x.lid = a.lid && x.bid = a.bid) = some v) (hh : a.held = true)
    (hr : v.restoring = none) (h1 : readVirtN s agentCp v.ctx v.save 8 needR = (s1, .inr hdr)) (hn : a.n < bits hdr 23 16)
    (h2 : readVirtN s1 agentCp v.ctx (savedBarAt v.save hdr a.n) 8 needR = (s2, .inr x)) (hx : bits x 40 40 = 1)
    (h3 : writeVirt s2 agentCp v.ctx (savedBarAt v.save hdr a.n) (leBytes 8 (x + 0x10000)) needW = (s3, none)) :
    exec (.barrmtRedirect id out) s = .next (endArrival s3 a true) := by
  show execBarrmtRedirect id out s = _
  simp only [execBarrmtRedirect, ha, hv, hh, hr, h1, h2, hx, h3, if_neg (Nat.not_le.2 hn), Option.isSome_none, Bool.not_true,
    Bool.or_false, Bool.false_eq_true, if_false, Nat.one_ne_zero]

end

/-- The state without the arrival, with its outcome kept for a saved sender. -/
def arrivalGone (s : State) (a : Arrival) (v : Bool) : State :=
  s.updFed (fun f => { f with
    arrivals := f.arrivals.filter (fun x => x.id != a.id)
    saved := f.saved.map (fun x => if x.lid = a.lid && x.bid = a.sb then { x with keep := keepKd a v x.keep } else x) })

/-- The sender's warp is told the outcome, where it is still on its core. -/
def senderTold (s : State) (a : Arrival) (v : Bool) (core : Nat) (b : Block) : State :=
  match b.slots[a.sw]? with
  | none => s
  | some sl => s.updWarp { core := core, slot := sl } (fun w => w.putK a.kd v)

theorem endArrival_of_resident {s : State} {a : Arrival} (v : Bool) {core h : Nat} {b : Block}
    (hf : findBlock s a.lid a.sb.toNat = some (core, h, b)) : endArrival s a v =
      senderTold ((arrivalGone s a v).setBlock core h { b with keep := keepKd a v b.keep }) a v core b := by
  have hf1 : findBlock (arrivalGone s a v) a.lid a.sb.toNat = some (core, h, b) := hf
  unfold endArrival
  rw [show s.updFed _ = arrivalGone s a v from rfl]
  simp only [hf1]
  rfl

theorem fed_endArrival (s : State) (a : Arrival) (v : Bool) : (endArrival s a v).fed = (arrivalGone s a v).fed := by
  cases hf : findBlock s a.lid a.sb.toNat with
  | none =>
    have hf1 : findBlock (arrivalGone s a v) a.lid a.sb.toNat = none := hf
    unfold endArrival
    rw [show s.updFed _ = arrivalGone s a v from rfl]
    simp only [hf1]
  | some y =>
    obtain ⟨core, h, b⟩ := y
    rw [endArrival_of_resident v hf, senderTold]
    split
    · rfl
    · exact (sameBlocks_updWarp ..).fed

theorem warp?_endArrival {s : State} {a : Arrival} (v : Bool) {core h sl : Nat} {b : Block} {w : Warp}
    (hf : findBlock s a.lid a.sb.toNat = some (core, h, b)) (hs : b.slots[a.sw]? = some sl)
    (hw : s.warp? { core := core, slot := sl } = some w) :
    (endArrival s a v).warp? { core := core, slot := sl } = some (w.putK a.kd v) := by
  rw [endArrival_of_resident v hf, senderTold, hs]
  exact warp?_updWarp_same _ ((warp?_setBlock ..).trans hw)

/-- Settles O54, event by event. -/
theorem preemption : Obligations.Preemption := by
  refine ⟨fun s core save slot w b hw hb hs hp hr ha => preemptGo_stops hw hb hs hp hr ha, ?_,
    fun s core save x hx => exec_restoreGo hx, ?_, ?_,
    fun s lid bid g l x hl hg hc ha hv => exec_abortToken_of_peer bid hl hg hc ha hv,
    fun s core slot w b hw hb hs hx hl => warp?_abortBlock_alone hw hb hs hx hl, ?_, ?_⟩
  · intro s core h eng out b hb hp ha b1 all
    refine ⟨fun hall => ⟨_, exec_preemptAck_early out hb hp ha hall, block?_ackTaken ..⟩, fun hall hc hq => ?_⟩
    rw [exec_preemptAck_last out hb hp ha hall hc hq]
    refine ⟨fun hr hcs => congrArg Host.Outcome.next (if_pos ?_), fun hn => congrArg Host.Outcome.next (if_neg ?_)⟩
    · exact Bool.and_eq_true_iff.2 ⟨List.all_eq_true.2 fun e _ => hr e, hcs⟩
    · rw [Bool.and_eq_true, List.all_eq_true]
      rintro ⟨hr, hcs⟩
      obtain ⟨e, he⟩ | hns := hn
      · exact Bool.false_ne_true (he.symm.trans (hr e (mem_engines e)))
      · exact Bool.false_ne_true (hns.symm.trans hcs)
  · intro s core out x l s1 img s2 ms hx hl hb hn hu hw hq h1 h2
    have hf : s2.fed = s.fed := ((quiet_areaRead h1).trans (quiet_readMasks h2)).fed
    obtain ⟨⟨scr, hblk⟩, hrst, hsaved, hquota⟩ := blockBack_spec hf (restoredBlock (s.core core) x l img)
      (.foldl (keepsBlocks_warpBack core s2.fed.nextBlk x (warpRoles l.hdr) ms (restoreSlots (s.core core) x l.hdr)) _ _)
    obtain ⟨h3, h4, h5, h6⟩ := restoredBlock_keeps (s.core core) x l img
    exact ⟨_, _, exec_restoreStart out hx hl hb hn hu hw hq h1 h2, hblk, h3, h4, h5, h6, hrst, hsaved, hquota⟩
  · intro s lid bid core h b ht hf hb stuck rest
    have he := exec_abortToken_of_resident ht hf
    have hb1 : (tokenTaken s lid bid).block? core h = some b := hb
    refine ⟨fun hst => he.trans (congrArg Host.Outcome.next (if_pos hst)), fun hst hr => ?_, fun hst hr => ?_⟩
    · obtain ⟨hfed, b1, hblk, hph, hab⟩ := abortBlock_spec hb1
      exact ⟨_, b1, he.trans (congrArg Host.Outcome.next ((if_neg (Bool.eq_false_iff.1 hst)).trans (if_pos hr))), hblk, hph, hab,
        congrArg Fed.tokens hfed⟩
    · exact ⟨_, he.trans (congrArg Host.Outcome.next ((if_neg (Bool.eq_false_iff.1 hst)).trans (if_neg hr))), block?_setBlock_same ..⟩
  · intro s id a ha
    refine ⟨fun core h b hf hp => ?_, ?_, fun hf hs => ?_, fun v out s1 hdr s2 x s3 hv hh hr h1 hn h2 hx h3 =>
      exec_barrmtRedirect_counts out ha hv hh hr h1 hn h2 hx h3⟩
    · have hno : ¬((b.phase = .stopping ∨ b.phase = .saving) ∧ a.bid ≠ a.sb) := by
        rintro ⟨hph | hph, hne⟩ <;> obtain ⟨h1, h2⟩ | h := hp <;> contradiction
      rw [exec_remoteArrival_of_resident ha hf, if_neg hno]
      exact ⟨fun hn => congrArg Host.Outcome.next (if_neg (by omega)), fun hn => congrArg Host.Outcome.next (if_pos hn)⟩
    · rintro (⟨core, h, b, hf, hp, hne⟩ | ⟨hf, hs⟩)
      · exact ⟨_, (exec_remoteArrival_of_resident ha hf).trans (congrArg Host.Outcome.next (if_pos ⟨hp, hne⟩)), held_arrivalHeld s id⟩
      · exact ⟨_, (exec_remoteArrival_of_absent ha hf).trans (congrArg Host.Outcome.next (if_pos hs)), held_arrivalHeld s id⟩
    · exact (exec_remoteArrival_of_absent ha hf).trans (congrArg Host.Outcome.next (if_neg (Bool.eq_false_iff.1 hs)))
  · intro s a v saved
    refine ⟨fun y hy => ?_, congrArg Fed.saved (fed_endArrival s a v), fun core h b sl w hf hs hw => warp?_endArrival v hf hs hw⟩
    rw [fed_endArrival] at hy
    simpa using (List.mem_filter.1 hy).2

end Sys2Proof.Machine
end
